-- ==== Sys2Proof/Word.lean ====
section
/-! DEFINITION. The word types: what the spec treats as bits (bytes on a link, fields of a frame). -/

namespace Sys2Proof

/-- One byte of a frame, a message or a record (R168). -/
abbrev Byte := BitVec 8

/-- A two-byte field (R168). -/
abbrev Half := BitVec 16

/-- A four-byte field: a generation, an uptime, a chassis number (R168). -/
abbrev Word := BitVec 32

/-- An eight-byte field: a device name or a designator value (R168). -/
abbrev DevName := BitVec 64

end Sys2Proof
end

