-- ==== Sys2Proof/Config.lean ====
section
/-! DEFINITION. What the part fixes: how many of each record it holds, and the index types that follow.
The spec leaves no value open to an implementation and calls no result undefined, so there is no free value here. -/

namespace Sys2Proof

/-- A slot, counted from 0: the spec's slot number less one (00, Numbering: slots 1–14). -/
abbrev Slot := Fin 14

/-- A global port number, 0–671 (R1). -/
abbrev PortIx := Fin 672

/-- An environmental unit, counted from 0: the spec's unit number less one (R131: units 1–10; 0–5 PSUs, 6–9 fan trays). -/
abbrev UnitIx := Fin 10

/-- A pool, counted from 0: the spec's pool id less one (R62: pools 1–16). -/
abbrev PoolIx := Fin 16

/-- A rule number, 0–63 (R138). -/
abbrev RuleIx := Fin 64

/-- A source number, 0–49 (R136). -/
abbrev SourceIx := Fin 50

/-- A shed priority, 0–7 (R1). -/
abbrev Priority := Fin 8

namespace Config

/-- Positions of the Name Map (R117). -/
abbrev namePositions : Nat := 2048

/-- Positions of the Alarm Table (R145). -/
abbrev alarmPositions : Nat := 128

end Config

end Sys2Proof
end

