-- ==== Sys2Proof/Syntax.lean ====
section
/-! DEFINITION. The commands: one constructor of `Instr` for each row of spec/opcode_table.json.
A command-frame row carries the frame's port and tag and its payload fields as table 11-3 lists them, raw, so that
every value a field can carry is a term. A slot-link row carries the slot and the payload fields of table 11-5.
The rows that stand for what a transaction or a message is before it is taken carry the raw bytes received. -/

namespace Sys2Proof

/-- One of the two command ports (R155). -/
inductive PortId where
  | a
  | b
  deriving DecidableEq, Repr

/-- The level of an input line. -/
inductive Level where
  | low
  | high
  deriving DecidableEq, Repr

/-- What every command frame carries beside its payload: the port it arrives on and its tag (table 11-1). -/
structure Frame where
  port : PortId
  tag : Byte
  deriving DecidableEq, Repr

/-- The levels a cold reset samples (R23, R131, R155): bit i of `slots` is SPRES of slot i+1, bit i of `units` is
UPRES of unit i+1. -/
structure PresenceLines where
  slots : BitVec 14
  units : BitVec 10
  supA : Bool
  supB : Bool
  deriving DecidableEq, Repr

/-- The end of one unit read on the sensor bus (R132): it failed, or it returned the readings of a PSU or of a
fan tray (R131). -/
inductive UnitReading where
  | failed
  | psu (rating output inlet : Half) (outputGood : Bool)
  | fan (speed : Half)
  deriving DecidableEq, Repr

/-- The two chassis temperature sensors (R131). -/
inductive ChassisSensor where
  | inlet
  | outlet
  deriving DecidableEq, Repr

/-- The commands, in the order of spec/opcode_table.json. -/
inductive Instr where
  -- resets and lines
  | coldReset (lines : PresenceLines)
  | portReset (port : PortId) (level : Level)
  | supervisorPresenceFall (port : PortId)
  | supervisorPresenceRise (port : PortId)
  | presenceRise (slot : Slot)
  | removal (slot : Slot)
  | unitPresenceRise (unit : UnitIx)
  | unitPresenceFall (unit : UnitIx)
  -- transactions of a command port, by the bytes received
  | writeTransactionBusy (port : PortId) (bytes : List Byte)
  | readTransaction (port : PortId)
  | shortTransaction (port : PortId) (bytes : List Byte)
  | badCheck (port : PortId) (bytes : List Byte)
  | badLength (port : PortId) (bytes : List Byte)
  | illegalCommand (port : PortId) (bytes : List Byte)
  | reservedCommand (port : PortId) (bytes : List Byte)
  -- command frames (table 11-3)
  | identify (f : Frame)
  | readStatus (f : Frame)
  | readAttention (f : Frame)
  | setAlertMask (f : Frame) (mask : Byte)
  | masterClaim (f : Frame)
  | masterRelease (f : Frame)
  | portRestart (f : Frame)
  | setCursor (f : Frame) (cursor : Byte) (value : Half)
  | fetch (f : Frame) (table base mode : Byte) (operand : Half) (flags load : Byte)
  | setParameter (f : Frame) (number : Byte) (value : Half)
  | confirmCommit (f : Frame) (operation parameter : Byte)
  | confirmPoolRevoke (f : Frame) (parameter : Byte)
  | confirmSlotReset (f : Frame) (parameter : Byte)
  | portEnable (f : Frame) (port : Half) (pool priority : Byte)
  | portDisable (f : Frame) (port : Half)
  | portReleaseLicense (f : Frame) (port : Half)
  | portSetPriority (f : Frame) (port : Half) (priority : Byte)
  | slotReset (f : Frame) (slot : Byte)
  | setPowerMode (f : Frame) (mode : Byte)
  | setChassisNumber (f : Frame) (number : Word)
  | poolInstall (f : Frame) (pool tier kind : Byte) (capacity hours warn : Half) (check : Word)
  | poolRevoke (f : Frame) (pool : Byte)
  | workingClone (f : Frame)
  | workingClear (f : Frame)
  | setSetName (f : Frame) (name : List Byte)
  | setDefaultAccess (f : Frame) (access : Byte)
  | zoneCreate (f : Frame) (zone : Half) (name : List Byte) (kind : Byte)
  | zoneDelete (f : Frame) (zone : Half)
  | zoneRename (f : Frame) (zone : Half) (name : List Byte)
  | memberAdd (f : Frame) (zone : Half) (kind : Byte) (value : DevName) (role : Byte)
  | memberRemove (f : Frame) (zone : Half) (kind : Byte) (value : DevName)
  | commitSetup (f : Frame)
  | commitAbort (f : Frame)
  | commitWithdraw (f : Frame)
  | zoneCheck (f : Frame) (x y : DevName) (image : Byte)
  | imageSummary (f : Frame) (image : Byte)
  | namePin (f : Frame) (name : DevName) (port : Half)
  | nameUnpin (f : Frame) (name : DevName)
  | nameLookup (f : Frame) (name : DevName)
  | ruleWrite (f : Frame) (rule source typeA : Byte) (thresholdA : Half) (typeB : Byte) (thresholdB : Half)
      (combine holdOff release severity action n silent : Byte)
  | ruleEnable (f : Frame) (rule : Byte)
  | ruleDisable (f : Frame) (rule : Byte)
  | alarmAcknowledge (f : Frame) (position cause subject : Byte)
  | alarmAcknowledgeAll (f : Frame)
  -- slot link messages (table 11-5)
  | linkCheckDiscard (slot : Slot) (bytes : List Byte)
  | ident (slot : Slot) (cardType : Half) (portCount tier : Byte) (baseDraw : Half)
  | ready (slot : Slot) (generation : Word)
  | link (slot : Slot) (position : Byte) (lit : Bool)
  | login (slot : Slot) (position : Byte) (name : DevName)
  | logout (slot : Slot) (position : Byte) (name : DevName)
  | query (slot : Slot) (tag : Half) (position : Byte) (source destination : DevName)
  | holdAck (slot : Slot) (generation : Word)
  | resumeAck (slot : Slot) (generation : Word)
  | temperature (slot : Slot) (value : Half)
  | messageLeave (slot : Slot)
  -- timers, reads of the sensor bus, the second count
  | probeTimeout (slot : Slot)
  | admittingTimeout (slot : Slot)
  | hourTimerExpiry
  | holdTimeout (slot : Slot)
  | resumeTimeout (slot : Slot)
  | scanTimerExpiry
  | unitReadComplete (unit : UnitIx) (reading : UnitReading)
  | chassisSensorReadComplete (sensor : ChassisSensor) (value : Option Half)
  | uptimeTick
  deriving DecidableEq, Repr

end Sys2Proof
end

