-- ==== Sys2Proof/Decode.lean ====
section
/-! DEFINITION. The bytes of the two links: the fields of R168, the checks of R169, command frames (R170, tables 11-1
and 11-3) and slot link messages (tables 11-5), decoded to the row of the table that each is and encoded back.
No row of spec/opcode_table.json gives bits, so `decodeTableWord` answers none. -/

namespace Sys2Proof

/-! ## Fields (R168) -/

/-- A two-byte field, most significant byte first (R168). -/
def join2 (hi lo : Byte) : Half := hi ++ lo

/-- A four-byte field, most significant byte first (R168). -/
def join4 (a b c d : Byte) : Word := join2 a b ++ join2 c d

/-- An eight-byte field, most significant byte first (R168). -/
def join8 (a b c d e f g h : Byte) : DevName := join4 a b c d ++ join4 e f g h

/-- The bytes of a two-byte field (R168). -/
def split2 (w : Half) : List Byte := [w.extractLsb' 8 8, w.extractLsb' 0 8]

/-- The bytes of a four-byte field (R168). -/
def split4 (w : Word) : List Byte := split2 (w.extractLsb' 16 16) ++ split2 (w.extractLsb' 0 16)

/-- The bytes of an eight-byte field (R168). -/
def split8 (w : DevName) : List Byte := split4 (w.extractLsb' 32 32) ++ split4 (w.extractLsb' 0 32)

/-- Byte i of a payload. -/
def byteAt (p : List Byte) (i : Nat) : Byte := p.getD i 0

/-- The two-byte field at byte i. -/
def halfAt (p : List Byte) (i : Nat) : Half := join2 (byteAt p i) (byteAt p (i + 1))

/-- The four-byte field at byte i. -/
def wordAt (p : List Byte) (i : Nat) : Word :=
  join4 (byteAt p i) (byteAt p (i + 1)) (byteAt p (i + 2)) (byteAt p (i + 3))

/-- The eight-byte field at byte i. -/
def longAt (p : List Byte) (i : Nat) : DevName :=
  join8 (byteAt p i) (byteAt p (i + 1)) (byteAt p (i + 2)) (byteAt p (i + 3))
    (byteAt p (i + 4)) (byteAt p (i + 5)) (byteAt p (i + 6)) (byteAt p (i + 7))

/-- The 32-byte name field at byte i (R168). -/
def nameAt (p : List Byte) (i : Nat) : List Byte := (p.drop i).take 32

/-! ## Checks (R169) -/

/-- One bit of the CRC-16: polynomial 0x1021, not reflected (R169). -/
def crc16Bit (r : Half) : Half := if r.msb then (r <<< 1) ^^^ 0x1021#16 else r <<< 1

/-- One byte of the CRC-16: it enters most significant bit first (R169). -/
def crc16Byte (r : Half) (b : Byte) : Half := Nat.repeat crc16Bit 8 (r ^^^ (b.zeroExtend 16 <<< 8))

/-- The frame and message check: initial value 0xFFFF, no final inversion (R169). -/
def crc16 (bytes : List Byte) : Half := bytes.foldl crc16Byte 0xFFFF#16

/-- One bit of the CRC-32: reflected polynomial 0xEDB88320 (R169). -/
def crc32Bit (r : Word) : Word := if r.getLsbD 0 then (r >>> 1) ^^^ 0xEDB88320#32 else r >>> 1

/-- One byte of the CRC-32: it enters least significant bit first (R169). -/
def crc32Byte (r : Word) (b : Byte) : Word := Nat.repeat crc32Bit 8 (r ^^^ b.zeroExtend 32)

/-- The credential check: initial value 0xFFFFFFFF, the final remainder inverted (R169). -/
def crc32 (bytes : List Byte) : Word := ~~~ (bytes.foldl crc32Byte 0xFFFFFFFF#32)

/-- A frame, response or message: its bytes and then its check, most significant byte first (R169). -/
def withCheck (bytes : List Byte) : List Byte := bytes ++ split2 (crc16 bytes)

/-- The bytes that precede the check: all but the last two (R170). -/
def beforeCheck (bytes : List Byte) : List Byte := bytes.take (bytes.length - 2)

/-- The check carried: the last two bytes (R170). -/
def carriedCheck (bytes : List Byte) : List Byte := bytes.drop (bytes.length - 2)

/-- The check carried equals the CRC-16 over the bytes before it (R39, R157, R169). -/
def checkAgrees (bytes : List Byte) : Bool := carriedCheck bytes == split2 (crc16 (beforeCheck bytes))

/-! ## Command frames (R157, R170) -/

/-- The tag byte as received, or 0 when fewer than two bytes arrived (R170). -/
def tagOf (bytes : List Byte) : Byte := byteAt bytes 1

/-- The payload between the header and the check (R170). -/
def payloadOf (bytes : List Byte) : List Byte := (beforeCheck bytes).drop 4

/-- Step 2 of R157: the length field equals the number of bytes between the header and the check. -/
def lengthAgrees (bytes : List Byte) : Bool := (halfAt bytes 2).toNat == (payloadOf bytes).length

/-- The payload length of each assigned command code (table 11-3); none for a code no command is assigned (R157). -/
def payloadLength : Nat → Option Nat
  | 0x01 => some 0
  | 0x02 => some 0
  | 0x03 => some 0
  | 0x04 => some 1
  | 0x05 => some 0
  | 0x06 => some 0
  | 0x07 => some 0
  | 0x08 => some 3
  | 0x09 => some 7
  | 0x0A => some 3
  | 0x0B => some 2
  | 0x10 => some 4
  | 0x11 => some 2
  | 0x12 => some 2
  | 0x13 => some 3
  | 0x18 => some 1
  | 0x19 => some 1
  | 0x20 => some 4
  | 0x21 => some 13
  | 0x22 => some 1
  | 0x30 => some 0
  | 0x31 => some 0
  | 0x32 => some 32
  | 0x33 => some 1
  | 0x34 => some 35
  | 0x35 => some 2
  | 0x36 => some 34
  | 0x37 => some 12
  | 0x38 => some 11
  | 0x39 => some 0
  | 0x3A => some 0
  | 0x3B => some 0
  | 0x3C => some 17
  | 0x3D => some 1
  | 0x40 => some 10
  | 0x41 => some 8
  | 0x42 => some 8
  | 0x50 => some 15
  | 0x51 => some 1
  | 0x52 => some 1
  | 0x58 => some 3
  | 0x59 => some 0
  | _ => none

/-- A code in 0x80–0xBF (R157, step 4). -/
def reservedCode (code : Nat) : Bool := 0x80 ≤ code && code ≤ 0xBF

/-- Which row a Confirm frame is: by its operation code; a code that no protected operation has is spelled with the
Commit row, which it never matches (R160, log 19). -/
def confirmOf (f : Frame) (operation parameter : Byte) : Instr :=
  if operation = 0x22#8 then .confirmPoolRevoke f parameter
  else if operation = 0x18#8 then .confirmSlotReset f parameter
  else .confirmCommit f operation parameter

/-- The command of an assigned code with a payload of its layout's length (table 11-3). -/
def decodeCommand (bytes : List Byte) (f : Frame) (code : Nat) (p : List Byte) : Instr :=
  match code with
  | 0x01 => .identify f
  | 0x02 => .readStatus f
  | 0x03 => .readAttention f
  | 0x04 => .setAlertMask f (byteAt p 0)
  | 0x05 => .masterClaim f
  | 0x06 => .masterRelease f
  | 0x07 => .portRestart f
  | 0x08 => .setCursor f (byteAt p 0) (halfAt p 1)
  | 0x09 => .fetch f (byteAt p 0) (byteAt p 1) (byteAt p 2) (halfAt p 3) (byteAt p 5) (byteAt p 6)
  | 0x0A => .setParameter f (byteAt p 0) (halfAt p 1)
  | 0x0B => confirmOf f (byteAt p 0) (byteAt p 1)
  | 0x10 => .portEnable f (halfAt p 0) (byteAt p 2) (byteAt p 3)
  | 0x11 => .portDisable f (halfAt p 0)
  | 0x12 => .portReleaseLicense f (halfAt p 0)
  | 0x13 => .portSetPriority f (halfAt p 0) (byteAt p 2)
  | 0x18 => .slotReset f (byteAt p 0)
  | 0x19 => .setPowerMode f (byteAt p 0)
  | 0x20 => .setChassisNumber f (wordAt p 0)
  | 0x21 => .poolInstall f (byteAt p 0) (byteAt p 1) (byteAt p 2) (halfAt p 3) (halfAt p 5) (halfAt p 7) (wordAt p 9)
  | 0x22 => .poolRevoke f (byteAt p 0)
  | 0x30 => .workingClone f
  | 0x31 => .workingClear f
  | 0x32 => .setSetName f (nameAt p 0)
  | 0x33 => .setDefaultAccess f (byteAt p 0)
  | 0x34 => .zoneCreate f (halfAt p 0) (nameAt p 2) (byteAt p 34)
  | 0x35 => .zoneDelete f (halfAt p 0)
  | 0x36 => .zoneRename f (halfAt p 0) (nameAt p 2)
  | 0x37 => .memberAdd f (halfAt p 0) (byteAt p 2) (longAt p 3) (byteAt p 11)
  | 0x38 => .memberRemove f (halfAt p 0) (byteAt p 2) (longAt p 3)
  | 0x39 => .commitSetup f
  | 0x3A => .commitAbort f
  | 0x3B => .commitWithdraw f
  | 0x3C => .zoneCheck f (longAt p 0) (longAt p 8) (byteAt p 16)
  | 0x3D => .imageSummary f (byteAt p 0)
  | 0x40 => .namePin f (longAt p 0) (halfAt p 8)
  | 0x41 => .nameUnpin f (longAt p 0)
  | 0x42 => .nameLookup f (longAt p 0)
  | 0x50 => .ruleWrite f (byteAt p 0) (byteAt p 1) (byteAt p 2) (halfAt p 3) (byteAt p 5) (halfAt p 6) (byteAt p 8) (byteAt p 9) (byteAt p 10) (byteAt p 11) (byteAt p 12) (byteAt p 13) (byteAt p 14)
  | 0x51 => .ruleEnable f (byteAt p 0)
  | 0x52 => .ruleDisable f (byteAt p 0)
  | 0x58 => .alarmAcknowledge f (byteAt p 0) (byteAt p 1) (byteAt p 2)
  | 0x59 => .alarmAcknowledgeAll f
  | _ => .illegalCommand f.port bytes

/-- What a write transaction is, by its bytes alone: R170 for a short one, then steps 1 to 5 of R157. -/
def decodeTransaction (port : PortId) (bytes : List Byte) : Instr :=
  if bytes.length < 6 then .shortTransaction port bytes
  else if !checkAgrees bytes then .badCheck port bytes
  else if !lengthAgrees bytes then .badLength port bytes
  else if reservedCode (byteAt bytes 0).toNat then .reservedCommand port bytes
  else match payloadLength (byteAt bytes 0).toNat with
    | none => .illegalCommand port bytes
    | some n =>
      if (payloadOf bytes).length ≠ n then .badLength port bytes
      else decodeCommand bytes ⟨port, tagOf bytes⟩ (byteAt bytes 0).toNat (payloadOf bytes)

/-- The frame, code and payload that carry a command (table 11-3); none for a row that is no command frame. -/
def commandFields : Instr → Option (Frame × Byte × List Byte)
  | .identify f => some (f, 0x01#8, [])
  | .readStatus f => some (f, 0x02#8, [])
  | .readAttention f => some (f, 0x03#8, [])
  | .setAlertMask f mask => some (f, 0x04#8, [mask])
  | .masterClaim f => some (f, 0x05#8, [])
  | .masterRelease f => some (f, 0x06#8, [])
  | .portRestart f => some (f, 0x07#8, [])
  | .setCursor f c v => some (f, 0x08#8, [c] ++ split2 v)
  | .fetch f t b m o fl y => some (f, 0x09#8, [t, b, m] ++ split2 o ++ [fl, y])
  | .setParameter f n v => some (f, 0x0A#8, [n] ++ split2 v)
  | .confirmCommit f op par => some (f, 0x0B#8, [op, par])
  | .confirmPoolRevoke f par => some (f, 0x0B#8, [0x22#8, par])
  | .confirmSlotReset f par => some (f, 0x0B#8, [0x18#8, par])
  | .portEnable f p pool prio => some (f, 0x10#8, split2 p ++ [pool, prio])
  | .portDisable f p => some (f, 0x11#8, split2 p)
  | .portReleaseLicense f p => some (f, 0x12#8, split2 p)
  | .portSetPriority f p prio => some (f, 0x13#8, split2 p ++ [prio])
  | .slotReset f sl => some (f, 0x18#8, [sl])
  | .setPowerMode f m => some (f, 0x19#8, [m])
  | .setChassisNumber f n => some (f, 0x20#8, split4 n)
  | .poolInstall f id tier kind cap hours warn check => some (f, 0x21#8, [id, tier, kind] ++ split2 cap ++ split2 hours ++ split2 warn ++ split4 check)
  | .poolRevoke f id => some (f, 0x22#8, [id])
  | .workingClone f => some (f, 0x30#8, [])
  | .workingClear f => some (f, 0x31#8, [])
  | .setSetName f name => some (f, 0x32#8, name)
  | .setDefaultAccess f acc => some (f, 0x33#8, [acc])
  | .zoneCreate f z name kind => some (f, 0x34#8, split2 z ++ name ++ [kind])
  | .zoneDelete f z => some (f, 0x35#8, split2 z)
  | .zoneRename f z name => some (f, 0x36#8, split2 z ++ name)
  | .memberAdd f z k v role => some (f, 0x37#8, split2 z ++ [k] ++ split8 v ++ [role])
  | .memberRemove f z k v => some (f, 0x38#8, split2 z ++ [k] ++ split8 v)
  | .commitSetup f => some (f, 0x39#8, [])
  | .commitAbort f => some (f, 0x3A#8, [])
  | .commitWithdraw f => some (f, 0x3B#8, [])
  | .zoneCheck f x y im => some (f, 0x3C#8, split8 x ++ split8 y ++ [im])
  | .imageSummary f im => some (f, 0x3D#8, [im])
  | .namePin f nm p => some (f, 0x40#8, split8 nm ++ split2 p)
  | .nameUnpin f nm => some (f, 0x41#8, split8 nm)
  | .nameLookup f nm => some (f, 0x42#8, split8 nm)
  | .ruleWrite f r src ta tha tb thb co ho re se ac n si => some (f, 0x50#8, [r, src, ta] ++ split2 tha ++ [tb] ++ split2 thb ++ [co, ho, re, se, ac, n, si])
  | .ruleEnable f r => some (f, 0x51#8, [r])
  | .ruleDisable f r => some (f, 0x52#8, [r])
  | .alarmAcknowledge f po ca su => some (f, 0x58#8, [po, ca, su])
  | .alarmAcknowledgeAll f => some (f, 0x59#8, [])
  | .coldReset _ => none
  | .portReset _ _ => none
  | .supervisorPresenceFall _ => none
  | .supervisorPresenceRise _ => none
  | .presenceRise _ => none
  | .removal _ => none
  | .unitPresenceRise _ => none
  | .unitPresenceFall _ => none
  | .writeTransactionBusy _ _ => none
  | .readTransaction _ => none
  | .shortTransaction _ _ => none
  | .badCheck _ _ => none
  | .badLength _ _ => none
  | .illegalCommand _ _ => none
  | .reservedCommand _ _ => none
  | .linkCheckDiscard _ _ => none
  | .ident _ _ _ _ _ => none
  | .ready _ _ => none
  | .link _ _ _ => none
  | .login _ _ _ => none
  | .logout _ _ _ => none
  | .query _ _ _ _ _ => none
  | .holdAck _ _ => none
  | .resumeAck _ _ => none
  | .temperature _ _ => none
  | .messageLeave _ => none
  | .probeTimeout _ => none
  | .admittingTimeout _ => none
  | .hourTimerExpiry => none
  | .holdTimeout _ => none
  | .resumeTimeout _ => none
  | .scanTimerExpiry => none
  | .unitReadComplete _ _ => none
  | .chassisSensorReadComplete _ _ => none
  | .uptimeTick => none

/-- The bytes of a command frame (table 11-1). -/
def frameBytes (tag code : Byte) (payload : List Byte) : List Byte :=
  withCheck ([code, tag] ++ split2 (BitVec.ofNat 16 payload.length) ++ payload)

/-- The port and the bytes of the write transaction that carries a command. -/
def encodeTransaction (i : Instr) : Option (PortId × List Byte) :=
  (commandFields i).map fun x => (x.1.port, frameBytes x.1.tag x.2.1 x.2.2)

/-! ## Slot link messages (R39, R40, table 11-5) -/

/-- The payload length of each kind a card sends (table 11-5); none for any other kind (R39, step 2). -/
def messageLength : Nat → Option Nat
  | 0x41 => some 6
  | 0x42 => some 4
  | 0x43 => some 2
  | 0x44 => some 9
  | 0x45 => some 9
  | 0x46 => some 19
  | 0x47 => some 4
  | 0x48 => some 4
  | 0x49 => some 2
  | _ => none

/-- The payload of a received message: between the two-byte header and the check. -/
def messagePayload (bytes : List Byte) : List Byte := (beforeCheck bytes).drop 2

/-- The message of a kind a card sends with a payload of its length; a Link whose state byte is neither 0 nor 1 is
discarded (R39, step 4). -/
def decodeMessageBody (bytes : List Byte) (slot : Slot) (kind : Nat) (p : List Byte) : Instr :=
  match kind with
  | 0x41 => .ident slot (halfAt p 0) (byteAt p 2) (byteAt p 3) (halfAt p 4)
  | 0x42 => .ready slot (wordAt p 0)
  | 0x43 =>
    if byteAt p 1 = 0#8 then .link slot (byteAt p 0) false
    else if byteAt p 1 = 1#8 then .link slot (byteAt p 0) true
    else .linkCheckDiscard slot bytes
  | 0x44 => .login slot (byteAt p 0) (longAt p 1)
  | 0x45 => .logout slot (byteAt p 0) (longAt p 1)
  | 0x46 => .query slot (halfAt p 0) (byteAt p 2) (longAt p 3) (longAt p 11)
  | 0x47 => .holdAck slot (wordAt p 0)
  | 0x48 => .resumeAck slot (wordAt p 0)
  | 0x49 => .temperature slot (halfAt p 0)
  | _ => .linkCheckDiscard slot bytes

/-- What a received message is: the link checks of R39 in their order, then the message of its kind. -/
def decodeMessage (slot : Slot) (bytes : List Byte) : Instr :=
  if bytes.length < 4 then .linkCheckDiscard slot bytes
  else if !checkAgrees bytes then .linkCheckDiscard slot bytes
  else match messageLength (byteAt bytes 0).toNat with
    | none => .linkCheckDiscard slot bytes
    | some n =>
      if (byteAt bytes 1).toNat ≠ n || (messagePayload bytes).length ≠ n then .linkCheckDiscard slot bytes
      else decodeMessageBody bytes slot (byteAt bytes 0).toNat (messagePayload bytes)

/-- The slot, kind and payload of a message a card sends (table 11-5); none for a row that is no such message. -/
def messageFields : Instr → Option (Slot × Byte × List Byte)
  | .ident s ct pc tier bd => some (s, 0x41#8, split2 ct ++ [pc, tier] ++ split2 bd)
  | .ready s g => some (s, 0x42#8, split4 g)
  | .link s pos lit => some (s, 0x43#8, [pos, if lit then 1#8 else 0#8])
  | .login s pos nm => some (s, 0x44#8, [pos] ++ split8 nm)
  | .logout s pos nm => some (s, 0x45#8, [pos] ++ split8 nm)
  | .query s tag pos x y => some (s, 0x46#8, split2 tag ++ [pos] ++ split8 x ++ split8 y)
  | .holdAck s g => some (s, 0x47#8, split4 g)
  | .resumeAck s g => some (s, 0x48#8, split4 g)
  | .temperature s v => some (s, 0x49#8, split2 v)
  | _ => none

/-- The bytes of a slot link message: kind, payload length, payload, check (11.3). -/
def messageBytes (kind : Byte) (payload : List Byte) : List Byte :=
  withCheck ([kind, BitVec.ofNat 8 payload.length] ++ payload)

/-- The slot and the bytes of the message that carries a row. -/
def encodeMessage (i : Instr) : Option (Slot × List Byte) :=
  (messageFields i).map fun x => (x.1, messageBytes x.2.1 x.2.2)

/-! ## The table's words -/

/-- The command a word spells by the table's bits: no row of the table gives bits, so none. -/
def decodeTableWord (_nbits _w : Nat) : Option Instr := none

end Sys2Proof
end

