-- ==== Sys2Proof/Machine/State.lean ====
section
/-! DEFINITION. The state of the part as plain data, block by block as the block diagram owns it (00_scope.md), its
value after a cold reset, and the two reason types of a step. -/

namespace Sys2Proof.Machine

/-! ## Ports (R1) -/

/-- The master's setting of a port (R1). -/
inductive Intent where
  | disabled
  | enabled
  deriving DecidableEq, Repr

/-- The pool whose entitlement a port holds, and in grace the hours that remain (R1). -/
inductive License where
  | unlicensed
  | bound (pool : PoolIx)
  | grace (pool : PoolIx) (hours : Nat)
  deriving DecidableEq, Repr

/-- A port's power (R1). -/
inductive PortPower where
  | off
  | waiting
  | admitted
  deriving DecidableEq, Repr

/-- The card's last accepted report of a port's link (R1). -/
inductive LinkState where
  | dark
  | lit
  deriving DecidableEq, Repr

/-- A port record (R1). -/
structure PortRec where
  intent : Intent
  priority : Priority
  license : License
  power : PortPower
  hold : Bool
  link : LinkState
  logins : Nat
  deriving DecidableEq, Repr

/-- The cold value of a port record (R2). -/
def PortRec.cold : PortRec :=
  { intent := .disabled, priority := 4, license := .unlicensed, power := .off, hold := false, link := .dark,
    logins := 0 }

/-! ## Card slots (R21) -/

/-- A card's place in the join handshake and in service, in the order of R22. -/
inductive CardState where
  | empty
  | probing
  | waiting
  | admitting
  | joined
  | fenced
  | parked
  | failed
  deriving DecidableEq, Repr

/-- What a card reported in its last accepted Ident (R21). -/
structure Identity where
  cardType : Half
  portCount : Nat
  tier : Nat
  baseDraw : Nat
  deriving DecidableEq, Repr

/-- Why a card is Failed (R21). -/
inductive FailureReason where
  | none
  | noAnswer
  | badIdentity
  | noReady
  deriving DecidableEq, Repr

/-- The messages the controller sends to a card (R38, table 11-5); an answer carries its verdict and reason. -/
inductive CardMsg where
  | probe
  | admission (generation : Word)
  | permit (position : Nat)
  | revoke (position : Nat)
  | loginAnswer (position : Byte) (name : DevName) (accept : Bool) (reason : Byte)
  | queryAnswer (tag : Half) (allow : Bool) (reason : Byte) (zone : Half) (generation : Word)
  | purge (name : DevName)
  | hold (generation : Word)
  | resume (generation : Word)
  deriving DecidableEq, Repr

/-- A card record with its slot's timer, lines and link (R21, R22, R38). -/
structure CardRec where
  state : CardState
  identity : Option Identity
  failure : FailureReason
  attempts : Nat
  retryTimeout : Nat
  timerOn : Bool
  temperature : Half
  tempValid : Bool
  parkClaims : List RuleIx
  presence : Bool
  powerEnable : Bool
  outbox : List CardMsg
  ltx : List Byte
  deriving DecidableEq, Repr

/-- The cold value of a card record, its presence line low (R23). -/
def CardRec.cold : CardRec :=
  { state := .empty, identity := Option.none, failure := .none, attempts := 0, retryTimeout := 500, timerOn := false,
    temperature := 0, tempValid := false, parkClaims := [], presence := false, powerEnable := false, outbox := [],
    ltx := [] }

/-! ## Power Budget Unit (R43) -/

/-- How the available budget is derived (R45). -/
inductive PowerMode where
  | none
  | nPlus1
  | feed
  deriving DecidableEq, Repr

/-- A card or a port on the power wait list (R49). -/
inductive WaitItem where
  | card (slot : Slot)
  | port (n : PortIx)
  deriving DecidableEq, Repr

/-- A Shed(n) rule's entry among the thermal claims (R56). -/
structure ThermalClaim where
  rule : RuleIx
  n : Priority
  deriving DecidableEq, Repr

/-- The state of the Power Budget Unit (R43). -/
structure PowerBudget where
  counted : Vector (Option Nat) 6
  trays : Nat
  mode : PowerMode
  admitted : Nat
  waitList : List WaitItem
  claims : List ThermalClaim
  cap : Nat
  deficit : Bool
  deriving DecidableEq, Repr

/-- The cold value of the Power Budget Unit (R43). -/
def PowerBudget.cold : PowerBudget :=
  { counted := Vector.replicate 6 Option.none, trays := 0, mode := .nPlus1, admitted := 0, waitList := [],
    claims := [], cap := 8, deficit := false }

/-! ## License Unit (R61, R62) -/

/-- A pool's state (R63). -/
inductive PoolState where
  | vacant
  | active
  | expiring
  | expired
  deriving DecidableEq, Repr

/-- Whether a pool runs down (R62). -/
inductive PoolKind where
  | perpetual
  | term
  deriving DecidableEq, Repr

/-- A pool record (R62). -/
structure PoolRec where
  state : PoolState
  tier : Nat
  kind : PoolKind
  capacity : Nat
  bound : Nat
  hours : Nat
  warn : Nat
  deriving DecidableEq, Repr

/-- A Vacant pool: its fields read as 0 (R62). -/
def PoolRec.vacant : PoolRec :=
  { state := .vacant, tier := 0, kind := .perpetual, capacity := 0, bound := 0, hours := 0, warn := 0 }

/-- The state of the License Unit (R61, R62). -/
structure LicenseUnit where
  chassis : Word
  pools : Vector PoolRec 16
  deriving DecidableEq, Repr

/-! ## Zone Store (R80, R81) -/

/-- An image's default access (R80). -/
inductive Access where
  | deny
  | permit
  deriving DecidableEq, Repr

/-- A zone's kind (R81). -/
inductive ZoneKind where
  | plain
  | peer
  deriving DecidableEq, Repr

/-- What a member entry names (R81). -/
inductive Designator where
  | name (d : DevName)
  | port (slot : Slot) (position : Fin 48)
  deriving DecidableEq, Repr

/-- A member's role: absent in a Plain zone (R81). -/
inductive Role where
  | none
  | principal
  | peer
  deriving DecidableEq, Repr

/-- A member entry (R81). -/
structure Member where
  designator : Designator
  role : Role
  deriving DecidableEq, Repr

/-- A zone record; its member count is the length of its member list (R81). -/
structure Zone where
  id : Nat
  name : List Byte
  kind : ZoneKind
  members : List Member
  deriving DecidableEq, Repr

/-- A zone image; its zones stand in ascending id (R80). -/
structure Image where
  setName : List Byte
  access : Access
  zones : List Zone
  deriving DecidableEq, Repr

/-- The empty image (R80). -/
def Image.empty : Image := { setName := [], access := .deny, zones := [] }

/-- The state of Working (R83). -/
inductive WorkingState where
  | editable
  | armed
  | frozen
  deriving DecidableEq, Repr

/-- The state of the Zone Store (R80). -/
structure ZoneStore where
  working : Image
  pending : Image
  live : Image
  generation : Word
  modified : Bool
  workingState : WorkingState
  deriving DecidableEq, Repr

/-- The cold value of the Zone Store (R80). -/
def ZoneStore.cold : ZoneStore :=
  { working := Image.empty, pending := Image.empty, live := Image.empty, generation := 0, modified := false,
    workingState := .editable }

/-! ## Commit Engine (R98, R99) -/

/-- The engine state (R98). -/
inductive EngineState where
  | idle
  | fencing
  | releasing
  deriving DecidableEq, Repr

/-- The direction of a commit (R98). -/
inductive Direction where
  | forward
  | abort
  deriving DecidableEq, Repr

/-- A card's phase in the commit in flight (R98). -/
inductive Phase where
  | outside
  | awaitHold
  | held
  | late
  | awaitResume
  | done
  deriving DecidableEq, Repr

/-- The per-card state of the Commit Engine, with its timer (R98). -/
structure CommitCard where
  phase : Phase
  resends : Nat
  timeout : Nat
  timerOn : Bool
  deriving DecidableEq, Repr

/-- The outcome of a commit (R99, in the order of R171). -/
inductive CommitOutcome where
  | inFlight
  | passed
  | passedDegraded
  | aborted
  | withdrawn
  deriving DecidableEq, Repr

/-- A commit result record (R99). -/
structure ResultRec where
  number : Half
  outcome : CommitOutcome
  fenced : Nat
  generation : Word
  deriving DecidableEq, Repr

/-- The state of the Commit Engine (R98, R99). -/
structure CommitEngine where
  engine : EngineState
  direction : Direction
  releaseGen : Word
  active : Option Half
  queued : Option Half
  nextNumber : Half
  tally : Nat
  cards : Vector CommitCard 14
  current : Option ResultRec
  previous : Option ResultRec
  deriving DecidableEq, Repr

/-- The cold value of the Commit Engine (R98). -/
def CommitEngine.cold : CommitEngine :=
  { engine := .idle, direction := .forward, releaseGen := 0, active := Option.none, queued := Option.none,
    nextNumber := 0, tally := 0,
    cards := Vector.replicate 14 { phase := .outside, resends := 0, timeout := 250, timerOn := false },
    current := Option.none, previous := Option.none }

/-! ## Name Map (R117) -/

/-- Whether a device is logged in and whether it is pinned (R118). -/
inductive NameStatus where
  | learned
  | pinned
  | pinnedPresent
  deriving DecidableEq, Repr

/-- A Name Map entry (R117). -/
structure NameEntry where
  name : DevName
  port : PortIx
  status : NameStatus
  deriving DecidableEq, Repr

/-! ## Sensor Scanner (R131, R136, R137) -/

/-- A unit's state (R131). -/
inductive UnitState where
  | absent
  | starting
  | online
  | faulted
  deriving DecidableEq, Repr

/-- A unit record, with its presence line and, for a fan tray, whether its FanFault condition holds (R131, R135). -/
structure UnitRec where
  state : UnitState
  good : Nat
  bad : Nat
  readOk : Bool
  wasPresent : Bool
  rating : Half
  output : Half
  inlet : Half
  outputGood : Bool
  speed : Half
  presence : Bool
  fanFault : Bool
  deriving DecidableEq, Repr

/-- The cold value of a unit record, its presence line low (R131). -/
def UnitRec.cold : UnitRec :=
  { state := .absent, good := 0, bad := 0, readOk := false, wasPresent := false, rating := 0, output := 0, inlet := 0,
    outputGood := false, speed := 0, presence := false, fanFault := false }

/-- A chassis sensor reading (R131). -/
structure ChassisReading where
  value : Half
  readOk : Bool
  deriving DecidableEq, Repr

/-- The two fan duties (R137). -/
inductive FanDuty where
  | boost
  | normal
  deriving DecidableEq, Repr

/-- Which read of a scan round stands next (R132). -/
inductive Turn where
  | unit (u : UnitIx)
  | inlet
  | outlet
  deriving DecidableEq, Repr

/-- A source as last presented (R136). -/
structure Source where
  value : Int
  valid : Bool
  deriving DecidableEq, Repr

/-- The state of the Sensor Scanner (R131, R132, R136, R137). -/
structure SensorScanner where
  units : Vector UnitRec 10
  inlet : ChassisReading
  outlet : ChassisReading
  boosts : List RuleIx
  duty : FanDuty
  fanPct : Nat
  firstRound : Bool
  turn : Option Turn
  sources : Vector Source 50
  deriving DecidableEq, Repr

/-- The cold value of the Sensor Scanner (R131, R136, R137). -/
def SensorScanner.cold : SensorScanner :=
  { units := Vector.replicate 10 UnitRec.cold, inlet := { value := 0, readOk := false },
    outlet := { value := 0, readOk := false }, boosts := [], duty := .boost, fanPct := 100, firstRound := false,
    turn := Option.none, sources := Vector.replicate 50 { value := 0, valid := false } }

/-! ## Rule Evaluator (R138) -/

/-- A comparator's type, in the order of its codes (R139). -/
inductive CmpType where
  | equal
  | below
  | atOrAbove
  deriving DecidableEq, Repr

/-- A comparator: a type and a signed threshold (R138). -/
structure Comparator where
  type : CmpType
  threshold : Half
  deriving DecidableEq, Repr

/-- How the comparators combine (R138). -/
inductive Combine where
  | aOnly
  | aOrB
  | aAndB
  deriving DecidableEq, Repr

/-- A severity (R146). -/
inductive Severity where
  | minor
  | major
  | critical
  deriving DecidableEq, Repr

/-- A rule's action (R138). -/
inductive RuleAction where
  | none
  | fanBoost
  | shed (n : Priority)
  | cardOff
  deriving DecidableEq, Repr

/-- A rule's state (R138). -/
inductive RuleState where
  | idle
  | counting (k : Nat)
  | active
  | releasing (k : Nat)
  deriving DecidableEq, Repr

/-- A rule (R138). -/
structure RuleRec where
  written : Bool
  enabled : Bool
  source : SourceIx
  cmpA : Comparator
  cmpB : Comparator
  combine : Combine
  holdOff : Nat
  release : Nat
  severity : Severity
  action : RuleAction
  silent : Bool
  sticky : Bool
  state : RuleState
  deriving DecidableEq, Repr

/-- The cold value of a rule (R138). -/
def RuleRec.cold : RuleRec :=
  { written := false, enabled := false, source := 0, cmpA := { type := .equal, threshold := 0 },
    cmpB := { type := .equal, threshold := 0 }, combine := .aOnly, holdOff := 0, release := 0, severity := .minor,
    action := .none, silent := false, sticky := false, state := .idle }

/-! ## Alarm Table (R145) -/

/-- The causes, in the order of their codes 1–8 (R146). -/
inductive Cause where
  | rule
  | psuFault
  | fanFault
  | cardFault
  | poolTerm
  | budgetDeficit
  | nameMapFull
  | commitDegraded
  deriving DecidableEq, Repr

/-- An alarm entry's state (R145). -/
inductive AlarmState where
  | raised
  | acknowledged
  | clearedUnacked
  deriving DecidableEq, Repr

/-- An alarm entry (R145). -/
structure AlarmEntry where
  cause : Cause
  subject : Nat
  severity : Severity
  state : AlarmState
  count : Nat
  first : Word
  last : Word
  silent : Bool
  detail : Nat
  deriving DecidableEq, Repr

/-! ## Command ports (R155) -/

/-- The status codes (table 11-7). -/
inductive Status where
  | done
  | started
  | queued
  | noChange
  | pending
  | busy
  | privilege
  | illegalCommand
  | reservedCommand
  | invalidForm
  | invalidField
  | badCheck
  | badLength
  | outOfRange
  | endOfTable
  | notFound
  | duplicate
  | capacity
  | locked
  | notArmed
  | tooLate
  | held
  | conflict
  | portActive
  | validation
  | checkMismatch
  | belowBound
  | noChassisNumber
  | idle
  deriving DecidableEq, Repr

/-- A response: the tag of the frame answered, a status, a detail byte and the answer fields (table 11-2). -/
structure Response where
  tag : Byte
  status : Status
  detail : Byte
  fields : List Byte
  deriving DecidableEq, Repr

/-- A port's armed operation (R160). -/
inductive Armed where
  | none
  | commit
  | poolRevoke (pool : PoolIx)
  | slotReset (slot : Slot)
  deriving DecidableEq, Repr

/-- The state of one command port but for its attention (R155), with its SUPP and PRSTN lines and what its SDO carried
in the last read transaction. -/
structure CmdPort where
  working : Bool
  response : Option Response
  tally : Nat
  busyTag : Byte
  armed : Armed
  cursors : Vector Half 7
  supervisor : Bool
  prstLow : Bool
  sdo : List Byte
  deriving DecidableEq, Repr

/-- The cold value of a command port, its supervisor absent and PRSTN high (R155). -/
def CmdPort.cold : CmdPort :=
  { working := false, response := Option.none, tally := 0, busyTag := 0, armed := .none,
    cursors := Vector.replicate 7 0, supervisor := false, prstLow := false, sdo := [] }

/-- The Command Ports block: mastership, held once, and the two ports (R155). -/
structure CommandPorts where
  mastership : Option PortId
  a : CmdPort
  b : CmdPort
  deriving DecidableEq, Repr

/-- The reasons of an attention set (R161). -/
inductive Reason where
  | alarm
  | commit
  | slot
  | license
  | power
  deriving DecidableEq, Repr

/-- A subset of the five reasons (R155). -/
structure ReasonSet where
  alarm : Bool
  commit : Bool
  slot : Bool
  license : Bool
  power : Bool
  deriving DecidableEq, Repr

/-- The empty set of reasons. -/
def ReasonSet.empty : ReasonSet :=
  { alarm := false, commit := false, slot := false, license := false, power := false }

/-- All five reasons. -/
def ReasonSet.all : ReasonSet :=
  { alarm := true, commit := true, slot := true, license := true, power := true }

/-- A port's attention set, alert mask and ALERTN line (R155, R161). -/
structure PortAttention where
  set : ReasonSet
  mask : ReasonSet
  alertLow : Bool
  deriving DecidableEq, Repr

/-- The cold value of a port's attention: empty, every reason unmasked, the line released (R155). -/
def PortAttention.cold : PortAttention :=
  { set := ReasonSet.empty, mask := ReasonSet.all, alertLow := false }

/-- The attention of the two ports (R155). -/
structure Attention where
  a : PortAttention
  b : PortAttention
  deriving DecidableEq, Repr

/-- The five parameters (R165). -/
structure Params where
  probeRetry : Nat
  commitRetry : Nat
  grace : Nat
  fanNormal : Nat
  fanFloor : Nat
  deriving DecidableEq, Repr

/-- The cold value of the parameters (R165). -/
def Params.cold : Params :=
  { probeRetry := 4, commitRetry := 3, grace := 72, fanNormal := 50, fanFloor := 1500 }

/-! ## The whole part -/

/-- The state of the part: the records of every block, the uptime (R166), and the queue of the commands that wait. -/
structure State where
  cmd : CommandPorts
  attn : Attention
  params : Params
  ports : Vector PortRec 672
  cards : Vector CardRec 14
  power : PowerBudget
  license : LicenseUnit
  zones : ZoneStore
  commit : CommitEngine
  names : List (Nat × NameEntry)
  scanner : SensorScanner
  rules : Vector RuleRec 64
  alarms : List (Nat × AlarmEntry)
  uptime : Word
  pending : List Instr
  deriving DecidableEq, Repr

/-- The part after a cold reset that sampled every presence line low: every record at its cold value (R2, R23, R43,
R61, R62, R80, R98, R117, R131, R138, R145, R155, R165), nothing queued (log 3, log 13). -/
def State.reset : State :=
  { cmd := { mastership := Option.none, a := CmdPort.cold, b := CmdPort.cold },
    attn := { a := PortAttention.cold, b := PortAttention.cold },
    params := Params.cold,
    ports := Vector.replicate 672 PortRec.cold,
    cards := Vector.replicate 14 CardRec.cold,
    power := PowerBudget.cold,
    license := { chassis := 0, pools := Vector.replicate 16 PoolRec.vacant },
    zones := ZoneStore.cold,
    commit := CommitEngine.cold,
    names := [],
    scanner := SensorScanner.cold,
    rules := Vector.replicate 64 RuleRec.cold,
    alarms := [],
    uptime := 0,
    pending := [] }

/-- A fault stops the machine. The spec stops it nowhere: every refusal is an answer, every bad message a discard, so
no command raises one and the type has no constructor (log 24). Safe. -/
inductive Fault where
  deriving DecidableEq, Repr

/-- Why a command has no meaning here. -/
inductive Refusal where
  /-- Raised only by an arm of `exec` whose command has no meaning yet; no arm does. Safe: the run stops. -/
  | notModelled (mnemonic : String)
  deriving DecidableEq, Repr

end Sys2Proof.Machine
end

