-- ==== Sys2Proof/Machine/Ops.lean ====
section
/-! DEFINITION. The named operations over the records: reading and updating one record, tables of occupied positions,
the attention sets and alert lines (R161), sending on a slot link (R38), and the loops over ports and slots. -/

namespace Sys2Proof.Machine

/-- What one command answers. -/
abbrev Result := Host.Outcome State Fault Refusal

/-! ## Numbering (00, R1) -/

/-- The slot of a port: the whole part of n ÷ 48, counted from 0 (R1). -/
def slotOf (n : PortIx) : Slot := ⟨n.val / 48, by omega⟩

/-- The position of a port on its card: the remainder of n ÷ 48 (R1). -/
def posOf (n : PortIx) : Nat := n.val % 48

/-- The port at a position of a slot: 48 × (s − 1) + p, slots counted from 0 (00, Global port numbers). -/
def portOf (slot : Slot) (pos : Fin 48) : PortIx := ⟨48 * slot.val + pos.val, by omega⟩

/-- The port at a position byte a card sends: none for a position no card has (R1). -/
def portAt (slot : Slot) (pos : Nat) : Option PortIx :=
  if h : pos < 48 then some (portOf slot ⟨pos, h⟩) else none

/-- The ports of a slot, by ascending position. -/
def slotPorts (slot : Slot) : List PortIx := (List.finRange 48).map (portOf slot)

/-- The slots, ascending. -/
def allSlots : List Slot := List.finRange 14

/-- The rules, ascending. -/
def allRules : List RuleIx := List.finRange 64

/-- The pools, ascending. -/
def allPools : List PoolIx := List.finRange 16

/-- A number as an index of `n` records; none outside them. -/
def index? (n : Nat) (v : Nat) : Option (Fin n) := if h : v < n then some ⟨v, h⟩ else none

/-- A number counted from 1 as an index of `n` records; none outside 1–n. -/
def index1? (n : Nat) (v : Nat) : Option (Fin n) := if v = 0 then none else index? n (v - 1)

/-! ## Records -/

/-- A port record. -/
def State.port (s : State) (n : PortIx) : PortRec := s.ports[n]

/-- A card record. -/
def State.card (s : State) (slot : Slot) : CardRec := s.cards[slot]

/-- A pool record. -/
def State.pool (s : State) (i : PoolIx) : PoolRec := s.license.pools[i]

/-- A unit record. -/
def State.unit (s : State) (u : UnitIx) : UnitRec := s.scanner.units[u]

/-- A rule. -/
def State.rule (s : State) (r : RuleIx) : RuleRec := s.rules[r]

/-- A source as last presented. -/
def State.source (s : State) (i : SourceIx) : Source := s.scanner.sources[i]

/-- The Commit Engine's state of a card. -/
def State.phaseRec (s : State) (slot : Slot) : CommitCard := s.commit.cards[slot]

/-- A command port. -/
def State.cmdPort (s : State) : PortId → CmdPort
  | .a => s.cmd.a
  | .b => s.cmd.b

/-- A command port's attention. -/
def State.attention (s : State) : PortId → PortAttention
  | .a => s.attn.a
  | .b => s.attn.b

/-- Update a port record. -/
def State.modPort (n : PortIx) (f : PortRec → PortRec) (s : State) : State :=
  { s with ports := s.ports.set n (f (s.port n)) }

/-- Update a card record. -/
def State.modCard (slot : Slot) (f : CardRec → CardRec) (s : State) : State :=
  { s with cards := s.cards.set slot (f (s.card slot)) }

/-- Update a pool record. -/
def State.modPool (i : PoolIx) (f : PoolRec → PoolRec) (s : State) : State :=
  { s with license := { s.license with pools := s.license.pools.set i (f (s.pool i)) } }

/-- Update a unit record. -/
def State.modUnit (u : UnitIx) (f : UnitRec → UnitRec) (s : State) : State :=
  { s with scanner := { s.scanner with units := s.scanner.units.set u (f (s.unit u)) } }

/-- Update a rule. -/
def State.modRule (r : RuleIx) (f : RuleRec → RuleRec) (s : State) : State :=
  { s with rules := s.rules.set r (f (s.rule r)) }

/-- Update the Commit Engine's state of a card. -/
def State.modPhase (slot : Slot) (f : CommitCard → CommitCard) (s : State) : State :=
  { s with commit := { s.commit with cards := s.commit.cards.set slot (f (s.phaseRec slot)) } }

/-- Update a command port. -/
def State.modCmd (p : PortId) (f : CmdPort → CmdPort) (s : State) : State :=
  match p with
  | .a => { s with cmd := { s.cmd with a := f s.cmd.a } }
  | .b => { s with cmd := { s.cmd with b := f s.cmd.b } }

/-- Update a command port's attention. -/
def State.modAttn (p : PortId) (f : PortAttention → PortAttention) (s : State) : State :=
  match p with
  | .a => { s with attn := { s.attn with a := f s.attn.a } }
  | .b => { s with attn := { s.attn with b := f s.attn.b } }

/-- Update the Power Budget Unit. -/
def State.modPower (f : PowerBudget → PowerBudget) (s : State) : State := { s with power := f s.power }

/-- Update the Zone Store. -/
def State.modZones (f : ZoneStore → ZoneStore) (s : State) : State := { s with zones := f s.zones }

/-- Update the Commit Engine. -/
def State.modCommit (f : CommitEngine → CommitEngine) (s : State) : State := { s with commit := f s.commit }

/-- Update the Sensor Scanner. -/
def State.modScanner (f : SensorScanner → SensorScanner) (s : State) : State := { s with scanner := f s.scanner }

/-- Replace the Name Map. -/
def State.setNames (names : List (Nat × NameEntry)) (s : State) : State := { s with names := names }

/-- Replace the Alarm Table. -/
def State.setAlarms (alarms : List (Nat × AlarmEntry)) (s : State) : State := { s with alarms := alarms }

/-- Replace the parameters. -/
def State.setParams (params : Params) (s : State) : State := { s with params := params }

/-- Set the mastership (R159). -/
def State.setMastership (m : Option PortId) (s : State) : State := { s with cmd := { s.cmd with mastership := m } }

/-- The ports whose record meets a test, ascending. -/
def portsWhere (s : State) (test : PortIx → PortRec → Bool) : List PortIx :=
  ((List.finRange 672).zip s.ports.toList).filterMap fun x => if test x.1 x.2 then some x.1 else none

/-- Act on each element of a list in turn. -/
def forEach {α : Type} (l : List α) (act : α → State → State) (s : State) : State :=
  l.foldl (fun s x => act x s) s

/-! ## Tables of occupied positions (R117, R145), by rising position -/

/-- The entry at a position; none where the position is free. -/
def tableGet {α : Type} : List (Nat × α) → Nat → Option α
  | [], _ => none
  | (k, a) :: t, i => if k = i then some a else tableGet t i

/-- Put an entry at a position. -/
def tableSet {α : Type} (i : Nat) (a : α) : List (Nat × α) → List (Nat × α)
  | [] => [(i, a)]
  | (k, b) :: t =>
    if i < k then (i, a) :: (k, b) :: t
    else if i = k then (i, a) :: t
    else (k, b) :: tableSet i a t

/-- Free a position. -/
def tableErase {α : Type} (i : Nat) (t : List (Nat × α)) : List (Nat × α) := t.filter fun x => x.1 ≠ i

/-- The lowest free position at or above `i` of a table sorted by rising position. -/
def firstFree {α : Type} (i : Nat) : List (Nat × α) → Nat
  | [] => i
  | (k, _) :: t => if k = i then firstFree (i + 1) t else i

/-- The lowest free position below a bound (R117, R147); none in a full table. -/
def freePosition {α : Type} (bound : Nat) (t : List (Nat × α)) : Option Nat :=
  if firstFree 0 t < bound then some (firstFree 0 t) else none

/-! ## Sets of rule numbers (R21, R131): ascending, no duplicates -/

/-- Add a rule number to a set. -/
def addRule (r : RuleIx) : List RuleIx → List RuleIx
  | [] => [r]
  | q :: t => if r < q then r :: q :: t else if r = q then q :: t else q :: addRule r t

/-- Remove a rule number from a set. -/
def dropRule (r : RuleIx) (l : List RuleIx) : List RuleIx := l.filter fun q => q ≠ r

/-! ## Attention sets and alert lines (R161) -/

/-- Add a reason: a set holds each reason once (R161). -/
def ReasonSet.add (x : ReasonSet) : Reason → ReasonSet
  | .alarm => { x with alarm := true }
  | .commit => { x with commit := true }
  | .slot => { x with slot := true }
  | .license => { x with license := true }
  | .power => { x with power := true }

/-- The two sets have at least one reason in common (R161). -/
def ReasonSet.meets (x y : ReasonSet) : Bool :=
  (x.alarm && y.alarm) || (x.commit && y.commit) || (x.slot && y.slot) || (x.license && y.license) ||
    (x.power && y.power)

/-- Drive ALERTN: low while the set and the mask have a reason in common, released while they have none (R161). -/
def PortAttention.drive (p : PortAttention) : PortAttention := { p with alertLow := p.set.meets p.mask }

/-- Add a reason to one port's set; the line follows (R161). -/
def PortAttention.add (r : Reason) (p : PortAttention) : PortAttention :=
  PortAttention.drive { p with set := p.set.add r }

/-- A block adds its reason to the attention sets of both ports (R161). -/
def addReason (r : Reason) (s : State) : State :=
  { s with attn := { a := s.attn.a.add r, b := s.attn.b.add r } }

/-! ## Sending on a slot link (R38) -/

/-- A message sent to a card waits on its slot link behind the messages already waiting (R38). -/
def send (slot : Slot) (m : CardMsg) (s : State) : State :=
  s.modCard slot fun c => { c with outbox := c.outbox ++ [m] }

/-- Send a message to every card that is Joined, in ascending slot order (R123). -/
def sendJoined (m : CardMsg) (s : State) : State :=
  forEach allSlots (fun slot s => if (s.card slot).state = .joined then send slot m s else s) s

/-- The card's state, with what follows it in the same event: the power enable line (R22), the identity, kept only in
Waiting, Admitting, Joined, Fenced and Parked (R21), the failure reason, kept only in Failed (R21), and the discard of
the messages that have not left on entry to Empty, Probing, Waiting, Parked and Failed (R38). On entry to Fenced every
waiting message is kept, as R38 says, the Login-Answers, Purges and Query-Answers of R120, R123 and R128 among them
(log 30). -/
def CardRec.enter (st : CardState) (c : CardRec) : CardRec :=
  { c with
    state := st
    powerEnable := match st with
      | .admitting | .joined | .fenced => true
      | .empty | .probing | .waiting | .parked | .failed => false
    identity := match st with
      | .empty | .probing | .failed => none
      | .waiting | .admitting | .joined | .fenced | .parked => c.identity
    failure := match st with
      | .failed => c.failure
      | .empty | .probing | .waiting | .admitting | .joined | .fenced | .parked => .none
    outbox := match st with
      | .admitting | .joined | .fenced => c.outbox
      | .empty | .probing | .waiting | .parked | .failed => [] }

/-- A card changes state; each change adds Slot to both attention sets (R22). -/
def enterCard (slot : Slot) (st : CardState) (s : State) : State :=
  addReason .slot (s.modCard slot (CardRec.enter st))

/-- Start the slot's timer; the retry timeout field takes its length (R24). -/
def startTimer (slot : Slot) (ms : Nat) (s : State) : State :=
  s.modCard slot fun c => { c with timerOn := true, retryTimeout := ms }

/-- Stop the slot's timer. -/
def stopTimer (slot : Slot) (s : State) : State :=
  s.modCard slot fun c => { c with timerOn := false }

/-- Clear the temperature valid flag; the value is kept (R41). -/
def clearTemp (slot : Slot) (s : State) : State :=
  s.modCard slot fun c => { c with tempValid := false }

end Sys2Proof.Machine
end

