-- ==== Sys2Proof/Machine/Operands.lean ====
section
/-! DEFINITION. The operand fields of the commands: names (R81, R168), designators (R81, R91, R168), the coded fields of
the commands' payloads, cursors (R162), and the bytes of answer fields (R168). A decoder answers none where the rule
that takes the field refuses it. -/

namespace Sys2Proof.Machine

/-! ## Names (R81, R168) -/

/-- A letter: 0x41–0x5A or 0x61–0x7A (R168). -/
def isLetter (b : Byte) : Bool := (0x41#8 ≤ b && b ≤ 0x5A#8) || (0x61#8 ≤ b && b ≤ 0x7A#8)

/-- A character of a name: a letter, a digit, an underscore or a hyphen (R81, R168). -/
def isNameChar (b : Byte) : Bool := isLetter b || (0x30#8 ≤ b && b ≤ 0x39#8) || b == 0x5F#8 || b == 0x2D#8

/-- A name that is not empty begins with a letter and holds only name characters (R81). -/
def nameForm (name : List Byte) : Bool :=
  match name with
  | [] => true
  | c :: rest => isLetter c && rest.all isNameChar

/-- The name in a name field: the bytes before the first zero byte. None when a non-zero byte follows the first zero
byte, when the name breaks its form, or when it is longer than 32 characters (R81, R168). -/
def nameOf (field : List Byte) : Option (List Byte) :=
  let name := field.takeWhile (· ≠ 0)
  let rest := field.dropWhile (· ≠ 0)
  if rest.all (· == 0) && nameForm name && name.length ≤ 32 then some name else none

/-- A zone's name: as `nameOf`, and not empty (R88, R90). -/
def zoneNameOf (field : List Byte) : Option (List Byte) :=
  match nameOf field with
  | some [] => none
  | other => other

/-- A name's 32-byte field: its characters and then zero bytes (R168). -/
def nameField (name : List Byte) : List Byte := name ++ List.replicate (32 - name.length) 0

/-! ## Zone fields -/

/-- A zone id in 1–512 (R88); none outside. -/
def zoneIdOf (z : Half) : Option Nat := if 1 ≤ z.toNat ∧ z.toNat ≤ 512 then some z.toNat else none

/-- A default access field (R87). -/
def accessOf (b : Byte) : Option Access :=
  match b.toNat with
  | 0 => some .deny
  | 1 => some .permit
  | _ => none

/-- A zone kind field (R88). -/
def zoneKindOf (b : Byte) : Option ZoneKind :=
  match b.toNat with
  | 0 => some .plain
  | 1 => some .peer
  | _ => none

/-- A designator: kind 0 and a device name other than 0, or kind 1 and a slot and position in range; the other six bytes
of a Port value are ignored (R91, R168). -/
def designatorOf (kind : Byte) (value : DevName) : Option Designator :=
  match kind.toNat with
  | 0 => if value = 0 then none else some (.name value)
  | 1 =>
    match index1? 14 (value.extractLsb' 56 8).toNat, index? 48 (value.extractLsb' 48 8).toNat with
    | some slot, some pos => some (.port slot pos)
    | _, _ => none
  | _ => none

/-- A role field in a zone of a kind: 0 in a Plain zone, 1 or 2 in a Peer zone (R91). -/
def roleOf (kind : ZoneKind) (role : Byte) : Option Role :=
  match kind, role.toNat with
  | .plain, 0 => some .none
  | .peer, 1 => some .principal
  | .peer, 2 => some .peer
  | _, _ => none

/-- A designator's kind and value as sent: the six spare bytes of a Port value are 0 (R168). -/
def designatorBytes : Designator → List Byte
  | .name d => 0#8 :: split8 d
  | .port slot pos => [1#8, BitVec.ofNat 8 (slot.val + 1), BitVec.ofNat 8 pos.val] ++ List.replicate 6 0

/-! ## Coded fields -/

/-- A power mode field (R48). -/
def powerModeOf (b : Byte) : Option PowerMode :=
  match b.toNat with
  | 0 => some .none
  | 1 => some .nPlus1
  | 2 => some .feed
  | _ => none

/-- A pool kind field (R64). -/
def poolKindOf (b : Byte) : Option PoolKind :=
  match b.toNat with
  | 0 => some .perpetual
  | 1 => some .term
  | _ => none

/-- A comparator type field (R139). -/
def cmpTypeOf (b : Byte) : Option CmpType :=
  match b.toNat with
  | 0 => some .equal
  | 1 => some .below
  | 2 => some .atOrAbove
  | _ => none

/-- A combine field (R139). -/
def combineOf (b : Byte) : Option Combine :=
  match b.toNat with
  | 0 => some .aOnly
  | 1 => some .aOrB
  | 2 => some .aAndB
  | _ => none

/-- A severity field (R139). -/
def severityOf (b : Byte) : Option Severity :=
  match b.toNat with
  | 0 => some .minor
  | 1 => some .major
  | 2 => some .critical
  | _ => none

/-- An action field with its n and the rule's source: Shed with n above 7 and CardOff with a source outside 16–29 are
refused; for an action other than Shed the n field is not checked (R139). -/
def actionOf (action n : Byte) (source : Nat) : Option RuleAction :=
  match action.toNat with
  | 0 => some .none
  | 1 => some .fanBoost
  | 2 => (index? 8 n.toNat).map .shed
  | 3 => if 16 ≤ source ∧ source ≤ 29 then some .cardOff else none
  | _ => none

/-- A hold-off or release count, 1–15 (R139). -/
def countOf (b : Byte) : Option Nat := if 1 ≤ b.toNat ∧ b.toNat ≤ 15 then some b.toNat else none

/-- A flag byte of a command: any non-zero value reads as set (R168). -/
def flagOf (b : Byte) : Bool := b != 0#8

/-- The cause of a code (R146); none for a code no cause has. -/
def causeOf (b : Byte) : Option Cause :=
  match b.toNat with
  | 1 => some .rule
  | 2 => some .psuFault
  | 3 => some .fanFault
  | 4 => some .cardFault
  | 5 => some .poolTerm
  | 6 => some .budgetDeficit
  | 7 => some .nameMapFull
  | 8 => some .commitDegraded
  | _ => none

/-- The alert mask byte: bits 0–4 are the five reasons; none when any of bits 5–7 is set (R161, R168). -/
def reasonsOf (b : Byte) : Option ReasonSet :=
  if b.extractLsb' 5 3 ≠ 0 then none
  else some { alarm := b.getLsbD 0, commit := b.getLsbD 1, slot := b.getLsbD 2, license := b.getLsbD 3,
              power := b.getLsbD 4 }

/-! ## Cursors (R162) -/

/-- Cursor c of a port: cursor 0 reads as 0 (R162). -/
def readCursor (p : CmdPort) (c : Nat) : Half :=
  match index1? 7 c with
  | some i => p.cursors[i]
  | none => 0

/-- Record a value in cursor c, 1–7; cursor 0 is not stored (R155, R162). -/
def writeCursor (c : Nat) (v : Half) (p : CmdPort) : CmdPort :=
  match index1? 7 c with
  | some i => { p with cursors := p.cursors.set i v }
  | none => p

/-! ## Bytes of answer fields (R168) -/

/-- A one-byte number. -/
def num1 (n : Nat) : List Byte := [BitVec.ofNat 8 n]

/-- A two-byte number. -/
def num2 (n : Nat) : List Byte := split2 (BitVec.ofNat 16 n)

/-- A flag: 0 for clear and 1 for set (R168). -/
def flagByte (b : Bool) : List Byte := [if b then 1#8 else 0#8]

/-- The attention set byte (R168). -/
def reasonByte (x : ReasonSet) : Byte :=
  (if x.alarm then 1#8 else 0#8) ||| (if x.commit then 2#8 else 0#8) ||| (if x.slot then 4#8 else 0#8) |||
    (if x.license then 8#8 else 0#8) ||| (if x.power then 16#8 else 0#8)

end Sys2Proof.Machine
end

