-- ==== Sys2Proof/Machine/Flags.lean ====
section
/-! DEFINITION. The conditions and values the spec derives from the records: Serviceable, Live and the reported port
state (R3, R4), eligibility (R5), the draws and the budget (R45, R46), the pool state (R63), the timeouts (R24, R106),
the fan duty (R137), and the order of the wait list (R49). -/

namespace Sys2Proof.Machine

/-! ## Cards (R22) -/

/-- A card in service: Joined or Fenced. -/
def CardState.inService : CardState → Bool
  | .joined | .fenced => true
  | .empty | .probing | .waiting | .admitting | .parked | .failed => false

/-- A card whose base draw is admitted: Admitting, Joined or Fenced (R22, R46). -/
def CardState.powered : CardState → Bool
  | .admitting | .joined | .fenced => true
  | .empty | .probing | .waiting | .parked | .failed => false

/-- The base draw of the present identity (R21). -/
def CardRec.baseDraw (c : CardRec) : Nat := (c.identity.map Identity.baseDraw).getD 0

/-- The tier of the present identity (R21). -/
def CardRec.tier (c : CardRec) : Nat := (c.identity.map Identity.tier).getD 0

/-- The port count of the present identity; a slot whose identity is absent gives its ports none (R21). -/
def CardRec.portCount (c : CardRec) : Nat := (c.identity.map Identity.portCount).getD 0

/-- The Probe timeout: the lesser of 500 ms × 2^(attempt count) and 4,000 ms (R24). -/
def probeTimeoutMs (attempts : Nat) : Nat := min (500 * 2 ^ attempts) 4000

/-- The Hold and Resume timeout: the lesser of 250 ms × 2^(resends used) and 2,000 ms (R106). -/
def commitTimeoutMs (resends : Nat) : Nat := min (250 * 2 ^ resends) 2000

/-! ## Ports (R3 to R5) -/

/-- The license is Bound or Grace (R3). -/
def License.held : License → Bool
  | .unlicensed => false
  | .bound _ | .grace _ _ => true

/-- The pool a license names (R62). -/
def License.pool? : License → Option PoolIx
  | .unlicensed => none
  | .bound i => some i
  | .grace i _ => some i

/-- The card in a port's slot. -/
def cardOf (s : State) (n : PortIx) : CardRec := s.card (slotOf n)

/-- The port's position is below its card's port count (R3). -/
def withinCount (s : State) (n : PortIx) : Bool := posOf n < (cardOf s n).portCount

/-- Serviceable: the five conditions of R3. -/
def serviceable (s : State) (n : PortIx) : Bool :=
  (cardOf s n).state == .joined && withinCount s n && (s.port n).intent == .enabled && (s.port n).license.held &&
    (s.port n).power == .admitted

/-- Live: Serviceable with its link Lit (R4). -/
def live (s : State) (n : PortIx) : Bool := serviceable s n && (s.port n).link == .lit

/-- Eligible for power: the four conditions of R5. -/
def eligible (s : State) (n : PortIx) : Bool :=
  (s.port n).intent == .enabled && (s.port n).license.held && (cardOf s n).state.inService && withinCount s n

/-- The reported port states, in the order of R4. -/
inductive Reported where
  | absent
  | disabled
  | unlicensed
  | unpowered
  | isolated
  | ready
  | live
  deriving DecidableEq, Repr

/-- The reported port state: the first entry of R4's table whose condition holds. -/
def reported (s : State) (n : PortIx) : Reported :=
  if !(cardOf s n).state.inService || !withinCount s n then .absent
  else if (s.port n).intent = .disabled then .disabled
  else if (s.port n).license = .unlicensed then .unlicensed
  else if (s.port n).power ≠ .admitted then .unpowered
  else if (cardOf s n).state = .fenced then .isolated
  else if (s.port n).link = .dark then .ready
  else .live

/-- The draw of a port, by the tier of its card (R46). -/
def tierDraw (tier : Nat) : Nat :=
  match tier with
  | 1 => 2
  | 2 => 4
  | 3 => 7
  | _ => 0

/-- The draw of a port (R46). -/
def portDraw (s : State) (n : PortIx) : Nat := tierDraw (cardOf s n).tier

/-! ## The budget (R45, R46) -/

/-- The rating of a PSU in the sums: 0 while it is not counted. -/
def countedRating (p : PowerBudget) (i : Fin 6) : Nat := p.counted[i].getD 0

/-- The sum of the counted ratings of some PSUs. -/
def ratingSum (p : PowerBudget) (l : List (Fin 6)) : Nat := (l.map (countedRating p)).sum

/-- The available budget by the power mode (R45): PSUs 1–3 are feed A, 4–6 feed B (R44). In N+1 mode one counted PSU
less its own rating is 0, as the rule asks for fewer than two. -/
def availableOf (p : PowerBudget) : Nat :=
  let all := List.finRange 6
  match p.mode with
  | .none => ratingSum p all
  | .nPlus1 =>
    if (all.filter fun i => p.counted[i].isSome).length < 2 then 0
    else ratingSum p all - (all.map (countedRating p)).foldl max 0
  | .feed => min (ratingSum p [0, 1, 2]) (ratingSum p [3, 4, 5])

/-- The fixed load and the fan load: 150 W and 60 W for each present fan tray (R46). -/
def fixedLoads (p : PowerBudget) : Nat := 150 + 60 * p.trays

/-- The allowance: the greater of 0 and the available budget less the fixed and fan loads (R46). -/
def allowanceOf (p : PowerBudget) : Nat := availableOf p - fixedLoads p

/-- The headroom, which may be negative (R46). -/
def headroomOf (p : PowerBudget) : Int := (availableOf p : Int) - fixedLoads p - p.admitted

/-- The thermal cap: the least n among the thermal claims, or 8 when there are none (R56). -/
def capOf (claims : List ThermalClaim) : Nat := claims.foldl (fun c x => min c x.n.val) 8

/-! ## The wait list (R49) -/

/-- The place of an item in the order of R49: cards by slot, then ports by priority and number. -/
def waitKey (s : State) : WaitItem → Nat
  | .card slot => slot.val
  | .port n => 14 + 672 * (s.port n).priority.val + n.val

/-- Insert an item at the place its key gives (R49). -/
def insertByKey (key : WaitItem → Nat) (x : WaitItem) : List WaitItem → List WaitItem
  | [] => [x]
  | y :: t => if key x < key y then x :: y :: t else y :: insertByKey key x t

/-- The deficit condition: the wait list holds a card, or a port whose thermal hold is clear (R59). -/
def deficitHolds (s : State) : Bool :=
  s.power.waitList.any fun
    | .card _ => true
    | .port n => !(s.port n).hold

/-! ## Pools (R63) -/

/-- The state of an occupied pool from its kind and hours (R63). -/
def poolStateOf (kind : PoolKind) (hours warn : Nat) : PoolState :=
  match kind with
  | .perpetual => .active
  | .term => if hours = 0 then .expired else if hours ≤ warn then .expiring else .active

/-- A pool that serves bindings: Active or Expiring (R68). -/
def PoolState.serves : PoolState → Bool
  | .active | .expiring => true
  | .vacant | .expired => false

/-! ## Units and the fan duty (R131, R137) -/

/-- The unit is a PSU: units 1–6 (R131). -/
def isPsu (u : UnitIx) : Bool := u.val < 6

/-- Every fan tray is Starting or Online (R137). -/
def traysRun (s : State) : Bool :=
  [(6 : UnitIx), 7, 8, 9].all fun u => (s.unit u).state == .starting || (s.unit u).state == .online

/-- The fan duty: Boost until the first round ends; then Normal while the boost claims are empty and every fan tray is
Starting or Online (R137). -/
def dutyOf (s : State) : FanDuty :=
  if s.scanner.firstRound && s.scanner.boosts.isEmpty && traysRun s then .normal else .boost

/-- The duty FANDUTY is driven at, per cent (R137). -/
def dutyPct (s : State) : FanDuty → Nat
  | .boost => 100
  | .normal => s.params.fanNormal

/-- Recompute the fan duty and drive FANDUTY (R137). -/
def recomputeDuty (s : State) : State :=
  s.modScanner fun x => { x with duty := dutyOf s, fanPct := dutyPct s (dutyOf s) }

/-! ## Images (R80, R81) -/

/-- The zone count (R80). -/
def Image.zoneCount (im : Image) : Nat := im.zones.length

/-- The member total: the sum of the member counts (R80). -/
def Image.memberTotal (im : Image) : Nat := (im.zones.map fun z => z.members.length).sum

/-- The zone of an id. -/
def Image.zone? (im : Image) (id : Nat) : Option Zone := im.zones.find? fun z => z.id = id

/-! ## Name Map (R118) -/

/-- Logged in: Learned or PinnedPresent (R118). -/
def NameStatus.loggedIn : NameStatus → Bool
  | .learned | .pinnedPresent => true
  | .pinned => false

/-- The entry for a device name, with its position (R118: at most one). -/
def entryFor (s : State) (name : DevName) : Option (Nat × NameEntry) := s.names.find? fun e => e.2.name = name

/-- The positions of the entries logged in on a port, ascending (R122). -/
def loginsOn (s : State) (n : PortIx) : List Nat :=
  (s.names.filter fun e => e.2.port == n && e.2.status.loggedIn).map Prod.fst

/-! ## Mastership (R158) -/

/-- The port holds mastership. -/
def isMaster (s : State) (p : PortId) : Bool := s.cmd.mastership == some p

end Sys2Proof.Machine
end

