-- ==== Sys2Proof/Machine/Frames.lean ====
section
/-! DEFINITION. What every command port does around a command: the busy refusal, the response slot (R156), rights
(R158), mastership (R159), disarming (R160), and the read transaction (R156, R170). -/

namespace Sys2Proof.Machine

/-- What a command answers: its status, its detail byte and its answer fields (table 11-2). -/
structure Answer where
  status : Status
  detail : Byte
  fields : List Byte
  deriving DecidableEq, Repr

/-- An answer with no detail and no fields (R170). -/
def answer (st : Status) : Answer := { status := st, detail := 0, fields := [] }

/-- DONE with answer fields. -/
def doneWith (fields : List Byte) : Answer := { status := .done, detail := 0, fields := fields }

/-- The value of a status code (table 11-7). -/
def Status.code : Status → Nat
  | .done => 0
  | .started => 1
  | .queued => 2
  | .noChange => 3
  | .pending => 4
  | .busy => 16
  | .privilege => 17
  | .illegalCommand => 18
  | .reservedCommand => 19
  | .invalidForm => 20
  | .invalidField => 21
  | .badCheck => 22
  | .badLength => 23
  | .outOfRange => 32
  | .endOfTable => 33
  | .notFound => 34
  | .duplicate => 35
  | .capacity => 36
  | .locked => 37
  | .notArmed => 38
  | .tooLate => 39
  | .held => 40
  | .conflict => 41
  | .portActive => 42
  | .validation => 43
  | .checkMismatch => 44
  | .belowBound => 45
  | .noChassisNumber => 46
  | .idle => 47

/-- A response as sent: marker, tag, status, detail, length, answer fields, check (table 11-2). -/
def responseBytes (r : Response) : List Byte :=
  withCheck ([0xA5#8, r.tag, BitVec.ofNat 8 r.status.code, r.detail] ++ num2 r.fields.length ++ r.fields)

/-! ## Responses (R156) -/

/-- Place a response in the slot; the port becomes Working (R156). -/
def respond (f : Frame) (a : Answer) (s : State) : State :=
  s.modCmd f.port fun p =>
    { p with working := true
             response := some { tag := f.tag, status := a.status, detail := a.detail, fields := a.fields } }

/-- A frame that arrives while the port is Working is refused BUSY: the tally rises, stopping at 255, and its tag as
received replaces the one held (R156). -/
def refuseBusy (port : PortId) (tag : Byte) (s : State) : State :=
  s.modCmd port fun p => { p with tally := min (p.tally + 1) 255, busyTag := tag }

/-- The BUSY response owed: the last refused tag with the tally as detail (R156). -/
def busyResponse (p : CmdPort) : Response :=
  { tag := p.busyTag, status := .busy, detail := BitVec.ofNat 8 p.tally, fields := [] }

/-- What a read transaction returns: the empty indication in Ready or while PRSTN is held low, else the waiting
response and then the BUSY response owed (R156, R167, R170). -/
def readBytes (p : CmdPort) : List Byte :=
  if p.prstLow || !p.working then [0#8]
  else ((p.response.map responseBytes).getD []) ++ (if p.tally = 0 then [] else responseBytes (busyResponse p))

/-- The port after a read transaction: in Working the slot is emptied, the tally cleared and the port Ready; in Ready,
or while PRSTN is held low, nothing changes but what SDO carried (R156, R167). -/
def afterRead (p : CmdPort) : CmdPort :=
  if p.prstLow || !p.working then { p with sdo := readBytes p }
  else { p with sdo := readBytes p, working := false, response := none, tally := 0 }

/-! ## Disarming and mastership (R159, R160) -/

/-- Working returns from Armed to Editable, its content and modified flag kept (R83, R100). -/
def unarmWorking (z : ZoneStore) : ZoneStore :=
  { z with workingState := match z.workingState with
      | .armed => .editable
      | .editable => .editable
      | .frozen => .frozen }

/-- Disarm a port's armed operation; disarming a Commit returns Working to Editable (R160). -/
def disarm (port : PortId) (s : State) : State :=
  let zones := match (s.cmdPort port).armed with
    | .commit => unarmWorking s.zones
    | .none | .poolRevoke _ | .slotReset _ => s.zones
  State.modCmd port (fun p => { p with armed := .none }) { s with zones := zones }

/-- Change the mastership: the operation armed on the port that held it is disarmed (R159). -/
def changeMastership (m : Option PortId) (s : State) : State :=
  match s.cmd.mastership with
  | some holder => (disarm holder s).setMastership m
  | none => s.setMastership m

/-- A command taken on the master port disarms the armed operation before it is carried out (R160). -/
def disarmMaster (port : PortId) (s : State) : State := if isMaster s port then disarm port s else s

/-! ## Taking a command frame (R156 to R158) -/

/-- Which ports may use a command (R158). -/
inductive Right where
  | any
  | master
  deriving DecidableEq, Repr

/-- The port takes a frame now: PRSTN is not held low and the port is Ready (R156, R167). -/
def takesFrame (s : State) (port : PortId) : Bool := !(s.cmdPort port).prstLow && !(s.cmdPort port).working

/-- A frame at a port. While PRSTN is held low it is not taken (R167); while the port is Working it is refused BUSY
(R156); else it is taken. -/
def receiveFrame (f : Frame) (take : State → State) (s : State) : State :=
  if (s.cmdPort f.port).prstLow then s
  else if (s.cmdPort f.port).working then refuseBusy f.port f.tag s
  else take s

/-- Carry out a body and place its answer (R156). -/
def answerWith (f : Frame) (body : State → State × Answer) (s : State) : State :=
  respond f (body s).2 (body s).1

/-- Step 6 of R157: a sender without the right is refused PRIVILEGE; else the body is carried out. -/
def withRight (f : Frame) (right : Right) (body : State → State × Answer) (s : State) : State :=
  if right = .master ∧ ¬ isMaster s f.port then respond f (answer .privilege) s
  else answerWith f body s

/-- A command that keeps an armed operation: Identify, Read Status, Read Attention, and a Confirm, which disarms by its
own rule (R160). -/
def keepingCommand (f : Frame) (right : Right) (body : State → State × Answer) (s : State) : State :=
  receiveFrame f (withRight f right body) s

/-- Any other command: on the master port it first disarms the armed operation (R160). -/
def disarmingCommand (f : Frame) (right : Right) (body : State → State × Answer) (s : State) : State :=
  receiveFrame f (fun s => withRight f right body (disarmMaster f.port s)) s

/-- The codes of Identify, Read Status and Read Attention, which keep an armed operation (R160). -/
def keepsArmed (code : Byte) : Bool := code == 0x01#8 || code == 0x02#8 || code == 0x03#8

/-- A frame that is refused before its command is known (R157): `command` says whether it is taken as a command of the
port and so disarms. -/
def refusedFrame (f : Frame) (command : Bool) (st : Status) (s : State) : State :=
  receiveFrame f (fun s => respond f (answer st) (if command then disarmMaster f.port s else s)) s

end Sys2Proof.Machine
end

