-- ==== Sys2Proof/Machine/Alarms.lean ====
section
/-! DEFINITION. The Alarm Table (R145 to R153): raise and end claims, acknowledgement, and the commands Alarm
Acknowledge and Alarm Acknowledge All. -/

namespace Sys2Proof.Machine

/-- What a raise claim carries beside its cause and subject (R147). -/
structure Raise where
  cause : Cause
  subject : Nat
  severity : Severity
  detail : Nat
  silent : Bool
  deriving DecidableEq, Repr

/-- A raise with silent clear: every claim but a rule's (R146). -/
def plainRaise (cause : Cause) (subject : Nat) (severity : Severity) (detail : Nat) : Raise :=
  { cause := cause, subject := subject, severity := severity, detail := detail, silent := false }

/-- An event cause, whose block makes no end claim (R146, R150). -/
def Cause.isEvent : Cause → Bool
  | .nameMapFull | .commitDegraded => true
  | .rule | .psuFault | .fanFault | .cardFault | .poolTerm | .budgetDeficit => false

/-- The entry of a pair of cause and subject, with its position (R146). -/
def alarmFor (s : State) (cause : Cause) (subject : Nat) : Option (Nat × AlarmEntry) :=
  s.alarms.find? fun e => e.2.cause = cause ∧ e.2.subject = subject

/-- A change of an entry adds Alarm to both sets unless the entry is silent (R153). -/
def alarmChanged (silent : Bool) (s : State) : State := if silent then s else addReason .alarm s

/-- Write the entry at a position. -/
def putAlarm (pos : Nat) (e : AlarmEntry) (s : State) : State := s.setAlarms (tableSet pos e s.alarms)

/-- Retire an entry: its position becomes free; the silent flag is read as it stood (R145, R153). -/
def retireAlarm (pos : Nat) (e : AlarmEntry) (s : State) : State :=
  alarmChanged e.silent (s.setAlarms (tableErase pos s.alarms))

/-- The entry a raise makes (R147). -/
def newAlarm (r : Raise) (uptime : Word) : AlarmEntry :=
  { cause := r.cause, subject := r.subject, severity := r.severity, state := .raised, count := 1, first := uptime,
    last := uptime, silent := r.silent, detail := r.detail }

/-- A raise on a Raised or Acknowledged entry: the severity and detail take the claim's values; the last-change uptime
is stamped only where one of them changes (R148). -/
def updatedAlarm (r : Raise) (uptime : Word) (e : AlarmEntry) : AlarmEntry :=
  if e.severity = r.severity ∧ e.detail = r.detail then e
  else { e with severity := r.severity, detail := r.detail, last := uptime }

/-- A raise on a ClearedUnacked entry: Raised again, the raise count one higher, stopping at 255 (R148). -/
def reraisedAlarm (r : Raise) (uptime : Word) (e : AlarmEntry) : AlarmEntry :=
  { e with severity := r.severity, detail := r.detail, silent := r.silent, state := .raised,
           count := min (e.count + 1) 255, last := uptime }

/-- A raise claim (R147, R148). A full table with no entry of the pair, which the 107 pairs rule out (R146), leaves the
table as it is (log 16). -/
def raiseAlarm (r : Raise) (s : State) : State :=
  match alarmFor s r.cause r.subject with
  | some (pos, e) =>
    match e.state with
    | .raised | .acknowledged => putAlarm pos (updatedAlarm r s.uptime e) s
    | .clearedUnacked => alarmChanged r.silent (putAlarm pos (reraisedAlarm r s.uptime e) s)
  | none =>
    match freePosition Config.alarmPositions s.alarms with
    | some pos => alarmChanged r.silent (putAlarm pos (newAlarm r s.uptime) s)
    | none => s

/-- An end claim (R149). -/
def endAlarm (cause : Cause) (subject : Nat) (s : State) : State :=
  match alarmFor s cause subject with
  | some (pos, e) =>
    match e.state with
    | .raised => alarmChanged e.silent (putAlarm pos { e with state := .clearedUnacked, last := s.uptime } s)
    | .acknowledged => retireAlarm pos e s
    | .clearedUnacked => s
  | none => s

/-- Acknowledge the entry at a position: a Raised condition entry becomes Acknowledged, a Raised event entry and a
ClearedUnacked entry are retired, an Acknowledged entry is left (R151). -/
def acknowledgeEntry (pos : Nat) (e : AlarmEntry) (s : State) : State :=
  match e.state with
  | .raised =>
    if e.cause.isEvent then retireAlarm pos e s
    else alarmChanged e.silent (putAlarm pos { e with state := .acknowledged, last := s.uptime } s)
  | .clearedUnacked => retireAlarm pos e s
  | .acknowledged => s

/-- Alarm Acknowledge (0x58): the checks of R151 in order, then the entry's state. -/
def alarmAcknowledge (position cause subject : Byte) (s : State) : State × Answer :=
  if 127 < position.toNat then (s, answer .outOfRange)
  else match tableGet s.alarms position.toNat with
    | none => (s, answer .notFound)
    | some e =>
      if causeOf cause ≠ some e.cause ∨ subject.toNat ≠ e.subject then (s, answer .notFound)
      else if e.state = .acknowledged then (s, answer .noChange)
      else (acknowledgeEntry position.toNat e s, answer .done)

/-- Acknowledge the entry at a position, if there is one (R152). -/
def acknowledgeAt (pos : Nat) (s : State) : State :=
  match tableGet s.alarms pos with
  | some e => acknowledgeEntry pos e s
  | none => s

/-- Alarm Acknowledge All (0x59): every entry in ascending position; DONE if the walk changed at least one (R152). -/
def alarmAcknowledgeAll (s : State) : State × Answer :=
  (forEach (s.alarms.map Prod.fst) acknowledgeAt s,
   answer (if s.alarms.any fun x => x.2.state ≠ .acknowledged then .done else .noChange))

/-- ALARM_ACKNOWLEDGE: a master command that disarms (R151). -/
def execAlarmAcknowledge (f : Frame) (position cause subject : Byte) (s : State) : Result :=
  .next (disarmingCommand f .master (alarmAcknowledge position cause subject) s)

/-- ALARM_ACKNOWLEDGE_ALL: a master command that disarms (R152). -/
def execAlarmAcknowledgeAll (f : Frame) (s : State) : Result :=
  .next (disarmingCommand f .master alarmAcknowledgeAll s)

end Sys2Proof.Machine
end

