-- ==== Sys2Proof/Machine/Zones.lean ====
section
/-! DEFINITION. The Zone Store (R80 to R97): the edits of Working, the zoning evaluation, Zone Check and Image Summary. -/

namespace Sys2Proof.Machine

/-! ## Zoning evaluation (R93, R94) -/

/-- An endpoint matches a member by name, or by the port of its Name Map entry, whatever the entry's status (R93). -/
def memberMatches (s : State) (d : DevName) (m : Member) : Bool :=
  match m.designator with
  | .name x => x == d
  | .port slot pos =>
    match entryFor s d with
    | some (_, e) => e.port == portOf slot pos
    | none => false

/-- An endpoint matches a zone when it matches at least one member of it (R93). -/
def zoneMatches (s : State) (d : DevName) (z : Zone) : Bool := z.members.any (memberMatches s d)

/-- An endpoint is matched as Principal when a member it matches carries that role (R93). -/
def matchedPrincipal (s : State) (d : DevName) (z : Zone) : Bool :=
  z.members.any fun m => memberMatches s d m && m.role == .principal

/-- A zone admits a pair: both match it, and it is Plain or one of them is matched as Principal (R94, step 2). -/
def zoneAdmits (s : State) (x y : DevName) (z : Zone) : Bool :=
  zoneMatches s x z && zoneMatches s y z &&
    (z.kind == .plain || matchedPrincipal s x z || matchedPrincipal s y z)

/-- The four answers of the zoning evaluation (R94). -/
inductive ZoneVerdict where
  | permitZone (id : Nat)
  | permitDefault
  | denyZoning
  | denyDefault
  deriving DecidableEq, Repr

/-- The zoning evaluation of two endpoints over one image (R94); zones stand in ascending id, so the first that admits
the pair is the lowest. -/
def evaluate (s : State) (im : Image) (x y : DevName) : ZoneVerdict :=
  if im.zones.any fun z => zoneMatches s x z || zoneMatches s y z then
    match im.zones.find? (zoneAdmits s x y) with
    | some z => .permitZone z.id
    | none => .denyZoning
  else match im.access with
    | .permit => .permitDefault
    | .deny => .denyDefault

/-- The verdict and basis bytes and the zone id of a Zone Check (R95, R171). -/
def verdictFields : ZoneVerdict → List Byte
  | .permitZone id => [0#8, 0#8] ++ num2 id
  | .permitDefault => [0#8, 1#8] ++ num2 0
  | .denyZoning => [1#8, 0#8] ++ num2 0
  | .denyDefault => [1#8, 1#8] ++ num2 0

/-- Zone Check (0x3C) (R95). -/
def zoneCheck (x y : DevName) (image : Byte) (s : State) : State × Answer :=
  if x = 0 ∨ y = 0 then (s, answer .invalidField)
  else match image.toNat with
    | 0 => (s, doneWith (verdictFields (evaluate s s.zones.live x y) ++ split4 s.zones.generation))
    | 1 => (s, doneWith (verdictFields (evaluate s s.zones.working x y) ++ split4 s.zones.generation))
    | _ => (s, answer .invalidField)

/-! ## Image Summary (R96) -/

/-- The code of a Working state (R171). -/
def WorkingState.code : WorkingState → Nat
  | .editable => 0
  | .armed => 1
  | .frozen => 2

/-- The code of a default access (R171). -/
def Access.code : Access → Nat
  | .deny => 0
  | .permit => 1

/-- The fields of Image Summary that every image has (R171). -/
def summaryFields (im : Image) : List Byte :=
  nameField im.setName ++ num1 im.access.code ++ num2 im.zoneCount ++ num2 im.memberTotal

/-- Image Summary (0x3D): generation for Live; modified flag and Working state for Working (R96, R171). -/
def imageSummary (image : Byte) (s : State) : State × Answer :=
  match image.toNat with
  | 0 => (s, doneWith (summaryFields s.zones.live ++ split4 s.zones.generation ++ [0#8, 0#8]))
  | 1 => (s, doneWith (summaryFields s.zones.working ++ split4 0 ++ flagByte s.zones.modified ++
      num1 s.zones.workingState.code))
  | 2 => (s, doneWith (summaryFields s.zones.pending ++ split4 0 ++ [0#8, 0#8]))
  | _ => (s, answer .invalidField)

/-! ## Edits of Working (R83, R84, R86 to R92) -/

/-- Put a zone at its place in ascending id (R88). -/
def insertZone (z : Zone) : List Zone → List Zone
  | [] => [z]
  | y :: t => if z.id < y.id then z :: y :: t else y :: insertZone z t

/-- Change the zone of an id. -/
def modZone (id : Nat) (g : Zone → Zone) (im : Image) : Image :=
  { im with zones := im.zones.map fun z => if z.id = id then g z else z }

/-- An edit of Working: LOCKED unless Working is Editable, before every field check (R83); an accepted edit sets the
modified flag and a refused one leaves Working as it was (R84). -/
def editWorking (edit : Image → Except Status Image) (s : State) : State × Answer :=
  match s.zones.workingState with
  | .armed | .frozen => (s, answer .locked)
  | .editable =>
    match edit s.zones.working with
    | .error st => (s, answer st)
    | .ok im => (s.modZones fun z => { z with working := im, modified := true }, answer .done)

/-- Working Clone (0x30): copies Live into Working and clears the modified flag (R86). -/
def workingClone (s : State) : State × Answer :=
  match s.zones.workingState with
  | .armed | .frozen => (s, answer .locked)
  | .editable => (s.modZones fun z => { z with working := z.live, modified := false }, answer .done)

/-- Working Clear (0x31): empties Working (R86). -/
def clearEdit (_ : Image) : Except Status Image := .ok Image.empty

/-- Set Set Name (0x32) (R87). -/
def setNameEdit (field : List Byte) (im : Image) : Except Status Image :=
  match nameOf field with
  | none => .error .invalidField
  | some name => .ok { im with setName := name }

/-- Set Default Access (0x33) (R87). -/
def accessEdit (field : Byte) (im : Image) : Except Status Image :=
  match accessOf field with
  | none => .error .invalidField
  | some a => .ok { im with access := a }

/-- Zone Create (0x34): the checks of R88 in order, then an empty zone at its place. -/
def zoneCreateEdit (zone : Half) (field : List Byte) (kind : Byte) (im : Image) : Except Status Image :=
  match zoneIdOf zone, zoneKindOf kind, zoneNameOf field with
  | none, _, _ => .error .outOfRange
  | some _, none, _ => .error .invalidField
  | some _, some _, none => .error .invalidField
  | some id, some k, some name =>
    if (im.zone? id).isSome then .error .duplicate
    else if im.zones.any fun z => z.name == name then .error .duplicate
    else .ok { im with zones := insertZone { id := id, name := name, kind := k, members := [] } im.zones }

/-- Zone Delete (0x35): the zone and its whole member list are removed (R89). -/
def zoneDeleteEdit (zone : Half) (im : Image) : Except Status Image :=
  match zoneIdOf zone with
  | none => .error .outOfRange
  | some id =>
    if (im.zone? id).isNone then .error .notFound
    else .ok { im with zones := im.zones.filter fun z => z.id ≠ id }

/-- Zone Rename (0x36): the checks of R90 in order; the zone's own name passes. -/
def zoneRenameEdit (zone : Half) (field : List Byte) (im : Image) : Except Status Image :=
  match zoneIdOf zone with
  | none => .error .outOfRange
  | some id =>
    if (im.zone? id).isNone then .error .notFound
    else match zoneNameOf field with
      | none => .error .invalidField
      | some name =>
        if im.zones.any fun z => z.name == name && z.id != id then .error .duplicate
        else .ok (modZone id (fun z => { z with name := name }) im)

/-- A zone holds a member of a designator: the identity of a member is its designator alone (R81). -/
def hasMember (z : Zone) (d : Designator) : Bool := z.members.any fun m => m.designator == d

/-- Member Add (0x37): the checks of R91 in order; the member goes to the end of the list. -/
def memberAddEdit (zone : Half) (kind : Byte) (value : DevName) (role : Byte) (im : Image) : Except Status Image :=
  match zoneIdOf zone with
  | none => .error .outOfRange
  | some id =>
    match im.zone? id with
    | none => .error .notFound
    | some z =>
      match designatorOf kind value, roleOf z.kind role with
      | none, _ => .error .invalidField
      | some _, none => .error .invalidField
      | some d, some r =>
        if hasMember z d then .error .duplicate
        else if z.members.length ≥ 64 ∨ im.memberTotal ≥ 4096 then .error .capacity
        else .ok (modZone id (fun z => { z with members := z.members ++ [{ designator := d, role := r }] }) im)

/-- Member Remove (0x38): the checks of R92 in order; the members after it close up. -/
def memberRemoveEdit (zone : Half) (kind : Byte) (value : DevName) (im : Image) : Except Status Image :=
  match zoneIdOf zone with
  | none => .error .outOfRange
  | some id =>
    match im.zone? id with
    | none => .error .notFound
    | some z =>
      match designatorOf kind value with
      | none => .error .invalidField
      | some d =>
        if !hasMember z d then .error .notFound
        else .ok (modZone id (fun z => { z with members := z.members.eraseP fun m => m.designator == d }) im)

/-! ## Copies (R85) -/

/-- Working is copied into Pending at the start of a commit: the modified flag is cleared and Working is Editable (R85). -/
def copyToPending (s : State) : State :=
  s.modZones fun z => { z with pending := z.working, modified := false, workingState := .editable }

/-- Pending is copied into Live at the switch: the generation rises by one and Pending is emptied (R85, R109). That it does
not hold the image until the end of the commit, as R80 and R96 have it, is the model's reading (log 32). -/
def copyToLive (s : State) : State :=
  s.modZones fun z => { z with live := z.pending, generation := z.generation + 1, pending := Image.empty }

/-- Pending is emptied by an abort (R85, R112), not at the end of the aborted commit (R80): the model's reading (log 32). -/
def emptyPending (s : State) : State := s.modZones fun z => { z with pending := Image.empty }

/-! ## The commands -/

/-- WORKING_CLONE (R86). -/
def execWorkingClone (f : Frame) (s : State) : Result := .next (disarmingCommand f .master workingClone s)

/-- WORKING_CLEAR (R86). -/
def execWorkingClear (f : Frame) (s : State) : Result :=
  .next (disarmingCommand f .master (editWorking clearEdit) s)

/-- SET_SET_NAME (R87). -/
def execSetSetName (f : Frame) (name : List Byte) (s : State) : Result :=
  .next (disarmingCommand f .master (editWorking (setNameEdit name)) s)

/-- SET_DEFAULT_ACCESS (R87). -/
def execSetDefaultAccess (f : Frame) (access : Byte) (s : State) : Result :=
  .next (disarmingCommand f .master (editWorking (accessEdit access)) s)

/-- ZONE_CREATE (R88). -/
def execZoneCreate (f : Frame) (zone : Half) (name : List Byte) (kind : Byte) (s : State) : Result :=
  .next (disarmingCommand f .master (editWorking (zoneCreateEdit zone name kind)) s)

/-- ZONE_DELETE (R89). -/
def execZoneDelete (f : Frame) (zone : Half) (s : State) : Result :=
  .next (disarmingCommand f .master (editWorking (zoneDeleteEdit zone)) s)

/-- ZONE_RENAME (R90). -/
def execZoneRename (f : Frame) (zone : Half) (name : List Byte) (s : State) : Result :=
  .next (disarmingCommand f .master (editWorking (zoneRenameEdit zone name)) s)

/-- MEMBER_ADD (R91). -/
def execMemberAdd (f : Frame) (zone : Half) (kind : Byte) (value : DevName) (role : Byte) (s : State) : Result :=
  .next (disarmingCommand f .master (editWorking (memberAddEdit zone kind value role)) s)

/-- MEMBER_REMOVE (R92). -/
def execMemberRemove (f : Frame) (zone : Half) (kind : Byte) (value : DevName) (s : State) : Result :=
  .next (disarmingCommand f .master (editWorking (memberRemoveEdit zone kind value)) s)

/-- ZONE_CHECK: a command of either port (R95). -/
def execZoneCheck (f : Frame) (x y : DevName) (image : Byte) (s : State) : Result :=
  .next (disarmingCommand f .any (zoneCheck x y image) s)

/-- IMAGE_SUMMARY: a master command (R96). -/
def execImageSummary (f : Frame) (image : Byte) (s : State) : Result :=
  .next (disarmingCommand f .master (imageSummary image) s)

end Sys2Proof.Machine
end

