-- ==== Sys2Proof/Machine/Names.lean ====
section
/-! DEFINITION. The Name Map (R117 to R129): logins, logouts, the removal of a port's logins with their Purges, pins, and
reach queries. -/

namespace Sys2Proof.Machine

/-! ## Entries and login counts (R117, R118) -/

/-- Write the entry at a position. -/
def putName (pos : Nat) (e : NameEntry) (s : State) : State := s.setNames (tableSet pos e s.names)

/-- Free a position (R117). -/
def freeName (pos : Nat) (s : State) : State := s.setNames (tableErase pos s.names)

/-- Raise a port's login count by one (R120). -/
def raiseLogins (n : PortIx) (s : State) : State := s.modPort n fun r => { r with logins := r.logins + 1 }

/-- Lower a port's login count by one (R121). -/
def lowerLogins (n : PortIx) (s : State) : State := s.modPort n fun r => { r with logins := r.logins - 1 }

/-- A login ends: a Learned entry is freed and a PinnedPresent entry becomes Pinned; the port's login count falls by one
and Purge goes to every Joined card (R121 to R123). -/
def endLogin (pos : Nat) (e : NameEntry) (s : State) : State :=
  let s := match e.status with
    | .learned => freeName pos s
    | .pinnedPresent => putName pos { e with status := .pinned } s
    | .pinned => s
  sendJoined (.purge e.name) (lowerLogins e.port s)

/-- End the login of the entry at a position, if there is one. -/
def endLoginAt (pos : Nat) (s : State) : State :=
  match tableGet s.names pos with
  | some e => endLogin pos e s
  | none => s

/-- The Name Map removes every login on a port, in ascending entry position; then the count is 0 (R122). -/
def removeLogins (n : PortIx) (s : State) : State :=
  (forEach (loginsOn s n) endLoginAt s).modPort n fun r => { r with logins := 0 }

/-! ## Logins (R119, R120) -/

/-- The reasons of a Login-Answer: none for an Accept (table 11-5). -/
inductive LoginReason where
  | accept
  | invalidName
  | notServiceable
  | duplicateName
  | pinnedElsewhere
  | portLimit
  | tableFull
  deriving DecidableEq, Repr

/-- The code of a Login-Answer reason (11.3). -/
def LoginReason.code : LoginReason → Byte
  | .accept => 0
  | .invalidName => 1
  | .notServiceable => 2
  | .duplicateName => 3
  | .pinnedElsewhere => 4
  | .portLimit => 5
  | .tableFull => 6

/-- What the entries make of a login of a name on a Serviceable port: steps 2 to 9 of R119. -/
def loginOnPort (n : PortIx) (name : DevName) (s : State) : State × LoginReason :=
  match entryFor s name with
  | some (pos, e) =>
    match e.status with
    | .learned => if e.port = n then (s, .accept) else (s, .duplicateName)
    | .pinned =>
      if e.port ≠ n then (s, .pinnedElsewhere)
      else if (s.port n).logins < 4 then (raiseLogins n (putName pos { e with status := .pinnedPresent } s), .accept)
      else (s, .portLimit)
    | .pinnedPresent => if e.port = n then (s, .accept) else (s, .pinnedElsewhere)
  | none =>
    if 4 ≤ (s.port n).logins then (s, .portLimit)
    else match freePosition Config.namePositions s.names with
      | none => (raiseAlarm (plainRaise .nameMapFull 0 .minor 0) s, .tableFull)
      | some pos => (raiseLogins n (putName pos { name := name, port := n, status := .learned } s), .accept)

/-- The checks of a Login in order: the name, then Serviceable, then the entries (R119). -/
def takeLogin (slot : Slot) (position : Byte) (name : DevName) (s : State) : State × LoginReason :=
  if name = 0 then (s, .invalidName)
  else match portAt slot position.toNat with
    | none => (s, .notServiceable)
    | some n => if serviceable s n then loginOnPort n name s else (s, .notServiceable)

/-- A Login is taken and answered with Login-Answer on the sending card's link (R119, R120). -/
def login (slot : Slot) (position : Byte) (name : DevName) (s : State) : State :=
  let x := takeLogin slot position name s
  send slot (.loginAnswer position name (x.2 == .accept) x.2.code) x.1

/-! ## Logouts (R121) -/

/-- A Logout ends the login of the name on that port; anything else is ignored (R121). -/
def logout (slot : Slot) (position : Byte) (name : DevName) (s : State) : State :=
  match portAt slot position.toNat, entryFor s name with
  | some n, some (pos, e) => if e.port = n ∧ e.status.loggedIn then endLogin pos e s else s
  | _, _ => s

/-! ## Pins (R124 to R126) -/

/-- Name Pin (0x40) (R124). -/
def namePin (name : DevName) (port : Half) (s : State) : State × Answer :=
  if name = 0 then (s, answer .invalidField)
  else match index? 672 port.toNat with
    | none => (s, answer .outOfRange)
    | some n =>
      match entryFor s name with
      | none =>
        match freePosition Config.namePositions s.names with
        | some pos => (putName pos { name := name, port := n, status := .pinned } s, answer .done)
        | none => (s, answer .capacity)
      | some (pos, e) =>
        match e.status with
        | .learned =>
          if e.port = n then (putName pos { e with status := .pinnedPresent } s, answer .done)
          else (s, answer .conflict)
        | .pinned =>
          if e.port = n then (s, answer .noChange) else (putName pos { e with port := n } s, answer .done)
        | .pinnedPresent => if e.port = n then (s, answer .noChange) else (s, answer .conflict)

/-- Name Unpin (0x41) (R125). -/
def nameUnpin (name : DevName) (s : State) : State × Answer :=
  if name = 0 then (s, answer .invalidField)
  else match entryFor s name with
    | none => (s, answer .notFound)
    | some (pos, e) =>
      match e.status with
      | .learned => (s, answer .noChange)
      | .pinned => (freeName pos s, answer .done)
      | .pinnedPresent => (putName pos { e with status := .learned } s, answer .done)

/-- The code of an entry's status (R171). -/
def NameStatus.code : NameStatus → Nat
  | .learned => 0
  | .pinned => 1
  | .pinnedPresent => 2

/-- The fields of an entry from its device name on: name, status, port with its slot and position, logged in (R126,
R130, R171). -/
def nameFields (e : NameEntry) : List Byte :=
  split8 e.name ++ num1 e.status.code ++ num2 e.port.val ++ num1 ((slotOf e.port).val + 1) ++ num1 (posOf e.port) ++
    flagByte e.status.loggedIn

/-- Name Lookup (0x42) (R126). -/
def nameLookup (name : DevName) (s : State) : State × Answer :=
  if name = 0 then (s, answer .invalidField)
  else match entryFor s name with
    | none => (s, answer .notFound)
    | some (pos, e) => (s, doneWith (num2 pos ++ nameFields e))

/-! ## Reach queries (R127, R128) -/

/-- What a Query-Answer says: the verdict, the reason's code and the zone id (11.3). -/
structure QueryVerdict where
  allow : Bool
  reason : Byte
  zone : Nat
  deriving DecidableEq, Repr

/-- A Deny with a reason. -/
def denied (reason : Byte) : QueryVerdict := { allow := false, reason := reason, zone := 0 }

/-- The answer the zoning evaluation gives (R127, step 6; R128). -/
def zoningVerdict : ZoneVerdict → QueryVerdict
  | .permitZone id => { allow := true, reason := 6, zone := id }
  | .permitDefault => { allow := true, reason := 7, zone := 0 }
  | .denyZoning => denied 8
  | .denyDefault => denied 7

/-- Steps 3 to 6 of R127, the source port being Live. -/
def queryFromLive (n : PortIx) (x y : DevName) (s : State) : QueryVerdict :=
  match entryFor s x with
  | none => denied 3
  | some (_, e) =>
    if ¬ (e.port = n ∧ e.status.loggedIn) then denied 3
    else match entryFor s y with
      | none => denied 4
      | some (_, d) =>
        if !d.status.loggedIn then denied 4
        else if !live s d.port then denied 5
        else zoningVerdict (evaluate s s.zones.live x y)

/-- The answer of a Query: the first step of R127 that applies. -/
def queryVerdict (slot : Slot) (position : Byte) (x y : DevName) (s : State) : QueryVerdict :=
  if x = y then denied 1
  else match portAt slot position.toNat with
    | none => denied 2
    | some n => if live s n then queryFromLive n x y s else denied 2

/-- A Query is answered with Query-Answer on the asking card's link, carrying the Live generation (R128). -/
def query (slot : Slot) (tag : Half) (position : Byte) (x y : DevName) (s : State) : State :=
  let v := queryVerdict slot position x y s
  send slot (.queryAnswer tag v.allow v.reason (BitVec.ofNat 16 v.zone) s.zones.generation) s

/-! ## The commands -/

/-- A message is taken only in the states where it is valid; else it is discarded with no effect (R40). -/
def takeMessage (slot : Slot) (valid : CardState → Bool) (act : State → State) (s : State) : State :=
  if valid (s.card slot).state then act s else s

/-- Valid in Joined (R40). -/
def CardState.isJoined : CardState → Bool
  | .joined => true
  | .empty | .probing | .waiting | .admitting | .fenced | .parked | .failed => false

/-- LOGIN: valid in Joined (R40, R119). -/
def execLogin (slot : Slot) (position : Byte) (name : DevName) (s : State) : Result :=
  .next (takeMessage slot CardState.isJoined (login slot position name) s)

/-- LOGOUT: valid in Joined (R40, R121). -/
def execLogout (slot : Slot) (position : Byte) (name : DevName) (s : State) : Result :=
  .next (takeMessage slot CardState.isJoined (logout slot position name) s)

/-- QUERY: valid in Joined (R40, R127). -/
def execQuery (slot : Slot) (tag : Half) (position : Byte) (source destination : DevName) (s : State) : Result :=
  .next (takeMessage slot CardState.isJoined (query slot tag position source destination) s)

/-- NAME_PIN: a master command (R124). -/
def execNamePin (f : Frame) (name : DevName) (port : Half) (s : State) : Result :=
  .next (disarmingCommand f .master (namePin name port) s)

/-- NAME_UNPIN: a master command (R125). -/
def execNameUnpin (f : Frame) (name : DevName) (s : State) : Result :=
  .next (disarmingCommand f .master (nameUnpin name) s)

/-- NAME_LOOKUP: a command of either port (R126). -/
def execNameLookup (f : Frame) (name : DevName) (s : State) : Result :=
  .next (disarmingCommand f .any (nameLookup name) s)

end Sys2Proof.Machine
end

