-- ==== Sys2Proof/Machine/Ports.lean ====
section
/-! DEFINITION. The Port Table's handling of changes (R5 to R11): gaining and losing Serviceable and eligibility, the
wait list's joins and departures (R49), admission and displacement of a port, and Link messages (R8). -/

namespace Sys2Proof.Machine

/-! ## Serviceable (R3, R6, R7) -/

/-- A port loses Serviceable: its link becomes Dark, Revoke goes to a card that is Joined or Fenced after the change, and
its logins are removed (R7). -/
def loseServiceable (n : PortIx) (s : State) : State :=
  let dark := s.modPort n fun r => { r with link := .dark }
  removeLogins n (if (cardOf s n).state.inService then send (slotOf n) (.revoke (posOf n)) dark else dark)

/-- A port gains Serviceable: Permit goes to its card; the link stays Dark (R6). -/
def gainServiceable (n : PortIx) (s : State) : State := send (slotOf n) (.permit (posOf n)) s

/-- Re-evaluate Serviceable after a change; `was` is its value before (R3). -/
def reviewServiceable (n : PortIx) (was : Bool) (s : State) : State :=
  match was, serviceable s n with
  | true, false => loseServiceable n s
  | false, true => gainServiceable n s
  | true, true => s
  | false, false => s

/-! ## The wait list and the admitted draw (R46, R49) -/

/-- An item joins the wait list at the place its key gives (R49). -/
def enterWait (x : WaitItem) (s : State) : State :=
  s.modPower fun p => { p with waitList := insertByKey (waitKey s) x p.waitList }

/-- An item leaves the wait list (R49). -/
def leaveWait (x : WaitItem) (s : State) : State :=
  s.modPower fun p => { p with waitList := p.waitList.filter fun y => y ≠ x }

/-- A draw is added to the admitted draw (R50). -/
def chargeDraw (watts : Nat) (s : State) : State := s.modPower fun p => { p with admitted := p.admitted + watts }

/-- A draw leaves the admitted draw (R55). -/
def releaseDraw (watts : Nat) (s : State) : State := s.modPower fun p => { p with admitted := p.admitted - watts }

/-- Set a port's power and thermal hold. -/
def setPower (n : PortIx) (power : PortPower) (hold : Bool) (s : State) : State :=
  s.modPort n fun r => { r with power := power, hold := hold }

/-- The priority is at or above the thermal cap (R5, R56). -/
def atCap (s : State) (n : PortIx) : Bool := s.power.cap ≤ (s.port n).priority.val

/-! ## Eligibility (R5) -/

/-- A port gains eligibility: it is Waiting, held if its priority is at or above the cap, and on the wait list (R5). The
restore pass that follows is named by the event's rule (R51). -/
def joinWait (n : PortIx) (s : State) : State := enterWait (.port n) (setPower n .waiting (atCap s n) s)

/-- A port loses eligibility: it leaves the wait list or its draw is released; power Off, hold clear (R5). -/
def loseEligibility (n : PortIx) (draw : Nat) (s : State) : State :=
  setPower n .off false
    (match (s.port n).power with
    | .waiting => leaveWait (.port n) s
    | .admitted => releaseDraw draw s
    | .off => s)

/-- Re-evaluate eligibility after a change; `was` is its value and `draw` the port's draw before (R5). -/
def reviewEligible (n : PortIx) (was : Bool) (draw : Nat) (s : State) : State :=
  match was, eligible s n with
  | true, false => loseEligibility n draw s
  | false, true => joinWait n s
  | true, true => s
  | false, false => s

/-- A change of a port's record reaches its eligibility and its Serviceable, each at the moment of the change (R3, R5). -/
def portChange (n : PortIx) (f : PortRec → PortRec) (s : State) : State :=
  reviewServiceable n (serviceable s n) (reviewEligible n (eligible s n) (portDraw s n) (s.modPort n f))

/-! ## Changes of power (R11) -/

/-- A restore pass admits a port: its draw is charged, it leaves the wait list, and on a Joined card it gains Serviceable
(R11, R50). -/
def admitPort (n : PortIx) (s : State) : State :=
  portChange n (fun r => { r with power := .admitted }) (chargeDraw (portDraw s n) (leaveWait (.port n) s))

/-- An Admitted port goes back to Waiting, shed (hold clear) or displaced by the cap (hold set): its draw is released and
it loses Serviceable if it had it (R11, R53, R57). -/
def displacePort (n : PortIx) (hold : Bool) (s : State) : State :=
  reviewServiceable n (serviceable s n)
    (enterWait (.port n) (setPower n .waiting hold (releaseDraw (portDraw s n) s)))

/-! ## Changes of the card's state (R9) -/

/-- The card of a slot has changed from its state in `before`: each port's eligibility and Serviceable are re-evaluated,
in ascending position (R9). The order, which is the order in which Purges are sent on the other links, is the spec's for a
Ready and a fence only (R9, R32); for a card that leaves service it is this model's choice (log 28). -/
def portsFollowCard (slot : Slot) (before : State) (s : State) : State :=
  forEach (slotPorts slot)
    (fun n s => reviewServiceable n (serviceable before n)
      (reviewEligible n (eligible before n) (portDraw before n) s)) s

/-! ## Link messages (R8) -/

/-- A Link report for a port of a Joined card within its port count: the table of R8. -/
def linkReport (n : PortIx) (lit : Bool) (s : State) : State :=
  if !serviceable s n then
    (if lit then send (slotOf n) (.revoke (posOf n)) s else s)
  else match (s.port n).link, lit with
    | .dark, true => s.modPort n fun r => { r with link := .lit }
    | .lit, false => removeLogins n (s.modPort n fun r => { r with link := .dark })
    | .lit, true => s
    | .dark, false => s

/-- A Link message: a position at or above the card's port count is discarded (R8). -/
def takeLink (slot : Slot) (position : Byte) (lit : Bool) (s : State) : State :=
  match portAt slot position.toNat with
  | none => s
  | some n => if withinCount s n then linkReport n lit s else s

/-- LINK: valid in Joined (R8, R40). -/
def execLink (slot : Slot) (position : Byte) (lit : Bool) (s : State) : Result :=
  .next (takeMessage slot CardState.isJoined (takeLink slot position lit) s)

end Sys2Proof.Machine
end

