-- ==== Sys2Proof/Machine/Restore.lean ====
section
/-! DEFINITION. Admission (R28, R50), the restore pass (R50), the deficit condition (R59), and the steps that cards take
in the join handshake (R24, R28, R34). -/

namespace Sys2Proof.Machine

/-! ## Steps of the handshake -/

/-- A card enters Probing with an attempt count: Probe is sent and the timer started at the Probe timeout (R24, R30). -/
def startProbe (slot : Slot) (attempts : Nat) (s : State) : State :=
  startTimer slot (probeTimeoutMs attempts)
    (send slot .probe
      ((enterCard slot .probing (clearTemp slot s)).modCard slot fun c => { c with attempts := attempts }))

/-- The Slot Controller takes an admitted card from Waiting to Admitting (R28). -/
def startAdmitting (slot : Slot) (s : State) : State :=
  startTimer slot 5000 (send slot (.admission s.zones.generation) (clearTemp slot (enterCard slot .admitting s)))

/-- A card is placed on the wait list in Waiting (R27, R31, R34). -/
def placeCard (slot : Slot) (s : State) : State := enterWait (.card slot) (enterCard slot .waiting s)

/-- The detail of a CardFault raised for a failure (R146). -/
def FailureReason.code : FailureReason → Nat
  | .none => 0
  | .noAnswer => 1
  | .badIdentity => 2
  | .noReady => 3

/-- The subject of a slot's CardFault: the slot number (R146). -/
def slotNumber (slot : Slot) : Nat := slot.val + 1

/-- A card enters Failed: the timer stops, the identity and the valid flag are cleared, the reason is recorded and
CardFault raised (R34). The base draw of an Admitting card is released by the caller. -/
def failCard (slot : Slot) (reason : FailureReason) (s : State) : State :=
  raiseAlarm (plainRaise .cardFault (slotNumber slot) .major reason.code)
    ((enterCard slot .failed (clearTemp slot (stopTimer slot s))).modCard slot fun c => { c with failure := reason })

/-! ## The restore pass (R50) -/

/-- A draw fits the allowance less the admitted draw as they stand (R50). -/
def fits (s : State) (watts : Nat) : Bool := watts + s.power.admitted ≤ allowanceOf s.power

/-- The restore pass admits a card: its base draw is charged, it leaves the wait list and goes to Admitting (R50). -/
def admitCard (slot : Slot) (s : State) : State :=
  startAdmitting slot (chargeDraw (s.card slot).baseDraw (leaveWait (.card slot) s))

/-- One item of a restore pass: a held port is skipped, so is one that does not fit, any other is admitted (R50). -/
def restoreItem (x : WaitItem) (s : State) : State :=
  match x with
  | .card slot => if fits s (s.card slot).baseDraw then admitCard slot s else s
  | .port n => if !(s.port n).hold && fits s (portDraw s n) then admitPort n s else s

/-- A restore pass over the wait list, first item to last; Power is added when it admits at least one item, that is when
the list grows shorter (R50, R60). -/
def restorePass (s : State) : State :=
  let t := forEach s.power.waitList restoreItem s
  if t.power.waitList.length < s.power.waitList.length then addReason .power t else t

/-! ## The deficit condition (R59) -/

/-- Re-evaluate the deficit condition once the passes of the event have run; only a change of its value makes a claim
(R59, log 8). -/
def settleDeficit (s : State) : State :=
  match s.power.deficit, deficitHolds s with
  | false, true =>
    raiseAlarm (plainRaise .budgetDeficit 0 .critical 0) (s.modPower fun p => { p with deficit := true })
  | true, false => endAlarm .budgetDeficit 0 (s.modPower fun p => { p with deficit := false })
  | true, true => s
  | false, false => s

/-- A command's body, with the deficit condition re-evaluated after it (R59). -/
def settled (body : State → State × Answer) (s : State) : State × Answer := (settleDeficit (body s).1, (body s).2)

end Sys2Proof.Machine
end

