-- ==== Sys2Proof/Machine/CommitEngine.lean ====
section
/-! DEFINITION. The Commit Engine (R98 to R116): result records, the Fencing phase, the switch, the Releasing phase, the
end, fencing (R32, R107), joins and departures, and the commands and messages that reach it. -/

namespace Sys2Proof.Machine

/-! ## Result records (R99, R102) -/

/-- Update the result record that holds a commit's number, wherever it stands (R99). Where both hold the same number, which
numbers that wrap allow and the spec does not speak of, the current one is updated: this model's choice (log 29). -/
def CommitEngine.updateRecord (number : Half) (g : ResultRec → ResultRec) (e : CommitEngine) : CommitEngine :=
  if e.current.any fun r => r.number == number then { e with current := e.current.map g }
  else if e.previous.any fun r => r.number == number then { e with previous := e.previous.map g }
  else e

/-- Update a commit's result record; a change of a record adds Commit (R99). -/
def noteRecord (number : Option Half) (g : ResultRec → ResultRec) (s : State) : State :=
  match number with
  | none => s
  | some k =>
    let t := s.modCommit (CommitEngine.updateRecord k g)
    if t.commit = s.commit then t else addReason .commit t

/-- A record of a commit still in flight, active or queued: its outcome is InFlight (R99, R102). -/
def ResultRec.isInFlight (r : ResultRec) : Bool := r.outcome == .inFlight

/-- The record of a new commit: InFlight, no card fenced, the Live generation as it stands (R99). -/
def newRecord (number : Half) (generation : Word) : ResultRec :=
  { number := number, outcome := .inFlight, fenced := 0, generation := generation }

/-- A commit takes its number, and its record is made: the current record moves to previous unless previous holds a
commit still in flight, which keeps its place (R102). -/
def CommitEngine.takeNumber (generation : Word) (e : CommitEngine) : CommitEngine :=
  { e with
    nextNumber := e.nextNumber + 1
    current := some (newRecord (e.nextNumber + 1) generation)
    previous := if e.previous.any ResultRec.isInFlight then e.previous else e.current }

/-! ## Phases (R98) -/

/-- The cards in one of the phases, ascending. -/
def cardsIn (s : State) (test : Phase → Bool) : List Slot := allSlots.filter fun slot => test (s.phaseRec slot).phase

/-- A phase in which no timer runs: the timer stops (R98). -/
def setPhase (slot : Slot) (phase : Phase) (s : State) : State :=
  s.modPhase slot fun c => { c with phase := phase, timerOn := false }

/-- A phase that awaits an acknowledgement: resends 0 and the timer at 250 ms (R105, R109, R110). -/
def awaitPhase (slot : Slot) (phase : Phase) (s : State) : State :=
  s.modPhase slot fun _ => { phase := phase, resends := 0, timeout := commitTimeoutMs 0, timerOn := true }

/-- The hold generation: the Live generation plus one (R105). -/
def holdGeneration (s : State) : Word := s.zones.generation + 1

/-- A card goes to AwaitHold and is sent Hold (R105). -/
def sendHold (slot : Slot) (s : State) : State :=
  send slot (.hold (holdGeneration s)) (awaitPhase slot .awaitHold s)

/-- A card goes to AwaitResume and is sent Resume with the release generation (R109, R110, R112). -/
def sendResume (slot : Slot) (s : State) : State :=
  send slot (.resume s.commit.releaseGen) (awaitPhase slot .awaitResume s)

/-! ## Start, switch and end (R103, R105, R109, R111) -/

/-- The cards Joined at this moment, ascending (R105). -/
def joinedCards (s : State) : List Slot := allSlots.filter fun slot => (s.card slot).state == .joined

/-- A commit starts: Working is copied into Pending, the engine enters Fencing, and every Joined card is a target
(R103, R105). -/
def beginCommit (number : Half) (s : State) : State :=
  let t := (copyToPending s).modCommit fun e =>
    { e with active := some number, queued := none, tally := 0, direction := .forward, engine := .fencing }
  addReason .commit (forEach (joinedCards t) sendHold t)

/-- The switch (R109): Pending becomes Live, and every card in Held or Late is sent Resume. -/
def switchLive (s : State) : State :=
  let live := copyToLive s
  let noted := noteRecord live.commit.active (fun r => { r with generation := live.zones.generation }) live
  let releasing := noted.modCommit fun e =>
    { e with releaseGen := live.zones.generation, direction := .forward, engine := .releasing }
  addReason .commit (forEach (cardsIn releasing fun p => p == .held || p == .late) sendResume releasing)

/-- The outcome of a commit at its end (R111). -/
def endOutcome (e : CommitEngine) : CommitOutcome :=
  match e.direction with
  | .forward => if e.tally = 0 then .passed else .passedDegraded
  | .abort => .aborted

/-- The end of a commit, as far as the engine's return to Idle (R111, steps 1 to 4 and 6). -/
def closeCommit (s : State) : State :=
  let outcome := endOutcome s.commit
  let out := forEach allSlots (fun slot => setPhase slot .outside) s
  let noted := noteRecord out.commit.active (fun r => { r with outcome := outcome }) out
  let told := if outcome = .passedDegraded then
      raiseAlarm (plainRaise .commitDegraded 0 .major noted.commit.tally) noted
    else noted
  addReason .commit (told.modCommit fun e => { e with active := none, tally := 0, engine := .idle })

/-- The switch when it is due: the engine is Fencing and no card is in AwaitHold (R108). -/
def switchIfDue (s : State) : State :=
  if s.commit.engine = .fencing ∧ cardsIn s (· == .awaitHold) = [] then switchLive s else s

/-- The end when it is due: the engine is Releasing and no card is in AwaitResume (R110). -/
def endIfDue (s : State) : State :=
  if s.commit.engine = .releasing ∧ cardsIn s (· == .awaitResume) = [] then closeCommit s else s

/-- At the end of a commit a queued commit starts within the same event (R111, step 5). -/
def startQueued (s : State) : State :=
  match s.commit.engine, s.commit.queued with
  | .idle, some number => endIfDue (switchIfDue (beginCommit number s))
  | .idle, none => s
  | .fencing, _ => s
  | .releasing, _ => s

/-- What follows within the event from a change of the engine's cards: the switch, then the end, then the start of a
queued commit, each when due (R108 to R111). -/
def commitFollows (s : State) : State := startQueued (endIfDue (switchIfDue s))

/-! ## Fencing a card (R32, R107) -/

/-- The Slot Controller takes a fence claim: a Joined card becomes Fenced, CardFault is raised with detail Fenced, and its
Serviceable ports are revoked in ascending position; any other card ignores it (R32). -/
def fenceClaim (slot : Slot) (s : State) : State :=
  if (s.card slot).state = .joined then
    portsFollowCard slot s (raiseAlarm (plainRaise .cardFault (slotNumber slot) .major 4) (enterCard slot .fenced s))
  else s

/-- The Commit Engine fences a card (R107). -/
def fenceCard (slot : Slot) (s : State) : State :=
  let counted := (setPhase slot .outside s).modCommit fun e => { e with tally := min (e.tally + 1) 255 }
  let noted := noteRecord counted.commit.active (fun r => { r with fenced := counted.commit.tally }) counted
  commitFollows (fenceClaim slot noted)

/-! ## Joins and departures (R108, R110, R116) -/

/-- A card that becomes Joined during Fencing is Late; during Releasing it is sent Resume at once; in Idle it stays Outside
(R108, R110, R116). -/
def cardJoined (slot : Slot) (s : State) : State :=
  match s.commit.engine with
  | .fencing => setPhase slot .late s
  | .releasing => sendResume slot s
  | .idle => s

/-- A card in one of the sets has left service: it is Outside, and the switch or the end may follow; a card in Outside
changes nothing (R108, R110, R116). -/
def cardLeft (slot : Slot) (s : State) : State :=
  if (s.phaseRec slot).phase = .outside then s else commitFollows (setPhase slot .outside s)

/-! ## Messages and timeouts (R106, R108, R110) -/

/-- Hold-Ack: from a card in AwaitHold during Fencing, carrying the hold generation (R108); else ignored. -/
def holdAck (slot : Slot) (generation : Word) (s : State) : State :=
  if s.commit.engine = .fencing ∧ (s.phaseRec slot).phase = .awaitHold ∧ generation = holdGeneration s then
    commitFollows (setPhase slot .held s)
  else s

/-- Resume-Ack: from a card in AwaitResume, carrying the release generation (R110); else ignored. -/
def resumeAck (slot : Slot) (generation : Word) (s : State) : State :=
  if s.commit.engine = .releasing ∧ (s.phaseRec slot).phase = .awaitResume ∧ generation = s.commit.releaseGen then
    commitFollows (setPhase slot .done s)
  else s

/-- A timeout against the commit retry limit as it stands: a resend with one more resend used and its timer, or the fence
(R106, R110). -/
def commitTimeout (slot : Slot) (m : CardMsg) (s : State) : State :=
  let used := (s.phaseRec slot).resends
  if used < s.params.commitRetry then
    send slot m (s.modPhase slot fun c =>
      { c with resends := used + 1, timeout := commitTimeoutMs (used + 1), timerOn := true })
  else fenceCard slot s

/-- A Hold timeout: the expiry of the timer of a card in AwaitHold (R106, log 2). -/
def holdTimeout (slot : Slot) (s : State) : State :=
  if (s.phaseRec slot).phase = .awaitHold ∧ (s.phaseRec slot).timerOn then
    commitTimeout slot (.hold (holdGeneration s)) s
  else s

/-- A Resume timeout: the expiry of the timer of a card in AwaitResume (R110, log 2). -/
def resumeTimeout (slot : Slot) (s : State) : State :=
  if (s.phaseRec slot).phase = .awaitResume ∧ (s.phaseRec slot).timerOn then
    commitTimeout slot (.resume s.commit.releaseGen) s
  else s

/-! ## Setup and Confirm (R100, R101) -/

/-- Commit Setup (0x39), after the disarming that opens it (R100). An Armed Working, which no port then has armed, is
refused as Frozen is. -/
def commitSetup (port : PortId) (s : State) : State × Answer :=
  match s.zones.workingState with
  | .editable =>
    ((s.modZones fun z => { z with workingState := .armed }).modCmd port fun p => { p with armed := .commit },
     answer .done)
  | .armed | .frozen => (s, answer .locked)

/-- The first zone with no member (R101, check 1). -/
def emptyZone? (im : Image) : Option Zone := im.zones.find? fun z => z.members.isEmpty

/-- The first Peer zone without a Principal (R101, check 2). -/
def noPrincipal? (im : Image) : Option Zone :=
  im.zones.find? fun z => z.kind == .peer && !z.members.any fun m => m.role == .principal

/-- VALIDATION with its detail byte and its fields, the zone id and the reason (R101, R170). -/
def validationAnswer (z : Zone) (reason : Byte) : Answer :=
  { status := .validation, detail := reason, fields := num2 z.id ++ [reason] }

/-- A validated Confirm takes a number, then starts the commit on an Idle engine or queues it (R102 to R104). -/
def acceptCommit (s : State) : State × Answer :=
  let t := addReason .commit (s.modCommit (CommitEngine.takeNumber s.zones.generation))
  match t.commit.engine with
  | .idle => (endIfDue (switchIfDue (beginCommit t.commit.nextNumber t)), answer .started)
  | .fencing | .releasing =>
    ((t.modZones fun z => { z with workingState := .frozen }).modCommit fun e => { e with queued := some e.nextNumber },
     answer .queued)

/-- A matching Confirm of a Commit, the port disarmed: validation, then the commit (R101). -/
def confirmedCommit (s : State) : State × Answer :=
  match emptyZone? s.zones.working, noPrincipal? s.zones.working with
  | some z, _ => (s, validationAnswer z 1)
  | none, some z => (s, validationAnswer z 2)
  | none, none => acceptCommit s

/-! ## Abort and withdraw (R112 to R114) -/

/-- Commit Abort (0x3A) (R112, R113). -/
def commitAbort (s : State) : State × Answer :=
  match s.commit.engine with
  | .idle => (s, answer .idle)
  | .releasing => (s, answer .tooLate)
  | .fencing =>
    let releasing := (emptyPending s).modCommit fun e =>
      { e with direction := .abort, releaseGen := s.zones.generation, engine := .releasing }
    let told := forEach (cardsIn s fun p => p == .held || p == .awaitHold) sendResume releasing
    let out := forEach (cardsIn s (· == .late)) (fun slot => setPhase slot .outside) told
    (commitFollows (addReason .commit out), answer .started)

/-- Commit Withdraw (0x3B) (R114). -/
def commitWithdraw (s : State) : State × Answer :=
  match s.zones.workingState with
  | .editable | .armed => (s, answer .idle)
  | .frozen =>
    let noted := noteRecord s.commit.queued (fun r => { r with outcome := .withdrawn }) s
    let cancelled := (noted.modCommit fun e => { e with queued := none }).modZones fun z =>
      { z with workingState := .editable }
    (addReason .commit cancelled, answer .done)

/-! ## The commands -/

/-- COMMIT_SETUP (R100). -/
def execCommitSetup (f : Frame) (s : State) : Result := .next (disarmingCommand f .master (commitSetup f.port) s)

/-- COMMIT_ABORT (R112, R113). -/
def execCommitAbort (f : Frame) (s : State) : Result := .next (disarmingCommand f .master commitAbort s)

/-- COMMIT_WITHDRAW (R114). -/
def execCommitWithdraw (f : Frame) (s : State) : Result := .next (disarmingCommand f .master commitWithdraw s)

/-- HOLD_ACK: valid in Joined (R40, R108). -/
def execHoldAck (slot : Slot) (generation : Word) (s : State) : Result :=
  .next (takeMessage slot CardState.isJoined (holdAck slot generation) s)

/-- RESUME_ACK: valid in Joined (R40, R110). -/
def execResumeAck (slot : Slot) (generation : Word) (s : State) : Result :=
  .next (takeMessage slot CardState.isJoined (resumeAck slot generation) s)

/-- HOLD_TIMEOUT (R106). -/
def execHoldTimeout (slot : Slot) (s : State) : Result := .next (holdTimeout slot s)

/-- RESUME_TIMEOUT (R110). -/
def execResumeTimeout (slot : Slot) (s : State) : Result := .next (resumeTimeout slot s)

end Sys2Proof.Machine
end

