-- ==== Sys2Proof/Machine/Departure.lean ====
section
/-! DEFINITION. A card's departure from the states it holds: shed (R31), park and unpark (R33, R34), removal (R35) and
Slot Reset (R37), over one shared operation. -/

namespace Sys2Proof.Machine

/-- The card's draw leaves the budget: an admitted base draw is released, a Waiting card leaves the wait list (R35, R37). -/
def releaseCard (slot : Slot) (s : State) : State :=
  if (s.card slot).state.powered then releaseDraw (s.card slot).baseDraw s
  else if (s.card slot).state = .waiting then leaveWait (.card slot) s
  else s

/-- The Commit Engine and then the Port Table are told that a card which was Joined or Fenced has left service (R31, R33,
R35, R37). -/
def tellDeparture (slot : Slot) (before : State) (s : State) : State :=
  if (before.card slot).state.inService then portsFollowCard slot before (cardLeft slot s) else s

/-- The CardFault condition of a slot whose card was Failed or Fenced ends (R31 to R35, R37). -/
def endCardFault (slot : Slot) (before : State) (s : State) : State :=
  if (before.card slot).state = .failed ∨ (before.card slot).state = .fenced then
    endAlarm .cardFault (slotNumber slot) s
  else s

/-- A card leaves its state for one that is not in service: its draw leaves the budget, its timer stops, its valid flag is
cleared, and the other blocks are told. The card has left its state before they are told (R122, log 7). -/
def leaveCard (slot : Slot) (st : CardState) (s : State) : State :=
  endCardFault slot s
    (tellDeparture slot s (clearTemp slot (stopTimer slot (enterCard slot st (releaseCard slot s)))))

/-- The shed pass sheds a card: it goes to Waiting and back on the wait list (R31). -/
def shedCard (slot : Slot) (s : State) : State := enterWait (.card slot) (leaveCard slot .waiting s)

/-- A park claim is taken: the rule joins the slot's claims, and the first claim parks a card that is Admitting, Joined or
Fenced; one restore pass follows (R33). -/
def parkClaim (slot : Slot) (rule : RuleIx) (s : State) : State :=
  let claimed := s.modCard slot fun c => { c with parkClaims := addRule rule c.parkClaims }
  if (s.card slot).parkClaims.isEmpty && (s.card slot).state.powered then restorePass (leaveCard slot .parked claimed)
  else claimed

/-- A park claim is withdrawn: when the last one goes, a Parked card becomes Waiting and joins the wait list; the restore
pass that this triggers follows (R34). -/
def parkWithdraw (slot : Slot) (rule : RuleIx) (s : State) : State :=
  let left := s.modCard slot fun c => { c with parkClaims := dropRule rule c.parkClaims }
  if (left.card slot).parkClaims.isEmpty && (left.card slot).state == .parked then restorePass (placeCard slot left)
  else left

/-- One restore pass where the card's draw, and with it its ports' draws, was released (R35, R37, R55). -/
def restoreIfReleased (slot : Slot) (before : State) (s : State) : State :=
  if (before.card slot).state.powered then restorePass s else s

/-- Removal: the presence line has fallen (R35). A line that is low already does not fall (log 4). -/
def removal (slot : Slot) (s : State) : State :=
  if (s.card slot).presence then
    restoreIfReleased slot s
      ((leaveCard slot .empty s).modCard slot fun c => { c with presence := false, attempts := 0 })
  else s

/-- What a confirmed Slot Reset does (R37): the card leaves its state, then the presence line is sampled. An Empty slot
whose line is low is left as it is. -/
def slotResetBody (slot : Slot) (s : State) : State :=
  if (s.card slot).presence then restoreIfReleased slot s (startProbe slot 0 (leaveCard slot .empty s))
  else if (s.card slot).state = .empty then s
  else restoreIfReleased slot s ((leaveCard slot .empty s).modCard slot fun c => { c with attempts := 0 })

/-- A matching Confirm of a Slot Reset is answered DONE (R37). -/
def confirmedSlotReset (slot : Slot) (s : State) : State × Answer := (slotResetBody slot s, answer .done)

/-- REMOVAL (R35). -/
def execRemoval (slot : Slot) (s : State) : Result := .next (settleDeficit (removal slot s))

end Sys2Proof.Machine
end

