-- ==== Sys2Proof/Machine/Budget.lean ====
section
/-! DEFINITION. The Power Budget Unit's shed pass (R52, R53), budget changes (R47), Set Power Mode (R48), and the thermal
cap (R56 to R58). -/

namespace Sys2Proof.Machine

/-! ## The shed pass (R52, R53) -/

/-- The Admitted ports by priority descending, and within one priority by number descending (R52). -/
def shedPorts (s : State) : List PortIx :=
  (List.finRange 8).reverse.flatMap fun k =>
    (portsWhere s fun _ r => r.power == .admitted && r.priority == k).reverse

/-- The admitted draw exceeds the allowance (R52). -/
def overdrawn (s : State) : Bool := allowanceOf s.power < s.power.admitted

/-- Shed a port if the admitted draw still exceeds the allowance (R52). -/
def shedPortStep (n : PortIx) (s : State) : State := if overdrawn s then displacePort n false s else s

/-- Shed a card whose draw is admitted if the admitted draw still exceeds the allowance (R52). -/
def shedCardStep (slot : Slot) (s : State) : State :=
  if overdrawn s && (s.card slot).state.powered then shedCard slot s else s

/-- A shed pass: ports, then cards by slot descending, until the admitted draw is at or below the allowance; Power is
added (R52, R53, R60). It runs no restore pass (R53). -/
def shedPass (s : State) : State :=
  addReason .power (forEach allSlots.reverse shedCardStep (forEach (shedPorts s) shedPortStep s))

/-! ## Budget changes (R47) -/

/-- The available budget or the allowance has changed (R60). -/
def budgetMoved (before s : State) : Bool :=
  availableOf s.power != availableOf before.power || allowanceOf s.power != allowanceOf before.power

/-- What follows a budget change: a shed pass where the admitted draw exceeds an allowance that fell, a restore pass where
it rose (R47). -/
def budgetFollows (before s : State) : State :=
  if allowanceOf s.power < allowanceOf before.power then (if overdrawn s then shedPass s else s)
  else if allowanceOf before.power < allowanceOf s.power then restorePass s
  else s

/-- A budget change: Power is added when the available budget or the allowance moves, then the pass the move calls for
(R47, R60). -/
def budgetChange (g : PowerBudget → PowerBudget) (s : State) : State :=
  let t := s.modPower g
  budgetFollows s (if budgetMoved s t then addReason .power t else t)

/-- A PSU becomes counted with a rating, or stops being counted (R44). -/
def setCounted (i : Fin 6) (rating : Option Nat) (s : State) : State :=
  budgetChange (fun p => { p with counted := p.counted.set i rating }) s

/-- The count of present fan trays rises by one (R44). -/
def trayArrives (s : State) : State := budgetChange (fun p => { p with trays := p.trays + 1 }) s

/-- The count of present fan trays falls by one (R44). -/
def trayLeaves (s : State) : State := budgetChange (fun p => { p with trays := p.trays - 1 }) s

/-- Set Power Mode (0x19) (R48). -/
def setPowerMode (field : Byte) (s : State) : State × Answer :=
  match powerModeOf field with
  | none => (s, answer .invalidField)
  | some mode =>
    if mode = s.power.mode then (s, answer .noChange)
    else (addReason .power (budgetChange (fun p => { p with mode := mode }) s), answer .done)

/-! ## The thermal cap (R56 to R58) -/

/-- Put a thermal claim among the claims, by rising rule; a rule holds at most one (R43, R56). -/
def insertClaim (c : ThermalClaim) : List ThermalClaim → List ThermalClaim
  | [] => [c]
  | d :: t => if c.rule < d.rule then c :: d :: t else if c.rule = d.rule then c :: t else d :: insertClaim c t

/-- Remove a rule's thermal claim (R56). -/
def dropClaim (rule : RuleIx) (l : List ThermalClaim) : List ThermalClaim := l.filter fun c => c.rule ≠ rule

/-- The ports at or above a cap with a power, ascending. -/
def portsAtCap (s : State) (c : Nat) (power : PortPower) : List PortIx :=
  portsWhere s fun _ r => r.power == power && c ≤ r.priority.val

/-- The cap fell to c: displace the Admitted ports at or above it, hold the Waiting ones, and restore if any draw was
released (R57). -/
def capFell (c : Nat) (s : State) : State :=
  let out := portsAtCap s c .admitted
  let displaced := forEach out (fun n => displacePort n true) s
  let held := forEach (portsAtCap displaced c .waiting) (fun n s => setPower n .waiting true s) displaced
  if out.isEmpty then held else restorePass held

/-- The cap rose to c: clear the hold of the Waiting ports below it, then one restore pass (R58). -/
def capRose (c : Nat) (s : State) : State :=
  restorePass (forEach (portsWhere s fun _ r => r.power == .waiting && r.priority.val < c)
    (fun n s => setPower n .waiting false s) s)

/-- The thermal claims change: the cap is recomputed, and its fall or rise acts within the event (R56 to R58, R60). -/
def setClaims (claims : List ThermalClaim) (s : State) : State :=
  let c := capOf claims
  let t := s.modPower fun p => { p with claims := claims, cap := c }
  if c < s.power.cap then addReason .power (capFell c t)
  else if s.power.cap < c then addReason .power (capRose c t)
  else t

/-- A thermal claim of a Shed(n) rule (R56). -/
def thermalClaim (rule : RuleIx) (n : Priority) (s : State) : State :=
  setClaims (insertClaim { rule := rule, n := n } s.power.claims) s

/-- The withdrawal of a rule's thermal claim (R56). -/
def thermalWithdraw (rule : RuleIx) (s : State) : State := setClaims (dropClaim rule s.power.claims) s

/-- SET_POWER_MODE (R48). -/
def execSetPowerMode (f : Frame) (mode : Byte) (s : State) : Result :=
  .next (disarmingCommand f .master (settled (setPowerMode mode)) s)

end Sys2Proof.Machine
end

