-- ==== Sys2Proof/Machine/Licensing.lean ====
section
/-! DEFINITION. The License Unit (R61 to R78): pool states and their claims, credentials, the automatic choice, the
rebinding pass, the hour timer, and the licence commands. -/

namespace Sys2Proof.Machine

/-! ## Pools (R62, R63) -/

/-- The subject of a pool's PoolTerm: the pool id (R146). -/
def poolId (i : PoolIx) : Nat := i.val + 1

/-- The PoolTerm claim of a change of a pool's state (R63). -/
def poolTermClaim (i : PoolIx) (before after : PoolState) (s : State) : State :=
  match after with
  | .expiring => raiseAlarm (plainRaise .poolTerm (poolId i) .minor 1) s
  | .expired => raiseAlarm (plainRaise .poolTerm (poolId i) .major 2) s
  | .active | .vacant =>
    match before with
    | .expiring | .expired => endAlarm .poolTerm (poolId i) s
    | .active | .vacant => s

/-- Write a pool record; a change of its state makes the PoolTerm claim and adds License (R63). -/
def writePool (i : PoolIx) (r : PoolRec) (s : State) : State :=
  let t := s.modPool i fun _ => r
  if r.state = (s.pool i).state then t else addReason .license (poolTermClaim i (s.pool i).state r.state t)

/-- Change a pool's bound count; each change adds License (R62, R63). -/
def changeBound (i : PoolIx) (g : Nat → Nat) (s : State) : State :=
  addReason .license (s.modPool i fun r => { r with bound := g r.bound })

/-! ## Binding and unbinding (R68 to R71) -/

/-- A pool can serve a port of a card of a tier: Active or Expiring, with room, of the card's tier or above (R15, R68). -/
def poolServes (s : State) (tier : Nat) (i : PoolIx) : Bool :=
  (s.pool i).state.serves && (s.pool i).bound < (s.pool i).capacity && tier ≤ (s.pool i).tier

/-- The preference of the automatic choice: lowest tier first, then Perpetual before Term, then the lowest id (R68). -/
def poolKey (s : State) (i : PoolIx) : Nat :=
  (s.pool i).tier * 32 + (match (s.pool i).kind with | .perpetual => 0 | .term => 16) + i.val

/-- The better of the best pool so far and the next one. -/
def betterPool (s : State) (best : Option PoolIx) (i : PoolIx) : Option PoolIx :=
  match best with
  | none => some i
  | some j => if poolKey s i < poolKey s j then some i else some j

/-- The automatic pool choice for a port; a port in Grace leaves its own pool out (R68). -/
def autoChoice (s : State) (n : PortIx) : Option PoolIx :=
  (allPools.filter fun i => poolServes s (cardOf s n).tier i && (s.port n).license.pool? != some i).foldl
    (betterPool s) none

/-- A port becomes Bound to a pool: the pool's count rises, a pool it leaves loses one (R62, R70). -/
def bindPort (n : PortIx) (i : PoolIx) (s : State) : State :=
  let freed := match (s.port n).license.pool? with
    | some old => changeBound old (· - 1) s
    | none => s
  portChange n (fun r => { r with license := .bound i }) (changeBound i (· + 1) freed)

/-- A port becomes Unlicensed: its pool's count falls, and the Port Table takes the change (R10, R62). -/
def unbindPort (n : PortIx) (s : State) : State :=
  let freed := match (s.port n).license.pool? with
    | some old => changeBound old (· - 1) s
    | none => s
  portChange n (fun r => { r with license := .unlicensed }) freed

/-- A license a rebinding pass looks at: Unlicensed or Grace (R70). -/
def License.wanting : License → Bool
  | .unlicensed | .grace _ _ => true
  | .bound _ => false

/-- A candidate of the rebinding pass (R70). -/
def rebindCandidate (s : State) (n : PortIx) : Bool :=
  (s.port n).intent == .enabled && (cardOf s n).state.inService && withinCount s n && (s.port n).license.wanting

/-- Bind a port by the automatic choice; it is left as it is where the choice finds none (R68, R70). -/
def autoBind (n : PortIx) (s : State) : State :=
  match autoChoice s n with
  | some i => bindPort n i s
  | none => s

/-- A rebinding pass: each candidate in ascending port number (R70). -/
def rebindingPass (s : State) : State := forEach (portsWhere s fun n _ => rebindCandidate s n) autoBind s

/-- A rebinding pass and the single restore pass of its event, which runs if the pass made a port eligible, that is the
wait list grew, or the event released a draw since the admitted draw stood at `before` (R71). -/
def rebindThenRestore (before : Nat) (s : State) : State :=
  let t := rebindingPass s
  if s.power.waitList.length < t.power.waitList.length ∨ t.power.admitted < before then restorePass t else t

/-! ## Chassis number and credentials (R61, R64 to R67) -/

/-- Set Chassis Number (0x20) (R61). -/
def setChassisNumber (number : Word) (s : State) : State × Answer :=
  if s.license.chassis ≠ 0 then (s, answer .locked)
  else if number = 0 then (s, answer .invalidField)
  else (addReason .license { s with license := { s.license with chassis := number } }, answer .done)

/-- A credential whose fields are in range (R64). -/
structure Credential where
  pool : PoolIx
  tier : Nat
  kind : PoolKind
  capacity : Nat
  hours : Nat
  warn : Nat
  deriving DecidableEq, Repr

/-- Step 2 of R64: the fields in range; none where one is not. -/
def credentialOf (pool tier kind : Byte) (capacity hours warn : Half) : Option Credential :=
  match index1? 16 pool.toNat, poolKindOf kind with
  | some i, some k =>
    if 1 ≤ tier.toNat ∧ tier.toNat ≤ 3 ∧ 1 ≤ capacity.toNat ∧ capacity.toNat ≤ 672 ∧ ¬ (k = .term ∧ hours = 0) then
      some { pool := i, tier := tier.toNat, kind := k, capacity := capacity.toNat, hours := hours.toNat,
             warn := warn.toNat }
    else none
  | _, _ => none

/-- The check word of a credential: the CRC-32 of its six fields as carried, then the chassis number (R65, R169). -/
def checkWord (pool tier kind : Byte) (capacity hours warn : Half) (chassis : Word) : Word :=
  crc32 ([pool, tier, kind] ++ split2 capacity ++ split2 hours ++ split2 warn ++ split4 chassis)

/-- The pool record a credential makes with a bound count (R66, R67). -/
def credentialPool (c : Credential) (bound : Nat) : PoolRec :=
  let hours := match c.kind with | .term => c.hours | .perpetual => 0
  let warn := match c.kind with | .term => c.warn | .perpetual => 0
  { state := poolStateOf c.kind hours warn, tier := c.tier, kind := c.kind, capacity := c.capacity, bound := bound,
    hours := hours, warn := warn }

/-- The ports in Grace to a pool, ascending (R67). -/
def gracePorts (s : State) (i : PoolIx) : List PortIx :=
  portsWhere s fun _ r => match r.license with
    | .grace j _ => j == i
    | .bound _ | .unlicensed => false

/-- Steps of R66 and R67: the record, the Grace ports back to Bound where the pool serves again, License, and the
rebinding pass. -/
def applyCredential (c : Credential) (s : State) : State :=
  let r := credentialPool c (s.pool c.pool).bound
  let written := writePool c.pool r s
  let back := if r.state.serves then
      forEach (gracePorts written c.pool) (fun n => portChange n fun p => { p with license := .bound c.pool }) written
    else written
  rebindThenRestore s.power.admitted (addReason .license back)

/-- Pool Install (0x21): the checks of R64 in order, then the install or the replacement. -/
def poolInstall (pool tier kind : Byte) (capacity hours warn : Half) (check : Word) (s : State) : State × Answer :=
  if s.license.chassis = 0 then (s, answer .noChassisNumber)
  else match credentialOf pool tier kind capacity hours warn with
    | none => (s, answer .invalidField)
    | some c =>
      let old := s.pool c.pool
      if check ≠ checkWord pool tier kind capacity hours warn s.license.chassis then (s, answer .checkMismatch)
      else if old.state ≠ .vacant ∧ (old.tier ≠ c.tier ∨ old.kind ≠ c.kind) then (s, answer .conflict)
      else if old.state ≠ .vacant ∧ c.capacity < old.bound then (s, answer .belowBound)
      else (applyCredential c s, answer .done)

/-! ## The hour timer (R73 to R75) -/

/-- The ports Bound to a pool, ascending (R74). -/
def boundPorts (s : State) (i : PoolIx) : List PortIx :=
  portsWhere s fun _ r => match r.license with
    | .bound j => j == i
    | .grace _ _ | .unlicensed => false

/-- A port of an expired pool goes to Grace with the grace period as it stands; with a period of 0 it ends at once in
Unlicensed (R74, R76). -/
def enterGrace (i : PoolIx) (n : PortIx) (s : State) : State :=
  if s.params.grace = 0 then unbindPort n s
  else portChange n (fun r => { r with license := .grace i s.params.grace }) s

/-- A Term pool that is counted: Active or Expiring, with a bound port (R74). -/
def PoolRec.counts (r : PoolRec) : Bool := r.kind == .term && r.state.serves && 1 ≤ r.bound

/-- One pool at an expiry of the hour timer (R74). -/
def countPool (i : PoolIx) (s : State) : State :=
  let r := s.pool i
  if r.counts then
    let st := poolStateOf r.kind (r.hours - 1) r.warn
    let t := writePool i { r with hours := r.hours - 1, state := st } s
    if st = .expired then forEach (boundPorts t i) (enterGrace i) t else t
  else s

/-- One port that was in Grace before this expiry loses an hour; at 0 its licence ends (R75). -/
def countGrace (n : PortIx) (s : State) : State :=
  match (s.port n).license with
  | .grace i hours =>
    if hours ≤ 1 then unbindPort n s else portChange n (fun r => { r with license := .grace i (hours - 1) }) s
  | .bound _ | .unlicensed => s

/-- The ports in Grace, ascending (R75). -/
def portsInGrace (s : State) : List PortIx :=
  portsWhere s fun _ r => match r.license with
    | .grace _ _ => true
    | .bound _ | .unlicensed => false

/-- An expiry of the hour timer: pools, grace, then the rebinding pass where a pool became Expired or a port lost its
licence (R73). -/
def hourTimer (s : State) : State :=
  let pools := forEach allPools countPool s
  let grace := forEach (portsInGrace s) countGrace pools
  let expired := allPools.any fun i => (s.pool i).state != .expired && (pools.pool i).state == .expired
  let lost := (portsInGrace s).any fun n => (grace.port n).license == .unlicensed
  if expired || lost then rebindThenRestore s.power.admitted grace else grace

/-! ## Pool Revoke (R77, R78) -/

/-- The setup of Pool Revoke (0x22) arms it for a pool in range (R77). -/
def poolRevokeSetup (port : PortId) (pool : Byte) (s : State) : State × Answer :=
  match index1? 16 pool.toNat with
  | none => (s, answer .outOfRange)
  | some i => (s.modCmd port fun p => { p with armed := .poolRevoke i }, answer .done)

/-- The ports whose license names a pool, ascending (R78). -/
def portsOfPool (s : State) (i : PoolIx) : List PortIx := portsWhere s fun _ r => r.license.pool? == some i

/-- A matching Confirm of a Pool Revoke (R78). -/
def confirmedPoolRevoke (i : PoolIx) (s : State) : State × Answer :=
  if (s.pool i).state = .vacant then (s, answer .noChange)
  else
    let unbound := forEach (portsOfPool s i) unbindPort s
    let vacant := addReason .license (writePool i PoolRec.vacant unbound)
    (rebindThenRestore s.power.admitted vacant, answer .done)

/-! ## The commands -/

/-- SET_CHASSIS_NUMBER (R61). -/
def execSetChassisNumber (f : Frame) (number : Word) (s : State) : Result :=
  .next (disarmingCommand f .master (setChassisNumber number) s)

/-- POOL_INSTALL (R64). -/
def execPoolInstall (f : Frame) (pool tier kind : Byte) (capacity hours warn : Half) (check : Word) (s : State) :
    Result :=
  .next (disarmingCommand f .master (settled (poolInstall pool tier kind capacity hours warn check)) s)

/-- POOL_REVOKE: the setup (R77). -/
def execPoolRevoke (f : Frame) (pool : Byte) (s : State) : Result :=
  .next (disarmingCommand f .master (poolRevokeSetup f.port pool) s)

/-- HOUR_TIMER_EXPIRY (R73). -/
def execHourTimerExpiry (s : State) : Result := .next (settleDeficit (hourTimer s))

end Sys2Proof.Machine
end

