-- ==== Sys2Proof/Machine/PortCommands.lean ====
section
/-! DEFINITION. The four port commands (R13 to R19). -/

namespace Sys2Proof.Machine

/-- The details of PENDING (table 11-2). -/
inductive PendingDetail where
  | card
  | license
  | power
  | thermal
  | fence
  deriving DecidableEq, Repr

/-- The detail byte of a PENDING (table 11-2). -/
def PendingDetail.code : PendingDetail → Byte
  | .card => 1
  | .license => 2
  | .power => 3
  | .thermal => 4
  | .fence => 5

/-- PENDING with a detail (R13). -/
def pendingAnswer (d : PendingDetail) : Answer := { status := .pending, detail := d.code, fields := [] }

/-! ## Port Set Priority (R19) -/

/-- What a new priority does to a port, by its power (R19). -/
def changePriority (n : PortIx) (prio : Priority) (s : State) : State :=
  let t := s.modPort n fun r => { r with priority := prio }
  let held : Bool := s.power.cap ≤ prio.val
  match (s.port n).power with
  | .off => t
  | .waiting =>
    let moved := enterWait (.port n) (setPower n .waiting held (leaveWait (.port n) t))
    if held then moved else restorePass moved
  | .admitted => if held then restorePass (displacePort n true t) else t

/-- Port Set Priority (0x13) (R19). -/
def portSetPriority (port : Half) (priority : Byte) (s : State) : State × Answer :=
  match index? 672 port.toNat, index? 8 priority.toNat with
  | none, _ => (s, answer .outOfRange)
  | some _, none => (s, answer .invalidField)
  | some n, some prio =>
    if (s.port n).priority = prio then (s, answer .noChange) else (changePriority n prio s, answer .done)

/-! ## Port Enable (R13 to R16) -/

/-- The answer of Port Enable from the port's state after its restore pass (R16). -/
def enableAnswer (n : PortIx) (s : State) : Answer :=
  if (s.port n).power ≠ .admitted then
    (if (s.port n).hold then pendingAnswer .thermal else pendingAnswer .power)
  else if (cardOf s n).state = .fenced then pendingAnswer .fence
  else answer .done

/-- The pool that step 5 binds an Unlicensed port to: the named pool if it does not refuse, else the automatic choice
when none is named (R15). -/
def enablePool (n : PortIx) (named : Option PoolIx) (s : State) : Option PoolIx :=
  match named with
  | some i => if poolServes s (cardOf s n).tier i then some i else none
  | none => autoChoice s n

/-- Steps 6 and 7: the restore pass and the answer (R16). -/
def enableFinish (n : PortIx) (s : State) : State × Answer := (restorePass s, enableAnswer n (restorePass s))

/-- Steps 4 to 7 of Port Enable, the intent being Enabled (R14 to R16). -/
def enableSteps (n : PortIx) (named : Option PoolIx) (s : State) : State × Answer :=
  if !((cardOf s n).state.inService && withinCount s n) then (s, pendingAnswer .card)
  else if (s.port n).license.held then enableFinish n s
  else match enablePool n named s with
    | none => (s, pendingAnswer .license)
    | some i => enableFinish n (bindPort n i s)

/-- Port Enable from step 2 on (R14). -/
def enablePort (n : PortIx) (named : Option PoolIx) (prio : Option Priority) (s : State) : State × Answer :=
  match (s.port n).intent with
  | .enabled =>
    match prio with
    | some k => if (s.port n).priority = k then (s, answer .noChange) else (changePriority n k s, answer .noChange)
    | none => (s, answer .noChange)
  | .disabled =>
    enableSteps n named (portChange n (fun r => { r with intent := .enabled, priority := prio.getD r.priority }) s)

/-- Port Enable (0x10): step 1, then the port (R13). -/
def portEnable (port : Half) (pool priority : Byte) (s : State) : State × Answer :=
  match index? 672 port.toNat with
  | none => (s, answer .outOfRange)
  | some n =>
    if 16 < pool.toNat ∨ (7 < priority.toNat ∧ priority.toNat < 255) then (s, answer .invalidField)
    else enablePort n (index1? 16 pool.toNat) (index? 8 priority.toNat) s

/-! ## Port Disable and Port Release License (R17, R18) -/

/-- The intent becomes Disabled; a restore pass runs where the port's draw was released (R17). -/
def disablePort (n : PortIx) (s : State) : State :=
  let t := portChange n (fun r => { r with intent := .disabled }) s
  if (s.port n).power = .admitted then restorePass t else t

/-- Port Disable (0x11) (R17). -/
def portDisable (port : Half) (s : State) : State × Answer :=
  match index? 672 port.toNat with
  | none => (s, answer .outOfRange)
  | some n =>
    match (s.port n).intent with
    | .disabled => (s, answer .noChange)
    | .enabled => (disablePort n s, answer .done)

/-- Port Release License (0x12) (R18). -/
def portReleaseLicense (port : Half) (s : State) : State × Answer :=
  match index? 672 port.toNat with
  | none => (s, answer .outOfRange)
  | some n =>
    if (s.port n).intent = .enabled then (s, answer .portActive)
    else if (s.port n).license = .unlicensed then (s, answer .noChange)
    else (rebindThenRestore s.power.admitted (unbindPort n s), answer .done)

/-! ## The commands -/

/-- PORT_ENABLE (R13). -/
def execPortEnable (f : Frame) (port : Half) (pool priority : Byte) (s : State) : Result :=
  .next (disarmingCommand f .master (settled (portEnable port pool priority)) s)

/-- PORT_DISABLE (R17). -/
def execPortDisable (f : Frame) (port : Half) (s : State) : Result :=
  .next (disarmingCommand f .master (settled (portDisable port)) s)

/-- PORT_RELEASE_LICENSE (R18). -/
def execPortReleaseLicense (f : Frame) (port : Half) (s : State) : Result :=
  .next (disarmingCommand f .master (settled (portReleaseLicense port)) s)

/-- PORT_SET_PRIORITY (R19). -/
def execPortSetPriority (f : Frame) (port : Half) (priority : Byte) (s : State) : Result :=
  .next (disarmingCommand f .master (settled (portSetPriority port priority)) s)

end Sys2Proof.Machine
end

