-- ==== Sys2Proof/Machine/Slots.lean ====
section
/-! DEFINITION. The events of the Slot Controller (R24 to R30, R34, R36 to R41): presence, the join handshake, its
timeouts, temperatures, the messages that leave, and the setup of Slot Reset. -/

namespace Sys2Proof.Machine

/-! ## Presence (R24) -/

/-- A rise of the presence line starts the handshake of an Empty slot (R24); a line that is high already does not rise
(log 4). -/
def presenceRise (slot : Slot) (s : State) : State :=
  if (s.card slot).presence then s
  else
    let t := s.modCard slot fun c => { c with presence := true }
    if (s.card slot).state = .empty then startProbe slot 0 t else t

/-- PRESENCE_RISE (R24). -/
def execPresenceRise (slot : Slot) (s : State) : Result := .next (presenceRise slot s)

/-! ## Probing (R25 to R27) -/

/-- Probe is sent again, with one more attempt and the timer at the timeout for the new count (R25, log 17). -/
def resendProbe (slot : Slot) (s : State) : State :=
  let attempts := (s.card slot).attempts + 1
  startTimer slot (probeTimeoutMs attempts) (send slot .probe (s.modCard slot fun c => { c with attempts := attempts }))

/-- A Probe timeout: the expiry of the slot's timer in Probing (R25, log 2). -/
def probeTimeout (slot : Slot) (s : State) : State :=
  if (s.card slot).state = .probing ∧ (s.card slot).timerOn then
    (if (s.card slot).attempts < s.params.probeRetry then resendProbe slot s else failCard slot .noAnswer s)
  else s

/-- PROBE_TIMEOUT (R25). -/
def execProbeTimeout (slot : Slot) (s : State) : Result := .next (probeTimeout slot s)

/-- The identity an Ident carries; none where a bounded part fails its check (R26). -/
def identityOf (cardType : Half) (portCount tier : Byte) (baseDraw : Half) : Option Identity :=
  if (portCount.toNat = 16 ∨ portCount.toNat = 32 ∨ portCount.toNat = 48) ∧ 1 ≤ tier.toNat ∧ tier.toNat ≤ 3 ∧
      40 ≤ baseDraw.toNat ∧ baseDraw.toNat ≤ 600 then
    some { cardType := cardType, portCount := portCount.toNat, tier := tier.toNat, baseDraw := baseDraw.toNat }
  else none

/-- A port's binding fails the tier check: its pool's tier is below the card's (R27). -/
def belowTier (s : State) (tier : Nat) (n : PortIx) : Bool :=
  match (s.port n).license.pool? with
  | some i => (s.pool i).tier < tier
  | none => false

/-- The tier check of a slot's bindings, and the rebinding pass where it freed any (R27, R72). -/
def tierCheck (slot : Slot) (tier : Nat) (s : State) : State :=
  let failing := (slotPorts slot).filter (belowTier s tier)
  if failing.isEmpty then s else rebindingPass (forEach failing unbindPort s)

/-- An accepted Ident (R27): the identity, the tier check, then Parked or Waiting by the park claims. One restore pass
ends the event where the card joined the wait list or the rebinding pass made a port eligible (R51, R71, log 9). -/
def acceptIdent (slot : Slot) (id : Identity) (s : State) : State :=
  let checked := tierCheck slot id.tier ((stopTimer slot s).modCard slot fun c => { c with identity := some id })
  let placed := if (checked.card slot).parkClaims.isEmpty then placeCard slot checked
    else enterCard slot .parked checked
  if s.power.waitList.length < placed.power.waitList.length then restorePass placed else placed

/-- An Ident in Probing: accepted, or refused as a bad identity (R26). -/
def takeIdent (slot : Slot) (cardType : Half) (portCount tier : Byte) (baseDraw : Half) (s : State) : State :=
  match identityOf cardType portCount tier baseDraw with
  | none => failCard slot .badIdentity s
  | some id => acceptIdent slot id s

/-- Valid in Probing (R40). -/
def CardState.isProbing : CardState → Bool
  | .probing => true
  | .empty | .waiting | .admitting | .joined | .fenced | .parked | .failed => false

/-- IDENT: valid in Probing (R26, R40). -/
def execIdent (slot : Slot) (cardType : Half) (portCount tier : Byte) (baseDraw : Half) (s : State) : Result :=
  .next (settleDeficit (takeMessage slot CardState.isProbing (takeIdent slot cardType portCount tier baseDraw) s))

/-! ## Admitting (R29, R30) -/

/-- A card joins (R29): Joined, the Commit Engine told, its eligible ports on the wait list, the rebinding pass, the
restore pass (R9, log 10). -/
def joinCard (slot : Slot) (s : State) : State :=
  let joined := (enterCard slot .joined (stopTimer slot s)).modCard slot fun c => { c with attempts := 0 }
  restorePass (rebindingPass (portsFollowCard slot s (cardJoined slot joined)))

/-- A Ready in Admitting: another generation is answered by Admit again, the Live generation joins (R29). -/
def takeReady (slot : Slot) (generation : Word) (s : State) : State :=
  if generation = s.zones.generation then joinCard slot s else send slot (.admission s.zones.generation) s

/-- Valid in Admitting (R40). -/
def CardState.isAdmitting : CardState → Bool
  | .admitting => true
  | .empty | .probing | .waiting | .joined | .fenced | .parked | .failed => false

/-- READY: valid in Admitting (R29, R40). -/
def execReady (slot : Slot) (generation : Word) (s : State) : Result :=
  .next (settleDeficit (takeMessage slot CardState.isAdmitting (takeReady slot generation) s))

/-- An Admitting timeout: the expiry of the slot's timer in Admitting; the draw is released, the card goes back to Probing
with one more attempt or fails, and a restore pass runs (R30, R34, R55, log 2). -/
def admittingTimeout (slot : Slot) (s : State) : State :=
  if (s.card slot).state = .admitting ∧ (s.card slot).timerOn then
    let freed := releaseDraw (s.card slot).baseDraw s
    restorePass
      (if (s.card slot).attempts < s.params.probeRetry then startProbe slot ((s.card slot).attempts + 1) freed
      else failCard slot .noReady freed)
  else s

/-- ADMITTING_TIMEOUT (R30). -/
def execAdmittingTimeout (slot : Slot) (s : State) : Result := .next (settleDeficit (admittingTimeout slot s))

/-! ## Temperatures (R41) -/

/-- A Temperature message records its value and sets the valid flag (R41). -/
def takeTemperature (slot : Slot) (value : Half) (s : State) : State :=
  s.modCard slot fun c => { c with temperature := value, tempValid := true }

/-- TEMPERATURE: valid in Admitting, Joined and Fenced (R40, R41). -/
def execTemperature (slot : Slot) (value : Half) (s : State) : Result :=
  .next (takeMessage slot CardState.powered (takeTemperature slot value) s)

/-! ## Messages that leave (R38, table 11-5) -/

/-- The verdict byte: 0 for Accept and Permit, 1 for Reject and Deny (table 11-5). -/
def verdictByte (allow : Bool) : Byte := if allow then 0#8 else 1#8

/-- The bytes of a message the controller sends (table 11-5, R169). -/
def CardMsg.bytes : CardMsg → List Byte
  | .probe => messageBytes 0x01#8 []
  | .admission g => messageBytes 0x02#8 (split4 g)
  | .permit pos => messageBytes 0x03#8 (num1 pos)
  | .revoke pos => messageBytes 0x04#8 (num1 pos)
  | .loginAnswer pos name accept reason => messageBytes 0x05#8 ([pos] ++ split8 name ++ [verdictByte accept, reason])
  | .queryAnswer tag allow reason zone g =>
    messageBytes 0x06#8 (split2 tag ++ [verdictByte allow, reason] ++ split2 zone ++ split4 g)
  | .purge name => messageBytes 0x07#8 (split8 name)
  | .hold g => messageBytes 0x08#8 (split4 g)
  | .resume g => messageBytes 0x09#8 (split4 g)

/-- The first waiting message leaves on the slot link; with none waiting nothing changes (R38, log 25). -/
def CardRec.leave (c : CardRec) : CardRec :=
  match c.outbox with
  | [] => c
  | m :: rest => { c with outbox := rest, ltx := m.bytes }

/-- MESSAGE_LEAVE (R38). -/
def execMessageLeave (slot : Slot) (s : State) : Result := .next (s.modCard slot CardRec.leave)

/-! ## Slot Reset (R36) -/

/-- The setup of Slot Reset (0x18) arms it for a slot in range (R36). -/
def slotResetSetup (port : PortId) (slot : Byte) (s : State) : State × Answer :=
  match index1? 14 slot.toNat with
  | none => (s, answer .outOfRange)
  | some x => (s.modCmd port fun p => { p with armed := .slotReset x }, answer .done)

/-- SLOT_RESET: the setup (R36). -/
def execSlotReset (f : Frame) (slot : Byte) (s : State) : Result :=
  .next (disarmingCommand f .master (slotResetSetup f.port slot) s)

end Sys2Proof.Machine
end

