-- ==== Sys2Proof/Machine/Rules.lean ====
section
/-! DEFINITION. The Rule Evaluator (R138 to R143): conditions and their claims, evaluation, and the rule commands. -/

namespace Sys2Proof.Machine

/-! ## Conditions (R138, R143) -/

/-- A rule's condition holds while its state is Active or Releasing (R138). -/
def RuleState.holds : RuleState → Bool
  | .active | .releasing _ => true
  | .idle | .counting _ => false

/-- The slot a CardOff rule parks: source s is slot s − 15, counted from 0 here (R33, R143). -/
def parkSlot (source : SourceIx) : Option Slot := if source.val < 16 then none else index? 14 (source.val - 16)

/-- The boost claims change; the fan duty is recomputed (R137). -/
def setBoosts (boosts : List RuleIx) (s : State) : State :=
  recomputeDuty (s.modScanner fun x => { x with boosts := boosts })

/-- Apply a rule's action when its condition begins (R143). -/
def applyAction (r : RuleIx) (rule : RuleRec) (s : State) : State :=
  match rule.action with
  | .none => s
  | .fanBoost => setBoosts (addRule r s.scanner.boosts) s
  | .shed n => thermalClaim r n s
  | .cardOff =>
    match parkSlot rule.source with
    | some slot => parkClaim slot r s
    | none => s

/-- Withdraw a rule's action when its condition ends (R143). -/
def withdrawAction (r : RuleIx) (rule : RuleRec) (s : State) : State :=
  match rule.action with
  | .none => s
  | .fanBoost => setBoosts (dropRule r s.scanner.boosts) s
  | .shed _ => thermalWithdraw r s
  | .cardOff =>
    match parkSlot rule.source with
    | some slot => parkWithdraw slot r s
    | none => s

/-- The alarm a rule raises (R143, R146). -/
def ruleRaise (r : RuleIx) (rule : RuleRec) : Raise :=
  { cause := .rule, subject := r.val, severity := rule.severity, detail := rule.source.val, silent := rule.silent }

/-- A rule's condition begins: the alarm, then the action (R143). -/
def beginCondition (r : RuleIx) (rule : RuleRec) (s : State) : State :=
  applyAction r rule (raiseAlarm (ruleRaise r rule) s)

/-- A rule's condition ends: the alarm's end, then the withdrawal (R143). -/
def endCondition (r : RuleIx) (rule : RuleRec) (s : State) : State :=
  withdrawAction r rule (endAlarm .rule r.val s)

/-! ## Evaluation (R141, R142) -/

/-- A comparator matches a value, compared as the number it is (R136, R141). -/
def Comparator.test (c : Comparator) (v : Int) : Bool :=
  match c.type with
  | .equal => v == c.threshold.toInt
  | .below => v < c.threshold.toInt
  | .atOrAbove => c.threshold.toInt ≤ v

/-- A reading matches a rule by its comparators and their combine (R141). -/
def RuleRec.test (rule : RuleRec) (v : Int) : Bool :=
  match rule.combine with
  | .aOnly => rule.cmpA.test v
  | .aOrB => rule.cmpA.test v || rule.cmpB.test v
  | .aAndB => rule.cmpA.test v && rule.cmpB.test v

/-- How a presentation's reading stands to a rule (R141). -/
inductive Reading where
  | matched
  | unmatched
  | invalid
  deriving DecidableEq, Repr

/-- The reading of a source as presented (R141). -/
def readingOf (rule : RuleRec) (src : Source) : Reading :=
  if !src.valid then .invalid else if rule.test src.value then .matched else .unmatched

/-- The state a reading moves a rule to: the table of R142. -/
def nextState (rule : RuleRec) (x : Reading) : RuleState :=
  match x, rule.state with
  | .invalid, _ => .idle
  | .matched, .idle => if rule.holdOff ≤ 1 then .active else .counting 1
  | .matched, .counting k => if rule.holdOff ≤ k + 1 then .active else .counting (k + 1)
  | .matched, .active => .active
  | .matched, .releasing _ => .active
  | .unmatched, .idle => .idle
  | .unmatched, .counting _ => .idle
  | .unmatched, .active => if rule.release ≤ 1 then .idle else .releasing 1
  | .unmatched, .releasing k => if rule.release ≤ k + 1 then .idle else .releasing (k + 1)

/-- The rule after a reading: its state, and sticky matched set by a match (R141, R142). -/
def RuleRec.after (rule : RuleRec) (x : Reading) : RuleRec :=
  { rule with state := nextState rule x, sticky := rule.sticky || x == .matched }

/-- The claims of a rule whose state moved: a condition begins on entry to Active from Idle or Counting and ends on the
way to Idle (R142, R143). -/
def ruleClaims (r : RuleIx) (before after : RuleRec) (s : State) : State :=
  match before.state.holds, after.state.holds with
  | false, true => beginCondition r after s
  | true, false => endCondition r after s
  | true, true => s
  | false, false => s

/-- One rule at a presentation: evaluated if enabled (R141). -/
def evaluateRule (r : RuleIx) (s : State) : State :=
  let rule := s.rule r
  if rule.enabled then
    let after := rule.after (readingOf rule (s.source rule.source))
    ruleClaims r rule after (s.modRule r fun _ => after)
  else s

/-- The enabled rules, in ascending rule number (R141). -/
def evaluateRules (s : State) : State := forEach allRules evaluateRule s

/-! ## Rule commands (R139, R140) -/

/-- The operands of a Rule Write from its source on (R139). -/
structure RuleFields where
  source : Byte
  typeA : Byte
  thresholdA : Half
  typeB : Byte
  thresholdB : Half
  combine : Byte
  holdOff : Byte
  release : Byte
  severity : Byte
  action : Byte
  n : Byte
  silent : Byte
  deriving DecidableEq, Repr

/-- Steps 2 to 4 of R139: the rule the fields write, its enabled flag kept; none where a check fails (each is
INVALID_FIELD). -/
def writtenRule (x : RuleFields) (enabled : Bool) : Option RuleRec :=
  match index? 50 x.source.toNat, cmpTypeOf x.typeA, cmpTypeOf x.typeB, combineOf x.combine, severityOf x.severity,
      countOf x.holdOff, countOf x.release, actionOf x.action x.n x.source.toNat with
  | some source, some ta, some tb, some combine, some severity, some holdOff, some release, some action =>
    some { written := true, enabled := enabled, source := source,
           cmpA := { type := ta, threshold := x.thresholdA }, cmpB := { type := tb, threshold := x.thresholdB },
           combine := combine, holdOff := holdOff, release := release, severity := severity, action := action,
           silent := flagOf x.silent, sticky := false, state := .idle }
  | _, _, _, _, _, _, _, _ => none

/-- End a rule's condition if it holds (R139, R140). -/
def endIfHolds (r : RuleIx) (s : State) : State :=
  if (s.rule r).state.holds then endCondition r (s.rule r) s else s

/-- Rule Write (0x50) (R139). -/
def ruleWrite (rule : Byte) (x : RuleFields) (s : State) : State × Answer :=
  match index? 64 rule.toNat with
  | none => (s, answer .outOfRange)
  | some r =>
    match writtenRule x (s.rule r).enabled with
    | none => (s, answer .invalidField)
    | some written => ((endIfHolds r s).modRule r fun _ => written, answer .done)

/-- Rule Enable (0x51) (R140). -/
def ruleEnable (rule : Byte) (s : State) : State × Answer :=
  match index? 64 rule.toNat with
  | none => (s, answer .outOfRange)
  | some r =>
    if !(s.rule r).written then (s, answer .notFound)
    else if (s.rule r).enabled then (s, answer .noChange)
    else (s.modRule r fun x => { x with enabled := true }, answer .done)

/-- Rule Disable (0x52) (R140). -/
def ruleDisable (rule : Byte) (s : State) : State × Answer :=
  match index? 64 rule.toNat with
  | none => (s, answer .outOfRange)
  | some r =>
    if !(s.rule r).enabled then (s, answer .noChange)
    else ((endIfHolds r s).modRule r fun x => { x with enabled := false, state := .idle }, answer .done)

/-- RULE_WRITE (R139). -/
def execRuleWrite (f : Frame) (rule source typeA : Byte) (thresholdA : Half) (typeB : Byte) (thresholdB : Half)
    (combine holdOff release severity action n silent : Byte) (s : State) : Result :=
  .next (disarmingCommand f .master (settled (ruleWrite rule
    { source := source, typeA := typeA, thresholdA := thresholdA, typeB := typeB, thresholdB := thresholdB,
      combine := combine, holdOff := holdOff, release := release, severity := severity, action := action, n := n,
      silent := silent })) s)

/-- RULE_ENABLE (R140). -/
def execRuleEnable (f : Frame) (rule : Byte) (s : State) : Result :=
  .next (disarmingCommand f .master (ruleEnable rule) s)

/-- RULE_DISABLE (R140). -/
def execRuleDisable (f : Frame) (rule : Byte) (s : State) : Result :=
  .next (disarmingCommand f .master (settled (ruleDisable rule)) s)

end Sys2Proof.Machine
end

