-- ==== Sys2Proof/Machine/Scanner.lean ====
section
/-! DEFINITION. The Sensor Scanner (R131 to R137): unit presence, the scan round and its reads, unit states, the sources
and their presentation. -/

namespace Sys2Proof.Machine

/-! ## Units -/

/-- The PSU of a unit, and the tray of a unit. -/
def psuOf (u : UnitIx) : Option (Fin 6) := index? 6 u.val

/-- The subject of a unit's alarm: the PSU number, or the fan tray number (R146). -/
def unitSubject (u : UnitIx) : Nat := if isPsu u then u.val + 1 else u.val - 5

/-- Hand the Power Budget Unit a PSU's rating, or that it is no longer counted (R44). -/
def reportPsu (u : UnitIx) (rating : Option Nat) (s : State) : State :=
  match psuOf u with
  | some i => setCounted i rating s
  | none => s

/-! ## Presence (R133) -/

/-- A unit enters Starting (R133). -/
def UnitRec.start (r : UnitRec) : UnitRec :=
  { r with state := .starting, good := 0, bad := 0, wasPresent := true, presence := true }

/-- A unit enters Absent: counts 0, read succeeded clear, the readings kept (R133). -/
def UnitRec.depart (r : UnitRec) : UnitRec :=
  { r with state := .absent, good := 0, bad := 0, readOk := false, presence := false }

/-- A rise of a unit's presence line, taken only from Absent (R133, log 4). -/
def unitPresenceRise (u : UnitIx) (s : State) : State :=
  if (s.unit u).presence ∨ (s.unit u).state ≠ .absent then s
  else
    let t := s.modUnit u UnitRec.start
    if isPsu u then t else recomputeDuty (trayArrives t)

/-- A PSU has left for Absent: no longer counted if it was Online, its PsuFault ended if it was Faulted (R133, R135). -/
def psuDeparts (u : UnitIx) (before : UnitState) (s : State) : State :=
  match before with
  | .online => reportPsu u none s
  | .faulted => endAlarm .psuFault (unitSubject u) s
  | .starting => s
  | .absent => s

/-- FanFault is raised for a tray; its condition holds (R135). -/
def raiseFanFault (u : UnitIx) (detail : Nat) (s : State) : State :=
  raiseAlarm (plainRaise .fanFault (unitSubject u) .major detail) (s.modUnit u fun r => { r with fanFault := true })

/-- A tray has left for Absent: one tray fewer, and FanFault with detail Removed (R133, R135). -/
def trayDeparts (u : UnitIx) (s : State) : State := recomputeDuty (raiseFanFault u 2 (trayLeaves s))

/-- A unit is present: its state is not Absent. -/
def isPresent (s : State) (u : UnitIx) : Bool := (s.unit u).state != .absent

/-- The turn of a round from unit index n on: the first unit present, else the chassis inlet sensor (R132). -/
def turnFrom (s : State) (n : Nat) : Turn :=
  match (List.finRange 10).find? fun u => decide (n ≤ u.val) && isPresent s u with
  | some u => .unit u
  | none => .inlet

/-- The turn leaves a unit for the read that stands next (R132). -/
def passTurn (u : UnitIx) (s : State) : State := s.modScanner fun x => { x with turn := some (turnFrom s (u.val + 1)) }

/-- The round's turn stands at a unit that is present: the unit is being read (R132). -/
def isRead (s : State) (u : UnitIx) : Bool := s.scanner.turn == some (.unit u) && isPresent s u

/-- A unit leaves for Absent. A unit that goes while it is being read gives the turn to the read that stands
next: R133 gives no row for it, and this is the model's choice (log 12). -/
def departUnit (u : UnitIx) (s : State) : State :=
  let t := s.modUnit u UnitRec.depart
  if isRead s u then passTurn u t else t

/-- A fall of a unit's presence line, taken in Starting, Online or Faulted (R133, log 4). -/
def unitPresenceFall (u : UnitIx) (s : State) : State :=
  if !(s.unit u).presence ∨ (s.unit u).state = .absent then s
  else if isPsu u then psuDeparts u (s.unit u).state (departUnit u s)
  else trayDeparts u (departUnit u s)

/-- UNIT_PRESENCE_RISE (R133). -/
def execUnitPresenceRise (u : UnitIx) (s : State) : Result := .next (settleDeficit (unitPresenceRise u s))

/-- UNIT_PRESENCE_FALL (R133). -/
def execUnitPresenceFall (u : UnitIx) (s : State) : Result := .next (settleDeficit (unitPresenceFall u s))

/-! ## Unit reads (R132, R134) -/

/-- The three classes of a read (R132). -/
inductive ReadClass where
  | failed
  | good
  | weak
  deriving DecidableEq, Repr

/-- A PSU's class of a completed read (R132). -/
def psuClass (rating : Half) (outputGood : Bool) : ReadClass :=
  if rating.toNat < 500 ∨ 3000 < rating.toNat then .failed else if outputGood then .good else .weak

/-- The class of a read of a unit; a reading of the other kind counts as failed (R132, log 22). -/
def readClass (u : UnitIx) (floor : Nat) : UnitReading → ReadClass
  | .failed => .failed
  | .psu rating _ _ outputGood => if isPsu u then psuClass rating outputGood else .failed
  | .fan speed => if isPsu u then .failed else if floor ≤ speed.toNat then .good else .weak

/-- The readings of a successful read replace the unit's; a failed one keeps them (R132). -/
def UnitRec.record (x : UnitReading) (c : ReadClass) (r : UnitRec) : UnitRec :=
  match c with
  | .failed => { r with readOk := false }
  | .good | .weak =>
    match x with
    | .failed => r
    | .psu rating output inlet outputGood =>
      { r with readOk := true, rating := rating, output := output, inlet := inlet, outputGood := outputGood }
    | .fan speed => { r with readOk := true, speed := speed }

/-- One more read counted towards Faulted: at 3 the unit is Faulted with both counts 0 (R134). -/
def UnitRec.strike (r : UnitRec) : UnitRec :=
  if 3 ≤ r.bad + 1 then { r with state := .faulted, good := 0, bad := 0 } else { r with bad := r.bad + 1 }

/-- One more read counted towards leaving Faulted: at 3 the unit is Online with both counts 0 (R134). -/
def UnitRec.mend (r : UnitRec) : UnitRec :=
  if 3 ≤ r.good + 1 then { r with state := .online, good := 0, bad := 0 } else { r with good := r.good + 1 }

/-- A read moves the unit's state by its class: the table of R134. -/
def UnitRec.move (c : ReadClass) (r : UnitRec) : UnitRec :=
  match r.state, c with
  | .starting, .good => { r with state := .online, good := 0, bad := 0 }
  | .starting, .failed => r.strike
  | .starting, .weak => { r with bad := 0 }
  | .online, .good => { r with bad := 0 }
  | .online, .failed => r.strike
  | .online, .weak => r.strike
  | .faulted, .good => r.mend
  | .faulted, .failed => { r with good := 0 }
  | .faulted, .weak => { r with good := 0 }
  | .absent, _ => r

/-- The counted rating a good read of an Online PSU reports when it differs from the one counted (R44, R135). -/
def reportRating (u : UnitIx) (s : State) : State :=
  match psuOf u with
  | some i =>
    if s.power.counted[i] = some (s.unit u).rating.toNat then s else setCounted i (some (s.unit u).rating.toNat) s
  | none => s

/-- What a PSU's read hands on (R135, log 11). -/
def psuFollows (u : UnitIx) (before : UnitState) (c : ReadClass) (s : State) : State :=
  match before, (s.unit u).state with
  | .starting, .online => reportRating u s
  | .faulted, .online => reportRating u (endAlarm .psuFault (unitSubject u) s)
  | .online, .faulted => reportPsu u none (raiseAlarm (plainRaise .psuFault (unitSubject u) .major 1) s)
  | .starting, .faulted => raiseAlarm (plainRaise .psuFault (unitSubject u) .major 1) s
  | .online, .online => if c = .good then reportRating u s else s
  | _, _ => s

/-- FanFault ends if its condition held; the tray is Online (R135). -/
def endFanFault (u : UnitIx) (s : State) : State :=
  if (s.unit u).fanFault then
    endAlarm .fanFault (unitSubject u) (s.modUnit u fun r => { r with fanFault := false })
  else s

/-- What a fan tray's read hands on, and the fan duty (R135, R137). -/
def trayFollows (u : UnitIx) (before : UnitState) (s : State) : State :=
  if (s.unit u).state = before then s
  else match (s.unit u).state with
    | .faulted => recomputeDuty (raiseFanFault u 1 s)
    | .online => recomputeDuty (endFanFault u s)
    | .starting => recomputeDuty s
    | .absent => recomputeDuty s

/-- The end of the read of a unit at its turn: the turn passes on, and the read moves the unit. A unit that is Absent or
whose turn it is not is not being read, and nothing changes (R132 to R134, log 12). -/
def unitReadComplete (u : UnitIx) (x : UnitReading) (s : State) : State :=
  if isRead s u then
    let c := readClass u s.params.fanFloor x
    let t := (passTurn u s).modUnit u fun r => (r.record x c).move c
    if isPsu u then psuFollows u (s.unit u).state c t else trayFollows u (s.unit u).state t
  else s

/-- UNIT_READ_COMPLETE (R132, R134). -/
def execUnitReadComplete (u : UnitIx) (x : UnitReading) (s : State) : Result :=
  .next (settleDeficit (unitReadComplete u x s))

/-! ## Sources (R136) -/

/-- A source's value as it stands. -/
def sourceOf (value : Int) (valid : Bool) : Source := { value := value, valid := valid }

/-- A unit whose readings are valid: Starting or Online, its read succeeded (R136). -/
def UnitRec.shows (r : UnitRec) : Bool := (r.state == .starting || r.state == .online) && r.readOk

/-- The hours left of a pool: valid while it is Term and not Vacant (R79, R136). -/
def poolSource (r : PoolRec) : Source := sourceOf r.hours (r.state != .vacant && r.kind == .term)

/-- A card's temperature: valid while it is Admitting, Joined or Fenced and its flag is set (R41, R136). -/
def cardSource (c : CardRec) : Source := sourceOf c.temperature.toInt (c.state.powered && c.tempValid)

/-- The value and flag of each source as they stand: the table of R136. -/
def sourceNow (s : State) (i : SourceIx) : Source :=
  if h : i.val < 6 then
    let r := s.unit ⟨i.val, by omega⟩
    sourceOf r.output.toNat r.shows
  else if h : i.val < 12 then
    let r := s.unit ⟨i.val - 6, by omega⟩
    sourceOf r.inlet.toInt r.shows
  else if h : i.val < 16 then
    let r := s.unit ⟨i.val - 6, by omega⟩
    sourceOf r.speed.toNat r.shows
  else if h : i.val < 30 then cardSource (s.card ⟨i.val - 16, by omega⟩)
  else if i.val = 30 then sourceOf s.scanner.inlet.value.toInt s.scanner.inlet.readOk
  else if i.val = 31 then sourceOf s.scanner.outlet.value.toInt s.scanner.outlet.readOk
  else if i.val = 32 then sourceOf (headroomOf s.power) true
  else if i.val = 33 then sourceOf s.names.length true
  else if h : 34 ≤ i.val then poolSource (s.pool ⟨i.val - 34, by omega⟩)
  else s.source i

/-- A source as presented: an invalid one presents the value last presented, with the flag clear (R136, log 15). -/
def presentSource (s : State) (i : SourceIx) : Source :=
  let now := sourceNow s i
  if now.valid then now else { value := (s.source i).value, valid := false }

/-- Present all fifty sources, as they stand at this moment (R136). -/
def presentSources (s : State) : State :=
  s.modScanner fun x => { x with sources := Vector.ofFn (presentSource s) }

/-! ## The scan round (R132, R136, R137) -/

/-- A scan round begins: the turn is the first present unit's (R132). An expiry before the round has ended, which R132 rules out,
begins a new round (log 12). -/
def scanTimerExpiry (s : State) : State := s.modScanner fun x => { x with turn := some (turnFrom s 0) }

/-- SCAN_TIMER_EXPIRY (R132). -/
def execScanTimerExpiry (s : State) : Result := .next (scanTimerExpiry s)

/-- A chassis sensor's reading after a read: a failed one keeps the old value (R132). -/
def ChassisReading.record (r : ChassisReading) : Option Half → ChassisReading
  | some v => { value := v, readOk := true }
  | none => { r with readOk := false }

/-- The round ends: the duty takes its value, the sources are presented and the rules evaluated (R132, R136, R137,
R141). -/
def endRound (s : State) : State :=
  evaluateRules (presentSources (recomputeDuty (s.modScanner fun x => { x with firstRound := true, turn := none })))

/-- The turn at which a chassis sensor is read (R132). -/
def sensorTurn : ChassisSensor → Turn
  | .inlet => .inlet
  | .outlet => .outlet

/-- What the read of a chassis sensor does at its end; the outlet's ends the round (R132). -/
def recordSensor (sensor : ChassisSensor) (value : Option Half) (s : State) : State :=
  match sensor with
  | .inlet => s.modScanner fun x => { x with inlet := x.inlet.record value, turn := some .outlet }
  | .outlet => endRound (s.modScanner fun x => { x with outlet := x.outlet.record value })

/-- The end of a chassis sensor read at the sensor's turn; at any other turn the sensor is not being read, and nothing
changes (R132, log 12). -/
def chassisSensorReadComplete (sensor : ChassisSensor) (value : Option Half) (s : State) : State :=
  if s.scanner.turn = some (sensorTurn sensor) then recordSensor sensor value s else s

/-- CHASSIS_SENSOR_READ_COMPLETE (R132). -/
def execChassisSensorReadComplete (sensor : ChassisSensor) (value : Option Half) (s : State) : Result :=
  .next (settleDeficit (chassisSensorReadComplete sensor value s))

end Sys2Proof.Machine
end

