-- ==== Sys2Proof/Machine/Supervisor.lean ====
section
/-! DEFINITION. The commands of the Command Ports block (R159 to R162, R165 to R167): identity and status, attention,
mastership, cursors, parameters, Confirm and Port Restart, and the supervisor presence lines. -/

namespace Sys2Proof.Machine

/-! ## Identify and Read Status (R166, R171) -/

/-- The 20 bytes of Identify (R166, R171). -/
def identifyFields : List Byte :=
  num2 0x0E17 ++ num2 0x2816 ++ num1 1 ++ num2 672 ++ num1 14 ++ num1 10 ++ num1 50 ++ num1 16 ++ num2 512 ++
    num2 4096 ++ num2 2048 ++ num1 64 ++ num1 128 ++ num1 8

/-- IDENTIFY (R166). -/
def execIdentify (f : Frame) (s : State) : Result :=
  .next (keepingCommand f .any (fun s => (s, doneWith identifyFields)) s)

/-- The mastership byte (R171). -/
def mastershipCode : Option PortId → Nat
  | none => 0
  | some .a => 1
  | some .b => 2

/-- The setup code of an armed operation (R171). -/
def Armed.code : Armed → Nat
  | .none => 0
  | .commit => 0x39
  | .poolRevoke _ => 0x22
  | .slotReset _ => 0x18

/-- The parameter of an armed operation: 0 for none or Commit, the pool id, or the slot (R160, R171). -/
def Armed.parameter : Armed → Nat
  | .none => 0
  | .commit => 0
  | .poolRevoke i => i.val + 1
  | .slotReset slot => slot.val + 1

/-- The engine state byte (R171). -/
def EngineState.code : EngineState → Nat
  | .idle => 0
  | .fencing => 1
  | .releasing => 2

/-- The direction byte (R171). -/
def Direction.code : Direction → Nat
  | .forward => 0
  | .abort => 1

/-- The outcome byte (R171). -/
def CommitOutcome.code : CommitOutcome → Nat
  | .inFlight => 0
  | .passed => 1
  | .passedDegraded => 2
  | .aborted => 3
  | .withdrawn => 4

/-- The power mode byte (R48, R171). -/
def PowerMode.code : PowerMode → Nat
  | .none => 0
  | .nPlus1 => 1
  | .feed => 2

/-- A commit number that may be absent: its presence and its value, 0 if none (R171). -/
def commitNumberFields : Option Half → List Byte
  | none => [0#8] ++ num2 0
  | some k => [1#8] ++ split2 k

/-- A commit result record: nine bytes, zero when empty (R171). -/
def resultFields : Option ResultRec → List Byte
  | none => List.replicate 9 0
  | some r => [1#8] ++ split2 r.number ++ num1 r.outcome.code ++ num1 r.fenced ++ split4 r.generation

/-- The 53 bytes of Read Status (R115, R166, R171). -/
def statusFields (port : PortId) (s : State) : List Byte :=
  num1 (mastershipCode s.cmd.mastership) ++ flagByte (isMaster s port) ++ flagByte s.cmd.a.supervisor ++
    flagByte s.cmd.b.supervisor ++ num1 (s.cmdPort port).armed.code ++ num1 (s.cmdPort port).armed.parameter ++
    num1 s.commit.engine.code ++ num1 s.commit.direction.code ++ commitNumberFields s.commit.active ++
    commitNumberFields s.commit.queued ++ num1 s.zones.workingState.code ++ flagByte s.zones.modified ++
    resultFields s.commit.current ++ resultFields s.commit.previous ++ split4 s.zones.generation ++
    num1 s.power.mode.code ++ num2 (availableOf s.power) ++ split2 (BitVec.ofInt 16 (headroomOf s.power)) ++
    num1 s.params.probeRetry ++ num1 s.params.commitRetry ++ num1 s.params.grace ++ num1 s.params.fanNormal ++
    num2 s.params.fanFloor ++ split4 s.uptime

/-- READ_STATUS (R166). -/
def execReadStatus (f : Frame) (s : State) : Result :=
  .next (keepingCommand f .any (fun s => (s, doneWith (statusFields f.port s))) s)

/-! ## Attention (R161) -/

/-- Read Attention (0x03): the port's set is returned and emptied; its line follows (R161). -/
def readAttention (port : PortId) (s : State) : State × Answer :=
  (s.modAttn port fun p => PortAttention.drive { p with set := ReasonSet.empty },
   doneWith [reasonByte (s.attention port).set])

/-- READ_ATTENTION (R161). -/
def execReadAttention (f : Frame) (s : State) : Result := .next (keepingCommand f .any (readAttention f.port) s)

/-- Set Alert Mask (0x04): the mask is recorded and the line follows (R161). -/
def setAlertMask (port : PortId) (mask : Byte) (s : State) : State × Answer :=
  match reasonsOf mask with
  | none => (s, answer .invalidField)
  | some m => (s.modAttn port fun p => PortAttention.drive { p with mask := m }, answer .done)

/-- SET_ALERT_MASK (R161). -/
def execSetAlertMask (f : Frame) (mask : Byte) (s : State) : Result :=
  .next (disarmingCommand f .any (setAlertMask f.port mask) s)

/-! ## Mastership (R159) -/

/-- Master Claim (0x05): the table of R159. -/
def masterClaim (port : PortId) (s : State) : State × Answer :=
  if !(s.cmdPort port).supervisor then (s, answer .privilege)
  else match s.cmd.mastership with
    | none => (changeMastership (some port) s, answer .done)
    | some holder =>
      if holder = port then (s, answer .noChange)
      else if (s.cmdPort holder).supervisor then (s, answer .held)
      else (changeMastership (some port) s, answer .done)

/-- MASTER_CLAIM (R159). -/
def execMasterClaim (f : Frame) (s : State) : Result := .next (disarmingCommand f .any (masterClaim f.port) s)

/-- MASTER_RELEASE (R159). -/
def execMasterRelease (f : Frame) (s : State) : Result :=
  .next (disarmingCommand f .master (fun s => (changeMastership none s, answer .done)) s)

/-- A fall of a supervisor presence line takes the mastership from its port (R159); a line that is low already does not
fall (log 4). -/
def supervisorFall (port : PortId) (s : State) : State :=
  if (s.cmdPort port).supervisor then
    let t := s.modCmd port fun p => { p with supervisor := false }
    if isMaster s port then changeMastership none t else t
  else s

/-- SUPERVISOR_PRESENCE_FALL (R159). -/
def execSupervisorPresenceFall (port : PortId) (s : State) : Result := .next (supervisorFall port s)

/-- SUPERVISOR_PRESENCE_RISE: the line is high; nothing else changes (R159). -/
def execSupervisorPresenceRise (port : PortId) (s : State) : Result :=
  .next (s.modCmd port fun p => { p with supervisor := true })

/-! ## Cursors and parameters (R162, R165) -/

/-- Set Cursor (0x08) (R162). -/
def setCursor (port : PortId) (cursor : Byte) (value : Half) (s : State) : State × Answer :=
  if 7 < cursor.toNat then (s, answer .invalidField)
  else if cursor = 0 then (s, answer .invalidForm)
  else (s.modCmd port (writeCursor cursor.toNat value), answer .done)

/-- SET_CURSOR (R162). -/
def execSetCursor (f : Frame) (cursor : Byte) (value : Half) (s : State) : Result :=
  .next (disarmingCommand f .any (setCursor f.port cursor value) s)

/-- The parameters with one of them set; none where the number or the value is out of range (R165). -/
def paramsWith (number value : Nat) (x : Params) : Option Params :=
  match number with
  | 1 => if value ≤ 7 then some { x with probeRetry := value } else none
  | 2 => if value ≤ 7 then some { x with commitRetry := value } else none
  | 3 => if value ≤ 168 then some { x with grace := value } else none
  | 4 => if 30 ≤ value ∧ value ≤ 100 then some { x with fanNormal := value } else none
  | 5 => if value ≤ 20000 then some { x with fanFloor := value } else none
  | _ => none

/-- Set Parameter (0x0A); the fan duty is recomputed, so a new normal duty is driven at once (R137, R165). -/
def setParameter (number : Byte) (value : Half) (s : State) : State × Answer :=
  match paramsWith number.toNat value.toNat s.params with
  | none => (s, answer .invalidField)
  | some x => if x = s.params then (s, answer .noChange) else (recomputeDuty (s.setParams x), answer .done)

/-- SET_PARAMETER (R165). -/
def execSetParameter (f : Frame) (number : Byte) (value : Half) (s : State) : Result :=
  .next (disarmingCommand f .master (setParameter number value) s)

/-! ## Confirm (R160) -/

/-- A Confirm matches an armed operation when its operation code and its parameter are the armed ones (R160). -/
def confirmMatches (armed : Armed) (operation parameter : Byte) : Bool :=
  armed != .none && operation.toNat == armed.code && parameter.toNat == armed.parameter

/-- Carry out a confirmed operation, the port being disarmed (R37, R78, R101). -/
def carryOut (armed : Armed) (s : State) : State × Answer :=
  match armed with
  | .none => (s, answer .notArmed)
  | .commit => confirmedCommit s
  | .poolRevoke i => confirmedPoolRevoke i s
  | .slotReset slot => confirmedSlotReset slot s

/-- Confirm (0x0B) on the master port: the table of R160. -/
def confirm (port : PortId) (operation parameter : Byte) (s : State) : State × Answer :=
  let armed := (s.cmdPort port).armed
  if confirmMatches armed operation parameter then carryOut armed (disarm port s)
  else (disarm port s, answer .notArmed)

/-- CONFIRM_COMMIT: a Confirm with the operation code of Commit, or with a code that no protected operation has
(R101, R160, log 19). -/
def execConfirmCommit (f : Frame) (operation parameter : Byte) (s : State) : Result :=
  .next (keepingCommand f .master (settled (confirm f.port operation parameter)) s)

/-- CONFIRM_POOL_REVOKE (R78, R160). -/
def execConfirmPoolRevoke (f : Frame) (parameter : Byte) (s : State) : Result :=
  .next (keepingCommand f .master (settled (confirm f.port 0x22#8 parameter)) s)

/-- CONFIRM_SLOT_RESET (R37, R160). -/
def execConfirmSlotReset (f : Frame) (parameter : Byte) (s : State) : Result :=
  .next (keepingCommand f .master (settled (confirm f.port 0x18#8 parameter)) s)

/-! ## Port reset (R167) -/

/-- Steps 1 and 2 of a port reset (R167). -/
def resetPort (port : PortId) (s : State) : State :=
  let released := if isMaster s port then changeMastership none s else s
  (released.modCmd port fun p =>
    { p with armed := .none, cursors := Vector.replicate 7 0, tally := 0, busyTag := 0 }).modAttn port fun _ =>
      PortAttention.cold

/-- PORT_RESTART: after the reset DONE is placed in the slot and the port becomes Working (R167). -/
def execPortRestart (f : Frame) (s : State) : Result :=
  .next (disarmingCommand f .any (fun s => (resetPort f.port s, answer .done)) s)

/-- The PRSTN line: its fall resets the port, empties the slot and holds the port Ready; its rise ends the hold
(R167, log 5). A line that is there already does not move (log 4). -/
def portResetLine (port : PortId) (level : Level) (s : State) : State :=
  match level with
  | .low =>
    if (s.cmdPort port).prstLow then s
    else (resetPort port s).modCmd port fun p => { p with response := none, working := false, prstLow := true }
  | .high => s.modCmd port fun p => { p with prstLow := false }

/-- PORT_RESET (R167). -/
def execPortReset (port : PortId) (level : Level) (s : State) : Result := .next (portResetLine port level s)

end Sys2Proof.Machine
end

