-- ==== Sys2Proof/Machine/Records.lean ====
section
/-! DEFINITION. The records that Fetch returns (R163, R164, table 11-6): each table's range, its vacant records, its link
field and its bytes; and Fetch itself. -/

namespace Sys2Proof.Machine

/-! ## Codes of the record fields (R168: coded from 0 in the order of the field's table) -/

/-- Intent (R1). -/
def Intent.code : Intent → Nat
  | .disabled => 0
  | .enabled => 1

/-- The licence's kind, pool and grace hours (R20, table 11-6). The table gives 0 for the pool of no licence; that the grace
hours byte is 0 without a grace is this model's choice (log 31). -/
def licenseFields : License → List Byte
  | .unlicensed => [0#8, 0#8, 0#8]
  | .bound i => [1#8] ++ num1 (poolId i) ++ [0#8]
  | .grace i hours => [2#8] ++ num1 (poolId i) ++ num1 hours

/-- Power (R1). -/
def PortPower.code : PortPower → Nat
  | .off => 0
  | .waiting => 1
  | .admitted => 2

/-- Link (R1). -/
def LinkState.code : LinkState → Nat
  | .dark => 0
  | .lit => 1

/-- The reported state, in the order of R4. -/
def Reported.code : Reported → Nat
  | .absent => 0
  | .disabled => 1
  | .unlicensed => 2
  | .unpowered => 3
  | .isolated => 4
  | .ready => 5
  | .live => 6

/-- A card's state, in the order of R22. -/
def CardState.code : CardState → Nat
  | .empty => 0
  | .probing => 1
  | .waiting => 2
  | .admitting => 3
  | .joined => 4
  | .fenced => 5
  | .parked => 6
  | .failed => 7

/-- A unit's state (R131). -/
def UnitState.code : UnitState → Nat
  | .absent => 0
  | .starting => 1
  | .online => 2
  | .faulted => 3

/-- A pool's state (R62). -/
def PoolState.code : PoolState → Nat
  | .vacant => 0
  | .active => 1
  | .expiring => 2
  | .expired => 3

/-- A pool's kind (R64). -/
def PoolKind.code : PoolKind → Nat
  | .perpetual => 0
  | .term => 1

/-- A zone's kind (R88). -/
def ZoneKind.code : ZoneKind → Nat
  | .plain => 0
  | .peer => 1

/-- A member's role (table 11-6). -/
def Role.code : Role → Nat
  | .none => 0
  | .principal => 1
  | .peer => 2

/-- A comparator type (R139). -/
def CmpType.code : CmpType → Nat
  | .equal => 0
  | .below => 1
  | .atOrAbove => 2

/-- A combine (R139). -/
def Combine.code : Combine → Nat
  | .aOnly => 0
  | .aOrB => 1
  | .aAndB => 2

/-- A severity (R146). -/
def Severity.code : Severity → Nat
  | .minor => 0
  | .major => 1
  | .critical => 2

/-- An action and its n, recorded as 0 for an action other than Shed (R139). -/
def actionFields : RuleAction → List Byte
  | .none => [0#8, 0#8]
  | .fanBoost => [1#8, 0#8]
  | .shed n => [2#8] ++ num1 n.val
  | .cardOff => [3#8, 0#8]

/-- A rule's state with its count k (R144, table 11-6). Idle and Active have no count; that byte k is 0 there is this model's
choice (log 31). -/
def ruleStateFields : RuleState → List Byte
  | .idle => [0#8, 0#8]
  | .counting k => [1#8] ++ num1 k
  | .active => [2#8, 0#8]
  | .releasing k => [3#8] ++ num1 k

/-- A cause (R146). -/
def Cause.code : Cause → Nat
  | .rule => 1
  | .psuFault => 2
  | .fanFault => 3
  | .cardFault => 4
  | .poolTerm => 5
  | .budgetDeficit => 6
  | .nameMapFull => 7
  | .commitDegraded => 8

/-- An alarm entry's state (table 11-6). -/
def AlarmState.code : AlarmState → Nat
  | .raised => 0
  | .acknowledged => 1
  | .clearedUnacked => 2

/-! ## Records (tables 11-6, R171) -/

/-- A port record: 15 bytes (R20). -/
def portRecord (s : State) (n : PortIx) : List Byte :=
  let r := s.port n
  num2 n.val ++ num1 ((slotOf n).val + 1) ++ num1 (posOf n) ++ num1 r.intent.code ++ num1 r.priority.val ++
    licenseFields r.license ++ num1 r.power.code ++ flagByte r.hold ++ num1 r.link.code ++ num1 r.logins ++
    flagByte (serviceable s n) ++ num1 (reported s n).code

/-- The identity's fields: 0 while absent (R42). -/
def identityFields : Option Identity → List Byte
  | none => [0#8] ++ List.replicate 6 0
  | some i => [1#8] ++ split2 i.cardType ++ num1 i.portCount ++ num1 i.tier ++ num2 i.baseDraw

/-- A card record: 19 bytes (R42). -/
def cardRecord (slot : Slot) (c : CardRec) : List Byte :=
  num1 (slotNumber slot) ++ num1 c.state.code ++ identityFields c.identity ++ num1 c.failure.code ++ num1 c.attempts ++
    num2 c.retryTimeout ++ flagByte c.presence ++ flagByte c.powerEnable ++ split2 c.temperature ++
    flagByte c.tempValid ++ num1 c.parkClaims.length

/-- A unit record: 16 bytes; the fan duty in force for a fan tray, 0 for a PSU (R136, 11.4, log 14). -/
def unitRecord (u : UnitIx) (duty : Nat) (r : UnitRec) : List Byte :=
  num1 (u.val + 1) ++ num1 r.state.code ++ num1 r.good ++ num1 r.bad ++ flagByte r.readOk ++ flagByte r.wasPresent ++
    split2 r.rating ++ split2 r.output ++ split2 r.inlet ++ flagByte r.outputGood ++ split2 r.speed ++
    num1 (if isPsu u then 0 else duty)

/-- A source record: 6 bytes (R136). -/
def sourceRecord (i : SourceIx) (x : Source) : List Byte :=
  num1 i.val ++ split4 (BitVec.ofInt 32 x.value) ++ flagByte x.valid

/-- A pool record: 12 bytes (R79). -/
def poolRecord (i : PoolIx) (r : PoolRec) : List Byte :=
  num1 (poolId i) ++ num1 r.state.code ++ num1 r.tier ++ num1 r.kind.code ++ num2 r.capacity ++ num2 r.bound ++
    num2 r.hours ++ num2 r.warn

/-- A member entry: 10 bytes (table 11-6). -/
def memberFields (m : Member) : List Byte := designatorBytes m.designator ++ num1 m.role.code

/-- A zone record; an id the image does not hold gives its index and zeros (R97, 11.4). -/
def zoneRecord (id : Nat) : Option Zone → List Byte
  | some z => num2 id ++ nameField z.name ++ num1 z.kind.code ++ num1 z.members.length ++ z.members.flatMap memberFields
  | none => num2 id ++ List.replicate 34 0

/-- A Name Map record: 17 bytes (R130). -/
def nameRecord (pos : Nat) : Option NameEntry → List Byte
  | some e => num2 pos ++ [0#8] ++ nameFields e
  | none => num2 pos ++ [1#8] ++ List.replicate 14 0

/-- A rule record: 20 bytes (R144). -/
def ruleRecord (r : RuleIx) (x : RuleRec) : List Byte :=
  num1 r.val ++ flagByte x.written ++ flagByte x.enabled ++ num1 x.source.val ++ num1 x.cmpA.type.code ++
    split2 x.cmpA.threshold ++ num1 x.cmpB.type.code ++ split2 x.cmpB.threshold ++ num1 x.combine.code ++
    num1 x.holdOff ++ num1 x.release ++ num1 x.severity.code ++ actionFields x.action ++ flagByte x.silent ++
    ruleStateFields x.state ++ flagByte x.sticky

/-- An alarm record: 17 bytes (R154). -/
def alarmRecord (pos : Nat) : Option AlarmEntry → List Byte
  | some e =>
    num1 pos ++ [0#8] ++ num1 e.cause.code ++ num1 e.subject ++ num1 e.severity.code ++ num1 e.state.code ++
      num1 e.count ++ split4 e.first ++ split4 e.last ++ flagByte e.silent ++ num1 e.detail
  | none => num1 pos ++ [1#8] ++ List.replicate 15 0

/-! ## Tables (R163) -/

/-- The ten tables that Fetch reads (R163). -/
inductive Table where
  | ports
  | cards
  | units
  | sources
  | pools
  | liveZones
  | workingZones
  | names
  | rules
  | alarms
  deriving DecidableEq, Repr

/-- The table of a code (R163). -/
def tableOf (code : Byte) : Option Table :=
  match code.toNat with
  | 1 => some .ports
  | 2 => some .cards
  | 3 => some .units
  | 4 => some .sources
  | 5 => some .pools
  | 6 => some .liveZones
  | 7 => some .workingZones
  | 8 => some .names
  | 9 => some .rules
  | 10 => some .alarms
  | _ => none

/-- The first index of a table's range (R163). -/
def Table.first : Table → Nat
  | .ports | .sources | .names | .rules | .alarms => 0
  | .cards | .units | .pools | .liveZones | .workingZones => 1

/-- The last index of a table's range (R163). -/
def Table.last : Table → Nat
  | .ports => 671
  | .cards => 14
  | .units => 10
  | .sources => 49
  | .pools => 16
  | .liveZones => 512
  | .workingZones => 512
  | .names => 2047
  | .rules => 63
  | .alarms => 127

/-- A selected record: its link field, its bytes, and whether it is occupied (R163, R164). -/
structure TableRow where
  link : Nat
  bytes : List Byte
  occupied : Bool
  deriving DecidableEq, Repr

/-- The row of an index that names no record; no index of a table's range does. -/
def noRow : TableRow := { link := 0, bytes := [], occupied := false }

/-- A port record is vacant when it is Absent, Disabled and Unlicensed (R20). -/
def portVacant (s : State) (n : PortIx) : Bool :=
  reported s n == .absent && (s.port n).intent == .disabled && (s.port n).license == .unlicensed

/-- A row of the Ports table (R20). -/
def portRow (s : State) (n : PortIx) : TableRow :=
  { link := (slotOf n).val + 1, bytes := portRecord s n, occupied := !portVacant s n }

/-- A row of the Cards table (R42). -/
def cardRow (s : State) (slot : Slot) : TableRow :=
  { link := (s.card slot).portCount, bytes := cardRecord slot (s.card slot), occupied := (s.card slot).state != .empty }

/-- A row of the Units table (R136). -/
def unitRow (s : State) (u : UnitIx) : TableRow :=
  { link := 0, bytes := unitRecord u s.scanner.fanPct (s.unit u), occupied := (s.unit u).state != .absent }

/-- A row of the Sources table: every record is occupied (R136). -/
def sourceRow (s : State) (i : SourceIx) : TableRow :=
  { link := 0, bytes := sourceRecord i (s.source i), occupied := true }

/-- A row of the Pools table (R79). -/
def poolRow (s : State) (i : PoolIx) : TableRow :=
  { link := (s.pool i).bound, bytes := poolRecord i (s.pool i), occupied := (s.pool i).state != .vacant }

/-- A row of a Zones table: vacant where the image holds no zone of the id (R97). -/
def zoneRow (im : Image) (id : Nat) : TableRow :=
  { link := ((im.zone? id).map fun z => z.members.length).getD 0, bytes := zoneRecord id (im.zone? id),
    occupied := (im.zone? id).isSome }

/-- A row of the Name Map (R130): the link is the port, or 65,535 if free. -/
def nameRow (s : State) (pos : Nat) : TableRow :=
  { link := ((tableGet s.names pos).map fun e => e.port.val).getD 65535, bytes := nameRecord pos (tableGet s.names pos),
    occupied := (tableGet s.names pos).isSome }

/-- A row of the Rules table: vacant while written is clear (R144). -/
def ruleRow (s : State) (r : RuleIx) : TableRow :=
  { link := (s.rule r).source.val, bytes := ruleRecord r (s.rule r), occupied := (s.rule r).written }

/-- A row of the Alarms table: the link is the subject, 0 if free (R154). -/
def alarmRow (s : State) (pos : Nat) : TableRow :=
  { link := ((tableGet s.alarms pos).map AlarmEntry.subject).getD 0, bytes := alarmRecord pos (tableGet s.alarms pos),
    occupied := (tableGet s.alarms pos).isSome }

/-- The row at an index of a table. -/
def tableRow (s : State) (t : Table) (i : Nat) : TableRow :=
  match t with
  | .ports => ((index? 672 i).map (portRow s)).getD noRow
  | .cards => ((index1? 14 i).map (cardRow s)).getD noRow
  | .units => ((index1? 10 i).map (unitRow s)).getD noRow
  | .sources => ((index? 50 i).map (sourceRow s)).getD noRow
  | .pools => ((index1? 16 i).map (poolRow s)).getD noRow
  | .liveZones => zoneRow s.zones.live i
  | .workingZones => zoneRow s.zones.working i
  | .names => nameRow s i
  | .rules => ((index? 64 i).map (ruleRow s)).getD noRow
  | .alarms => alarmRow s i

/-! ## Fetch (R163, R164) -/

/-- The operands of a Fetch (R163, table 11-3). -/
structure FetchFields where
  table : Byte
  base : Byte
  mode : Byte
  operand : Half
  flags : Byte
  load : Byte
  deriving DecidableEq, Repr

/-- Advance: bit 0 of the flags (R168). -/
def FetchFields.advance (x : FetchFields) : Bool := x.flags.getLsbD 0

/-- Skip-vacant: bit 1 of the flags (R168). -/
def FetchFields.skip (x : FetchFields) : Bool := x.flags.getLsbD 1

/-- The index cursor of the Indexed mode: the second byte of the operand (table 11-3). -/
def FetchFields.indexCursor (x : FetchFields) : Nat := (x.operand.extractLsb' 0 8).toNat

/-- Step 1 of R163: the table, where its code, the mode and the cursor numbers are in range. -/
def FetchFields.table? (x : FetchFields) : Option Table :=
  if 7 < x.base.toNat ∨ 7 < x.load.toNat ∨ 1 < x.mode.toNat ∨ (x.mode = 1 ∧ 7 < x.indexCursor) then none
  else tableOf x.table

/-- The index: cursor b plus d, or plus cursor x, modulo 65,536 (R163). -/
def FetchFields.index (x : FetchFields) (p : CmdPort) : Nat :=
  (readCursor p x.base.toNat + (if x.mode = 0 then x.operand else readCursor p x.indexCursor)).toNat

/-- The index of the record a Fetch selects: with skip-vacant the first occupied one at or after the index (R164). -/
def selectRow (s : State) (t : Table) (skip : Bool) (i : Nat) : Option Nat :=
  if skip then ((List.range (t.last + 1 - i)).map (· + i)).find? fun j => (tableRow s t j).occupied else some i

/-- The cursors after a record is selected: b takes its index, y its link field (R164). -/
def fetchCursors (x : FetchFields) (i link : Nat) (p : CmdPort) : CmdPort :=
  let p := if x.advance then writeCursor x.base.toNat (BitVec.ofNat 16 i) p else p
  if x.load = 0 then p else writeCursor x.load.toNat (BitVec.ofNat 16 link) p

/-- The side effect of being fetched: a fetched rule's sticky matched flag is cleared (R141, R164). -/
def fetchEffect (t : Table) (i : Nat) (s : State) : State :=
  match t, index? 64 i with
  | .rules, some r => s.modRule r fun x => { x with sticky := false }
  | _, _ => s

/-- A Fetch whose index lies in range (R164). -/
def fetchRow (port : PortId) (x : FetchFields) (t : Table) (i : Nat) (s : State) : State × Answer :=
  match selectRow s t x.skip i with
  | none => (s, answer .endOfTable)
  | some j =>
    let row := tableRow s t j
    ((fetchEffect t j s).modCmd port (fetchCursors x j row.link),
     doneWith ([x.table] ++ num2 j ++ num2 row.link ++ row.bytes))

/-- Fetch (0x09): the checks of R163 in order, the index, the record. -/
def fetch (port : PortId) (x : FetchFields) (s : State) : State × Answer :=
  match x.table? with
  | none => (s, answer .invalidField)
  | some t =>
    if x.advance && (x.base == 0 || x.load == x.base) then (s, answer .invalidForm)
    else
      let i := x.index (s.cmdPort port)
      if i < t.first ∨ t.last < i then (s, answer .outOfRange) else fetchRow port x t i s

/-- FETCH (R163). -/
def execFetch (f : Frame) (table base mode : Byte) (operand : Half) (flags load : Byte) (s : State) : Result :=
  .next (disarmingCommand f .any (fetch f.port
    { table := table, base := base, mode := mode, operand := operand, flags := flags, load := load }) s)

end Sys2Proof.Machine
end

