-- ==== Sys2Proof/Machine/Resets.lean ====
section
/-! DEFINITION. The cold reset (R2, R23, R43, R80, R98, R131, R155) and the uptime count (R166). -/

namespace Sys2Proof.Machine

/-- Take each slot whose presence line is high as a presence rise (R23). -/
def sampleSlots (lines : PresenceLines) (s : State) : State :=
  forEach allSlots (fun slot s => if lines.slots.getLsbD slot.val then presenceRise slot s else s) s

/-- Take each unit whose presence line is high as a presence rise (R131). -/
def sampleUnits (lines : PresenceLines) (s : State) : State :=
  forEach (List.finRange 10) (fun u s => if lines.units.getLsbD u.val then unitPresenceRise u s else s) s

/-- The levels of the lines of a command port after a cold reset: SUPP as sampled, PRSTN as it stands (R155, R167). -/
def coldPort (supervisor : Bool) (p : CmdPort) : CmdPort :=
  { CmdPort.cold with supervisor := supervisor, prstLow := p.prstLow }

/-- Every record at its cold value, the queue of waiting commands kept (log 1). -/
def coldValues (lines : PresenceLines) (s : State) : State :=
  { State.reset with
    cmd := { mastership := none, a := coldPort lines.supA s.cmd.a, b := coldPort lines.supB s.cmd.b }
    pending := s.pending }

/-- A cold reset: the cold values, then the presence lines sampled (R23, R131, log 3). -/
def coldReset (lines : PresenceLines) (s : State) : State := sampleUnits lines (sampleSlots lines (coldValues lines s))

/-- COLD_RESET. -/
def execColdReset (lines : PresenceLines) (s : State) : Result := .next (coldReset lines s)

/-- UPTIME_TICK: one second more, wrapping from 4,294,967,295 to 0 (R166). -/
def execUptimeTick (s : State) : Result := .next { s with uptime := s.uptime + 1 }

end Sys2Proof.Machine
end

