-- ==== Sys2Proof/Machine/Transactions.lean ====
section
/-! DEFINITION. Transactions and messages by their bytes (R39, R156, R157, R170): the rows that carry raw bytes, and the
read transaction. -/

namespace Sys2Proof.Machine

/-- What a write transaction does, decoded. The refusals of steps 1 to 5 of R157 and of R170: a frame that fails the check
or the length field is not taken as a command, one that fails a later step is. One of the three codes that keep an armed
operation keeps it whatever its payload's length (R160). -/
def runTransaction (i : Instr) (s : State) : Result :=
  match i with
  | .shortTransaction p bytes => .next (refusedFrame ⟨p, tagOf bytes⟩ false .badLength s)
  | .badCheck p bytes => .next (refusedFrame ⟨p, tagOf bytes⟩ false .badCheck s)
  | .badLength p bytes => .next (refusedFrame ⟨p, tagOf bytes⟩ (lengthAgrees bytes && !keepsArmed (byteAt bytes 0)) .badLength s)
  | .illegalCommand p bytes => .next (refusedFrame ⟨p, tagOf bytes⟩ true .illegalCommand s)
  | .reservedCommand p bytes => .next (refusedFrame ⟨p, tagOf bytes⟩ true .reservedCommand s)
  | .identify f => execIdentify f s
  | .readStatus f => execReadStatus f s
  | .readAttention f => execReadAttention f s
  | .setAlertMask f mask => execSetAlertMask f mask s
  | .masterClaim f => execMasterClaim f s
  | .masterRelease f => execMasterRelease f s
  | .portRestart f => execPortRestart f s
  | .setCursor f c v => execSetCursor f c v s
  | .fetch f t b m o fl y => execFetch f t b m o fl y s
  | .setParameter f n v => execSetParameter f n v s
  | .confirmCommit f op par => execConfirmCommit f op par s
  | .confirmPoolRevoke f par => execConfirmPoolRevoke f par s
  | .confirmSlotReset f par => execConfirmSlotReset f par s
  | .portEnable f p pool prio => execPortEnable f p pool prio s
  | .portDisable f p => execPortDisable f p s
  | .portReleaseLicense f p => execPortReleaseLicense f p s
  | .portSetPriority f p prio => execPortSetPriority f p prio s
  | .slotReset f sl => execSlotReset f sl s
  | .setPowerMode f m => execSetPowerMode f m s
  | .setChassisNumber f n => execSetChassisNumber f n s
  | .poolInstall f id tier kind cap hours warn check => execPoolInstall f id tier kind cap hours warn check s
  | .poolRevoke f id => execPoolRevoke f id s
  | .workingClone f => execWorkingClone f s
  | .workingClear f => execWorkingClear f s
  | .setSetName f name => execSetSetName f name s
  | .setDefaultAccess f acc => execSetDefaultAccess f acc s
  | .zoneCreate f z name kind => execZoneCreate f z name kind s
  | .zoneDelete f z => execZoneDelete f z s
  | .zoneRename f z name => execZoneRename f z name s
  | .memberAdd f z k v role => execMemberAdd f z k v role s
  | .memberRemove f z k v => execMemberRemove f z k v s
  | .commitSetup f => execCommitSetup f s
  | .commitAbort f => execCommitAbort f s
  | .commitWithdraw f => execCommitWithdraw f s
  | .zoneCheck f x y im => execZoneCheck f x y im s
  | .imageSummary f im => execImageSummary f im s
  | .namePin f nm p => execNamePin f nm p s
  | .nameUnpin f nm => execNameUnpin f nm s
  | .nameLookup f nm => execNameLookup f nm s
  | .ruleWrite f r src ta tha tb thb co ho re se ac n si => execRuleWrite f r src ta tha tb thb co ho re se ac n si s
  | .ruleEnable f r => execRuleEnable f r s
  | .ruleDisable f r => execRuleDisable f r s
  | .alarmAcknowledge f po ca su => execAlarmAcknowledge f po ca su s
  | .alarmAcknowledgeAll f => execAlarmAcknowledgeAll f s
  | _ => .next s

/-- A write transaction with these bytes on a port (R156, R157, R170, log 6). -/
def writeTransaction (port : PortId) (bytes : List Byte) (s : State) : Result :=
  runTransaction (decodeTransaction port bytes) s

/-- WRITE_TRANSACTION_BUSY: a write transaction; while the port is Working it is refused BUSY (R156). -/
def execWriteTransactionBusy (port : PortId) (bytes : List Byte) (s : State) : Result := writeTransaction port bytes s

/-- SHORT_TRANSACTION: fewer than six bytes, answered BAD_LENGTH and not taken as a command (R170). -/
def execShortTransaction (port : PortId) (bytes : List Byte) (s : State) : Result := writeTransaction port bytes s

/-- BAD_CHECK: the check carried differs, answered BAD_CHECK and not taken as a command (R157, step 1). -/
def execBadCheck (port : PortId) (bytes : List Byte) (s : State) : Result := writeTransaction port bytes s

/-- BAD_LENGTH: the length field or the payload's length is wrong (R157, steps 2 and 5). -/
def execBadLength (port : PortId) (bytes : List Byte) (s : State) : Result := writeTransaction port bytes s

/-- ILLEGAL_COMMAND: a code that no command is assigned (R157, step 3). -/
def execIllegalCommand (port : PortId) (bytes : List Byte) (s : State) : Result := writeTransaction port bytes s

/-- RESERVED_COMMAND: a code in 0x80–0xBF (R157, step 4). -/
def execReservedCommand (port : PortId) (bytes : List Byte) (s : State) : Result := writeTransaction port bytes s

/-- READ_TRANSACTION: the waiting response, and the BUSY response owed, leave on SDO (R156, R170). -/
def execReadTransaction (port : PortId) (s : State) : Result := .next (s.modCmd port afterRead)

/-- What a received message does, decoded; a message discarded at the link checks does nothing (R39). -/
def runMessage (i : Instr) (s : State) : Result :=
  match i with
  | .ident slot ct pc tier bd => execIdent slot ct pc tier bd s
  | .ready slot g => execReady slot g s
  | .link slot pos lit => execLink slot pos lit s
  | .login slot pos nm => execLogin slot pos nm s
  | .logout slot pos nm => execLogout slot pos nm s
  | .query slot tag pos x y => execQuery slot tag pos x y s
  | .holdAck slot g => execHoldAck slot g s
  | .resumeAck slot g => execResumeAck slot g s
  | .temperature slot v => execTemperature slot v s
  | _ => .next s

/-- LINK_CHECK_DISCARD: a message whose bytes fail the link checks is discarded with no effect (R39, log 6). -/
def execLinkCheckDiscard (slot : Slot) (bytes : List Byte) (s : State) : Result :=
  runMessage (decodeMessage slot bytes) s

end Sys2Proof.Machine
end

