-- ==== Sys2Proof/Machine/Dispatch.lean ====
section
/-! DEFINITION. The meaning of every command, one arm each. -/

namespace Sys2Proof.Machine

/-- The effect of a command on everything but the queue. -/
def exec (i : Instr) (s : State) : Host.Outcome State Fault Refusal :=
  match i with
  | .coldReset lines => Sys2Proof.Machine.execColdReset lines s
  | .portReset port level => Sys2Proof.Machine.execPortReset port level s
  | .supervisorPresenceFall port => Sys2Proof.Machine.execSupervisorPresenceFall port s
  | .supervisorPresenceRise port => Sys2Proof.Machine.execSupervisorPresenceRise port s
  | .presenceRise slot => Sys2Proof.Machine.execPresenceRise slot s
  | .removal slot => Sys2Proof.Machine.execRemoval slot s
  | .unitPresenceRise unit => Sys2Proof.Machine.execUnitPresenceRise unit s
  | .unitPresenceFall unit => Sys2Proof.Machine.execUnitPresenceFall unit s
  | .writeTransactionBusy port bytes => Sys2Proof.Machine.execWriteTransactionBusy port bytes s
  | .readTransaction port => Sys2Proof.Machine.execReadTransaction port s
  | .shortTransaction port bytes => Sys2Proof.Machine.execShortTransaction port bytes s
  | .badCheck port bytes => Sys2Proof.Machine.execBadCheck port bytes s
  | .badLength port bytes => Sys2Proof.Machine.execBadLength port bytes s
  | .illegalCommand port bytes => Sys2Proof.Machine.execIllegalCommand port bytes s
  | .reservedCommand port bytes => Sys2Proof.Machine.execReservedCommand port bytes s
  | .identify f => Sys2Proof.Machine.execIdentify f s
  | .readStatus f => Sys2Proof.Machine.execReadStatus f s
  | .readAttention f => Sys2Proof.Machine.execReadAttention f s
  | .setAlertMask f mask => Sys2Proof.Machine.execSetAlertMask f mask s
  | .masterClaim f => Sys2Proof.Machine.execMasterClaim f s
  | .masterRelease f => Sys2Proof.Machine.execMasterRelease f s
  | .portRestart f => Sys2Proof.Machine.execPortRestart f s
  | .setCursor f cursor value => Sys2Proof.Machine.execSetCursor f cursor value s
  | .fetch f table base mode operand flags load => Sys2Proof.Machine.execFetch f table base mode operand flags load s
  | .setParameter f number value => Sys2Proof.Machine.execSetParameter f number value s
  | .confirmCommit f operation parameter => Sys2Proof.Machine.execConfirmCommit f operation parameter s
  | .confirmPoolRevoke f parameter => Sys2Proof.Machine.execConfirmPoolRevoke f parameter s
  | .confirmSlotReset f parameter => Sys2Proof.Machine.execConfirmSlotReset f parameter s
  | .portEnable f port pool priority => Sys2Proof.Machine.execPortEnable f port pool priority s
  | .portDisable f port => Sys2Proof.Machine.execPortDisable f port s
  | .portReleaseLicense f port => Sys2Proof.Machine.execPortReleaseLicense f port s
  | .portSetPriority f port priority => Sys2Proof.Machine.execPortSetPriority f port priority s
  | .slotReset f slot => Sys2Proof.Machine.execSlotReset f slot s
  | .setPowerMode f mode => Sys2Proof.Machine.execSetPowerMode f mode s
  | .setChassisNumber f number => Sys2Proof.Machine.execSetChassisNumber f number s
  | .poolInstall f pool tier kind capacity hours warn check => Sys2Proof.Machine.execPoolInstall f pool tier kind capacity hours warn check s
  | .poolRevoke f pool => Sys2Proof.Machine.execPoolRevoke f pool s
  | .workingClone f => Sys2Proof.Machine.execWorkingClone f s
  | .workingClear f => Sys2Proof.Machine.execWorkingClear f s
  | .setSetName f name => Sys2Proof.Machine.execSetSetName f name s
  | .setDefaultAccess f access => Sys2Proof.Machine.execSetDefaultAccess f access s
  | .zoneCreate f zone name kind => Sys2Proof.Machine.execZoneCreate f zone name kind s
  | .zoneDelete f zone => Sys2Proof.Machine.execZoneDelete f zone s
  | .zoneRename f zone name => Sys2Proof.Machine.execZoneRename f zone name s
  | .memberAdd f zone kind value role => Sys2Proof.Machine.execMemberAdd f zone kind value role s
  | .memberRemove f zone kind value => Sys2Proof.Machine.execMemberRemove f zone kind value s
  | .commitSetup f => Sys2Proof.Machine.execCommitSetup f s
  | .commitAbort f => Sys2Proof.Machine.execCommitAbort f s
  | .commitWithdraw f => Sys2Proof.Machine.execCommitWithdraw f s
  | .zoneCheck f x y image => Sys2Proof.Machine.execZoneCheck f x y image s
  | .imageSummary f image => Sys2Proof.Machine.execImageSummary f image s
  | .namePin f name port => Sys2Proof.Machine.execNamePin f name port s
  | .nameUnpin f name => Sys2Proof.Machine.execNameUnpin f name s
  | .nameLookup f name => Sys2Proof.Machine.execNameLookup f name s
  | .ruleWrite f rule source typeA thresholdA typeB thresholdB combine holdOff release severity action n silent => Sys2Proof.Machine.execRuleWrite f rule source typeA thresholdA typeB thresholdB combine holdOff release severity action n silent s
  | .ruleEnable f rule => Sys2Proof.Machine.execRuleEnable f rule s
  | .ruleDisable f rule => Sys2Proof.Machine.execRuleDisable f rule s
  | .alarmAcknowledge f position cause subject => Sys2Proof.Machine.execAlarmAcknowledge f position cause subject s
  | .alarmAcknowledgeAll f => Sys2Proof.Machine.execAlarmAcknowledgeAll f s
  | .linkCheckDiscard slot bytes => Sys2Proof.Machine.execLinkCheckDiscard slot bytes s
  | .ident slot cardType portCount tier baseDraw => Sys2Proof.Machine.execIdent slot cardType portCount tier baseDraw s
  | .ready slot generation => Sys2Proof.Machine.execReady slot generation s
  | .link slot position lit => Sys2Proof.Machine.execLink slot position lit s
  | .login slot position name => Sys2Proof.Machine.execLogin slot position name s
  | .logout slot position name => Sys2Proof.Machine.execLogout slot position name s
  | .query slot tag position source destination => Sys2Proof.Machine.execQuery slot tag position source destination s
  | .holdAck slot generation => Sys2Proof.Machine.execHoldAck slot generation s
  | .resumeAck slot generation => Sys2Proof.Machine.execResumeAck slot generation s
  | .temperature slot value => Sys2Proof.Machine.execTemperature slot value s
  | .messageLeave slot => Sys2Proof.Machine.execMessageLeave slot s
  | .probeTimeout slot => Sys2Proof.Machine.execProbeTimeout slot s
  | .admittingTimeout slot => Sys2Proof.Machine.execAdmittingTimeout slot s
  | .hourTimerExpiry => Sys2Proof.Machine.execHourTimerExpiry s
  | .holdTimeout slot => Sys2Proof.Machine.execHoldTimeout slot s
  | .resumeTimeout slot => Sys2Proof.Machine.execResumeTimeout slot s
  | .scanTimerExpiry => Sys2Proof.Machine.execScanTimerExpiry s
  | .unitReadComplete unit reading => Sys2Proof.Machine.execUnitReadComplete unit reading s
  | .chassisSensorReadComplete sensor value => Sys2Proof.Machine.execChassisSensorReadComplete sensor value s
  | .uptimeTick => Sys2Proof.Machine.execUptimeTick s

end Sys2Proof.Machine
end

