-- ==== Sys2Proof/WellFormed.lean ====
section
/-! DEFINITION. Well-formed commands: a term that spells the row it names. Every field of a command frame or a message
is raw, so out-of-range field values are well formed (the rules answer them); what is checked is that a name field has
its 32 bytes, that a row given by raw bytes is what those bytes are, and that a reading is of its unit's kind. -/

namespace Sys2Proof

/-- A name field has its 32 bytes (R168). -/
def nameFieldWf (name : List Byte) : Bool := name.length == 32

/-- The row is what its bytes are (R157, R170). -/
def transactionWf (port : PortId) (bytes : List Byte) (i : Instr) : Bool := decodeTransaction port bytes == i

/-- A PSU's read returns a PSU's readings and a fan tray's a fan tray's (R131, R132). -/
def readingWf (unit : UnitIx) : UnitReading → Bool
  | .failed => true
  | .psu _ _ _ _ => unit.val < 6
  | .fan _ => 6 ≤ unit.val

/-- The command spells the row it names. -/
def Instr.wf (i : Instr) : Bool :=
  match i with
  | .shortTransaction p bytes => transactionWf p bytes i
  | .badCheck p bytes => transactionWf p bytes i
  | .badLength p bytes => transactionWf p bytes i
  | .illegalCommand p bytes => transactionWf p bytes i
  | .reservedCommand p bytes => transactionWf p bytes i
  | .linkCheckDiscard s bytes => decodeMessage s bytes == i
  | .confirmCommit _ operation _ => operation != 0x22#8 && operation != 0x18#8
  | .setSetName _ name => nameFieldWf name
  | .zoneCreate _ _ name _ => nameFieldWf name
  | .zoneRename _ _ name => nameFieldWf name
  | .unitReadComplete unit reading => readingWf unit reading
  | _ => true

end Sys2Proof
end

