-- ==== Sys2Proof/Safety.lean ====
section
/-! DEFINITION. The laws that every step keeps, as predicates on a state, and the conditions under which a command port
takes a frame. -/

namespace Sys2Proof.Machine

/-! ## Conditions on a command port -/

/-- The port takes a frame now: PRSTN is high and the port is Ready (R156, R167). -/
def PortTakes (s : State) (p : PortId) : Prop := (s.cmdPort p).prstLow = false ∧ (s.cmdPort p).working = false

/-- The port takes a frame and has nothing armed. A command that disarms acts on a state in which something is armed as on
the state disarmed (R160), so statements about its effect are made here. -/
def PortClear (s : State) (p : PortId) : Prop := PortTakes s p ∧ (s.cmdPort p).armed = .none

/-- The master port takes a frame and has nothing armed. -/
def MasterClear (s : State) (p : PortId) : Prop := PortClear s p ∧ s.cmd.mastership = some p

/-- The port and tag of a command frame; none for a row that is no command frame. -/
def frameOf (i : Instr) : Option Frame := (commandFields i).map fun x => x.1

/-- The command code of a command frame. -/
def codeOf (i : Instr) : Option Nat := (commandFields i).map fun x => x.2.1.toNat

/-- The codes an observer may use (R158). -/
def observerCodes : List Nat := [0x01, 0x02, 0x03, 0x04, 0x05, 0x07, 0x08, 0x09, 0x3C, 0x42]

/-- The codes of the commands that keep an armed operation, and of Confirm, which disarms by its own rule (R160). -/
def keepingCodes : List Nat := [0x01, 0x02, 0x03, 0x0B]

/-- The port and the bytes of a row that carries a write transaction by its bytes (R156, R157, R170). -/
def rawOf : Instr → Option (PortId × List Byte)
  | .writeTransactionBusy p bytes => some (p, bytes)
  | .shortTransaction p bytes => some (p, bytes)
  | .badCheck p bytes => some (p, bytes)
  | .badLength p bytes => some (p, bytes)
  | .illegalCommand p bytes => some (p, bytes)
  | .reservedCommand p bytes => some (p, bytes)
  | _ => none

/-- The assigned codes, as R157 lists them. -/
def assignedCode (c : Nat) : Prop :=
  (0x01 ≤ c ∧ c ≤ 0x0B) ∨ (0x10 ≤ c ∧ c ≤ 0x13) ∨ c = 0x18 ∨ c = 0x19 ∨ (0x20 ≤ c ∧ c ≤ 0x22) ∨ (0x30 ≤ c ∧ c ≤ 0x3D) ∨
    (0x40 ≤ c ∧ c ≤ 0x42) ∨ (0x50 ≤ c ∧ c ≤ 0x52) ∨ c = 0x58 ∨ c = 0x59

/-! ## Laws of a table of positions -/

/-- A table stands by strictly rising position, each below a bound. -/
def TableLawful {α : Type} (bound : Nat) (t : List (Nat × α)) : Prop :=
  (t.map Prod.fst).Pairwise (· < ·) ∧ ∀ x ∈ t, x.1 < bound

/-! ## Laws of the state -/

/-- Each ALERTN line is low exactly while the port's attention set and alert mask have a reason in common (R161). -/
def AlertsFollow (s : State) : Prop :=
  ∀ p, (s.attention p).alertLow = (s.attention p).set.meets (s.attention p).mask

/-- A port holds an armed operation only while it holds mastership, and Working is Armed only while a port has the Commit
armed (R83, R159). -/
def ArmedByMaster (s : State) : Prop :=
  (∀ p, (s.cmdPort p).armed ≠ .none → s.cmd.mastership = some p) ∧
    (s.zones.workingState = .armed → ∃ p, (s.cmdPort p).armed = .commit)

/-- Each power enable line is high exactly while its card is Admitting, Joined or Fenced (R22). -/
def PowerFollows (s : State) : Prop := ∀ slot, (s.card slot).powerEnable = (s.card slot).state.powered

/-- The thermal cap is the least n among the thermal claims, or 8 when there are none (R56). -/
def CapFollows (s : State) : Prop := s.power.cap = capOf s.power.claims

/-- The deficit state stands as the deficit condition does: raised exactly while the wait list holds a card, or a port whose
thermal hold is clear (R59). -/
def DeficitFollows (s : State) : Prop := s.power.deficit = deficitHolds s

/-- The Alarm Table holds at most one entry per pair of cause and subject, at positions 0–127 (R145, R146). -/
def AlarmsLawful (s : State) : Prop :=
  TableLawful Config.alarmPositions s.alarms ∧
    s.alarms.Pairwise fun x y => ¬ (x.2.cause = y.2.cause ∧ x.2.subject = y.2.subject)

/-- The Name Map holds at most one entry per device name, none for name 0, at positions 0–2047 (R117, R118). -/
def NamesLawful (s : State) : Prop :=
  TableLawful Config.namePositions s.names ∧ (s.names.Pairwise fun x y => x.2.name ≠ y.2.name) ∧
    ∀ x ∈ s.names, x.2.name ≠ 0

/-- A zone keeps the law of R81 and R82: its id is in 1–512, its name is a name and not empty, it holds at most 64 members, no
designator twice, and each role is of the zone's kind. -/
def ZoneLawful (z : Zone) : Prop :=
  1 ≤ z.id ∧ z.id ≤ 512 ∧ z.name ≠ [] ∧ nameForm z.name = true ∧ z.name.length ≤ 32 ∧ z.members.length ≤ 64 ∧
    (z.members.map Member.designator).Nodup ∧
    ∀ m ∈ z.members, (m.role = .none ↔ z.kind = .plain) ∧ m.designator ≠ .name 0

/-- An image keeps the law of R80 to R82: its zones stand in ascending id, zone names are unique, every zone is lawful, at
most 4,096 members in all, and the set name is a name or empty. -/
def ImageLawful (im : Image) : Prop :=
  (im.zones.map Zone.id).Pairwise (· < ·) ∧ (im.zones.map Zone.name).Nodup ∧ (∀ z ∈ im.zones, ZoneLawful z) ∧
    im.memberTotal ≤ 4096 ∧ nameForm im.setName = true ∧ im.setName.length ≤ 32

/-- The three images keep the law (R82). -/
def ImagesLawful (s : State) : Prop :=
  ImageLawful s.zones.working ∧ ImageLawful s.zones.pending ∧ ImageLawful s.zones.live

/-- The wait list holds the cards in Waiting and the ports whose power is Waiting; a port's power is Off exactly while it is not
eligible; its thermal hold is set exactly while it is Waiting with its priority at or above the cap, and no port at or above the
cap is Admitted (R1, R5, R49, R56). -/
def WaitListFollows (s : State) : Prop :=
  (∀ slot, WaitItem.card slot ∈ s.power.waitList ↔ (s.card slot).state = .waiting) ∧
    (∀ n, WaitItem.port n ∈ s.power.waitList ↔ (s.port n).power = .waiting) ∧
    (∀ n, (s.port n).power = .off ↔ eligible s n = false) ∧
    (∀ n, (s.port n).hold = true ↔ (s.port n).power = .waiting ∧ s.power.cap ≤ (s.port n).priority.val) ∧
    ∀ n, (s.port n).power = .admitted → (s.port n).priority.val < s.power.cap

/-- The order of the wait list: cards first, by slot; then ports, by priority and within one priority by number (R49). -/
def waitsBefore (s : State) : WaitItem → WaitItem → Prop
  | .card a, .card b => a < b
  | .card _, .port _ => True
  | .port _, .card _ => False
  | .port m, .port n => (s.port m).priority < (s.port n).priority ∨ ((s.port m).priority = (s.port n).priority ∧ m < n)

/-- The wait list stands in the order of R49, no item twice. -/
def WaitListOrdered (s : State) : Prop := s.power.waitList.Pairwise (waitsBefore s)

/-- The draws that are admitted: the base draws of the cards in Admitting, Joined or Fenced, and the port draws of the Admitted
ports (R46). -/
def drawSum (s : State) : Nat :=
  (allSlots.map fun c => if (s.card c).state.powered then (s.card c).baseDraw else 0).sum +
    ((List.finRange 672).map fun n => if (s.port n).power = .admitted then portDraw s n else 0).sum

/-- The admitted draw is the sum of the admitted draws and never exceeds the allowance; no item is twice on the wait list (R46,
R49). -/
def DrawLawful (s : State) : Prop :=
  WaitListFollows s ∧ s.power.waitList.Nodup ∧ s.power.admitted = drawSum s ∧ s.power.admitted ≤ allowanceOf s.power

/-- The number of ports whose license is Bound or Grace to a pool (R62). -/
def boundTo (s : State) (i : PoolIx) : Nat := s.ports.toList.countP fun r => r.license.pool? == some i

/-- Every pool's bound count is the number of ports Bound or Grace to it and does not exceed its capacity; a Vacant pool
reads 0 in every field (R62). -/
def PoolsLawful (s : State) : Prop :=
  ∀ i, (s.pool i).bound = boundTo s i ∧ (s.pool i).bound ≤ (s.pool i).capacity ∧
    ((s.pool i).state = .vacant → s.pool i = PoolRec.vacant)

/-- The fan duty is Normal exactly while the first round is over, the boost claims are empty and every fan tray is Starting or
Online, and FANDUTY is driven at it (R137). -/
def DutyFollows (s : State) : Prop :=
  (s.scanner.duty = .normal ↔ s.scanner.firstRound = true ∧ s.scanner.boosts = [] ∧
      ∀ u : UnitIx, 6 ≤ u.val → (s.unit u).state = .starting ∨ (s.unit u).state = .online) ∧
    s.scanner.fanPct = match s.scanner.duty with
      | .normal => s.params.fanNormal
      | .boost => 100

/-- The turn of a scan round stands at no unit that is Absent (R132). -/
def TurnFollows (s : State) : Prop := ∀ u, s.scanner.turn = some (.unit u) → (s.unit u).state ≠ .absent

/-- The read that stands next in a round from unit index n on: the first unit that is not Absent, else the chassis inlet sensor
(R132). -/
def StandsNext (s : State) (n : Nat) : Turn → Prop
  | .unit u => n ≤ u.val ∧ (s.unit u).state ≠ .absent ∧ ∀ v : UnitIx, n ≤ v.val → v < u → (s.unit v).state = .absent
  | .inlet => ∀ v : UnitIx, n ≤ v.val → (s.unit v).state = .absent
  | .outlet => False

/-- The Commit Engine's own law: Idle exactly while no commit is active, and then every card Outside, nothing queued and the
tally 0; a card in AwaitHold throughout Fencing, in AwaitResume throughout Releasing, and no card in a phase of the other; Working
Frozen exactly while a commit is queued; a card's timer running exactly in AwaitHold and AwaitResume; and only a Joined card in a
set (R98, R104, R108, R110, R111). -/
def CommitLawful (s : State) : Prop :=
  (s.commit.engine = .idle ↔ s.commit.active = none) ∧
    (s.commit.engine = .idle → (∀ c, (s.phaseRec c).phase = .outside) ∧ s.commit.queued = none ∧ s.commit.tally = 0) ∧
    (s.commit.engine = .fencing → (∃ c, (s.phaseRec c).phase = .awaitHold) ∧
      ∀ c, (s.phaseRec c).phase ≠ .awaitResume ∧ (s.phaseRec c).phase ≠ .done) ∧
    (s.commit.engine = .releasing → (∃ c, (s.phaseRec c).phase = .awaitResume) ∧
      ∀ c, (s.phaseRec c).phase ≠ .awaitHold ∧ (s.phaseRec c).phase ≠ .held ∧ (s.phaseRec c).phase ≠ .late) ∧
    (s.zones.workingState = .frozen ↔ s.commit.queued ≠ none) ∧
    (∀ c, (s.phaseRec c).timerOn = true ↔ (s.phaseRec c).phase = .awaitHold ∨ (s.phaseRec c).phase = .awaitResume) ∧
    ∀ c, (s.phaseRec c).phase ≠ .outside → (s.card c).state = .joined

/-! ## The passes of the Power Budget Unit (R50, R52) -/

/-- The draw of an item on the wait list: a card's base draw, a port's draw (R46). -/
def itemDraw (s : State) : WaitItem → Nat
  | .card slot => (s.card slot).baseDraw
  | .port n => portDraw s n

/-- An item that a restore pass skips whatever its draw: a port under thermal hold (R50). -/
def itemHeld (s : State) : WaitItem → Bool
  | .card _ => false
  | .port n => (s.port n).hold

/-- What a restore pass admits of a list, from its first item to its last: each item that is not held and whose draw fits the
allowance less what is drawn by then (R50). -/
def restoreTakes (s : State) : Nat → List WaitItem → List WaitItem
  | _, [] => []
  | drawn, x :: rest =>
    if itemHeld s x = false ∧ itemDraw s x + drawn ≤ allowanceOf s.power then
      x :: restoreTakes s (drawn + itemDraw s x) rest
    else restoreTakes s drawn rest

/-- What a shed pass sheds of a list: its items in turn, as long as what is drawn exceeds the allowance (R52). -/
def shedTakes {α : Type} (draw : α → Nat) (allowance : Nat) : Nat → List α → List α
  | _, [] => []
  | drawn, x :: rest => if allowance < drawn then x :: shedTakes draw allowance (drawn - draw x) rest else []

/-- The Permits that go to a card for the ports of a list, in its order (R50). -/
def permitsTo (slot : Slot) (l : List WaitItem) : List CardMsg :=
  l.filterMap fun
    | .card _ => none
    | .port n => if slotOf n = slot then some (.permit (posOf n)) else none

/-- The Revoke and Purge messages of a list, in their order: what ports that lose Serviceable send (R7, R123). -/
def fallsOf (l : List CardMsg) : List CardMsg :=
  l.filter fun
    | .revoke _ | .purge _ => true
    | _ => false

/-- What follows a budget change, from the allowance before it (R47): a shed pass where the allowance fell below the admitted draw, a
restore pass where it rose. -/
def budgetPass (allowance : Nat) (s : State) : State :=
  if allowance < allowanceOf s.power then restorePass s
  else if allowanceOf s.power < allowance ∧ allowanceOf s.power < s.power.admitted then shedPass s
  else s

/-! ## Ports that lose eligibility (R5, R7, R55) -/

/-- A port as it is once it has lost eligibility, and Serviceable with it where it had that (R5, R7). -/
def fallenPort (s : State) (n : PortIx) : PortRec :=
  if serviceable s n then { s.port n with power := .off, hold := false, link := .dark, logins := 0 }
  else { s.port n with power := .off, hold := false }

/-- The draws of the Admitted ports among some ports (R46, R55). -/
def drawOf (s : State) (gone : PortIx → Bool) : Nat :=
  ((List.finRange 672).map fun n => if gone n && (s.port n).power == .admitted then portDraw s n else 0).sum

/-- The Power Budget Unit's state once some ports have lost eligibility: the Waiting ones off the wait list, the draws of the
Admitted ones released (R5, R55). -/
def budgetWithout (s : State) (gone : PortIx → Bool) : PowerBudget :=
  { s.power with
    waitList := s.power.waitList.filter fun
      | .card _ => true
      | .port n => !gone n
    admitted := s.power.admitted - drawOf s gone }

/-- The same once a card leaves the states that it holds: its ports, its own place on the wait list and its own base draw (R55). -/
def budgetWithoutCard (s : State) (slot : Slot) : PowerBudget :=
  let p := budgetWithout s fun n => slotOf n == slot
  { p with
    waitList := p.waitList.filter fun x => x ≠ .card slot
    admitted := p.admitted - if (s.card slot).state.powered then (s.card slot).baseDraw else 0 }

/-- A port with a new record that waits: its place on the wait list is taken anew, by the key that the record gives (R49). -/
def waitWith (n : PortIx) (r : PortRec) (s : State) : State :=
  let w := { s with ports := s.ports.set n r }
  { w with
    power := { s.power with
      waitList := insertByKey (waitKey w) (.port n) (s.power.waitList.filter fun x => x ≠ .port n) } }

/-! ## The rebinding pass (R70) -/

/-- The state with the bound counts as a binding leaves them: the pool that the port leaves one lower, the pool that it takes one
higher (R62, R70). -/
def countBinding (n : PortIx) (k : PoolIx) (s : State) : State :=
  let freed := match (s.port n).license.pool? with
    | some old => s.modPool old fun r => { r with bound := r.bound - 1 }
    | none => s
  freed.modPool k fun r => { r with bound := r.bound + 1 }

/-- What a rebinding pass binds of a list of ports, from its first to its last: each to the pool of the automatic choice, made with
the bound counts as the bindings before it leave them; a port for which the choice finds none is left out (R70). -/
def rebindTakes : State → List PortIx → List (PortIx × PoolIx)
  | _, [] => []
  | s, n :: rest =>
    match autoChoice s n with
    | some k => (n, k) :: rebindTakes (countBinding n k s) rest
    | none => rebindTakes s rest

/-! ## Zoning (R93, R94) -/

/-- An endpoint matches a member: by its name, or by the port of its Name Map entry (R93). -/
def matchesMember (s : State) (x : DevName) (m : Member) : Prop :=
  m.designator = .name x ∨ ∃ slot pos k e, m.designator = .port slot pos ∧ entryFor s x = some (k, e) ∧ e.port = portOf slot pos

/-- An endpoint matches a zone when it matches a member of it (R93). -/
def matchesZone (s : State) (x : DevName) (z : Zone) : Prop := ∃ m ∈ z.members, matchesMember s x m

/-- An endpoint is matched as Principal in a zone (R93). -/
def principalOf (s : State) (x : DevName) (z : Zone) : Prop := ∃ m ∈ z.members, matchesMember s x m ∧ m.role = .principal

/-- A zone admits a pair of endpoints: both match it, and it is Plain or one of them is matched as Principal (R94). -/
def admitsPair (s : State) (x y : DevName) (z : Zone) : Prop :=
  matchesZone s x z ∧ matchesZone s y z ∧ (z.kind = .plain ∨ principalOf s x z ∨ principalOf s y z)

/-- The answer of the zoning evaluation of a pair over an image (R94): the zone of lowest id that admits it; else Deny where a
zone matches either; else the default. -/
def ZoningAnswer (s : State) (im : Image) (x y : DevName) (v : ZoneVerdict) : Prop :=
  (∀ z ∈ im.zones, admitsPair s x y z → (∀ w ∈ im.zones, admitsPair s x y w → z.id ≤ w.id) → v = .permitZone z.id) ∧
    ((∀ z ∈ im.zones, ¬ admitsPair s x y z) → (∃ z ∈ im.zones, matchesZone s x z ∨ matchesZone s y z) → v = .denyZoning) ∧
    ((∀ z ∈ im.zones, ¬ matchesZone s x z ∧ ¬ matchesZone s y z) →
      v = match im.access with
        | .permit => .permitDefault
        | .deny => .denyDefault)

/-- A name: empty or beginning with a letter, of letters, digits, underscores and hyphens, at most 32 characters (R81). -/
def lawfulName (name : List Byte) : Prop :=
  name.length ≤ 32 ∧ (∀ c ∈ name, isNameChar c = true) ∧ ∀ c, name.head? = some c → isLetter c = true

/-- A 32-byte name field spells a name: its characters and then zero bytes (R168). -/
def spells (field name : List Byte) : Prop := lawfulName name ∧ field = name ++ List.replicate (32 - name.length) 0

/-! ## What a disarming leaves of Working -/

/-- Working as a disarming of a Commit leaves it: Editable if it was Armed, its content and modified flag kept (R83, R160). -/
def editableAgain (z : ZoneStore) : ZoneStore :=
  { z with workingState := if z.workingState = .armed then .editable else z.workingState }

/-- The Zone Store after the operation armed on a port is disarmed (R160). -/
def disarmedZones (s : State) (p : PortId) : ZoneStore :=
  if (s.cmdPort p).armed = .commit then editableAgain s.zones else s.zones

/-! ## Frames of the statements -/

/-- t differs from s in one command port at most, and there it holds `port`. -/
def OnlyPort (s t : State) (p : PortId) (port : CmdPort) : Prop :=
  t = { s with cmd := t.cmd } ∧ t.cmd.mastership = s.cmd.mastership ∧ t.cmdPort p = port ∧
    ∀ q, q ≠ p → t.cmdPort q = s.cmdPort q

/-- From s to t the mastership goes to m: the operation armed on the port that held it is disarmed, with what disarming does to
Working, and nothing else changes (R159, R160). -/
def MastershipMoves (s t : State) (m : Option PortId) : Prop :=
  t = { s with cmd := t.cmd, zones := t.zones } ∧ t.cmd.mastership = m ∧
    (∀ q, t.cmdPort q = if s.cmd.mastership = some q then { s.cmdPort q with armed := .none } else s.cmdPort q) ∧
    t.zones = match s.cmd.mastership with
      | some q => disarmedZones s q
      | none => s.zones

/-- From s to t a port is reset to `port`, its attention to the cold value; it loses the mastership if it held it, with what
disarming does to Working; the other port and every record are as they were (R167). -/
def PortResets (s t : State) (p : PortId) (port : CmdPort) : Prop :=
  t = { s with cmd := t.cmd, attn := t.attn, zones := t.zones } ∧ t.cmdPort p = port ∧
    t.attention p = { set := ReasonSet.empty, mask := ReasonSet.all, alertLow := false } ∧
    (∀ q, q ≠ p → t.cmdPort q = s.cmdPort q ∧ t.attention q = s.attention q) ∧
    t.cmd.mastership = (if s.cmd.mastership = some p then none else s.cmd.mastership) ∧
    t.zones = if s.cmd.mastership = some p then disarmedZones s p else s.zones

/-- The command ports, mastership, parameters, chassis number, rules, uptime and the queue are as they were: no operation of the
Port Table, the Slot Controller, the Power Budget Unit, the Commit Engine or the Name Map writes them. -/
def OutsideKept (s t : State) : Prop :=
  t.cmd = s.cmd ∧ t.params = s.params ∧ t.license.chassis = s.license.chassis ∧ t.uptime = s.uptime ∧
    t.pending = s.pending

/-- The master's settings of every port are as they were. -/
def SettingsKept (s t : State) : Prop :=
  ∀ n, (t.port n).intent = (s.port n).intent ∧ (t.port n).priority = (s.port n).priority

/-- The license of every port and every pool are as they were. -/
def LicensesKept (s t : State) : Prop := t.license = s.license ∧ ∀ n, (t.port n).license = (s.port n).license

/-- The rules and the records of the Sensor Scanner are as they were. -/
def SensorsKept (s t : State) : Prop := t.rules = s.rules ∧ t.scanner = s.scanner

/-- The Zone Store, the Commit Engine and the Sensor Scanner's records are as they were. -/
def EnginesKept (s t : State) : Prop := t.zones = s.zones ∧ t.commit = s.commit ∧ SensorsKept s t

/-- Only the attention sets may differ: the state is s but for attn. -/
def OnlyAttention (s t : State) : Prop := t = { s with attn := t.attn }

/-- The Alarm Table holds the condition of a cause and subject: an entry of the pair, Raised or Acknowledged, with this severity
and detail (R145 to R148). -/
def AlarmStands (s : State) (cause : Cause) (subject : Nat) (severity : Severity) (detail : Nat) : Prop :=
  ∃ pos e, (pos, e) ∈ s.alarms ∧ e.cause = cause ∧ e.subject = subject ∧ e.state ≠ .clearedUnacked ∧
    e.severity = severity ∧ e.detail = detail

/-- The Alarm Table holds no standing condition of a cause and subject: no entry of the pair that is Raised or Acknowledged
(R149). -/
def AlarmOver (s : State) (cause : Cause) (subject : Nat) : Prop :=
  ∀ x ∈ s.alarms, x.2.cause = cause → x.2.subject = subject → x.2.state = .clearedUnacked

/-- From s to t a pool's change of state makes its PoolTerm claim (R63): raised on the way to Expiring and to Expired, ended on
the way from these to Active and to Vacant; no other claim is made for the pool. -/
def PoolTermFollows (s t : State) (k : PoolIx) : Prop :=
  let before := (s.pool k).state
  let now := (t.pool k).state
  (now = .expiring → before ≠ .expiring → AlarmStands t .poolTerm (k.val + 1) .minor 1) ∧
    (now = .expired → before ≠ .expired → AlarmStands t .poolTerm (k.val + 1) .major 2) ∧
    ((now = .active ∨ now = .vacant) → (before = .expiring ∨ before = .expired) → AlarmOver t .poolTerm (k.val + 1)) ∧
    ((now = before ∨ ((now = .active ∨ now = .vacant) ∧ (before = .active ∨ before = .vacant))) →
      ∀ x : Nat × AlarmEntry, x.2.cause = .poolTerm → x.2.subject = k.val + 1 → (x ∈ t.alarms ↔ x ∈ s.alarms))

/-- The alarms of every other pair than this one are as they were. -/
def OtherAlarmsKept (s t : State) (cause : Cause) (subject : Nat) : Prop :=
  ∀ x : Nat × AlarmEntry, ¬ (x.2.cause = cause ∧ x.2.subject = subject) → (x ∈ t.alarms ↔ x ∈ s.alarms)

/-- Every login on a port has been removed from s to t: each Learned entry of the port is freed, each PinnedPresent one is
Pinned, every other entry stands, and the login count is 0 (R121, R122). -/
def LoginsGone (s t : State) (n : PortIx) : Prop :=
  (∀ pos, tableGet t.names pos = match tableGet s.names pos with
    | none => none
    | some e =>
      if e.port = n then
        (match e.status with
          | .learned => none
          | .pinnedPresent => some { e with status := .pinned }
          | .pinned => some e)
      else some e) ∧ (t.port n).logins = 0

/-- The names logged in on a port, by ascending entry position (R122). -/
def loggedIn (s : State) (n : PortIx) : List DevName :=
  (s.names.filter fun x => x.2.port == n && x.2.status.loggedIn).map fun x => x.2.name

/-- What a port's loss of Serviceable sends to a card: Revoke to its own card, then a Purge for each login that it ends, in
ascending entry position, to a card that is Joined (R7, R122, R123). -/
def fallSends (s : State) (n : PortIx) (c : Slot) : List CardMsg :=
  (if slotOf n = c then [.revoke (posOf n)] else []) ++
    if (s.card c).state = .joined then (loggedIn s n).map .purge else []

/-- What some ports send to a card as they lose Serviceable, one after the other; a port that is not Serviceable sends nothing. -/
def fallsSend (s : State) (gone : List PortIx) (c : Slot) : List CardMsg :=
  (gone.filter (serviceable s)).flatMap fun n => fallSends s n c

/-- A card record once some ports have lost Serviceable: the record as it was, with what they send behind what waits. -/
def cardAfterFalls (s : State) (gone : List PortIx) (c : Slot) : CardRec :=
  { s.card c with outbox := (s.card c).outbox ++ fallsSend s gone c }

/-- The Name Map once some ports have lost Serviceable: of the entries of those that were Serviceable each Learned one is freed and
each PinnedPresent one is Pinned; every other entry stands (R121, R122). -/
def namesWithout (s : State) (gone : PortIx → Bool) : List (Nat × NameEntry) :=
  s.names.filterMap fun x =>
    if gone x.2.port && serviceable s x.2.port then
      (match x.2.status with
        | .learned => none
        | .pinnedPresent | .pinned => some (x.1, { x.2 with status := .pinned }))
    else some x

/-- The login count of each port is the number of entries logged in on it, at most four, and every entry that is logged in names
a Serviceable port (R118). -/
def LoginsFollow (s : State) : Prop :=
  (∀ n, (s.port n).logins = (loggedIn s n).length ∧ (s.port n).logins ≤ 4) ∧
    ∀ x ∈ s.names, x.2.status ≠ .pinned → serviceable s x.2.port = true

end Sys2Proof.Machine
end

