-- ==== Sys2Proof/Certificates/Slice0/Obligations.lean ====
section
/-! DEFINITION. The statements about this model, for the provers. Each names the rule of the spec that it formalises, or the
sections that it rests on; where a clause is the model's own choice it names the log entry. -/

open Sys2Proof Sys2Proof.Machine

/-! ## The step -/

/-- The block takes the command at the front of its queue and runs it on the state with the queue's rest; with an empty queue it
idles (the model's choice, log 1). -/
def Obligations.StepTakesTheFrontCommand : Prop :=
  ∀ s : State, (∀ c rest, s.pending = c :: rest → step s = exec c { s with pending := rest }) ∧
    (s.pending = [] → step s = .next s)

/-- Every command completes in every state, and leaves the queue as it finds it. That no command stops the machine is read from
the spec, which refuses by answers and discards (log 24); that none touches the queue, a cold reset included, is the model's
choice (log 1). -/
def Obligations.EveryCommandCompletes : Prop :=
  ∀ (i : Instr) (s : State), ∃ t, exec i s = .next t ∧ t.pending = s.pending

/-! ## Resets -/

/-- A cold reset: every record at its cold value; a slot whose line is sampled high has begun the handshake, a unit whose line is
sampled high is Starting, and Slot is in both attention sets where a slot was sampled high. That the levels of PRSTN and the queue
are carried is the model's choice (log 1, log 3), and so is the cold value of SDO and of the busy tag (log 13). And the laws that
every step keeps hold at State.reset. -/
def Obligations.ColdResetRule : Prop :=
  (∀ (lines : PresenceLines) (s : State), ∃ t, exec (.coldReset lines) s = .next t ∧
    t.cmd = { mastership := none
              a := { CmdPort.cold with supervisor := lines.supA, prstLow := (s.cmdPort .a).prstLow }
              b := { CmdPort.cold with supervisor := lines.supB, prstLow := (s.cmdPort .b).prstLow } } ∧
    (∀ p, t.attention p = { set := { ReasonSet.empty with slot := lines.slots != 0 }, mask := ReasonSet.all,
                            alertLow := lines.slots != 0 }) ∧
    t.params = { probeRetry := 4, commitRetry := 3, grace := 72, fanNormal := 50, fanFloor := 1500 } ∧
    (∀ n, t.port n = { intent := .disabled, priority := 4, license := .unlicensed, power := .off, hold := false,
                       link := .dark, logins := 0 }) ∧
    (∀ slot : Slot, t.card slot =
      if lines.slots.getLsbD slot.val then
        { CardRec.cold with state := .probing, presence := true, outbox := [.probe], timerOn := true, retryTimeout := 500 }
      else CardRec.cold) ∧
    t.power = { counted := Vector.replicate 6 none, trays := ([6, 7, 8, 9].filter fun u => lines.units.getLsbD u).length,
                mode := .nPlus1, admitted := 0, waitList := [], claims := [], cap := 8, deficit := false } ∧
    t.license = { chassis := 0, pools := Vector.replicate 16 PoolRec.vacant } ∧
    t.zones = { working := Image.empty, pending := Image.empty, live := Image.empty, generation := 0, modified := false,
                workingState := .editable } ∧
    t.commit = CommitEngine.cold ∧ t.names = [] ∧ t.alarms = [] ∧ t.uptime = 0 ∧
    t.rules = Vector.replicate 64 RuleRec.cold ∧ t.pending = s.pending ∧
    (∀ u : UnitIx, t.unit u =
      if lines.units.getLsbD u.val then { UnitRec.cold with state := .starting, wasPresent := true, presence := true }
      else UnitRec.cold) ∧
    t.scanner = { SensorScanner.cold with units := t.scanner.units }) ∧
  AlertsFollow State.reset ∧ ArmedByMaster State.reset ∧ PowerFollows State.reset ∧ CapFollows State.reset ∧
  DeficitFollows State.reset ∧ AlarmsLawful State.reset ∧ NamesLawful State.reset ∧ ImagesLawful State.reset ∧
  PoolsLawful State.reset ∧ DrawLawful State.reset ∧ DutyFollows State.reset ∧ TurnFollows State.reset ∧
  WaitListOrdered State.reset ∧ LoginsFollow State.reset ∧ CommitLawful State.reset

/-- A port reset (R167), from Port Restart and from the PRSTN line; the tag kept beside the cleared tally is left open. Held low,
the line keeps frames out; its rise ends that. The model's own choices and readings: that level low of the line is its fall
(log 5), that a frame held out leaves no response and no tally, so that nothing changes (log 18), for a row given by its bytes
whatever they are (log 6), and that SDO holds the bytes of the last read, which a reset keeps and a read of the held port makes 00
(log 20). -/
def Obligations.PortResetRule : Prop :=
  ∀ s : State,
    (∀ f : Frame, PortTakes s f.port → ∃ t tag, exec (.portRestart f) s = .next t ∧
      PortResets s t f.port
        { working := true, response := some { tag := f.tag, status := .done, detail := 0, fields := [] }, tally := 0,
          busyTag := tag, armed := .none, cursors := Vector.replicate 7 0, supervisor := (s.cmdPort f.port).supervisor,
          prstLow := false, sdo := (s.cmdPort f.port).sdo }) ∧
    (∀ p, (s.cmdPort p).prstLow = false → ∃ t tag, exec (.portReset p .low) s = .next t ∧
      PortResets s t p
        { working := false, response := none, tally := 0, busyTag := tag, armed := .none, cursors := Vector.replicate 7 0,
          supervisor := (s.cmdPort p).supervisor, prstLow := true, sdo := (s.cmdPort p).sdo }) ∧
    (∀ p, ∃ t, exec (.portReset p .high) s = .next t ∧ OnlyPort s t p { s.cmdPort p with prstLow := false }) ∧
    (∀ i f, frameOf i = some f → (s.cmdPort f.port).prstLow = true → exec i s = .next s) ∧
    (∀ i p bytes, rawOf i = some (p, bytes) → (s.cmdPort p).prstLow = true → exec i s = .next s) ∧
    (∀ p, (s.cmdPort p).prstLow = true → ∃ t, exec (.readTransaction p) s = .next t ∧
      OnlyPort s t p { s.cmdPort p with sdo := [0x00#8] })

/-- An input line that is where the command would move it does not move, the expiry of a timer that does not run is none, and the
end of a read that does not stand at its turn is none: the command changes nothing (the model's reading, log 4, log 2 and
log 12). -/
def Obligations.NothingMovesWithoutItsCause : Prop :=
  ∀ s : State,
    (∀ p, (s.cmdPort p).prstLow = true → exec (.portReset p .low) s = .next s) ∧
    (∀ p, (s.cmdPort p).supervisor = false → exec (.supervisorPresenceFall p) s = .next s) ∧
    (∀ slot, (s.card slot).presence = true → exec (.presenceRise slot) s = .next s) ∧
    (∀ slot, DeficitFollows s → (s.card slot).presence = false → exec (.removal slot) s = .next s) ∧
    (∀ u, DeficitFollows s → (s.unit u).presence = true → exec (.unitPresenceRise u) s = .next s) ∧
    (∀ u, DeficitFollows s → (s.unit u).presence = false → exec (.unitPresenceFall u) s = .next s) ∧
    (∀ slot, ((s.card slot).state ≠ .probing ∨ (s.card slot).timerOn = false) → exec (.probeTimeout slot) s = .next s) ∧
    (∀ slot, DeficitFollows s → ((s.card slot).state ≠ .admitting ∨ (s.card slot).timerOn = false) →
      exec (.admittingTimeout slot) s = .next s) ∧
    (∀ slot, ((s.phaseRec slot).phase ≠ .awaitHold ∨ (s.phaseRec slot).timerOn = false) →
      exec (.holdTimeout slot) s = .next s) ∧
    (∀ slot, ((s.phaseRec slot).phase ≠ .awaitResume ∨ (s.phaseRec slot).timerOn = false) →
      exec (.resumeTimeout slot) s = .next s) ∧
    (∀ u x, DeficitFollows s → (s.scanner.turn ≠ some (.unit u) ∨ (s.unit u).state = .absent) →
      exec (.unitReadComplete u x) s = .next s) ∧
    (∀ v, DeficitFollows s → s.scanner.turn ≠ some .inlet → exec (.chassisSensorReadComplete .inlet v) s = .next s) ∧
    (∀ v, DeficitFollows s → s.scanner.turn ≠ some .outlet → exec (.chassisSensorReadComplete .outlet v) s = .next s)

/-! ## Mastership and protected operations -/

/-- Mastership (R159): the four results of Master Claim, Master Release, the fall and the rise of a supervisor presence line. -/
def Obligations.MastershipRule : Prop :=
  (∀ (f : Frame) (s : State), PortClear s f.port →
    ((s.cmdPort f.port).supervisor = false → exec (.masterClaim f) s = .next (respond f (answer .privilege) s)) ∧
    ((s.cmdPort f.port).supervisor = true → s.cmd.mastership = some f.port →
      exec (.masterClaim f) s = .next (respond f (answer .noChange) s)) ∧
    ((s.cmdPort f.port).supervisor = true →
      (s.cmd.mastership = none ∨ ∃ q, q ≠ f.port ∧ s.cmd.mastership = some q ∧ (s.cmdPort q).supervisor = false) →
      ∃ t, exec (.masterClaim f) s = .next (respond f (answer .done) t) ∧ MastershipMoves s t (some f.port)) ∧
    ((s.cmdPort f.port).supervisor = true →
      (∃ q, q ≠ f.port ∧ s.cmd.mastership = some q ∧ (s.cmdPort q).supervisor = true) →
      exec (.masterClaim f) s = .next (respond f (answer .held) s))) ∧
  (∀ (f : Frame) (s : State), PortTakes s f.port →
    (s.cmd.mastership = some f.port → ∃ t, exec (.masterRelease f) s = .next (respond f (answer .done) t) ∧
      MastershipMoves s t none) ∧
    (s.cmd.mastership ≠ some f.port → exec (.masterRelease f) s = .next (respond f (answer .privilege) s))) ∧
  (∀ (p : PortId) (s : State), (s.cmdPort p).supervisor = true → ∃ t low, exec (.supervisorPresenceFall p) s = .next t ∧
    OnlyPort s low p { s.cmdPort p with supervisor := false } ∧
    (s.cmd.mastership = some p → MastershipMoves low t none) ∧ (s.cmd.mastership ≠ some p → t = low)) ∧
  (∀ (p : PortId) (s : State), ∃ t, exec (.supervisorPresenceRise p) s = .next t ∧
    OnlyPort s t p { s.cmdPort p with supervisor := true })

/-- Rights (R158): an observer's assigned command outside the ten is refused PRIVILEGE and changes no record; a command that is
not refused for want of the right is not answered PRIVILEGE, but for a Master Claim under an absent supervisor (R159). -/
def Obligations.RightsRule : Prop :=
  ∀ (i : Instr) (f : Frame) (code : Nat) (s : State), frameOf i = some f → codeOf i = some code → PortTakes s f.port →
    (s.cmd.mastership ≠ some f.port →
      code ∉ [0x01, 0x02, 0x03, 0x04, 0x05, 0x07, 0x08, 0x09, 0x3C, 0x42] →
      exec i s = .next (respond f (answer .privilege) s)) ∧
    (s.cmd.mastership = some f.port ∨ code ∈ [0x01, 0x02, 0x03, 0x04, 0x05, 0x07, 0x08, 0x09, 0x3C, 0x42] →
      (code = 0x05 → (s.cmdPort f.port).supervisor = true) →
      ∃ t r, exec i s = .next t ∧ (t.cmdPort f.port).response = some r ∧ r.status ≠ .privilege)

/-- Disarming (R160): a command on the master port other than the four that keep an armed operation acts as on the state
disarmed; what disarming writes; the three that keep it, and a Confirm that does not match. -/
def Obligations.DisarmingRule : Prop :=
  (∀ (i : Instr) (f : Frame) (code : Nat) (s : State), frameOf i = some f → codeOf i = some code → PortTakes s f.port →
    s.cmd.mastership = some f.port → code ∉ [0x01, 0x02, 0x03, 0x0B] → exec i s = exec i (disarm f.port s)) ∧
  (∀ (p : PortId) (s : State), disarm p s = { s with cmd := (disarm p s).cmd, zones := disarmedZones s p } ∧
    (disarm p s).cmd.mastership = s.cmd.mastership ∧ (disarm p s).cmdPort p = { s.cmdPort p with armed := .none } ∧
    ∀ q, q ≠ p → (disarm p s).cmdPort q = s.cmdPort q) ∧
  (∀ (i : Instr) (f : Frame) (code : Nat) (s : State), frameOf i = some f → codeOf i = some code → PortTakes s f.port →
    code ∈ [0x01, 0x02, 0x03] → ∃ t, exec i s = .next t ∧ (∀ q, (t.cmdPort q).armed = (s.cmdPort q).armed) ∧
      t.zones = s.zones) ∧
  (∀ (f : Frame) (operation parameter : Byte) (i : Instr) (s : State), PortTakes s f.port → DeficitFollows s →
    s.cmd.mastership = some f.port → confirmOf f operation parameter = i →
    ((s.cmdPort f.port).armed = .none ∨
      (match (s.cmdPort f.port).armed with
        | .none => False
        | .commit => operation ≠ 0x39#8 ∨ parameter ≠ 0#8
        | .poolRevoke pool => operation ≠ 0x22#8 ∨ parameter.toNat ≠ pool.val + 1
        | .slotReset slot => operation ≠ 0x18#8 ∨ parameter.toNat ≠ slot.val + 1)) →
    exec i s = .next (respond f (answer .notArmed) (disarm f.port s)))

/-- The setups arm and change no record of the chassis (R36, R77, R100, R160); Commit Setup takes Working from Editable to
Armed, and is refused LOCKED while it is Frozen. -/
def Obligations.SetupsArm : Prop :=
  ∀ (f : Frame) (s : State), MasterClear s f.port →
    (s.zones.workingState = .editable → ∃ t, exec (.commitSetup f) s = .next (respond f (answer .done) t) ∧
      OnlyPort { s with zones := { s.zones with workingState := .armed } } t f.port { s.cmdPort f.port with armed := .commit }) ∧
    (s.zones.workingState = .frozen → exec (.commitSetup f) s = .next (respond f (answer .locked) s)) ∧
    (∀ (x : Byte) (pool : PoolIx), x.toNat = pool.val + 1 → ∃ t,
      exec (.poolRevoke f x) s = .next (respond f (answer .done) t) ∧
      OnlyPort s t f.port { s.cmdPort f.port with armed := .poolRevoke pool }) ∧
    (∀ x : Byte, x = 0 ∨ 16 < x.toNat → exec (.poolRevoke f x) s = .next (respond f (answer .outOfRange) s)) ∧
    (∀ (x : Byte) (slot : Slot), x.toNat = slot.val + 1 → ∃ t,
      exec (.slotReset f x) s = .next (respond f (answer .done) t) ∧
      OnlyPort s t f.port { s.cmdPort f.port with armed := .slotReset slot }) ∧
    (∀ x : Byte, x = 0 ∨ 14 < x.toNat → exec (.slotReset f x) s = .next (respond f (answer .outOfRange) s))

/-! ## Frames, responses and reads -/

/-- A frame and a read transaction at a port (R156): the response in the slot, whatever its status; the busy refusal; what the
read returns and leaves; the bytes of a response (table 11-2) and the status codes (table 11-7). Rows given by their bytes are
included, whatever row is named (the model's reading, log 6); that SDO holds the bytes of the last read is the model's choice
(log 20). -/
def Obligations.FramesAndReads : Prop :=
  (∀ (i : Instr) (f : Frame) (s : State),
    (frameOf i = some f ∨ ∃ bytes, rawOf i = some (f.port, bytes) ∧ f.tag = byteAt bytes 1) →
    (PortTakes s f.port → ∃ t r, exec i s = .next t ∧ (t.cmdPort f.port).working = true ∧
      (t.cmdPort f.port).response = some r ∧ r.tag = f.tag) ∧
    ((s.cmdPort f.port).prstLow = false → (s.cmdPort f.port).working = true → ∃ t, exec i s = .next t ∧
      OnlyPort s t f.port { s.cmdPort f.port with tally := min ((s.cmdPort f.port).tally + 1) 255, busyTag := f.tag })) ∧
  (∀ (f : Frame) (a : Answer) (s : State), OnlyPort s (respond f a s) f.port
    { s.cmdPort f.port with
      working := true, response := some { tag := f.tag, status := a.status, detail := a.detail, fields := a.fields } }) ∧
  (∀ (p : PortId) (s : State) (r : Response), (s.cmdPort p).prstLow = false → (s.cmdPort p).working = true →
    (s.cmdPort p).response = some r → ∃ t, exec (.readTransaction p) s = .next t ∧
      OnlyPort s t p { s.cmdPort p with
        working := false, response := none, tally := 0,
        sdo := responseBytes r ++ (if (s.cmdPort p).tally = 0 then [] else
          responseBytes { tag := (s.cmdPort p).busyTag, status := .busy,
                          detail := BitVec.ofNat 8 (s.cmdPort p).tally, fields := [] }) }) ∧
  (∀ (p : PortId) (s : State), (s.cmdPort p).prstLow = false → (s.cmdPort p).working = false →
    ∃ t, exec (.readTransaction p) s = .next t ∧ OnlyPort s t p { s.cmdPort p with sdo := [0x00#8] }) ∧
  (∀ r : Response,
    let sent := [0xA5#8, r.tag, BitVec.ofNat 8 r.status.code, r.detail] ++ split2 (BitVec.ofNat 16 r.fields.length) ++ r.fields
    responseBytes r = sent ++ split2 (crc16 sent)) ∧
  [Status.done, .started, .queued, .noChange, .pending].map Status.code = [0, 1, 2, 3, 4] ∧
  [Status.busy, .privilege, .illegalCommand, .reservedCommand, .invalidForm, .invalidField, .badCheck, .badLength].map
    Status.code = [16, 17, 18, 19, 20, 21, 22, 23] ∧
  [Status.outOfRange, .endOfTable, .notFound, .duplicate, .capacity, .locked, .notArmed, .tooLate].map Status.code =
    [32, 33, 34, 35, 36, 37, 38, 39] ∧
  [Status.held, .conflict, .portActive, .validation, .checkMismatch, .belowBound, .noChassisNumber, .idle].map Status.code =
    [40, 41, 42, 43, 44, 45, 46, 47]

/-- The checks of a frame in their order (R157, steps 1 to 5), over the rows that carry a transaction's bytes, with what is taken
as a command and so disarms, which Identify, Read Status and Read Attention never do (R160); a transaction of fewer than six bytes
is BAD_LENGTH (R170). A frame that passes acts as the command whose code and payload it carries. That the bytes decide, whatever
row is named, is the model's reading (log 6). -/
def Obligations.FrameChecks : Prop :=
  ∀ (i : Instr) (p : PortId) (bytes : List Byte) (s : State), rawOf i = some (p, bytes) → PortTakes s p →
    let f : Frame := { port := p, tag := byteAt bytes 1 }
    let code := (byteAt bytes 0).toNat
    let checkRight := bytes.drop (bytes.length - 2) = split2 (crc16 (bytes.take (bytes.length - 2)))
    let lengthRight := (halfAt bytes 2).toNat = bytes.length - 6
    (bytes.length < 6 → exec i s = .next (respond f (answer .badLength) s)) ∧
    (6 ≤ bytes.length → ¬ checkRight → exec i s = .next (respond f (answer .badCheck) s)) ∧
    (6 ≤ bytes.length → checkRight → ¬ lengthRight → exec i s = .next (respond f (answer .badLength) s)) ∧
    (6 ≤ bytes.length → checkRight → lengthRight →
      (0x80 ≤ code → code ≤ 0xBF → exec i s = .next (respond f (answer .reservedCommand) (disarmMaster p s))) ∧
      (¬ assignedCode code → ¬ (0x80 ≤ code ∧ code ≤ 0xBF) →
        exec i s = .next (respond f (answer .illegalCommand) (disarmMaster p s))) ∧
      (assignedCode code → payloadLength code ≠ some (bytes.length - 6) →
        exec i s = .next (respond f (answer .badLength) (if code ∈ [0x01, 0x02, 0x03] then s else disarmMaster p s))) ∧
      (payloadLength code = some (bytes.length - 6) → ∃ c,
        commandFields c = some (f, byteAt bytes 0, (bytes.take (bytes.length - 2)).drop 4) ∧ exec i s = exec c s))

/-! ## Identity, status, attention, cursors, parameters -/

/-- Identify answers its twenty fixed bytes (R166, R171); Read Status answers 53 bytes, each the value as it stands, with the nine
bytes of each commit result record (R166, R171); and the uptime counts seconds, wrapping (R166; that a second is a command is
log 26). -/
def Obligations.IdentityAndStatusRule : Prop :=
  (∀ (f : Frame) (s : State), PortTakes s f.port → exec (.identify f) s = .next (respond f
    { status := .done, detail := 0,
      fields := [0x0E#8, 0x17#8, 0x28#8, 0x16#8, 1#8, 0x02#8, 0xA0#8, 14#8, 10#8, 50#8, 16#8, 0x02#8, 0x00#8, 0x10#8,
                 0x00#8, 0x08#8, 0x00#8, 64#8, 128#8, 8#8] } s)) ∧
  (∀ s : State, exec .uptimeTick s = .next { s with uptime := BitVec.ofNat 32 (s.uptime.toNat + 1) }) ∧
  (∀ (f : Frame) (s : State), PortTakes s f.port →
    let result : Option ResultRec → List Byte := fun
      | none => [0#8, 0#8, 0#8, 0#8, 0#8, 0#8, 0#8, 0#8, 0#8]
      | some r => [1#8] ++ split2 r.number ++
          [match r.outcome with
            | .inFlight => 0#8
            | .passed => 1#8
            | .passedDegraded => 2#8
            | .aborted => 3#8
            | .withdrawn => 4#8,
           BitVec.ofNat 8 r.fenced] ++ split4 r.generation
    ∃ x : List Byte,
    exec (.readStatus f) s = .next (respond f { status := .done, detail := 0, fields := x } s) ∧ x.length = 53 ∧
    byteAt x 0 = (match s.cmd.mastership with
      | none => 0#8
      | some .a => 1#8
      | some .b => 2#8) ∧
    byteAt x 1 = (if s.cmd.mastership = some f.port then 1#8 else 0#8) ∧
    byteAt x 2 = (if (s.cmdPort .a).supervisor then 1#8 else 0#8) ∧
    byteAt x 3 = (if (s.cmdPort .b).supervisor then 1#8 else 0#8) ∧
    (byteAt x 4, byteAt x 5) = (match (s.cmdPort f.port).armed with
      | .none => (0#8, 0#8)
      | .commit => (0x39#8, 0#8)
      | .poolRevoke pool => (0x22#8, BitVec.ofNat 8 (pool.val + 1))
      | .slotReset slot => (0x18#8, BitVec.ofNat 8 (slot.val + 1))) ∧
    byteAt x 6 = (match s.commit.engine with
      | .idle => 0#8
      | .fencing => 1#8
      | .releasing => 2#8) ∧
    byteAt x 7 = (match s.commit.direction with
      | .forward => 0#8
      | .abort => 1#8) ∧
    (byteAt x 8, halfAt x 9) = (match s.commit.active with
      | none => (0#8, 0#16)
      | some k => (1#8, k)) ∧
    (byteAt x 11, halfAt x 12) = (match s.commit.queued with
      | none => (0#8, 0#16)
      | some k => (1#8, k)) ∧
    byteAt x 14 = (match s.zones.workingState with
      | .editable => 0#8
      | .armed => 1#8
      | .frozen => 2#8) ∧
    byteAt x 15 = (if s.zones.modified then 1#8 else 0#8) ∧
    (x.drop 16).take 9 = result s.commit.current ∧ (x.drop 25).take 9 = result s.commit.previous ∧
    wordAt x 34 = s.zones.generation ∧
    byteAt x 38 = (match s.power.mode with
      | .none => 0#8
      | .nPlus1 => 1#8
      | .feed => 2#8) ∧
    halfAt x 39 = BitVec.ofNat 16 (availableOf s.power) ∧ halfAt x 41 = BitVec.ofInt 16 (headroomOf s.power) ∧
    byteAt x 43 = BitVec.ofNat 8 s.params.probeRetry ∧ byteAt x 44 = BitVec.ofNat 8 s.params.commitRetry ∧
    byteAt x 45 = BitVec.ofNat 8 s.params.grace ∧ byteAt x 46 = BitVec.ofNat 8 s.params.fanNormal ∧
    halfAt x 47 = BitVec.ofNat 16 s.params.fanFloor ∧ wordAt x 49 = s.uptime)

/-- Attention and the alert lines (R161): a reason is added to both sets; Read Attention returns the port's set and empties it;
Set Alert Mask records the mask, bits 0 to 4, or refuses a field that names anything else; each line follows. -/
def Obligations.AttentionRule : Prop :=
  (∀ (r : Reason) (s : State) (p : PortId),
    (addReason r s).attention p =
      { set := (s.attention p).set.add r, mask := (s.attention p).mask,
        alertLow := ((s.attention p).set.add r).meets (s.attention p).mask } ∧
    addReason r s = { s with attn := (addReason r s).attn }) ∧
  (∀ (f : Frame) (s : State), PortTakes s f.port → ∃ t x,
    exec (.readAttention f) s = .next (respond f { status := .done, detail := 0, fields := [x] } t) ∧
    (x.getLsbD 0 = (s.attention f.port).set.alarm ∧ x.getLsbD 1 = (s.attention f.port).set.commit ∧
      x.getLsbD 2 = (s.attention f.port).set.slot ∧ x.getLsbD 3 = (s.attention f.port).set.license ∧
      x.getLsbD 4 = (s.attention f.port).set.power ∧ x.toNat < 32) ∧
    t = { s with attn := t.attn } ∧
    t.attention f.port = { set := ReasonSet.empty, mask := (s.attention f.port).mask, alertLow := false } ∧
    ∀ q, q ≠ f.port → t.attention q = s.attention q) ∧
  (∀ (f : Frame) (mask : Byte) (s : State), PortClear s f.port →
    (32 ≤ mask.toNat → exec (.setAlertMask f mask) s = .next (respond f (answer .invalidField) s)) ∧
    (mask.toNat < 32 → ∃ t m, exec (.setAlertMask f mask) s = .next (respond f (answer .done) t) ∧
      m = { alarm := mask.getLsbD 0, commit := mask.getLsbD 1, slot := mask.getLsbD 2, license := mask.getLsbD 3,
            power := mask.getLsbD 4 } ∧
      t = { s with attn := t.attn } ∧
      t.attention f.port = { set := (s.attention f.port).set, mask := m, alertLow := (s.attention f.port).set.meets m } ∧
      ∀ q, q ≠ f.port → t.attention q = s.attention q))

/-- Set Cursor (R162): its refusals in order, and the value recorded; cursor 0 reads as 0 wherever a cursor is read; no command
but Set Cursor, Fetch and the resets changes a cursor, of the rows that do not carry a whole frame by its bytes. -/
def Obligations.CursorRule : Prop :=
  (∀ port : CmdPort, readCursor port 0 = 0) ∧
  (∀ (i : Instr) (s t : State) (p : PortId), exec i s = .next t → rawOf i = none → (∀ lines, i ≠ .coldReset lines) →
    (∀ q level, i ≠ .portReset q level) → (∀ f, i ≠ .portRestart f) → (∀ f c v, i ≠ .setCursor f c v) →
    (∀ f table base mode operand flags load, i ≠ .fetch f table base mode operand flags load) →
    (t.cmdPort p).cursors = (s.cmdPort p).cursors) ∧
  ∀ (f : Frame) (cursor : Byte) (value : Half) (s : State), PortClear s f.port →
    (7 < cursor.toNat → exec (.setCursor f cursor value) s = .next (respond f (answer .invalidField) s)) ∧
    (cursor = 0 → exec (.setCursor f cursor value) s = .next (respond f (answer .invalidForm) s)) ∧
    (∀ c : Fin 7, cursor.toNat = c.val + 1 → ∃ t, exec (.setCursor f cursor value) s = .next (respond f (answer .done) t) ∧
      OnlyPort s t f.port { s.cmdPort f.port with cursors := (s.cmdPort f.port).cursors.set c value })

/-- Set Parameter (R165): the ranges, NO_CHANGE for the value held, the value recorded; a new fan normal duty drives FANDUTY at
once while the duty is Normal. -/
def Obligations.ParameterRule : Prop :=
  ∀ (f : Frame) (number : Byte) (value : Half) (s : State), MasterClear s f.port →
    let lawful := (number = 1 ∧ value.toNat ≤ 7) ∨ (number = 2 ∧ value.toNat ≤ 7) ∨ (number = 3 ∧ value.toNat ≤ 168) ∨
      (number = 4 ∧ 30 ≤ value.toNat ∧ value.toNat ≤ 100) ∨ (number = 5 ∧ value.toNat ≤ 20000)
    let held := match number.toNat with
      | 1 => s.params.probeRetry
      | 2 => s.params.commitRetry
      | 3 => s.params.grace
      | 4 => s.params.fanNormal
      | _ => s.params.fanFloor
    (¬ lawful → exec (.setParameter f number value) s = .next (respond f (answer .invalidField) s)) ∧
    (lawful → value.toNat = held → exec (.setParameter f number value) s = .next (respond f (answer .noChange) s)) ∧
    (lawful → value.toNat ≠ held → ∃ t, exec (.setParameter f number value) s = .next (respond f (answer .done) t) ∧
      t = { s with params := t.params
                   scanner := { s.scanner with duty := t.scanner.duty, fanPct := t.scanner.fanPct } } ∧
      t.params = (match number.toNat with
        | 1 => { s.params with probeRetry := value.toNat }
        | 2 => { s.params with commitRetry := value.toNat }
        | 3 => { s.params with grace := value.toNat }
        | 4 => { s.params with fanNormal := value.toNat }
        | _ => { s.params with fanFloor := value.toNat }) ∧
      (t.scanner.duty = .normal ↔ s.scanner.firstRound = true ∧ s.scanner.boosts = [] ∧
        ∀ u : UnitIx, 6 ≤ u.val → (s.unit u).state = .starting ∨ (s.unit u).state = .online) ∧
      (t.scanner.duty = .normal → t.scanner.fanPct = t.params.fanNormal) ∧
      (t.scanner.duty = .boost → t.scanner.fanPct = 100))

/-! ## Fetch -/

/-- Fetch (R163, R164): the checks in order, the index modulo 65,536, the range, skip-vacant and END, the answer, the two cursor
updates, and the sticky matched flag of a fetched rule. That only the second byte of an Indexed operand counts,
whatever the first holds, is the model's reading (log 14). -/
def Obligations.FetchRule : Prop :=
  ∀ (f : Frame) (table base mode : Byte) (operand : Half) (flags load : Byte) (s : State), PortClear s f.port →
    let i : Instr := .fetch f table base mode operand flags load
    let port := s.cmdPort f.port
    let x := (operand.extractLsb' 0 8).toNat
    let wrong := table = 0 ∨ 10 < table.toNat ∨ 7 < base.toNat ∨ 7 < load.toNat ∨ 1 < mode.toNat ∨ (mode = 1 ∧ 7 < x)
    let advance := flags.getLsbD 0
    let skip := flags.getLsbD 1
    let index := (readCursor port base.toNat + (if mode = 0 then operand else readCursor port x)).toNat
    (wrong → exec i s = .next (respond f (answer .invalidField) s)) ∧
    (¬ wrong → advance = true → (base = 0 ∨ load = base) → exec i s = .next (respond f (answer .invalidForm) s)) ∧
    (∀ k, ¬ wrong → (advance = true → base ≠ 0 ∧ load ≠ base) → tableOf table = some k →
      (index < k.first ∨ k.last < index → exec i s = .next (respond f (answer .outOfRange) s)) ∧
      (k.first ≤ index → index ≤ k.last → skip = true →
        (∀ j, index ≤ j → j ≤ k.last → (tableRow s k j).occupied = false) →
        exec i s = .next (respond f (answer .endOfTable) s)) ∧
      (∀ j, k.first ≤ index → j ≤ k.last →
        ((skip = false ∧ j = index) ∨ (skip = true ∧ index ≤ j ∧ (tableRow s k j).occupied = true ∧
          ∀ m, index ≤ m → m < j → (tableRow s k m).occupied = false)) →
        ∃ t, exec i s = .next (respond f
            { status := .done, detail := 0,
              fields := [table] ++ split2 (BitVec.ofNat 16 j) ++ split2 (BitVec.ofNat 16 (tableRow s k j).link) ++
                (tableRow s k j).bytes } t) ∧
          t = { s with cmd := t.cmd, rules := t.rules } ∧ OnlyPort { s with rules := t.rules } t f.port
            { port with cursors := (t.cmdPort f.port).cursors } ∧
          (∀ c, 1 ≤ c → c ≤ 7 → readCursor (t.cmdPort f.port) c =
            if advance = true ∧ c = base.toNat then BitVec.ofNat 16 j
            else if c = load.toNat then BitVec.ofNat 16 (tableRow s k j).link
            else readCursor port c) ∧
          (∀ r : RuleIx, t.rule r = if k = .rules ∧ r.val = j then { s.rule r with sticky := false } else s.rule r)))

/-- The ten tables of Fetch (R163, R171): code, range, link field, when a record is vacant, the codes of the fields, and the bytes
of every record as 11.4 and table 11-6 lay them out, an absent zone and a free position included. That a PSU's record carries 0 as
fan duty is the model's choice (log 14), and so are the 0 of the grace hours without a grace and of a rule's k in Idle and Active
(log 31). -/
def Obligations.FetchTables : Prop :=
  ∀ s : State,
    let flag : Bool → Byte := fun b => if b then 1#8 else 0#8
    let byte : Nat → Byte := BitVec.ofNat 8
    let half : Nat → List Byte := fun v => split2 (BitVec.ofNat 16 v)
    let zone : Nat → Option Zone → List Byte := fun id => fun
      | none => half id ++ List.replicate 34 0#8
      | some z => half id ++ z.name ++ List.replicate (32 - z.name.length) 0#8 ++
          [byte z.kind.code, byte z.members.length] ++
          z.members.flatMap fun m =>
            (match m.designator with
              | .name d => 0#8 :: split8 d
              | .port slot pos => [1#8, byte (slot.val + 1), byte pos.val, 0#8, 0#8, 0#8, 0#8, 0#8, 0#8]) ++
            [byte m.role.code]
    (tableOf 1 = some .ports ∧ tableOf 2 = some .cards ∧ tableOf 3 = some .units ∧ tableOf 4 = some .sources ∧
      tableOf 5 = some .pools ∧ tableOf 6 = some .liveZones ∧ tableOf 7 = some .workingZones ∧ tableOf 8 = some .names ∧
      tableOf 9 = some .rules ∧ tableOf 10 = some .alarms) ∧
    ([Table.ports, .cards, .units, .sources, .pools, .liveZones, .workingZones, .names, .rules, .alarms].map fun k =>
        (k.first, k.last)) =
      [(0, 671), (1, 14), (1, 10), (0, 49), (1, 16), (1, 512), (1, 512), (0, 2047), (0, 63), (0, 127)] ∧
    ([Intent.disabled, .enabled].map Intent.code = [0, 1] ∧
      [PortPower.off, .waiting, .admitted].map PortPower.code = [0, 1, 2] ∧
      [LinkState.dark, .lit].map LinkState.code = [0, 1] ∧
      [Reported.absent, .disabled, .unlicensed, .unpowered, .isolated, .ready, .live].map Reported.code =
        [0, 1, 2, 3, 4, 5, 6] ∧
      [CardState.empty, .probing, .waiting, .admitting, .joined, .fenced, .parked, .failed].map CardState.code =
        [0, 1, 2, 3, 4, 5, 6, 7] ∧
      [FailureReason.none, .noAnswer, .badIdentity, .noReady].map FailureReason.code = [0, 1, 2, 3] ∧
      [UnitState.absent, .starting, .online, .faulted].map UnitState.code = [0, 1, 2, 3] ∧
      [PoolState.vacant, .active, .expiring, .expired].map PoolState.code = [0, 1, 2, 3] ∧
      [PoolKind.perpetual, .term].map PoolKind.code = [0, 1] ∧ [ZoneKind.plain, .peer].map ZoneKind.code = [0, 1] ∧
      [Role.none, .principal, .peer].map Role.code = [0, 1, 2] ∧
      [NameStatus.learned, .pinned, .pinnedPresent].map NameStatus.code = [0, 1, 2] ∧
      [CmpType.equal, .below, .atOrAbove].map CmpType.code = [0, 1, 2] ∧
      [Combine.aOnly, .aOrB, .aAndB].map Combine.code = [0, 1, 2] ∧
      [Severity.minor, .major, .critical].map Severity.code = [0, 1, 2] ∧
      [Cause.rule, .psuFault, .fanFault, .cardFault, .poolTerm, .budgetDeficit, .nameMapFull, .commitDegraded].map
        Cause.code = [1, 2, 3, 4, 5, 6, 7, 8] ∧
      [AlarmState.raised, .acknowledged, .clearedUnacked].map AlarmState.code = [0, 1, 2]) ∧
    (∀ n : PortIx, (tableRow s .ports n.val).link = n.val / 48 + 1 ∧ (tableRow s .ports n.val).bytes.length = 15 ∧
      ((tableRow s .ports n.val).occupied = false ↔
        reported s n = .absent ∧ (s.port n).intent = .disabled ∧ (s.port n).license = .unlicensed) ∧
      (tableRow s .ports n.val).bytes = half n.val ++ [byte (n.val / 48 + 1), byte (n.val % 48)] ++
        [byte (s.port n).intent.code, byte (s.port n).priority.val] ++
        (match (s.port n).license with
          | .unlicensed => [0#8, 0#8, 0#8]
          | .bound k => [1#8, byte (k.val + 1), 0#8]
          | .grace k h => [2#8, byte (k.val + 1), byte h]) ++
        [byte (s.port n).power.code, flag (s.port n).hold, byte (s.port n).link.code,
         byte (s.port n).logins, flag (serviceable s n),
         byte (reported s n).code]) ∧
    (∀ c : Slot, (tableRow s .cards (c.val + 1)).link = ((s.card c).identity.map Identity.portCount).getD 0 ∧
      (tableRow s .cards (c.val + 1)).bytes.length = 19 ∧
      ((tableRow s .cards (c.val + 1)).occupied = false ↔ (s.card c).state = .empty) ∧
      (tableRow s .cards (c.val + 1)).bytes =
        [byte (c.val + 1), byte (s.card c).state.code] ++
        (match (s.card c).identity with
          | none => [0#8, 0#8, 0#8, 0#8, 0#8, 0#8, 0#8]
          | some x => [1#8] ++ split2 x.cardType ++ [byte x.portCount, byte x.tier] ++ half x.baseDraw) ++
        [byte (s.card c).failure.code,
         byte (s.card c).attempts] ++ half (s.card c).retryTimeout ++ [flag (s.card c).presence, flag (s.card c).powerEnable] ++
        split2 (s.card c).temperature ++ [flag (s.card c).tempValid, byte (s.card c).parkClaims.length]) ∧
    (∀ u : UnitIx, (tableRow s .units (u.val + 1)).link = 0 ∧ (tableRow s .units (u.val + 1)).bytes.length = 16 ∧
      ((tableRow s .units (u.val + 1)).occupied = false ↔ (s.unit u).state = .absent) ∧
      (tableRow s .units (u.val + 1)).bytes =
        [byte (u.val + 1), byte (s.unit u).state.code,
         byte (s.unit u).good, byte (s.unit u).bad, flag (s.unit u).readOk, flag (s.unit u).wasPresent] ++
        split2 (s.unit u).rating ++ split2 (s.unit u).output ++ split2 (s.unit u).inlet ++ [flag (s.unit u).outputGood] ++
        split2 (s.unit u).speed ++ [byte (if u.val < 6 then 0 else s.scanner.fanPct)]) ∧
    (∀ k : SourceIx, (tableRow s .sources k.val).link = 0 ∧ (tableRow s .sources k.val).bytes.length = 6 ∧
      (tableRow s .sources k.val).occupied = true ∧
      (tableRow s .sources k.val).bytes =
        [byte k.val] ++ split4 (BitVec.ofInt 32 (s.source k).value) ++ [flag (s.source k).valid]) ∧
    (∀ k : PoolIx, (tableRow s .pools (k.val + 1)).link = (s.pool k).bound ∧
      (tableRow s .pools (k.val + 1)).bytes.length = 12 ∧
      ((tableRow s .pools (k.val + 1)).occupied = false ↔ (s.pool k).state = .vacant) ∧
      (tableRow s .pools (k.val + 1)).bytes =
        [byte (k.val + 1), byte (s.pool k).state.code, byte (s.pool k).tier, byte (s.pool k).kind.code] ++
        half (s.pool k).capacity ++ half (s.pool k).bound ++ half (s.pool k).hours ++ half (s.pool k).warn) ∧
    (∀ id, (tableRow s .liveZones id).link = ((s.zones.live.zone? id).map fun z => z.members.length).getD 0 ∧
      ((tableRow s .liveZones id).occupied = false ↔ ∀ z ∈ s.zones.live.zones, z.id ≠ id) ∧
      (tableRow s .liveZones id).bytes = zone id (s.zones.live.zone? id) ∧
      (ImageLawful s.zones.live → (tableRow s .liveZones id).bytes.length = 36 + 10 * (tableRow s .liveZones id).link)) ∧
    (∀ id, (tableRow s .workingZones id).link = ((s.zones.working.zone? id).map fun z => z.members.length).getD 0 ∧
      ((tableRow s .workingZones id).occupied = false ↔ ∀ z ∈ s.zones.working.zones, z.id ≠ id) ∧
      (tableRow s .workingZones id).bytes = zone id (s.zones.working.zone? id) ∧
      (ImageLawful s.zones.working →
        (tableRow s .workingZones id).bytes.length = 36 + 10 * (tableRow s .workingZones id).link)) ∧
    (∀ (im : Image) (z : Zone), ImageLawful im → z ∈ im.zones → im.zone? z.id = some z) ∧
    (∀ k, (tableRow s .names k).bytes.length = 17 ∧
      (tableGet s.names k = none → (tableRow s .names k).link = 65535 ∧ (tableRow s .names k).occupied = false ∧
        (tableRow s .names k).bytes = half k ++ [1#8] ++ List.replicate 14 0#8) ∧
      ∀ e, tableGet s.names k = some e → (tableRow s .names k).link = e.port.val ∧ (tableRow s .names k).occupied = true ∧
        (tableRow s .names k).bytes = half k ++ [0#8] ++ split8 e.name ++
          [byte e.status.code] ++
          half e.port.val ++ [byte (e.port.val / 48 + 1), byte (e.port.val % 48),
            if e.status = .pinned then 0#8 else 1#8]) ∧
    (∀ r : RuleIx, (tableRow s .rules r.val).link = (s.rule r).source.val ∧ (tableRow s .rules r.val).bytes.length = 20 ∧
      (tableRow s .rules r.val).occupied = (s.rule r).written ∧
      (tableRow s .rules r.val).bytes =
        [byte r.val, flag (s.rule r).written, flag (s.rule r).enabled, byte (s.rule r).source.val,
         byte (s.rule r).cmpA.type.code] ++
        split2 (s.rule r).cmpA.threshold ++ [byte (s.rule r).cmpB.type.code] ++ split2 (s.rule r).cmpB.threshold ++
        [byte (s.rule r).combine.code, byte (s.rule r).holdOff, byte (s.rule r).release, byte (s.rule r).severity.code] ++
        (match (s.rule r).action with
          | .none => [0#8, 0#8]
          | .fanBoost => [1#8, 0#8]
          | .shed n => [2#8, byte n.val]
          | .cardOff => [3#8, 0#8]) ++
        [flag (s.rule r).silent] ++
        (match (s.rule r).state with
          | .idle => [0#8, 0#8]
          | .counting k => [1#8, byte k]
          | .active => [2#8, 0#8]
          | .releasing k => [3#8, byte k]) ++
        [flag (s.rule r).sticky]) ∧
    (∀ k, (tableRow s .alarms k).bytes.length = 17 ∧
      (tableGet s.alarms k = none → (tableRow s .alarms k).link = 0 ∧ (tableRow s .alarms k).occupied = false ∧
        (tableRow s .alarms k).bytes = [byte k, 1#8] ++ List.replicate 15 0#8) ∧
      ∀ e, tableGet s.alarms k = some e → (tableRow s .alarms k).link = e.subject ∧ (tableRow s .alarms k).occupied = true ∧
        (tableRow s .alarms k).bytes =
          [byte k, 0#8, byte e.cause.code, byte e.subject, byte e.severity.code, byte e.state.code, byte e.count] ++
          split4 e.first ++ split4 e.last ++ [flag e.silent, byte e.detail])

/-! ## Port commands -/

/-- Port Enable (R13 to R16): the refusals of step 1, the seven answers, the intent, priority and binding it leaves, and the
restore pass over the port that has joined the wait list. That the deficit is settled once, at the end of the event, is the
model's reading (log 8). -/
def Obligations.PortEnableRule : Prop :=
  ∀ (f : Frame) (port : Half) (pool priority : Byte) (s : State), MasterClear s f.port → DeficitFollows s →
    WaitListFollows s →
    let i : Instr := .portEnable f port pool priority
    let fieldsRight := pool.toNat ≤ 16 ∧ (priority.toNat ≤ 7 ∨ priority = 255)
    (671 < port.toNat → exec i s = .next (respond f (answer .outOfRange) s)) ∧
    (port.toNat ≤ 671 → ¬ fieldsRight → exec i s = .next (respond f (answer .invalidField) s)) ∧
    (∀ n : PortIx, port.toNat = n.val → fieldsRight →
      let enabled := { s.port n with
        intent := .enabled
        priority := if h : priority.toNat < 8 then ⟨priority.toNat, h⟩ else (s.port n).priority }
      let present := (s.card (slotOf n)).state.inService = true ∧ withinCount s n = true
      let choice := if pool = 0 then autoChoice s n
        else (index1? 16 pool.toNat).filter fun k => poolServes s (s.card (slotOf n)).tier k
      let waiting := fun (v : State) (license : License) =>
        waitWith n
          { enabled with license := license, power := .waiting, hold := decide (v.power.cap ≤ enabled.priority.val) } v
      ((s.port n).intent = .enabled → (priority = 255 ∨ priority.toNat = (s.port n).priority.val) →
        exec i s = .next (respond f (answer .noChange) s)) ∧
      ((s.port n).intent = .enabled → priority ≠ 255 → ∃ t a, a ∈ [Status.done, Status.noChange] ∧
        exec (.portSetPriority f port priority) s = .next (respond f (answer a) t) ∧
        exec i s = .next (respond f (answer .noChange) t)) ∧
      ((s.port n).intent = .disabled → ¬ present →
        exec i s = .next (respond f { status := .pending, detail := 1, fields := [] }
          { s with ports := s.ports.set n enabled })) ∧
      ((s.port n).intent = .disabled → present → (s.port n).license = .unlicensed → choice = none →
        exec i s = .next (respond f { status := .pending, detail := 2, fields := [] }
          { s with ports := s.ports.set n enabled })) ∧
      ((s.port n).intent = .disabled → present → ((s.port n).license ≠ .unlicensed ∨ choice ≠ none) → ∃ t a,
        exec i s = .next (respond f a t) ∧
        a = (if (t.port n).power = .waiting ∧ (t.port n).hold = true then { status := .pending, detail := 4, fields := [] }
          else if (t.port n).power = .waiting then { status := .pending, detail := 3, fields := [] }
          else if (s.card (slotOf n)).state = .fenced then { status := .pending, detail := 5, fields := [] }
          else answer .done) ∧
        (t.port n).power ≠ .off ∧ (a = answer .done → serviceable t n = true) ∧
        (t.port n).intent = .enabled ∧ (t.port n).priority = enabled.priority ∧
        (if (s.port n).license = .unlicensed then (∃ k, choice = some k ∧ (t.port n).license = .bound k ∧
            t.license = (changeBound k (· + 1) s).license)
          else (t.port n).license = (s.port n).license ∧ t.license = s.license) ∧
        (∀ m, m ≠ n → (t.port m).intent = (s.port m).intent ∧ (t.port m).priority = (s.port m).priority ∧
          (t.port m).license = (s.port m).license) ∧
        ((s.port n).license ≠ .unlicensed → t = settleDeficit (restorePass (waiting s (s.port n).license))) ∧
        (∀ k, (s.port n).license = .unlicensed → choice = some k →
          t = settleDeficit (restorePass (waiting (changeBound k (· + 1) s) (.bound k)))) ∧
        OutsideKept s t ∧ EnginesKept s t))

/-- Port Disable (R17): its refusal and its NO_CHANGE; the intent Disabled, eligibility and Serviceable lost with their effects,
licence and priority kept; where it was Serviceable, Revoke to its card and a Purge for each login to every Joined card (R7, R122,
R123); and the restore pass where the port's draw was released (R55). That the deficit is settled once, at the end of the event,
is the model's reading (log 8). -/
def Obligations.PortDisableRule : Prop :=
  ∀ (f : Frame) (port : Half) (s : State), MasterClear s f.port → DeficitFollows s → WaitListFollows s → NamesLawful s →
    (671 < port.toNat → exec (.portDisable f port) s = .next (respond f (answer .outOfRange) s)) ∧
    (∀ n : PortIx, port.toNat = n.val →
      ((s.port n).intent = .disabled → exec (.portDisable f port) s = .next (respond f (answer .noChange) s)) ∧
      ((s.port n).intent = .enabled → ∃ t, exec (.portDisable f port) s = .next (respond f (answer .done) t) ∧
        (t.port n).intent = .disabled ∧ (t.port n).power = .off ∧ (t.port n).hold = false ∧
        WaitItem.port n ∉ t.power.waitList ∧ (t.port n).license = (s.port n).license ∧
        (t.port n).priority = (s.port n).priority ∧ serviceable t n = false ∧
        (serviceable s n = true → (t.port n).link = .dark ∧ (t.port n).logins = 0 ∧ loginsOn t n = [] ∧
          CardMsg.revoke (posOf n) ∈ (t.card (slotOf n)).outbox) ∧
        ((s.port n).power ≠ .admitted → t.names = s.names ∧ t.cards = s.cards ∧ ∀ m, m ≠ n → t.port m = s.port m) ∧
        (∀ m, m ≠ n → (t.port m).intent = (s.port m).intent ∧ (t.port m).priority = (s.port m).priority) ∧
        (∀ m, (t.port m).license = (s.port m).license) ∧ t.license = s.license ∧ OutsideKept s t ∧ EnginesKept s t ∧
        ∃ u, u = { s with
            ports := s.ports.set n { fallenPort s n with intent := .disabled }
            power := budgetWithout s fun m => m == n
            cards := u.cards, names := namesWithout s fun m => m == n } ∧
          (∀ c, u.card c = cardAfterFalls s [n] c) ∧
          t = settleDeficit (if (s.port n).power = .admitted then restorePass u else u)))

/-- Port Release License (R18): its checks in order; the port becomes Unlicensed and its pool's bound count falls by one, as it
stands where no port is waiting to be bound; nothing else of the port changes; and the rebinding pass that follows (R72). That the
deficit is settled once, at the end of the event, is the model's reading (log 8). -/
def Obligations.PortReleaseLicenseRule : Prop :=
  ∀ (f : Frame) (port : Half) (s : State), MasterClear s f.port → DeficitFollows s → WaitListFollows s →
    let i : Instr := .portReleaseLicense f port
    (671 < port.toNat → exec i s = .next (respond f (answer .outOfRange) s)) ∧
    (∀ n : PortIx, port.toNat = n.val →
      ((s.port n).intent = .enabled → exec i s = .next (respond f (answer .portActive) s)) ∧
      ((s.port n).intent = .disabled → (s.port n).license = .unlicensed →
        exec i s = .next (respond f (answer .noChange) s)) ∧
      (∀ k, (s.port n).intent = .disabled → (s.port n).license.pool? = some k → ∃ t,
        exec i s = .next (respond f (answer .done) t) ∧ t.port n = { s.port n with license := .unlicensed } ∧
        ((∀ m, rebindCandidate s m = false) → t.license = (changeBound k (· - 1) s).license ∧ t.power = s.power ∧
          t.cards = s.cards ∧ t.names = s.names ∧ ∀ m, m ≠ n → t.port m = s.port m) ∧
        t = settleDeficit (rebindThenRestore s.power.admitted { changeBound k (· - 1) s with
          ports := s.ports.set n { s.port n with license := .unlicensed } }) ∧
        SettingsKept s t ∧ OutsideKept s t ∧ EnginesKept s t))

/-- Port Set Priority (R19): its checks in order, then the table by the port's power and the cap, with what a displaced port sends
as it loses Serviceable (R7, R122, R123) and the restore pass that two of its rows run (R55). That the pass runs for a port that
waits below the cap, held or not, and that the deficit is settled once, at the end of the event, are the model's readings (log 23,
log 8). -/
def Obligations.PortSetPriorityRule : Prop :=
  ∀ (f : Frame) (port : Half) (priority : Byte) (s : State), MasterClear s f.port → DeficitFollows s → WaitListFollows s →
    let i : Instr := .portSetPriority f port priority
    (671 < port.toNat → exec i s = .next (respond f (answer .outOfRange) s)) ∧
    (port.toNat ≤ 671 → 7 < priority.toNat → exec i s = .next (respond f (answer .invalidField) s)) ∧
    (∀ (n : PortIx) (k : Priority), port.toNat = n.val → priority.toNat = k.val →
      ((s.port n).priority = k → exec i s = .next (respond f (answer .noChange) s)) ∧
      ((s.port n).priority ≠ k → ((s.port n).power = .off ∨ ((s.port n).power = .admitted ∧ k.val < s.power.cap)) →
        exec i s = .next (respond f (answer .done) { s with ports := s.ports.set n { s.port n with priority := k } })) ∧
      ((s.port n).priority ≠ k → (s.port n).power = .waiting → s.power.cap ≤ k.val → ∃ t,
        exec i s = .next (respond f (answer .done) t) ∧
        t.ports = s.ports.set n { s.port n with priority := k, hold := true } ∧
        t.power = { s.power with
          waitList := insertByKey (waitKey t) (.port n) (s.power.waitList.filter fun x => x ≠ .port n)
          deficit := t.power.deficit } ∧
        t.cards = s.cards ∧ t.names = s.names ∧ t.license = s.license ∧ OutsideKept s t ∧ EnginesKept s t) ∧
      ((s.port n).priority ≠ k → (s.port n).power = .waiting → k.val < s.power.cap → ∃ t,
        exec i s = .next (respond f (answer .done) t) ∧ (t.port n).priority = k ∧ (t.port n).hold = false ∧
        (t.port n).power ≠ .off ∧
        ((t.port n).power = .admitted → (s.card (slotOf n)).state = .joined → serviceable t n = true ∧
          CardMsg.permit (posOf n) ∈ (t.card (slotOf n)).outbox) ∧
        t = settleDeficit (restorePass (waitWith n { s.port n with priority := k, hold := false } s)) ∧
        (∀ m, m ≠ n → (t.port m).intent = (s.port m).intent ∧ (t.port m).priority = (s.port m).priority) ∧
        LicensesKept s t ∧ OutsideKept s t ∧ EnginesKept s t) ∧
      ((s.port n).priority ≠ k → (s.port n).power = .admitted → s.power.cap ≤ k.val → ∃ t,
        exec i s = .next (respond f (answer .done) t) ∧ (t.port n).priority = k ∧ (t.port n).hold = true ∧
        (t.port n).power = .waiting ∧ WaitItem.port n ∈ t.power.waitList ∧
        (serviceable s n = true → (t.port n).link = .dark ∧ (t.port n).logins = 0 ∧
          CardMsg.revoke (posOf n) ∈ (t.card (slotOf n)).outbox) ∧
        (NamesLawful s → ∃ u w, w = waitWith n { fallenPort s n with priority := k, power := .waiting, hold := true } s ∧
          u = { w with
            power := { w.power with admitted := s.power.admitted - portDraw s n }
            cards := u.cards, names := namesWithout s fun m => m == n } ∧
          (∀ c, u.card c = cardAfterFalls s [n] c) ∧
          t = settleDeficit (restorePass u)) ∧
        (∀ m, m ≠ n → (t.port m).intent = (s.port m).intent ∧ (t.port m).priority = (s.port m).priority) ∧
        LicensesKept s t ∧ OutsideKept s t ∧ EnginesKept s t))

/-! ## Slot links and card slots -/

/-- A Link message: discarded from a card that is not Joined; from a Joined card the rows of the table of R8. -/
def Obligations.LinkRule : Prop :=
  (∀ (slot : Slot) (position : Byte) (lit : Bool) (s : State), (s.card slot).state ≠ .joined →
    exec (.link slot position lit) s = .next s) ∧
  ∀ (slot : Slot) (position : Byte) (s : State), (s.card slot).state = .joined → NamesLawful s →
    ((s.card slot).portCount ≤ position.toNat → ∀ lit, exec (.link slot position lit) s = .next s) ∧
    (∀ n : PortIx, slotOf n = slot → posOf n = position.toNat → position.toNat < (s.card slot).portCount →
      (serviceable s n = false →
        exec (.link slot position true) s = .next { s with
          cards := s.cards.set slot { s.card slot with
            outbox := (s.card slot).outbox ++ [.revoke position.toNat] } } ∧
        exec (.link slot position false) s = .next s) ∧
      (serviceable s n = true →
        exec (.link slot position true) s = .next { s with ports := s.ports.set n { s.port n with link := .lit } } ∧
        ((s.port n).link = .dark → exec (.link slot position false) s = .next s) ∧
        ((s.port n).link = .lit → ∃ t, exec (.link slot position false) s = .next t ∧
          t = { s with ports := t.ports, cards := t.cards, names := t.names } ∧ LoginsGone s t n ∧
          t.port n = { s.port n with link := .dark, logins := 0 } ∧ (∀ m, m ≠ n → t.port m = s.port m) ∧
          (∀ c, t.card c = if (s.card c).state = .joined then
              { s.card c with outbox := (s.card c).outbox ++ (loggedIn s n).map .purge }
            else s.card c))))

/-- A presence rise of an Empty slot (R24); a Probe timeout (R25): the resend below the limit, the failure at it; and an Admitting
timeout (R30, R34): the draw released and a restore pass run (R55), Probing again with one more attempt, or Failed with NoReady;
each change of state adds Slot to both attention sets (R22). That a Probe sent again adds no Slot reason and discards no waiting
message is the model's reading (log 17). That the deficit is settled once, at the end of the event, is the model's reading (log
8). -/
def Obligations.ProbingAndAdmittingTimeouts : Prop :=
  (∀ (slot : Slot) (s : State), (s.card slot).presence = false → (s.card slot).state = .empty →
    exec (.presenceRise slot) s = .next (addReason .slot { s with
      cards := s.cards.set slot { s.card slot with
        state := .probing, identity := none, failure := .none, attempts := 0, retryTimeout := 500, timerOn := true,
        tempValid := false, presence := true, powerEnable := false, outbox := [.probe] } })) ∧
  (∀ (slot : Slot) (s : State), (s.card slot).state = .probing → (s.card slot).timerOn = true →
    (s.card slot).attempts < s.params.probeRetry →
    exec (.probeTimeout slot) s = .next { s with
      cards := s.cards.set slot { s.card slot with
        attempts := (s.card slot).attempts + 1
        retryTimeout := min (500 * 2 ^ ((s.card slot).attempts + 1)) 4000
        timerOn := true
        outbox := (s.card slot).outbox ++ [.probe] } }) ∧
  (∀ (slot : Slot) (s : State), (s.card slot).state = .probing → (s.card slot).timerOn = true →
    s.params.probeRetry ≤ (s.card slot).attempts → AlarmsLawful s → s.alarms.length < 128 → ∃ t,
    exec (.probeTimeout slot) s = .next t ∧ t = { s with cards := t.cards, alarms := t.alarms, attn := t.attn } ∧
    t.cards = s.cards.set slot { s.card slot with
      state := .failed, identity := none, failure := .noAnswer, timerOn := false, tempValid := false,
      powerEnable := false, outbox := [] } ∧
    AlarmStands t .cardFault (slot.val + 1) .major 1 ∧ OtherAlarmsKept s t .cardFault (slot.val + 1) ∧
    ∀ p, (t.attention p).set.slot = true) ∧
  ∀ (slot : Slot) (s : State), (s.card slot).state = .admitting → (s.card slot).timerOn = true → WaitListFollows s →
    let released := { s.power with admitted := s.power.admitted - (s.card slot).baseDraw }
    ((s.card slot).attempts < s.params.probeRetry → ∃ t, exec (.admittingTimeout slot) s = .next t ∧
      t.card slot = { s.card slot with
        state := .probing, identity := none, failure := .none, attempts := (s.card slot).attempts + 1
        retryTimeout := min (500 * 2 ^ ((s.card slot).attempts + 1)) 4000, timerOn := true, tempValid := false
        powerEnable := false, outbox := [.probe] } ∧ (∀ p, (t.attention p).set.slot = true) ∧
      (∃ u, u = { s with cards := s.cards.set slot (t.card slot), power := released, attn := u.attn } ∧
        t = settleDeficit (restorePass u)) ∧
      (s.power.waitList = [] → t.power.admitted = s.power.admitted - (s.card slot).baseDraw ∧ t.ports = s.ports) ∧
      LicensesKept s t ∧ SettingsKept s t ∧ OutsideKept s t ∧ EnginesKept s t) ∧
    (s.params.probeRetry ≤ (s.card slot).attempts → AlarmsLawful s → s.alarms.length < 128 → ∃ t,
      exec (.admittingTimeout slot) s = .next t ∧
      t.card slot = { s.card slot with
        state := .failed, identity := none, failure := .noReady, timerOn := false, tempValid := false,
        powerEnable := false, outbox := [] } ∧
      AlarmStands t .cardFault (slot.val + 1) .major 3 ∧ (∀ p, (t.attention p).set.slot = true) ∧
      (∃ u, u = { s with
          cards := s.cards.set slot (t.card slot), power := released, alarms := u.alarms, attn := u.attn } ∧
        t = settleDeficit (restorePass u)) ∧
      (s.power.waitList = [] → t.power.admitted = s.power.admitted - (s.card slot).baseDraw ∧ t.ports = s.ports) ∧
      LicensesKept s t ∧ SettingsKept s t ∧ OutsideKept s t ∧ EnginesKept s t)

/-- An Ident in Probing: the bad identity (R26); the accepted one with its tier check, and Parked or Waiting by the park claims
(R27), from where the restore pass may take the card to Admitting (R28); Slot in both attention sets (R22). The rebinding pass
runs where the tier check unbound a port (R72); that one restore pass ends the event is the model's reading (log 9). That the
deficit is settled once, at the end of the event, is the model's reading (log 8). -/
def Obligations.IdentRule : Prop :=
  ∀ (slot : Slot) (cardType baseDraw : Half) (portCount tier : Byte) (s : State), (s.card slot).state = .probing →
    DeficitFollows s → WaitListFollows s →
    let i : Instr := .ident slot cardType portCount tier baseDraw
    let good := (portCount.toNat = 16 ∨ portCount.toNat = 32 ∨ portCount.toNat = 48) ∧
      (tier.toNat = 1 ∨ tier.toNat = 2 ∨ tier.toNat = 3) ∧ 40 ≤ baseDraw.toNat ∧ baseDraw.toNat ≤ 600
    let identity : Identity :=
      { cardType := cardType, portCount := portCount.toNat, tier := tier.toNat, baseDraw := baseDraw.toNat }
    let failing := fun n => slotOf n = slot ∧ ∃ k, (s.port n).license.pool? = some k ∧ (s.pool k).tier < tier.toNat
    (¬ good → AlarmsLawful s → s.alarms.length < 128 → ∃ t,
      exec i s = .next t ∧ t = { s with cards := t.cards, alarms := t.alarms, attn := t.attn } ∧
      t.cards = s.cards.set slot { s.card slot with
        state := .failed, identity := none, failure := .badIdentity, timerOn := false, tempValid := false,
        powerEnable := false, outbox := [] } ∧
      AlarmStands t .cardFault (slot.val + 1) .major 2 ∧ OtherAlarmsKept s t .cardFault (slot.val + 1) ∧
      ∀ p, (t.attention p).set.slot = true) ∧
    (good → ∃ t, exec i s = .next t ∧ (t.card slot).identity = some identity ∧ (∀ p, (t.attention p).set.slot = true) ∧
      (t.card slot).attempts = (s.card slot).attempts ∧
      (∀ n, slotOf n = slot → (failing n → t.port n = { s.port n with license := .unlicensed }) ∧
        (¬ failing n → t.port n = s.port n)) ∧
      ((s.card slot).parkClaims ≠ [] → (t.card slot).state = .parked ∧ WaitItem.card slot ∉ t.power.waitList ∧
        (t.card slot).timerOn = false ∧ (t.card slot).outbox = []) ∧
      ((s.card slot).parkClaims = [] →
        ((t.card slot).state = .waiting ∧ WaitItem.card slot ∈ t.power.waitList ∧ (t.card slot).timerOn = false ∧
          (t.card slot).powerEnable = false ∧ (t.card slot).outbox = []) ∨
        ((t.card slot).state = .admitting ∧ WaitItem.card slot ∉ t.power.waitList ∧ (t.card slot).powerEnable = true ∧
          (t.card slot).tempValid = false ∧ (t.card slot).timerOn = true ∧ (t.card slot).retryTimeout = 5000 ∧
          (t.card slot).outbox = [.admission s.zones.generation])) ∧
      ((s.card slot).parkClaims = [] → s.power.waitList = [] → (∀ n, ¬ failing n) →
        ((t.card slot).state = .admitting ↔ baseDraw.toNat + s.power.admitted ≤ allowanceOf s.power) ∧
        ((t.card slot).state = .admitting → t.power.admitted = s.power.admitted + baseDraw.toNat)) ∧
      (∃ v w, v = { s with
          cards := s.cards.set slot { s.card slot with timerOn := false, identity := some identity }
          ports := v.ports, license := v.license, attn := v.attn } ∧
        (∀ n, (failing n → v.port n = { s.port n with license := .unlicensed }) ∧ (¬ failing n → v.port n = s.port n)) ∧
        v.license.chassis = s.license.chassis ∧
        (∀ k, v.pool k = { s.pool k with bound := (s.pool k).bound - ((List.finRange 672).filter fun n =>
          slotOf n = slot ∧ (s.port n).license.pool? = some k ∧ (s.pool k).tier < tier.toNat).length }) ∧
        ((∃ n, failing n) → w = rebindingPass v) ∧ ((∀ n, ¬ failing n) → w = v) ∧
        ((s.card slot).parkClaims = [] → t = settleDeficit (restorePass (placeCard slot w))) ∧
        ((s.card slot).parkClaims ≠ [] → t = settleDeficit
          (if s.power.waitList.length < w.power.waitList.length then restorePass (enterCard slot .parked w)
           else enterCard slot .parked w))) ∧
      SettingsKept s t ∧ OutsideKept s t ∧ EnginesKept s t)

/-- A Ready in Admitting (R29): another generation draws Admit again; the Live generation joins the card, which adds Slot to both
attention sets (R22), which the Commit Engine takes by its phase (R108, R110, R116), and whose eligible ports are Waiting or
Admitted with Permit sent (R9): they join the wait list, and the rebinding pass and the restore pass follow (R72; that the restore
pass always runs is the model's reading, log 10). That the deficit is settled once, at the end of the event, is the model's
reading (log 8). -/
def Obligations.ReadyRule : Prop :=
  ∀ (slot : Slot) (generation : Word) (s : State), (s.card slot).state = .admitting → DeficitFollows s →
    WaitListFollows s →
    (generation ≠ s.zones.generation →
      exec (.ready slot generation) s = .next { s with
        cards := s.cards.set slot { s.card slot with
          outbox := (s.card slot).outbox ++ [.admission s.zones.generation] } }) ∧
    (generation = s.zones.generation → ∃ t, exec (.ready slot generation) s = .next t ∧
      (t.card slot).state = .joined ∧ (t.card slot).timerOn = false ∧ (t.card slot).attempts = 0 ∧
      (∀ p, (t.attention p).set.slot = true) ∧
      (t.card slot).identity = (s.card slot).identity ∧ (t.card slot).powerEnable = true ∧
      t.commit = (match s.commit.engine with
        | .idle => s.commit
        | .fencing => { s.commit with
            cards := s.commit.cards.set slot { s.phaseRec slot with phase := .late, timerOn := false } }
        | .releasing => { s.commit with
            cards := s.commit.cards.set slot { phase := .awaitResume, resends := 0, timeout := 250, timerOn := true } }) ∧
      (s.commit.engine = .releasing → CardMsg.resume s.commit.releaseGen ∈ (t.card slot).outbox) ∧
      (∀ n, slotOf n = slot → ((t.port n).power = .off ↔ eligible t n = false)) ∧
      (∀ n, slotOf n = slot → serviceable t n = true → CardMsg.permit (posOf n) ∈ (t.card slot).outbox) ∧
      (∃ v, v = { s with
          cards := v.cards, ports := v.ports, power := { s.power with waitList := v.power.waitList }, commit := v.commit
          attn := v.attn } ∧
        v.card slot = { s.card slot with
          state := .joined, failure := .none, powerEnable := true, timerOn := false, attempts := 0
          outbox := (v.card slot).outbox } ∧
        (∀ c, c ≠ slot → v.card c = s.card c) ∧
        (∀ n, v.port n = if slotOf n = slot ∧ eligible v n = true then
            { s.port n with power := .waiting, hold := decide (s.power.cap ≤ (s.port n).priority.val) }
          else s.port n) ∧
        (∀ x, x ∈ v.power.waitList ↔ x ∈ s.power.waitList ∨ ∃ n, slotOf n = slot ∧ eligible v n = true ∧ x = .port n) ∧
        t = settleDeficit (restorePass (rebindingPass v))) ∧
      t.zones = s.zones ∧ SensorsKept s t ∧ SettingsKept s t ∧ OutsideKept s t)

/-- A removal (R35) and a confirmed Slot Reset (R37): what the card, its ports, its phase and its alarm become, the logins removed
and their Purges to the cards still Joined (R122, R123; that the ports are taken in ascending position is the model's choice, log
28), Slot in both attention sets (R22), and the restore pass where the card's draw was released (R55). The Slot Reset of a slot
that is Empty with its line low leaves it. That the deficit is settled once, at the end of the event, is the model's reading (log
8). -/
def Obligations.CardLeavesRule : Prop :=
  ∀ (slot : Slot) (s : State), WaitListFollows s →
    let left := fun t : State =>
      WaitItem.card slot ∉ t.power.waitList ∧ ((s.card slot).state.inService = true → (t.phaseRec slot).phase = .outside) ∧
      (∀ n, slotOf n = slot → (t.port n).power = .off ∧ (t.port n).hold = false ∧ serviceable t n = false ∧
        (serviceable s n = true → (t.port n).link = .dark ∧ (t.port n).logins = 0)) ∧
      (AlarmsLawful s → ((s.card slot).state = .failed ∨ (s.card slot).state = .fenced) →
        AlarmOver t .cardFault (slot.val + 1)) ∧
      ((s.card slot).state.powered = false → t.ports = s.ports ∧ t.power.admitted = s.power.admitted ∧
        ∀ c, c ≠ slot → t.card c = s.card c) ∧
      ((s.card slot).state ≠ .empty → ∀ p, (t.attention p).set.slot = true) ∧
      LicensesKept s t ∧ SettingsKept s t ∧ SensorsKept s t ∧ t.params = s.params ∧ t.pending = s.pending
    let passed := fun (t : State) (cmd : CommandPorts) (card : CardRec) => t.card slot = card ∧
      (NamesLawful s → ∃ u, u = { s with
          cards := u.cards, ports := u.ports, power := budgetWithoutCard s slot
          names := namesWithout s fun n => slotOf n == slot, zones := u.zones, commit := u.commit, alarms := u.alarms
          attn := u.attn, cmd := cmd } ∧
        u.card slot = card ∧
        (∀ c, c ≠ slot → u.card c = { s.card c with outbox := (u.card c).outbox } ∧
          fallsOf (u.card c).outbox = fallsOf (s.card c).outbox ++ fallsSend s (slotPorts slot) c) ∧
        (∀ n, u.port n = if slotOf n = slot then fallenPort s n else s.port n) ∧
        t = settleDeficit (if (s.card slot).state.powered = true then restorePass u else u))
    ((s.card slot).presence = true → ∃ t, exec (.removal slot) s = .next t ∧ left t ∧ t.cmd = s.cmd ∧
      passed t s.cmd { s.card slot with
        state := .empty, identity := none, failure := .none, attempts := 0, timerOn := false, tempValid := false,
        presence := false, powerEnable := false, outbox := [] }) ∧
    (∀ (f : Frame) (parameter : Byte), PortTakes s f.port → s.cmd.mastership = some f.port →
      (s.cmdPort f.port).armed = .slotReset slot → parameter.toNat = slot.val + 1 →
      ((s.card slot).presence = true → ∃ t, exec (.confirmSlotReset f parameter) s = .next (respond f (answer .done) t) ∧
        left t ∧ t.cmd = (disarm f.port s).cmd ∧
        passed t (disarm f.port s).cmd { s.card slot with
          state := .probing, identity := none, failure := .none, attempts := 0, retryTimeout := 500, timerOn := true,
          tempValid := false, powerEnable := false, outbox := [.probe] }) ∧
      ((s.card slot).presence = false → (s.card slot).state = .empty → DeficitFollows s →
        exec (.confirmSlotReset f parameter) s = .next (respond f (answer .done) (disarm f.port s))))

/-- A message is tested against its card's state (R40): one taken where it is not valid changes nothing. So does one that fails
the link checks in their order (R39); bytes that pass them act as the message they carry (log 6). A Temperature is recorded with
its flag (R41). A message leaves its link first in first out, its bytes on the link's output (R38, R169; that LTX holds them is
log 20); with none waiting nothing leaves (log 25). -/
def Obligations.MessagesRule : Prop :=
  (∀ (slot : Slot) (s : State),
    ((s.card slot).state ≠ .probing → DeficitFollows s → ∀ ct pc tier bd, exec (.ident slot ct pc tier bd) s = .next s) ∧
    ((s.card slot).state ≠ .admitting → DeficitFollows s → ∀ g, exec (.ready slot g) s = .next s) ∧
    ((s.card slot).state ≠ .joined →
      (∀ pos lit, exec (.link slot pos lit) s = .next s) ∧ (∀ pos nm, exec (.login slot pos nm) s = .next s) ∧
      (∀ pos nm, exec (.logout slot pos nm) s = .next s) ∧
      (∀ tag pos x y, exec (.query slot tag pos x y) s = .next s) ∧ (∀ g, exec (.holdAck slot g) s = .next s) ∧
      (∀ g, exec (.resumeAck slot g) s = .next s)) ∧
    ((s.card slot).state ≠ .admitting → (s.card slot).state ≠ .joined → (s.card slot).state ≠ .fenced →
      ∀ v, exec (.temperature slot v) s = .next s) ∧
    (∀ bytes : List Byte,
      (bytes.length < 4 ∨ bytes.drop (bytes.length - 2) ≠ split2 (crc16 (bytes.take (bytes.length - 2))) ∨
        (byteAt bytes 0).toNat < 0x41 ∨ 0x49 < (byteAt bytes 0).toNat ∨
        messageLength (byteAt bytes 0).toNat ≠ some (byteAt bytes 1).toNat ∨ (byteAt bytes 1).toNat ≠ bytes.length - 4 ∨
        (byteAt bytes 0 = 0x43 ∧ 1 < (byteAt bytes 3).toNat)) →
      exec (.linkCheckDiscard slot bytes) s = .next s) ∧
    (∀ (bytes : List Byte) (i : Instr), encodeMessage i = some (slot, bytes) →
      exec (.linkCheckDiscard slot bytes) s = exec i s)) ∧
  ∀ (slot : Slot) (s : State),
    (∀ v, (s.card slot).state = .admitting ∨ (s.card slot).state = .joined ∨ (s.card slot).state = .fenced →
      exec (.temperature slot v) s = .next { s with
        cards := s.cards.set slot { s.card slot with temperature := v, tempValid := true } }) ∧
    (∀ m rest, (s.card slot).outbox = m :: rest →
      exec (.messageLeave slot) s = .next { s with
        cards := s.cards.set slot { s.card slot with outbox := rest, ltx := m.bytes } }) ∧
    ((s.card slot).outbox = [] → exec (.messageLeave slot) s = .next s) ∧
    ∀ m : CardMsg, m.bytes = withCheck (match m with
      | .probe => [0x01#8, 0#8]
      | .admission g => [0x02#8, 4#8] ++ split4 g
      | .permit pos => [0x03#8, 1#8, BitVec.ofNat 8 pos]
      | .revoke pos => [0x04#8, 1#8, BitVec.ofNat 8 pos]
      | .loginAnswer pos nm ok reason => [0x05#8, 11#8, pos] ++ split8 nm ++ [if ok then 0#8 else 1#8, reason]
      | .queryAnswer tag ok reason zone g =>
        [0x06#8, 10#8] ++ split2 tag ++ [if ok then 0#8 else 1#8, reason] ++ split2 zone ++ split4 g
      | .purge nm => [0x07#8, 8#8] ++ split8 nm
      | .hold g => [0x08#8, 4#8] ++ split4 g
      | .resume g => [0x09#8, 4#8] ++ split4 g)

/-! ## Power -/

/-- The budget (R45, R46) and Set Power Mode (R48): the available budget by the mode, the allowance, the headroom and the port
draws; the refusal, NO_CHANGE, and a new mode recorded with Power added, nothing else moving where the allowance stands, and the
admitted draw at or below the allowance after it. -/
def Obligations.BudgetRule : Prop :=
  (∀ p : PowerBudget,
    let rating := fun i : Fin 6 => (p.counted[i]).getD 0
    let total := rating 0 + rating 1 + rating 2 + rating 3 + rating 4 + rating 5
    (p.mode = .none → availableOf p = total) ∧
    (p.mode = .nPlus1 → (∀ i j : Fin 6, p.counted[i] ≠ none → p.counted[j] ≠ none → i = j) → availableOf p = 0) ∧
    (p.mode = .nPlus1 → ∀ i j k : Fin 6, p.counted[i] ≠ none → p.counted[j] ≠ none → i ≠ j →
      (∀ x, rating x ≤ rating k) → availableOf p = total - rating k) ∧
    (p.mode = .feed → availableOf p = min (rating 0 + rating 1 + rating 2) (rating 3 + rating 4 + rating 5)) ∧
    allowanceOf p = availableOf p - (150 + 60 * p.trays) ∧
    headroomOf p = (availableOf p : Int) - 150 - 60 * p.trays - p.admitted) ∧
  (∀ (s : State) (n : PortIx), (cardOf s n).tier ∈ [1, 2, 3] →
    portDraw s n = (if (cardOf s n).tier = 1 then 2 else if (cardOf s n).tier = 2 then 4 else 7)) ∧
  (∀ (f : Frame) (field : Byte) (s : State), MasterClear s f.port → DeficitFollows s →
    (2 < field.toNat → exec (.setPowerMode f field) s = .next (respond f (answer .invalidField) s)) ∧
    (∀ mode, powerModeOf field = some mode →
      (mode = s.power.mode → exec (.setPowerMode f field) s = .next (respond f (answer .noChange) s)) ∧
      (mode ≠ s.power.mode → ∃ t, exec (.setPowerMode f field) s = .next (respond f (answer .done) t) ∧
        t.power.mode = mode ∧ t.power.counted = s.power.counted ∧ t.power.trays = s.power.trays ∧
        t.power.claims = s.power.claims ∧ t.power.cap = s.power.cap ∧ (∀ p, (t.attention p).set.power = true) ∧
        (DrawLawful s → t.power.admitted ≤ allowanceOf t.power) ∧
        (allowanceOf t.power = allowanceOf s.power → t.ports = s.ports ∧ t.cards = s.cards ∧ t.names = s.names ∧
          t.power = { s.power with mode := mode }) ∧
        LicensesKept s t ∧ SettingsKept s t ∧ SensorsKept s t ∧ OutsideKept s t))) ∧
  powerModeOf 0 = some .none ∧ powerModeOf 1 = some .nPlus1 ∧ powerModeOf 2 = some .feed

/-- The two passes. A restore pass over the wait list (R50): what it admits, item by item, and what that does to each card, port
and message. A shed pass (R52, R53): the Admitted ports in their order and then the cards, until the draw is within the allowance,
and what becomes of each, with the Revokes and Purges in the order of the sheds (R7, R123) and Slot in both attention sets where a
card is admitted or shed (R22). A change of the power mode runs the pass that the move of the allowance calls for (R47, R48). And
the deficit condition re-evaluated at the end of an event, with its alarm (R59). That the deficit is settled once, at the end of
the event, is the model's reading (log 8). -/
def Obligations.RestoreAndShedPasses : Prop :=
  (∀ s : State, let t := settleDeficit s
    DeficitFollows t ∧ (DeficitFollows s → t = s) ∧
    t = { s with power := { s.power with deficit := t.power.deficit }, alarms := t.alarms, attn := t.attn } ∧
    (AlarmsLawful s →
      (s.power.deficit = false → t.power.deficit = true → s.alarms.length < 128 → AlarmStands t .budgetDeficit 0 .critical 0) ∧
      (s.power.deficit = true → t.power.deficit = false → AlarmOver t .budgetDeficit 0))) ∧
  (∀ s : State, WaitListFollows s → s.power.waitList.Nodup →
    let taken := restoreTakes s s.power.admitted s.power.waitList
    let t := restorePass s
    t.power = { s.power with
      waitList := s.power.waitList.filter fun x => x ∉ taken
      admitted := s.power.admitted + (taken.map (itemDraw s)).sum } ∧
    (∀ n, t.port n = if WaitItem.port n ∈ taken then { s.port n with power := .admitted } else s.port n) ∧
    (∀ c, t.card c =
      if WaitItem.card c ∈ taken then
        { s.card c with
          state := .admitting, failure := .none, tempValid := false, timerOn := true, retryTimeout := 5000
          powerEnable := true, outbox := (s.card c).outbox ++ [.admission s.zones.generation] }
      else if (s.card c).state = .joined then
        { s.card c with outbox := (s.card c).outbox ++ permitsTo c taken }
      else s.card c) ∧
    (taken ≠ [] → ∀ p, (t.attention p).set.power = true) ∧ (taken = [] → t = s) ∧
    (∀ c, WaitItem.card c ∈ taken → ∀ p, (t.attention p).set.slot = true) ∧
    t = { s with ports := t.ports, cards := t.cards, power := t.power, attn := t.attn }) ∧
  (∀ (s : State) (ports : List PortIx), WaitListFollows s → s.power.waitList.Nodup → s.power.admitted = drawSum s →
    CommitLawful s → NamesLawful s →
    (∀ n, n ∈ ports ↔ (s.port n).power = .admitted) →
    ports.Pairwise (fun m n => (s.port n).priority < (s.port m).priority ∨
      ((s.port n).priority = (s.port m).priority ∧ n < m)) →
    let cards := (List.finRange 14).reverse.filter fun c => (s.card c).state.powered
    let gone := shedTakes (portDraw s) (allowanceOf s.power) s.power.admitted ports
    let drawn := s.power.admitted - (gone.map (portDraw s)).sum
    let out := shedTakes (fun c => (s.card c).baseDraw) (allowanceOf s.power) drawn cards
    let t := shedPass s
    t.power = { s.power with
      waitList := t.power.waitList
      admitted := drawn - (out.map fun c => (s.card c).baseDraw).sum } ∧
    t.power.admitted ≤ allowanceOf s.power ∧
    (∀ c, WaitItem.card c ∈ t.power.waitList ↔ WaitItem.card c ∈ s.power.waitList ∨ c ∈ out) ∧
    (∀ n, WaitItem.port n ∈ t.power.waitList ↔ slotOf n ∉ out ∧ (WaitItem.port n ∈ s.power.waitList ∨ n ∈ gone)) ∧
    (∀ n, slotOf n ∉ out → t.port n =
      if n ∈ gone then
        (if serviceable s n then { s.port n with power := .waiting, hold := false, link := .dark, logins := 0 }
         else { s.port n with power := .waiting, hold := false })
      else s.port n) ∧
    (∀ n, slotOf n ∈ out → (t.port n).power = .off ∧ (t.port n).hold = false ∧ serviceable t n = false ∧
      (serviceable s n = true → (t.port n).link = .dark ∧ (t.port n).logins = 0)) ∧
    (∀ c ∈ out, t.card c = { s.card c with
        state := .waiting, failure := .none, timerOn := false, tempValid := false, powerEnable := false, outbox := [] } ∧
      ((s.card c).state.inService = true → (t.phaseRec c).phase = .outside) ∧
      (AlarmsLawful s → (s.card c).state = .fenced → AlarmOver t .cardFault (c.val + 1))) ∧
    (∀ c, c ∉ out → t.card c = { s.card c with outbox := (t.card c).outbox } ∧
      fallsOf (t.card c).outbox = fallsOf (s.card c).outbox ++ fallsSend s gone c) ∧
    t.names = namesWithout s (fun n => n ∈ gone) ∧ (out ≠ [] → ∀ p, (t.attention p).set.slot = true) ∧
    (∀ p, (t.attention p).set.power = true) ∧ LicensesKept s t ∧ SettingsKept s t ∧ SensorsKept s t ∧ OutsideKept s t) ∧
  ∀ (f : Frame) (field : Byte) (mode : PowerMode) (s : State), MasterClear s f.port → powerModeOf field = some mode →
    mode ≠ s.power.mode →
    let moved := { s with power := { s.power with mode := mode } }
    let passed :=
      if allowanceOf s.power < allowanceOf moved.power then restorePass moved
      else if allowanceOf moved.power < allowanceOf s.power ∧ allowanceOf moved.power < s.power.admitted then shedPass moved
      else moved
    ∃ t, exec (.setPowerMode f field) s = .next (respond f (answer .done) t) ∧ t.ports = passed.ports ∧
      t.cards = passed.cards ∧ t.power = { passed.power with deficit := t.power.deficit } ∧ t.names = passed.names ∧
      t.zones = passed.zones ∧ t.commit = passed.commit ∧ t.license = passed.license ∧ DeficitFollows t

/-! ## Licences -/

/-- Set Chassis Number (R61) and Pool Install (R64 to R67): the outcomes and the checks in their order; the record a credential
makes, its state by kind and hours, the PoolTerm claim of its change of state (R63), the Grace ports of a pool that serves again,
and the rebinding pass that follows (R72). That the deficit is settled once, at the end of the event, is the model's reading (log
8). -/
def Obligations.CredentialRule : Prop :=
  (∀ (f : Frame) (number : Word) (s : State), MasterClear s f.port →
    (s.license.chassis ≠ 0 → exec (.setChassisNumber f number) s = .next (respond f (answer .locked) s)) ∧
    (s.license.chassis = 0 → number = 0 →
      exec (.setChassisNumber f number) s = .next (respond f (answer .invalidField) s)) ∧
    (s.license.chassis = 0 → number ≠ 0 → exec (.setChassisNumber f number) s = .next (respond f (answer .done)
      (addReason .license { s with license := { s.license with chassis := number } })))) ∧
  (∀ (f : Frame) (pool tier kind : Byte) (capacity hours warn : Half) (check : Word) (s : State), MasterClear s f.port →
    DeficitFollows s →
    let i : Instr := .poolInstall f pool tier kind capacity hours warn check
    let fieldsRight := 1 ≤ pool.toNat ∧ pool.toNat ≤ 16 ∧ 1 ≤ tier.toNat ∧ tier.toNat ≤ 3 ∧ kind.toNat ≤ 1 ∧
      1 ≤ capacity.toNat ∧ capacity.toNat ≤ 672 ∧ ¬ (kind = 1 ∧ hours = 0)
    let word := crc32 ([pool, tier, kind] ++ split2 capacity ++ split2 hours ++ split2 warn ++ split4 s.license.chassis)
    let poolKind := if kind = 0 then PoolKind.perpetual else PoolKind.term
    (s.license.chassis = 0 → exec i s = .next (respond f (answer .noChassisNumber) s)) ∧
    (s.license.chassis ≠ 0 → ¬ fieldsRight → exec i s = .next (respond f (answer .invalidField) s)) ∧
    (s.license.chassis ≠ 0 → fieldsRight → check ≠ word → exec i s = .next (respond f (answer .checkMismatch) s)) ∧
    (∀ k : PoolIx, pool.toNat = k.val + 1 → s.license.chassis ≠ 0 → fieldsRight → check = word →
      ((s.pool k).state ≠ .vacant → ((s.pool k).tier ≠ tier.toNat ∨ (s.pool k).kind ≠ poolKind) →
        exec i s = .next (respond f (answer .conflict) s)) ∧
      ((s.pool k).state ≠ .vacant → (s.pool k).tier = tier.toNat → (s.pool k).kind = poolKind →
        capacity.toNat < (s.pool k).bound → exec i s = .next (respond f (answer .belowBound) s)) ∧
      (((s.pool k).state = .vacant ∨
          ((s.pool k).tier = tier.toNat ∧ (s.pool k).kind = poolKind ∧ (s.pool k).bound ≤ capacity.toNat)) →
        ∃ t, exec i s = .next (respond f (answer .done) t) ∧
          t.pool k = { state := (if kind = 0 then .active else if hours.toNat ≤ warn.toNat then .expiring else .active)
                       tier := tier.toNat, kind := poolKind, capacity := capacity.toNat, bound := (t.pool k).bound
                       hours := (if kind = 0 then 0 else hours.toNat), warn := (if kind = 0 then 0 else warn.toNat) } ∧
          (∀ m, m ≠ k → t.pool m = { s.pool m with bound := (t.pool m).bound }) ∧
          (∀ n h, (s.port n).license = .grace k h → (t.port n).license = .bound k) ∧
          (∀ n m, (s.port n).license = .bound m → (t.port n).license = .bound m) ∧
          (AlarmsLawful s → s.alarms.length < 112 → ∀ m, PoolTermFollows s t m) ∧
          (∃ u, u = { s with ports := u.ports, license := u.license, alarms := u.alarms, attn := u.attn } ∧
            (∀ n, ((∃ h, (s.port n).license = .grace k h) → u.port n = { s.port n with license := .bound k }) ∧
              ((∀ h, (s.port n).license ≠ .grace k h) → u.port n = s.port n)) ∧
            u.pool k = { t.pool k with bound := (s.pool k).bound } ∧ (∀ m, m ≠ k → u.pool m = s.pool m) ∧
            u.license.chassis = s.license.chassis ∧ t = settleDeficit (rebindThenRestore s.power.admitted u)) ∧
          t.license.chassis = s.license.chassis ∧ (∀ p, (t.attention p).set.license = true) ∧
          SettingsKept s t ∧ OutsideKept s t ∧ EnginesKept s t)))

/-- The automatic choice (R68): the pool it takes can serve the port and no pool that can is preferred, by tier, then Perpetual
before Term, then pool id; it finds none exactly where no pool can. It is made for ports that are Unlicensed or in Grace. -/
def Obligations.AutomaticChoiceRule : Prop :=
  ∀ (s : State) (n : PortIx), (∀ k, (s.port n).license ≠ .bound k) →
    let serves := fun k : PoolIx => ((s.pool k).state = .active ∨ (s.pool k).state = .expiring) ∧
      (s.pool k).bound < (s.pool k).capacity ∧ (cardOf s n).tier ≤ (s.pool k).tier ∧
      ∀ h, (s.port n).license ≠ .grace k h
    (autoChoice s n = none ↔ ∀ k, ¬ serves k) ∧
    ∀ k, autoChoice s n = some k → serves k ∧ ∀ m, m ≠ k → serves m →
      (s.pool k).tier < (s.pool m).tier ∨
      ((s.pool k).tier = (s.pool m).tier ∧
        (((s.pool k).kind = .perpetual ∧ (s.pool m).kind = .term) ∨ ((s.pool k).kind = (s.pool m).kind ∧ k < m)))

/-- A rebinding pass (R70, R71): the candidates in ascending port number, each Bound by the automatic choice as the bindings before it
leave the pools, the bound counts moved by each binding, an Unlicensed port on the wait list, a Grace port with its power and place
kept, and every other port as it was. The single restore pass follows where the pass made a port eligible or the event released a
draw. -/
def Obligations.RebindingRule : Prop :=
  ∀ s : State, WaitListFollows s → PoolsLawful s →
    let candidates := (List.finRange 672).filter fun n => (s.port n).intent = .enabled ∧
      ((s.card (slotOf n)).state = .joined ∨ (s.card (slotOf n)).state = .fenced) ∧
      posOf n < (s.card (slotOf n)).portCount ∧ ∀ k, (s.port n).license ≠ .bound k
    let taken := rebindTakes s candidates
    let t := rebindingPass s
    let joins := fun n : PortIx => (s.port n).license = .unlicensed ∧ ∃ k, (n, k) ∈ taken
    (∀ n, (∀ k, (n, k) ∉ taken) → t.port n = s.port n) ∧
    (∀ n k, (n, k) ∈ taken → n ∈ candidates ∧
      ((s.port n).license = .unlicensed → t.port n = { s.port n with
        license := .bound k, power := .waiting, hold := decide (s.power.cap ≤ (s.port n).priority.val) }) ∧
      ((s.port n).license ≠ .unlicensed → t.port n = { s.port n with license := .bound k })) ∧
    t.license.chassis = s.license.chassis ∧
    (∀ k, t.pool k = { s.pool k with
      bound := (s.pool k).bound + (taken.filter fun x => x.2 = k).length -
        (taken.filter fun x => (s.port x.1).license.pool? = some k).length }) ∧
    t.power = { s.power with waitList := t.power.waitList } ∧
    (∀ x, x ∈ t.power.waitList ↔ x ∈ s.power.waitList ∨ ∃ n, joins n ∧ x = .port n) ∧
    (WaitListOrdered s → WaitListOrdered t) ∧
    (taken ≠ [] → ∀ p, (t.attention p).set.license = true) ∧ (taken = [] → t = s) ∧
    t = { s with ports := t.ports, power := t.power, license := t.license, attn := t.attn } ∧
    ∀ drawn, ((∃ n, joins n) ∨ s.power.admitted < drawn → rebindThenRestore drawn s = restorePass t) ∧
      ((∀ n, ¬ joins n) → drawn ≤ s.power.admitted → rebindThenRestore drawn s = t)

/-- An expiry of the hour timer (R73 to R75): the pools that are counted lose an hour and take their state, whose change makes the
PoolTerm claim (R63, R74); each port's licence, which a rebinding pass may then better; what the ports that lose it send as they
lose Serviceable, in the order in which they are taken (R7, R10, R74, R75); nothing but the hours moves where no pool expires and
no grace ends, and a rebinding pass follows where one does (R72). That the deficit is settled once, at the end of the event, is
the model's reading (log 8). -/
def Obligations.HourTimerRule : Prop :=
  ∀ s : State, DeficitFollows s → ∃ t, exec .hourTimerExpiry s = .next t ∧
    let counted := fun k : PoolIx => (s.pool k).kind = .term ∧
      ((s.pool k).state = .active ∨ (s.pool k).state = .expiring) ∧ 1 ≤ (s.pool k).bound
    let after := fun n : PortIx => match (s.port n).license with
      | .unlicensed => License.unlicensed
      | .bound k => if counted k ∧ (s.pool k).hours ≤ 1 then
          (if s.params.grace = 0 then .unlicensed else .grace k s.params.grace) else .bound k
      | .grace k h => if h ≤ 1 then .unlicensed else .grace k (h - 1)
    (∀ k, t.pool k = { s.pool k with
      bound := (t.pool k).bound
      hours := if counted k then (s.pool k).hours - 1 else (s.pool k).hours
      state := if counted k then
          (if (s.pool k).hours ≤ 1 then .expired
           else if (s.pool k).hours - 1 ≤ (s.pool k).warn then .expiring else .active)
        else (s.pool k).state }) ∧
    (AlarmsLawful s → s.alarms.length < 112 → ∀ k, PoolTermFollows s t k) ∧
    (∀ n, (t.port n).license = after n ∨ (∃ k, (t.port n).license = .bound k ∧ ∀ m, after n ≠ .bound m)) ∧
    ((∀ k, counted k → 1 < (s.pool k).hours) → (∀ n k h, (s.port n).license = .grace k h → 1 < h) →
      (∀ n, t.port n = { s.port n with license := after n }) ∧ (∀ k, (t.pool k).bound = (s.pool k).bound) ∧
        t.power = s.power ∧ t.cards = s.cards ∧ t.names = s.names) ∧
    (WaitListFollows s → NamesLawful s →
      let lost := fun n => decide ((s.port n).license ≠ .unlicensed ∧ after n = .unlicensed)
      let order := ((List.finRange 16).flatMap fun k => (List.finRange 672).filter fun n =>
          lost n ∧ (s.port n).license = .bound k) ++
        (List.finRange 672).filter fun n => lost n ∧ ∀ k, (s.port n).license ≠ .bound k
      ∃ u, u = { s with
          ports := u.ports, license := u.license, power := budgetWithout s lost, cards := u.cards
          names := namesWithout s lost, alarms := u.alarms, attn := u.attn } ∧
        (∀ c, u.card c = cardAfterFalls s order c) ∧
        (∀ n, u.port n = { (if lost n then fallenPort s n else s.port n) with license := after n }) ∧
        u.license.chassis = s.license.chassis ∧
        (∀ k, u.pool k = { t.pool k with
          bound := (s.pool k).bound -
            ((List.finRange 672).filter fun n => lost n ∧ (s.port n).license.pool? = some k).length }) ∧
        ((∃ k, counted k ∧ (s.pool k).hours ≤ 1) ∨ (∃ n, lost n = true) →
          t = settleDeficit (rebindThenRestore s.power.admitted u)) ∧
        ((∀ k, counted k → 1 < (s.pool k).hours) → (∀ n, lost n = false) → t = settleDeficit u)) ∧
    SettingsKept s t ∧ OutsideKept s t ∧ EnginesKept s t

/-- A matching Confirm of a Pool Revoke (R78): NO_CHANGE on a Vacant pool; else the pool Vacant, its PoolTerm condition ended if
it was Expiring or Expired (R63), and every port of it Unlicensed or, by the rebinding pass that follows (R72), Bound to another
pool; the ports in ascending number send what a loss of Serviceable sends (R7, R10). That the deficit is settled once, at the end
of the event, is the model's reading (log 8). -/
def Obligations.PoolRevokeConfirmed : Prop :=
  ∀ (f : Frame) (parameter : Byte) (k : PoolIx) (s : State), PortTakes s f.port → s.cmd.mastership = some f.port →
    DeficitFollows s → (s.cmdPort f.port).armed = .poolRevoke k → parameter.toNat = k.val + 1 →
    ((s.pool k).state = .vacant →
      exec (.confirmPoolRevoke f parameter) s = .next (respond f (answer .noChange) (disarm f.port s))) ∧
    ((s.pool k).state ≠ .vacant → ∃ t, exec (.confirmPoolRevoke f parameter) s = .next (respond f (answer .done) t) ∧
      t.pool k = { state := .vacant, tier := 0, kind := .perpetual, capacity := 0, bound := 0, hours := 0, warn := 0 } ∧
      (∀ m, m ≠ k → t.pool m = { s.pool m with bound := (t.pool m).bound }) ∧
      (AlarmsLawful s → s.alarms.length < 112 → ∀ m, PoolTermFollows s t m) ∧
      (WaitListFollows s → NamesLawful s →
        let lost := fun n => (s.port n).license.pool? == some k
        ∃ u, u = { s with
            cmd := (disarm f.port s).cmd, ports := u.ports, license := u.license, power := budgetWithout s lost
            cards := u.cards, names := namesWithout s lost, alarms := u.alarms, attn := u.attn } ∧
          (∀ c, u.card c = cardAfterFalls s ((List.finRange 672).filter lost) c) ∧
          (∀ n, u.port n = if lost n then { fallenPort s n with license := .unlicensed } else s.port n) ∧
          u.pool k = t.pool k ∧ (∀ m, m ≠ k → u.pool m = s.pool m) ∧ u.license.chassis = s.license.chassis ∧
          t = settleDeficit (rebindThenRestore s.power.admitted u)) ∧
      (∀ n, (s.port n).license.pool? = some k →
        (t.port n).license = .unlicensed ∨ ∃ m, m ≠ k ∧ (t.port n).license = .bound m) ∧
      (∀ n m, m ≠ k → (s.port n).license = .bound m → (t.port n).license = .bound m) ∧
      t.license.chassis = s.license.chassis ∧ (∀ p, (t.attention p).set.license = true) ∧ t.cmd = (disarm f.port s).cmd ∧
      t.zones = s.zones ∧ t.commit = s.commit ∧ SettingsKept s t ∧ SensorsKept s t)

/-! ## Units, sources and rules -/

/-- A unit's presence (R133, R135): the rise from Absent, and the fall with what it hands on; the pass that a change of the
counted PSUs or of the trays calls for (R44, R47); the fan duty as R137 gives it. The scan turn is as it was, but that a unit
which goes while it is being read gives the turn to the next (the model's choice, log 12). That the deficit is settled once, at
the end of the event, is the model's reading (log 8). -/
def Obligations.UnitPresenceRule : Prop :=
  ∀ (u : UnitIx) (s : State), DeficitFollows s →
    let boosted := fun t : State => t.scanner.duty = .normal ↔ t.scanner.firstRound = true ∧ t.scanner.boosts = [] ∧
      ∀ w : UnitIx, 6 ≤ w.val → (t.unit w).state = .starting ∨ (t.unit w).state = .online
    let gone := { s.unit u with state := .absent, good := 0, bad := 0, readOk := false, presence := false }
    ((s.unit u).presence = false → (s.unit u).state = .absent → ∃ t, exec (.unitPresenceRise u) s = .next t ∧
      t.unit u = { s.unit u with state := .starting, good := 0, bad := 0, wasPresent := true, presence := true } ∧
      (∀ w, w ≠ u → t.unit w = s.unit w) ∧
      (u.val < 6 → t = { s with scanner := { s.scanner with units := t.scanner.units } }) ∧ t.scanner.turn = s.scanner.turn ∧
      (6 ≤ u.val → t.power.trays = s.power.trays + 1 ∧ t.power.counted = s.power.counted ∧ boosted t ∧
        ∃ v q, v = { s with
            scanner := v.scanner, power := { s.power with trays := s.power.trays + 1 }, attn := v.attn } ∧
          q = { budgetPass (allowanceOf s.power) v with scanner := q.scanner } ∧ t = settleDeficit q) ∧
      LicensesKept s t ∧ SettingsKept s t ∧ OutsideKept s t) ∧
    ((s.unit u).presence = true → (s.unit u).state ≠ .absent → ∃ t, exec (.unitPresenceFall u) s = .next t ∧
      (∀ w, w ≠ u → t.unit w = s.unit w) ∧
      (s.scanner.turn ≠ some (.unit u) → t.scanner.turn = s.scanner.turn) ∧
      (s.scanner.turn = some (.unit u) → ∃ x, t.scanner.turn = some x ∧ StandsNext s (u.val + 1) x) ∧
      (∀ i : Fin 6, i.val = u.val → t.unit u = gone ∧ t.power.trays = s.power.trays ∧
        ((s.unit u).state = .online → t.power.counted = s.power.counted.set i none ∧
          ∃ v, v = { s with
              scanner := v.scanner, power := { s.power with counted := s.power.counted.set i none }, attn := v.attn } ∧
            t = settleDeficit (budgetPass (allowanceOf s.power) v)) ∧
        ((s.unit u).state ≠ .online → t.power = s.power ∧ t.ports = s.ports ∧ t.cards = s.cards) ∧
        (AlarmsLawful s → (s.unit u).state = .faulted → AlarmOver t .psuFault (u.val + 1))) ∧
      (6 ≤ u.val → t.unit u = { gone with fanFault := true } ∧ t.power.trays = s.power.trays - 1 ∧
        t.power.counted = s.power.counted ∧ boosted t ∧
        (∃ v q, v = { s with
            scanner := v.scanner, power := { s.power with trays := s.power.trays - 1 }, attn := v.attn } ∧
          q = { budgetPass (allowanceOf s.power) v with scanner := q.scanner, alarms := q.alarms, attn := q.attn } ∧
          t = settleDeficit q) ∧
        (AlarmsLawful s → s.alarms.length < 128 → AlarmStands t .fanFault (u.val - 5) .major 2)) ∧
      LicensesKept s t ∧ SettingsKept s t ∧ OutsideKept s t)

/-- A unit read (R132, R134, R135): the class, the readings it leaves, the table of the states and counts, the alarms with the
FanFault condition, the counted rating and the pass that its change calls for (R47), the turn that passes on, and the fan duty of
a tray that becomes Faulted or Online (R137). A unit in Absent is not read and does not move, and neither is a unit that the round
has passed or not reached (log 12). A reading of the other kind of unit counts as failed (log 22). That the deficit is settled
once, at the end of the event, is the model's reading (log 8). -/
def Obligations.UnitReadRule : Prop :=
  ∀ (u : UnitIx) (x : UnitReading) (s : State), DeficitFollows s →
    ((s.unit u).state = .absent ∨ s.scanner.turn ≠ some (.unit u) → exec (.unitReadComplete u x) s = .next s) ∧
    ((s.unit u).state ≠ .absent → s.scanner.turn = some (.unit u) → ∃ t c, exec (.unitReadComplete u x) s = .next t ∧
      c = (match x with
        | .failed => ReadClass.failed
        | .psu rating _ _ good => if 6 ≤ u.val ∨ rating.toNat < 500 ∨ 3000 < rating.toNat then .failed
            else if good then .good else .weak
        | .fan speed => if u.val < 6 then .failed else if s.params.fanFloor ≤ speed.toNat then .good else .weak) ∧
      (c = .failed → (t.unit u).readOk = false ∧ (t.unit u).rating = (s.unit u).rating ∧
        (t.unit u).output = (s.unit u).output ∧ (t.unit u).inlet = (s.unit u).inlet ∧
        (t.unit u).outputGood = (s.unit u).outputGood ∧ (t.unit u).speed = (s.unit u).speed) ∧
      (∀ rating output inlet good, x = .psu rating output inlet good → c ≠ .failed → (t.unit u).readOk = true ∧
        (t.unit u).rating = rating ∧ (t.unit u).output = output ∧ (t.unit u).inlet = inlet ∧
        (t.unit u).outputGood = good) ∧
      (∀ speed, x = .fan speed → c ≠ .failed → (t.unit u).readOk = true ∧ (t.unit u).speed = speed) ∧
      ((t.unit u).state, (t.unit u).good, (t.unit u).bad) = (match (s.unit u).state, c with
        | .starting, .good => (UnitState.online, 0, 0)
        | .starting, .failed =>
          if 3 ≤ (s.unit u).bad + 1 then (.faulted, 0, 0) else (.starting, (s.unit u).good, (s.unit u).bad + 1)
        | .starting, .weak => (.starting, (s.unit u).good, 0)
        | .online, .good => (.online, (s.unit u).good, 0)
        | .online, _ => if 3 ≤ (s.unit u).bad + 1 then (.faulted, 0, 0) else (.online, (s.unit u).good, (s.unit u).bad + 1)
        | .faulted, .good =>
          if 3 ≤ (s.unit u).good + 1 then (.online, 0, 0) else (.faulted, (s.unit u).good + 1, (s.unit u).bad)
        | .faulted, _ => (.faulted, 0, (s.unit u).bad)
        | .absent, _ => (.absent, (s.unit u).good, (s.unit u).bad)) ∧
      (∀ w, w ≠ u → t.unit w = s.unit w) ∧
      (AlarmsLawful s → s.alarms.length < 128 → (s.unit u).state ≠ .faulted → (t.unit u).state = .faulted →
        AlarmStands t (if u.val < 6 then .psuFault else .fanFault) (if u.val < 6 then u.val + 1 else u.val - 5) .major 1) ∧
      (AlarmsLawful s → u.val < 6 → (s.unit u).state = .faulted → (t.unit u).state = .online →
        AlarmOver t .psuFault (u.val + 1)) ∧
      (AlarmsLawful s → 6 ≤ u.val → (s.unit u).state = .starting ∨ (s.unit u).state = .faulted → (t.unit u).state = .online →
        (s.unit u).fanFault = true → AlarmOver t .fanFault (u.val - 5)) ∧
      (AlarmsLawful s → (t.unit u).state = (s.unit u).state → ∀ y : Nat × AlarmEntry,
        y.2.cause = .psuFault ∨ y.2.cause = .fanFault → (y ∈ t.alarms ↔ y ∈ s.alarms)) ∧
      (t.unit u).fanFault = (if 6 ≤ u.val ∧ (t.unit u).state ≠ (s.unit u).state then
        decide ((t.unit u).state = .faulted) else (s.unit u).fanFault) ∧
      (∀ i : Fin 6, i.val = u.val →
        ((t.unit u).state = .online → c = .good → t.power.counted = s.power.counted.set i (some (t.unit u).rating.toNat)) ∧
        ((t.unit u).state = .online → c ≠ .good → t.power = s.power) ∧
        ((s.unit u).state = .online → (t.unit u).state = .faulted → t.power.counted = s.power.counted.set i none) ∧
        ((s.unit u).state ≠ .online → (t.unit u).state ≠ .online → t.power = s.power) ∧
        ∃ v, v = { s with
            scanner := v.scanner, power := { s.power with counted := t.power.counted }, alarms := v.alarms, attn := v.attn } ∧
          t = settleDeficit (budgetPass (allowanceOf s.power) v)) ∧
      (6 ≤ u.val → t.power = s.power) ∧ (∃ y, t.scanner.turn = some y ∧ StandsNext s (u.val + 1) y) ∧
      (6 ≤ u.val → (t.unit u).state ≠ (s.unit u).state → DutyFollows t) ∧
      ((u.val < 6 ∨ (t.unit u).state = (s.unit u).state) →
        t.scanner.duty = s.scanner.duty ∧ t.scanner.fanPct = s.scanner.fanPct) ∧
      t.rules = s.rules ∧ LicensesKept s t ∧ SettingsKept s t ∧ OutsideKept s t)

/-- A scan round (R132, R136, R137, R141, R142): the expiry begins it at the first unit that is not Absent, within a round as well
(the model's choice, log 12), the chassis reads are recorded at their turn (at no other: log 12), and the outlet's end gives the
fan duty, presents the fifty sources, each with its value and flag as they stand and an invalid one with the value last presented
(log 15), evaluates the rules in ascending number, each as RuleConditionRule says, and so moves every enabled rule by the table of
R142. That the deficit is settled once, after all the rules, is the model's reading (log 8). -/
def Obligations.ScanRoundRule : Prop :=
  ∀ s : State, DeficitFollows s →
    let recorded := fun (r : ChassisReading) (v : Option Half) =>
      ({ value := v.getD r.value, readOk := v.isSome } : ChassisReading)
    (∃ x, exec .scanTimerExpiry s = .next { s with scanner := { s.scanner with turn := some x } } ∧ StandsNext s 0 x) ∧
    (∀ v, s.scanner.turn = some .inlet → exec (.chassisSensorReadComplete .inlet v) s = .next { s with
      scanner := { s.scanner with inlet := recorded s.scanner.inlet v, turn := some .outlet } }) ∧
    (∀ v, s.scanner.turn = some .outlet → ∃ t w, exec (.chassisSensorReadComplete .outlet v) s = .next t ∧
      w = { s with scanner := w.scanner } ∧ w.scanner.units = s.scanner.units ∧ w.scanner.boosts = s.scanner.boosts ∧
      w.scanner.sources = t.scanner.sources ∧ w.scanner.firstRound = true ∧ DutyFollows w ∧
      t = settleDeficit ((List.finRange 64).foldl (fun x r => evaluateRule r x) w) ∧ DutyFollows t ∧
      t.scanner.outlet = recorded s.scanner.outlet v ∧ t.scanner.firstRound = true ∧ t.scanner.turn = none ∧
      t.scanner.units = s.scanner.units ∧ t.scanner.inlet = s.scanner.inlet ∧
      (∀ k : SourceIx,
        let now : Int × Bool :=
          if h : k.val < 6 then (((s.unit ⟨k.val, by omega⟩).output.toNat : Int), (s.unit ⟨k.val, by omega⟩).shows)
          else if h : k.val < 12 then ((s.unit ⟨k.val - 6, by omega⟩).inlet.toInt, (s.unit ⟨k.val - 6, by omega⟩).shows)
          else if h : k.val < 16 then
            (((s.unit ⟨k.val - 6, by omega⟩).speed.toNat : Int), (s.unit ⟨k.val - 6, by omega⟩).shows)
          else if h : k.val < 30 then ((s.card ⟨k.val - 16, by omega⟩).temperature.toInt,
            (s.card ⟨k.val - 16, by omega⟩).state.powered && (s.card ⟨k.val - 16, by omega⟩).tempValid)
          else if k.val = 30 then (s.scanner.inlet.value.toInt, s.scanner.inlet.readOk)
          else if k.val = 31 then (t.scanner.outlet.value.toInt, t.scanner.outlet.readOk)
          else if k.val = 32 then (headroomOf s.power, true)
          else if k.val = 33 then ((s.names.length : Int), true)
          else if h : 34 ≤ k.val then (((s.pool ⟨k.val - 34, by omega⟩).hours : Int),
            (s.pool ⟨k.val - 34, by omega⟩).state != .vacant && (s.pool ⟨k.val - 34, by omega⟩).kind == .term)
          else (0, false)
        t.source k = { value := if now.2 then now.1 else (s.source k).value, valid := now.2 }) ∧
      (∀ r : RuleIx, (s.rule r).enabled = false → t.rule r = s.rule r) ∧
      (∀ r : RuleIx, (s.rule r).enabled = true →
        let rule := s.rule r
        let src := t.source rule.source
        let matched := fun c : Comparator => match c.type with
          | .equal => src.value = c.threshold.toInt
          | .below => src.value < c.threshold.toInt
          | .atOrAbove => c.threshold.toInt ≤ src.value
        let reads := match rule.combine with
          | .aOnly => matched rule.cmpA
          | .aOrB => matched rule.cmpA ∨ matched rule.cmpB
          | .aAndB => matched rule.cmpA ∧ matched rule.cmpB
        (src.valid = false → t.rule r = { rule with state := .idle }) ∧
        (src.valid = true → reads → t.rule r = { rule with
          sticky := true
          state := match rule.state with
            | .idle => if rule.holdOff ≤ 1 then .active else .counting 1
            | .counting k => if rule.holdOff ≤ k + 1 then .active else .counting (k + 1)
            | .active => .active
            | .releasing _ => .active }) ∧
        (src.valid = true → ¬ reads → t.rule r = { rule with
          state := match rule.state with
            | .idle => .idle
            | .counting _ => .idle
            | .active => if rule.release ≤ 1 then .idle else .releasing 1
            | .releasing k => if rule.release ≤ k + 1 then .idle else .releasing (k + 1) })) ∧
      LicensesKept s t ∧ SettingsKept s t ∧ OutsideKept s t ∧ t.zones.working = s.zones.working)

/-- What a rule does when it is evaluated (R143): on the begin of its condition the alarm is raised and the action applied, on its
end the alarm ends and the action is withdrawn; else nothing but the rule moves. A thermal claim or its withdrawal moves the cap
(R56): its fall displaces ports in ascending number, each with what its loss of Serviceable sends (R7), holds ports, and restores
what the draw released fits (R57), its rise clears holds and restores (R58). The first park claim parks a card that is in service
or Admitting, the last one's withdrawal unparks it, each with a restore pass and with Slot in both attention sets (R22, R33, R34);
that the ports of a parked card are taken in ascending position is the model's choice (log 28). -/
def Obligations.RuleConditionRule : Prop :=
  ∀ (r : RuleIx) (s : State), (s.rule r).enabled = true → AlarmsLawful s → NamesLawful s →
    let rule := s.rule r
    let t := evaluateRule r s
    let before := rule.state.holds
    let after := (t.rule r).state.holds
    let c := t.power.cap
    let displaced := fun m : PortIx => decide ((s.port m).power = .admitted ∧ c ≤ (s.port m).priority.val)
    (before = after → t = { s with rules := t.rules }) ∧ (∀ q, q ≠ r → t.rule q = s.rule q) ∧
    (before = false → after = true →
      (s.alarms.length < 128 → AlarmStands t .rule r.val rule.severity rule.source.val) ∧
      (rule.action = .fanBoost → r ∈ t.scanner.boosts ∧ t.scanner.duty = .boost ∧ t.scanner.fanPct = 100) ∧
      (∀ n, rule.action = .shed n → { rule := r, n := n } ∈ t.power.claims ∧
        ∀ d, d.rule ≠ r → (d ∈ t.power.claims ↔ d ∈ s.power.claims)) ∧
      (∀ slot : Slot, rule.action = .cardOff → rule.source.val = slot.val + 16 → r ∈ (t.card slot).parkClaims ∧
        ((s.card slot).parkClaims = [] → (s.card slot).state.powered = true → WaitListFollows s →
          (t.card slot).state = .parked ∧ (t.card slot).powerEnable = false ∧
          (∀ n, slotOf n = slot → (t.port n).power = .off ∧ serviceable t n = false) ∧
          ∃ u, u = { s with
              cards := u.cards, ports := u.ports, power := budgetWithoutCard s slot
              names := namesWithout s fun n => slotOf n == slot, zones := u.zones, commit := u.commit, rules := t.rules
              alarms := u.alarms, attn := u.attn } ∧
            (∀ n, u.port n = if slotOf n = slot then fallenPort s n else s.port n) ∧
            u.card slot = { s.card slot with
              state := .parked, failure := .none, timerOn := false, tempValid := false, powerEnable := false, outbox := []
              parkClaims := [r] } ∧
            (∀ c, c ≠ slot → u.card c = { s.card c with outbox := (u.card c).outbox } ∧
              fallsOf (u.card c).outbox = fallsOf (s.card c).outbox ++ fallsSend s (slotPorts slot) c) ∧
            (∀ p, (t.attention p).set.slot = true) ∧ t = restorePass u) ∧
        ((s.card slot).parkClaims ≠ [] ∨ (s.card slot).state.powered = false → t = { s with
          cards := s.cards.set slot { s.card slot with parkClaims := (t.card slot).parkClaims }
          rules := t.rules, alarms := t.alarms, attn := t.attn }))) ∧
    (before = true → after = false →
      AlarmOver t .rule r.val ∧
      (rule.action = .fanBoost → t.scanner.boosts = (s.scanner.boosts.filter fun q => q ≠ r) ∧ DutyFollows t) ∧
      (∀ n, rule.action = .shed n → t.power.claims = s.power.claims.filter fun d => d.rule ≠ r) ∧
      (∀ slot : Slot, rule.action = .cardOff → rule.source.val = slot.val + 16 → r ∉ (t.card slot).parkClaims ∧
        ((t.card slot).parkClaims = [] → (t.card slot).state ≠ .parked) ∧
        ((t.card slot).parkClaims = [] → (s.card slot).state = .parked → ∃ u, u = { s with
            cards := s.cards.set slot { s.card slot with
              state := .waiting, failure := .none, powerEnable := false, outbox := [], parkClaims := [] }
            power := { s.power with waitList := insertByKey (waitKey s) (.card slot) s.power.waitList }
            rules := t.rules, alarms := u.alarms, attn := u.attn } ∧
          (∀ p, (t.attention p).set.slot = true) ∧ t = restorePass u))) ∧
    (∀ n, rule.action = .shed n → before ≠ after →
      (∀ d ∈ t.power.claims, c ≤ d.n.val) ∧ ((t.power.claims = [] ∧ c = 8) ∨ ∃ d ∈ t.power.claims, d.n.val = c) ∧
      (c = s.power.cap → t = { s with
        power := { s.power with claims := t.power.claims }, rules := t.rules, alarms := t.alarms, attn := t.attn }) ∧
      (c < s.power.cap → ∃ u, u = { s with
          ports := u.ports, cards := u.cards, names := namesWithout s displaced, rules := t.rules, alarms := t.alarms
          attn := u.attn, power := { s.power with
            claims := t.power.claims, cap := c, waitList := u.power.waitList
            admitted := s.power.admitted -
              ((List.finRange 672).map fun m => if displaced m then portDraw s m else 0).sum } } ∧
        (∀ m, u.port m =
          if displaced m then
            (if serviceable s m then { s.port m with power := .waiting, hold := true, link := .dark, logins := 0 }
             else { s.port m with power := .waiting, hold := true })
          else if (s.port m).power = .waiting ∧ c ≤ (s.port m).priority.val then { s.port m with hold := true }
          else s.port m) ∧
        (∀ x, x ∈ u.power.waitList ↔ x ∈ s.power.waitList ∨ ∃ m, displaced m = true ∧ x = .port m) ∧
        (∀ q, u.card q = cardAfterFalls s ((List.finRange 672).filter displaced) q) ∧
        t = addReason .power (if ∃ m, displaced m = true then restorePass u else u)) ∧
      (s.power.cap < c → ∃ u, u = { s with
          ports := u.ports, power := { s.power with claims := t.power.claims, cap := c }
          rules := t.rules, alarms := t.alarms, attn := u.attn } ∧
        (∀ m, u.port m = if (s.port m).power = .waiting ∧ (s.port m).priority.val < c then { s.port m with hold := false }
          else s.port m) ∧
        t = addReason .power (restorePass u)))

/-- Rule Write, Rule Enable and Rule Disable (R139, R140): the checks in their order, the rule as written or disabled, and the end
of a condition that held, with the withdrawal of its boost claim, thermal claim or park claim (R143). -/
def Obligations.RuleCommandsRule : Prop :=
  ∀ (f : Frame) (s : State), MasterClear s f.port → DeficitFollows s →
    let withdrawn := fun (r : RuleIx) (t : State) =>
      t.scanner.boosts = (if (s.rule r).action = .fanBoost then s.scanner.boosts.filter fun q => q ≠ r else s.scanner.boosts) ∧
      ((s.rule r).action = .fanBoost → DutyFollows t) ∧
      t.power.claims = (if ∃ n, (s.rule r).action = .shed n then s.power.claims.filter fun c => c.rule ≠ r
        else s.power.claims) ∧
      (∀ slot : Slot, (t.card slot).parkClaims =
        if (s.rule r).action = .cardOff ∧ (s.rule r).source.val = slot.val + 16 then
          (s.card slot).parkClaims.filter fun q => q ≠ r
        else (s.card slot).parkClaims) ∧
      (∀ slot : Slot, (s.rule r).action = .cardOff → (s.rule r).source.val = slot.val + 16 →
        (t.card slot).parkClaims = [] → (t.card slot).state ≠ .parked)
    (∀ (rule source typeA : Byte) (thresholdA : Half) (typeB : Byte) (thresholdB : Half)
        (combine holdOff release severity action n silent : Byte),
      let i : Instr := .ruleWrite f rule source typeA thresholdA typeB thresholdB combine holdOff release severity action n
        silent
      let right := source.toNat ≤ 49 ∧ typeA.toNat ≤ 2 ∧ typeB.toNat ≤ 2 ∧ combine.toNat ≤ 2 ∧ severity.toNat ≤ 2 ∧
        1 ≤ holdOff.toNat ∧ holdOff.toNat ≤ 15 ∧ 1 ≤ release.toNat ∧ release.toNat ≤ 15 ∧ action.toNat ≤ 3 ∧
        (action = 2 → n.toNat ≤ 7) ∧ (action = 3 → 16 ≤ source.toNat ∧ source.toNat ≤ 29)
      (63 < rule.toNat → exec i s = .next (respond f (answer .outOfRange) s)) ∧
      (rule.toNat ≤ 63 → ¬ right → exec i s = .next (respond f (answer .invalidField) s)) ∧
      (∀ (r : RuleIx) (src : SourceIx), rule.toNat = r.val → right → source.toNat = src.val → ∃ t,
        exec i s = .next (respond f (answer .done) t) ∧
        (∃ written, t.rule r = written ∧ written.written = true ∧ written.enabled = (s.rule r).enabled ∧
          written.source = src ∧ cmpTypeOf typeA = some written.cmpA.type ∧ written.cmpA.threshold = thresholdA ∧
          cmpTypeOf typeB = some written.cmpB.type ∧ written.cmpB.threshold = thresholdB ∧
          combineOf combine = some written.combine ∧ severityOf severity = some written.severity ∧
          written.holdOff = holdOff.toNat ∧ written.release = release.toNat ∧ (written.silent = true ↔ silent ≠ 0) ∧
          written.sticky = false ∧ written.state = .idle ∧
          (action = 0 → written.action = .none) ∧ (action = 1 → written.action = .fanBoost) ∧
          (∀ k : Priority, action = 2 → n.toNat = k.val → written.action = .shed k) ∧
          (action = 3 → written.action = .cardOff)) ∧
        (∀ q, q ≠ r → t.rule q = s.rule q) ∧
        ((s.rule r).state.holds = true → AlarmsLawful s → AlarmOver t .rule r.val) ∧
        ((s.rule r).state.holds = true → withdrawn r t) ∧
        ((s.rule r).state.holds = false → t = { s with rules := t.rules }) ∧ SettingsKept s t ∧ LicensesKept s t ∧
        OutsideKept s t)) ∧
    (∀ rule : Byte, 63 < rule.toNat →
      exec (.ruleEnable f rule) s = .next (respond f (answer .outOfRange) s) ∧
      exec (.ruleDisable f rule) s = .next (respond f (answer .outOfRange) s)) ∧
    (∀ (rule : Byte) (r : RuleIx), rule.toNat = r.val →
      ((s.rule r).written = false → exec (.ruleEnable f rule) s = .next (respond f (answer .notFound) s)) ∧
      ((s.rule r).written = true → (s.rule r).enabled = true →
        exec (.ruleEnable f rule) s = .next (respond f (answer .noChange) s)) ∧
      ((s.rule r).written = true → (s.rule r).enabled = false →
        exec (.ruleEnable f rule) s = .next (respond f (answer .done)
          { s with rules := s.rules.set r { s.rule r with enabled := true } })) ∧
      ((s.rule r).enabled = false → exec (.ruleDisable f rule) s = .next (respond f (answer .noChange) s)) ∧
      ((s.rule r).enabled = true → ∃ t, exec (.ruleDisable f rule) s = .next (respond f (answer .done) t) ∧
        t.rule r = { s.rule r with enabled := false, state := .idle } ∧ (∀ q, q ≠ r → t.rule q = s.rule q) ∧
        ((s.rule r).state.holds = true → AlarmsLawful s → AlarmOver t .rule r.val) ∧
        ((s.rule r).state.holds = true → withdrawn r t) ∧
        ((s.rule r).state.holds = false → t = { s with rules := t.rules }) ∧ SettingsKept s t ∧ LicensesKept s t ∧
        OutsideKept s t))

/-! ## Zone images -/

/-- The edits of the whole of Working (R83, R84, R86, R87): every edit is refused LOCKED while Working is Frozen; the clone, the
clear, the set name and the default access of an Editable one. -/
def Obligations.WorkingImageRule : Prop :=
  ∀ (f : Frame) (s : State), MasterClear s f.port →
    (s.zones.workingState = .frozen →
      ∀ i ∈ [Instr.workingClone f, .workingClear f], exec i s = .next (respond f (answer .locked) s)) ∧
    (s.zones.workingState = .frozen → ∀ (field : List Byte) (zone : Half) (kind access role : Byte) (value : DevName),
      ∀ i ∈ [Instr.setSetName f field, .setDefaultAccess f access, .zoneCreate f zone field kind, .zoneDelete f zone,
             .zoneRename f zone field, .memberAdd f zone kind value role, .memberRemove f zone kind value],
        exec i s = .next (respond f (answer .locked) s)) ∧
    (s.zones.workingState = .editable →
      exec (.workingClone f) s = .next (respond f (answer .done)
        { s with zones := { s.zones with working := s.zones.live, modified := false } }) ∧
      exec (.workingClear f) s = .next (respond f (answer .done)
        { s with zones := { s.zones with working := { setName := [], access := .deny, zones := [] }, modified := true } }) ∧
      (∀ field name, spells field name → exec (.setSetName f field) s = .next (respond f (answer .done)
        { s with zones := { s.zones with working := { s.zones.working with setName := name }, modified := true } })) ∧
      (∀ field, field.length = 32 → (∀ name, ¬ spells field name) →
        exec (.setSetName f field) s = .next (respond f (answer .invalidField) s)) ∧
      exec (.setDefaultAccess f 0) s = .next (respond f (answer .done)
        { s with zones := { s.zones with working := { s.zones.working with access := .deny }, modified := true } }) ∧
      exec (.setDefaultAccess f 1) s = .next (respond f (answer .done)
        { s with zones := { s.zones with working := { s.zones.working with access := .permit }, modified := true } }) ∧
      ∀ access : Byte, 1 < access.toNat →
        exec (.setDefaultAccess f access) s = .next (respond f (answer .invalidField) s))

/-- Zone Create, Zone Delete and Zone Rename on an Editable Working (R88 to R90): the checks in their order, and the zones after
an accepted edit. -/
def Obligations.ZoneRecordsRule : Prop :=
  ∀ (f : Frame) (zone : Half) (s : State), MasterClear s f.port → s.zones.workingState = .editable → ImagesLawful s →
    let im := s.zones.working
    let inRange := 1 ≤ zone.toNat ∧ zone.toNat ≤ 512
    let edited := fun t : State => t = { s with zones := { s.zones with working := t.zones.working, modified := true } } ∧
      t.zones.working.setName = im.setName ∧ t.zones.working.access = im.access ∧
      (t.zones.working.zones.map Zone.id).Pairwise (· < ·)
    (∀ (field : List Byte) (kind : Byte), field.length = 32 →
      let i : Instr := .zoneCreate f zone field kind
      (¬ inRange → exec i s = .next (respond f (answer .outOfRange) s)) ∧
      (inRange → (1 < kind.toNat ∨ ∀ name, spells field name → name = []) →
        exec i s = .next (respond f (answer .invalidField) s)) ∧
      (∀ name, inRange → kind.toNat ≤ 1 → spells field name → name ≠ [] →
        ((∃ z ∈ im.zones, z.id = zone.toNat ∨ z.name = name) → exec i s = .next (respond f (answer .duplicate) s)) ∧
        ((∀ z ∈ im.zones, z.id ≠ zone.toNat ∧ z.name ≠ name) → ∃ t, exec i s = .next (respond f (answer .done) t) ∧
          edited t ∧ ∀ z, z ∈ t.zones.working.zones ↔ z ∈ im.zones ∨
            z = { id := zone.toNat, name := name, kind := if kind = 0 then .plain else .peer, members := [] }))) ∧
    ((¬ inRange → exec (.zoneDelete f zone) s = .next (respond f (answer .outOfRange) s)) ∧
      (inRange → (∀ z ∈ im.zones, z.id ≠ zone.toNat) →
        exec (.zoneDelete f zone) s = .next (respond f (answer .notFound) s)) ∧
      (inRange → (∃ z ∈ im.zones, z.id = zone.toNat) → ∃ t, exec (.zoneDelete f zone) s = .next (respond f (answer .done) t) ∧
        edited t ∧ ∀ z, z ∈ t.zones.working.zones ↔ z ∈ im.zones ∧ z.id ≠ zone.toNat)) ∧
    (∀ field : List Byte, field.length = 32 →
      let i : Instr := .zoneRename f zone field
      (¬ inRange → exec i s = .next (respond f (answer .outOfRange) s)) ∧
      (inRange → (∀ z ∈ im.zones, z.id ≠ zone.toNat) → exec i s = .next (respond f (answer .notFound) s)) ∧
      (∀ z ∈ im.zones, z.id = zone.toNat →
        ((∀ name, spells field name → name = []) → exec i s = .next (respond f (answer .invalidField) s)) ∧
        (∀ name, spells field name → name ≠ [] →
          ((∃ w ∈ im.zones, w.name = name ∧ w.id ≠ zone.toNat) → exec i s = .next (respond f (answer .duplicate) s)) ∧
          ((∀ w ∈ im.zones, w.name = name → w.id = zone.toNat) → ∃ t, exec i s = .next (respond f (answer .done) t) ∧
            edited t ∧ ∀ w, w ∈ t.zones.working.zones ↔
              w = { z with name := name } ∨ (w ∈ im.zones ∧ w.id ≠ zone.toNat)))))

/-- Member Add and Member Remove on an Editable Working (R91, R92): the checks in their order; the member at the end of its zone's
list, and the removed member gone with the order of the rest kept. -/
def Obligations.MembersRule : Prop :=
  ∀ (f : Frame) (zone : Half) (kind role : Byte) (value : DevName) (s : State), MasterClear s f.port →
    s.zones.workingState = .editable → ImagesLawful s →
    let im := s.zones.working
    let inRange := 1 ≤ zone.toNat ∧ zone.toNat ≤ 512
    let slotByte := (value.extractLsb' 56 8).toNat
    let posByte := (value.extractLsb' 48 8).toNat
    let names := fun d : Designator => (kind = 0 ∧ value ≠ 0 ∧ d = .name value) ∨
      (kind = 1 ∧ ∃ (slot : Slot) (pos : Fin 48), slotByte = slot.val + 1 ∧ posByte = pos.val ∧ d = .port slot pos)
    let roleIs := fun (z : Zone) (r : Role) => (z.kind = .plain ∧ role = 0 ∧ r = .none) ∨
      (z.kind = .peer ∧ role = 1 ∧ r = .principal) ∨ (z.kind = .peer ∧ role = 2 ∧ r = .peer)
    let total := (im.zones.map fun z => z.members.length).sum
    let after := fun (z : Zone) (members : List Member) (t : State) =>
      t = { s with zones := { s.zones with
              working := { im with zones := im.zones.map fun w => if w.id = z.id then { w with members := members } else w }
              modified := true } }
    let add : Instr := .memberAdd f zone kind value role
    let remove : Instr := .memberRemove f zone kind value
    (¬ inRange → exec add s = .next (respond f (answer .outOfRange) s) ∧
      exec remove s = .next (respond f (answer .outOfRange) s)) ∧
    (inRange → (∀ z ∈ im.zones, z.id ≠ zone.toNat) → exec add s = .next (respond f (answer .notFound) s) ∧
      exec remove s = .next (respond f (answer .notFound) s)) ∧
    (∀ z ∈ im.zones, z.id = zone.toNat →
      ((∀ d, ¬ names d) → exec add s = .next (respond f (answer .invalidField) s) ∧
        exec remove s = .next (respond f (answer .invalidField) s)) ∧
      (∀ d, names d →
        ((∀ r, ¬ roleIs z r) → exec add s = .next (respond f (answer .invalidField) s)) ∧
        (∀ r, roleIs z r →
          ((∃ m ∈ z.members, m.designator = d) → exec add s = .next (respond f (answer .duplicate) s)) ∧
          ((∀ m ∈ z.members, m.designator ≠ d) → (64 ≤ z.members.length ∨ 4096 ≤ total) →
            exec add s = .next (respond f (answer .capacity) s)) ∧
          ((∀ m ∈ z.members, m.designator ≠ d) → z.members.length < 64 → total < 4096 → ∃ t,
            exec add s = .next (respond f (answer .done) t) ∧
            after z (z.members ++ [{ designator := d, role := r }]) t)) ∧
        ((∀ m ∈ z.members, m.designator ≠ d) → exec remove s = .next (respond f (answer .notFound) s)) ∧
        ((∃ m ∈ z.members, m.designator = d) → ∃ t, exec remove s = .next (respond f (answer .done) t) ∧
          after z (z.members.filter fun m => m.designator ≠ d) t)))

/-- The zoning evaluation (R93, R94), Zone Check (R95) and Image Summary (R96), with the layouts of R171. -/
def Obligations.ZoneReadsRule : Prop :=
  (∀ (s : State) (im : Image) (x y : DevName), ImageLawful im → ZoningAnswer s im x y (evaluate s im x y)) ∧
  (∀ (f : Frame) (x y : DevName) (image : Byte) (s : State), PortClear s f.port →
    ((x = 0 ∨ y = 0 ∨ 1 < image.toNat) → exec (.zoneCheck f x y image) s = .next (respond f (answer .invalidField) s)) ∧
    (x ≠ 0 → y ≠ 0 → image.toNat ≤ 1 → ∃ fields,
      exec (.zoneCheck f x y image) s = .next (respond f { status := .done, detail := 0, fields := fields } s) ∧
      fields = (match evaluate s (if image = 0 then s.zones.live else s.zones.working) x y with
        | .permitZone id => [0#8, 0#8] ++ split2 (BitVec.ofNat 16 id)
        | .permitDefault => [0#8, 1#8, 0#8, 0#8]
        | .denyZoning => [1#8, 0#8, 0#8, 0#8]
        | .denyDefault => [1#8, 1#8, 0#8, 0#8]) ++ split4 s.zones.generation)) ∧
  (∀ (f : Frame) (image : Byte) (s : State), MasterClear s f.port →
    (2 < image.toNat → exec (.imageSummary f image) s = .next (respond f (answer .invalidField) s)) ∧
    (image.toNat ≤ 2 → ∃ fields,
      exec (.imageSummary f image) s = .next (respond f { status := .done, detail := 0, fields := fields } s) ∧
      let im := if image = 0 then s.zones.live else if image = 1 then s.zones.working else s.zones.pending
      fields = im.setName ++ List.replicate (32 - im.setName.length) (0 : Byte) ++
        [match im.access with
          | .deny => (0#8 : Byte)
          | .permit => 1#8] ++
        split2 (BitVec.ofNat 16 im.zones.length) ++
        split2 (BitVec.ofNat 16 (im.zones.map fun z => z.members.length).sum) ++
        (if image = 0 then split4 s.zones.generation else [0#8, 0#8, 0#8, 0#8]) ++
        (if image = 1 then [if s.zones.modified then (1#8 : Byte) else 0#8,
          match s.zones.workingState with
            | .editable => 0#8
            | .armed => 1#8
            | .frozen => 2#8] else [0#8, 0#8])))

/-! ## The Commit Engine -/

/-- A matching Confirm of a Commit (R101 to R105, R109, R111): validation, the number and the records, the start with its targets
and Holds, the commit that has no target and ends at once, and the queue. -/
def Obligations.CommitConfirmed : Prop :=
  ∀ (f : Frame) (s : State), PortTakes s f.port → s.cmd.mastership = some f.port → DeficitFollows s →
    (s.cmdPort f.port).armed = .commit → s.zones.workingState = .armed → s.commit.queued = none →
    let i : Instr := .confirmCommit f 0x39 0
    let editable := disarm f.port s
    let zones := s.zones.working.zones
    let wanting := fun z : Zone => z.kind = .peer ∧ ∀ m ∈ z.members, m.role ≠ .principal
    let number := s.commit.nextNumber + 1
    let joined := fun c : Slot => (s.card c).state = .joined
    let records := fun t : State => t.commit.nextNumber = number ∧
      t.commit.previous = (if s.commit.previous.any (fun r => r.outcome == .inFlight) then s.commit.previous
        else s.commit.current)
    (∀ before z rest, zones = before ++ z :: rest → (∀ w ∈ before, w.members ≠ []) → z.members = [] →
      exec i s = .next (respond f { status := .validation, detail := 1
                                    fields := split2 (BitVec.ofNat 16 z.id) ++ [1#8] } editable)) ∧
    ((∀ z ∈ zones, z.members ≠ []) → ∀ before z rest, zones = before ++ z :: rest → (∀ w ∈ before, ¬ wanting w) →
      wanting z → exec i s = .next (respond f { status := .validation, detail := 2
                                                fields := split2 (BitVec.ofNat 16 z.id) ++ [2#8] } editable)) ∧
    ((∀ z ∈ zones, z.members ≠ [] ∧ ¬ wanting z) →
      (s.commit.engine = .idle → (∀ c, (s.phaseRec c).phase = .outside) → (∃ c, joined c) → ∃ t,
        exec i s = .next (respond f (answer .started) t) ∧ records t ∧
        t.zones = { s.zones with pending := s.zones.working, modified := false, workingState := .editable } ∧
        t.commit.engine = .fencing ∧ t.commit.direction = .forward ∧ t.commit.active = some number ∧
        t.commit.queued = none ∧ t.commit.tally = 0 ∧
        t.commit.current = some { number := number, outcome := .inFlight, fenced := 0, generation := s.zones.generation } ∧
        (∀ c, joined c → t.phaseRec c = { phase := .awaitHold, resends := 0, timeout := 250, timerOn := true } ∧
          t.card c = { s.card c with outbox := (s.card c).outbox ++ [.hold (s.zones.generation + 1)] }) ∧
        (∀ c, ¬ joined c → t.phaseRec c = s.phaseRec c ∧ t.card c = s.card c) ∧ (∀ p, (t.attention p).set.commit = true) ∧
        t = { editable with zones := t.zones, commit := t.commit, cards := t.cards, attn := t.attn }) ∧
      (s.commit.engine = .idle → (∀ c, (s.phaseRec c).phase = .outside) → (∀ c, ¬ joined c) → ∃ t,
        exec i s = .next (respond f (answer .started) t) ∧ records t ∧
        t.zones = { working := s.zones.working, pending := Image.empty, live := s.zones.working
                    generation := s.zones.generation + 1, modified := false, workingState := .editable } ∧
        t.commit.engine = .idle ∧ t.commit.active = none ∧
        t.commit.current = some { number := number, outcome := .passed, fenced := 0
                                  generation := s.zones.generation + 1 } ∧
        t = { editable with zones := t.zones, commit := t.commit, attn := t.attn }) ∧
      (s.commit.engine ≠ .idle → ∃ t, exec i s = .next (respond f (answer .queued) t) ∧ records t ∧
        t.zones = { s.zones with workingState := .frozen } ∧ t.commit.queued = some number ∧
        t.commit = { s.commit with nextNumber := t.commit.nextNumber, current := t.commit.current
                                   previous := t.commit.previous, queued := some number } ∧
        t.commit.current = some { number := number, outcome := .inFlight, fenced := 0, generation := s.zones.generation } ∧
        (∀ p, (t.attention p).set.commit = true) ∧ t = { editable with zones := t.zones, commit := t.commit, attn := t.attn }))

/-- Acknowledgements (R108 to R111): the Hold-Ack that is taken and the switch that the last one makes; the Resume-Ack that is
taken and the end that the last one makes, with the active commit's record wherever it stands (R99, R102), the CommitDegraded
claim and the start of a queued commit; those that are ignored. Where both result records hold the active number, that the current
one takes the change is the model's choice (log 29); that Pending is emptied at the switch, before the end, is its reading (log
32). -/
def Obligations.AcknowledgementsRule : Prop :=
  ∀ (slot : Slot) (generation : Word) (s : State), (s.card slot).state = .joined →
    let acked := fun phase : Phase => s.commit.cards.set slot { s.phaseRec slot with phase := phase, timerOn := false }
    let hold := s.commit.engine = .fencing ∧ (s.phaseRec slot).phase = .awaitHold ∧ generation = s.zones.generation + 1
    let resume := s.commit.engine = .releasing ∧ (s.phaseRec slot).phase = .awaitResume ∧ generation = s.commit.releaseGen
    let noted := fun (t : State) (g : ResultRec → ResultRec) =>
      (∀ r, s.commit.current = some r → s.commit.active = some r.number → t.commit.current = some (g r)) ∧
      ∀ r, s.commit.previous = some r → s.commit.active = some r.number →
        (∀ q, s.commit.current = some q → q.number ≠ r.number) → t.commit.previous = some (g r)
    let settled := fun t : State =>
      (noted t fun r => { r with outcome := match s.commit.direction with
        | .forward => if s.commit.tally = 0 then .passed else .passedDegraded
        | .abort => .aborted }) ∧
      (s.commit.direction = .forward → s.commit.tally ≠ 0 → AlarmsLawful s → s.alarms.length < 128 →
        AlarmStands t .commitDegraded 0 .major s.commit.tally)
    (¬ hold → exec (.holdAck slot generation) s = .next s) ∧
    (hold → (∃ c, c ≠ slot ∧ (s.phaseRec c).phase = .awaitHold) →
      exec (.holdAck slot generation) s = .next { s with commit := { s.commit with cards := acked .held } }) ∧
    (hold → (∀ c, c ≠ slot → (s.phaseRec c).phase ≠ .awaitHold) → ∃ t, exec (.holdAck slot generation) s = .next t ∧
      t.zones = { s.zones with live := s.zones.pending, generation := s.zones.generation + 1, pending := Image.empty } ∧
      t.commit.engine = .releasing ∧ t.commit.direction = .forward ∧ t.commit.releaseGen = s.zones.generation + 1 ∧
      t.commit.active = s.commit.active ∧ t.commit.queued = s.commit.queued ∧ t.commit.tally = s.commit.tally ∧
      (∀ c, if c = slot ∨ (s.phaseRec c).phase = .held ∨ (s.phaseRec c).phase = .late then
          t.phaseRec c = { phase := .awaitResume, resends := 0, timeout := 250, timerOn := true } ∧
          t.card c = { s.card c with outbox := (s.card c).outbox ++ [.resume (s.zones.generation + 1)] }
        else t.phaseRec c = s.phaseRec c ∧ t.card c = s.card c) ∧
      (noted t fun r => { r with generation := s.zones.generation + 1 }) ∧
      (∀ p, (t.attention p).set.commit = true) ∧
      t = { s with zones := t.zones, commit := t.commit, cards := t.cards, attn := t.attn }) ∧
    (¬ resume → exec (.resumeAck slot generation) s = .next s) ∧
    (resume → (∃ c, c ≠ slot ∧ (s.phaseRec c).phase = .awaitResume) →
      exec (.resumeAck slot generation) s = .next { s with commit := { s.commit with cards := acked .done } }) ∧
    (resume → (∀ c, c ≠ slot → (s.phaseRec c).phase ≠ .awaitResume) → s.commit.queued = none → ∃ t,
      exec (.resumeAck slot generation) s = .next t ∧
      t.commit.engine = .idle ∧ t.commit.active = none ∧ t.commit.tally = 0 ∧ (∀ c, (t.phaseRec c).phase = .outside) ∧
      settled t ∧
      (∀ p, (t.attention p).set.commit = true) ∧
      t = { s with commit := t.commit, alarms := t.alarms, attn := t.attn }) ∧
    (resume → (∀ c, c ≠ slot → (s.phaseRec c).phase ≠ .awaitResume) → ∀ k, s.commit.queued = some k → ∃ t,
      exec (.resumeAck slot generation) s = .next t ∧ t.commit.engine = .fencing ∧ t.commit.active = some k ∧
      t.commit.queued = none ∧ t.commit.tally = 0 ∧ t.commit.direction = .forward ∧ settled t ∧ t.zones = { s.zones with
        pending := s.zones.working, modified := false, workingState := .editable } ∧
      (∀ c, (s.card c).state = .joined →
        t.phaseRec c = { phase := .awaitHold, resends := 0, timeout := 250, timerOn := true } ∧
        t.card c = { s.card c with outbox := (s.card c).outbox ++ [.hold (s.zones.generation + 1)] }) ∧
      (∀ c, (s.card c).state ≠ .joined → (t.phaseRec c).phase = .outside ∧ t.card c = s.card c) ∧
      (∀ p, (t.attention p).set.commit = true) ∧
      t = { s with zones := t.zones, commit := t.commit, cards := t.cards, alarms := t.alarms, attn := t.attn })

/-- Hold and Resume timeouts (R106, R107, R110, R32): the resend below the commit retry limit, and at it the fence, with the
tally, the cards fenced of the result record, the CardFault, Slot in both attention sets (R22), the Revokes behind the messages
that wait, which the fence keeps (R38; log 30), and the Purges to the cards still Joined (R122, R123). A fence that leaves no card
awaited makes the switch (R107, R109) or the end (R110, R111), and the end starts the queued commit, which ends at once where no
card is Joined (R105, R109, R111). Where both result records hold the active number, that the current one takes the change is the
model's choice (log 29); that Pending is emptied at the switch, before the end, is its reading (log 32). -/
def Obligations.CommitTimeoutsRule : Prop :=
  ∀ (slot : Slot) (s : State), (s.phaseRec slot).timerOn = true →
    let resent := fun m : CardMsg => { s with
      cards := s.cards.set slot { s.card slot with outbox := (s.card slot).outbox ++ [m] }
      commit := { s.commit with cards := s.commit.cards.set slot { s.phaseRec slot with
        resends := (s.phaseRec slot).resends + 1
        timeout := min (250 * 2 ^ ((s.phaseRec slot).resends + 1)) 2000, timerOn := true } } }
    let below := (s.phaseRec slot).resends < s.params.commitRetry
    let tally := min (s.commit.tally + 1) 255
    let fenced := fun t : State =>
      (t.card slot).state = .fenced ∧ (t.card slot).powerEnable = true ∧ (t.card slot).identity = (s.card slot).identity ∧
      (t.phaseRec slot).phase = .outside ∧
      (AlarmsLawful s → s.alarms.length < 128 → AlarmStands t .cardFault (slot.val + 1) .major 4) ∧
      (∀ n, slotOf n = slot → serviceable t n = false ∧ (t.port n).power = (s.port n).power ∧
        (serviceable s n = true → (t.port n).link = .dark ∧ (t.port n).logins = 0 ∧
          CardMsg.revoke (posOf n) ∈ (t.card slot).outbox)) ∧
      (∀ p, (t.attention p).set.slot = true) ∧
      (NamesLawful s → t.names = (namesWithout s fun n => slotOf n == slot) ∧
        (t.card slot).outbox = (s.card slot).outbox ++
          ((slotPorts slot).filter (serviceable s)).map (fun n => .revoke (posOf n)) ∧
        ∀ c, c ≠ slot →
          fallsOf (t.card c).outbox = fallsOf (s.card c).outbox ++ fallsSend s (slotPorts slot) c) ∧
      t.power = s.power ∧ t.license = s.license ∧ SettingsKept s t ∧ SensorsKept s t ∧ OutsideKept s t
    let noted := fun (t : State) (g : ResultRec → ResultRec) =>
      (∀ r, s.commit.current = some r → s.commit.active = some r.number →
        t.commit.current = some (g { r with fenced := tally })) ∧
      ∀ r, s.commit.previous = some r → s.commit.active = some r.number →
        (∀ q, s.commit.current = some q → q.number ≠ r.number) → t.commit.previous = some (g { r with fenced := tally })
    let ended := fun t : State => t.commit.engine = .idle ∧ t.commit.active = none ∧ t.commit.tally = 0 ∧
      ∀ c, (t.phaseRec c).phase = .outside
    let startedNext := fun (t : State) (k : Half) => t.commit.engine = .fencing ∧ t.commit.active = some k ∧
      t.commit.queued = none ∧ t.commit.tally = 0 ∧ t.zones.pending = s.zones.working ∧
      t.zones.working = s.zones.working ∧ t.zones.workingState = .editable ∧
      ∀ c, c ≠ slot → (s.card c).state = .joined → (t.phaseRec c).phase = .awaitHold ∧
        CardMsg.hold (t.zones.generation + 1) ∈ (t.card c).outbox
    let passedNext := fun (t : State) (k : Half) (generation : Word) =>
      t.commit.engine = .idle ∧ t.commit.active = none ∧ t.commit.queued = none ∧ t.commit.tally = 0 ∧
      (∀ c, (t.phaseRec c).phase = .outside) ∧ t.zones = { s.zones with
        live := s.zones.working, pending := Image.empty, generation := generation, modified := false
        workingState := .editable } ∧
      ∀ r, s.commit.current = some r → r.number = k → s.commit.active ≠ some k →
        t.commit.current = some { r with outcome := .passed, generation := generation }
    let waits := fun (phase : Phase) => ∃ c, c ≠ slot ∧ (s.phaseRec c).phase = phase
    let othersUp := ∃ c, c ≠ slot ∧ (s.card c).state = .joined
    let settles := s.commit.queued = none ∨ othersUp
    ((s.phaseRec slot).phase = .awaitHold → below →
      exec (.holdTimeout slot) s = .next (resent (.hold (s.zones.generation + 1)))) ∧
    ((s.phaseRec slot).phase = .awaitResume → below →
      exec (.resumeTimeout slot) s = .next (resent (.resume s.commit.releaseGen))) ∧
    ((s.phaseRec slot).phase = .awaitHold → ¬ below → (s.card slot).state = .joined → ∃ t,
      exec (.holdTimeout slot) s = .next t ∧ fenced t ∧
      (waits .awaitHold → s.commit.engine = .fencing → t.zones = s.zones ∧
        t.commit.engine = .fencing ∧ t.commit.tally = tally ∧ noted t id) ∧
      (¬ waits .awaitHold → s.commit.engine = .fencing →
        (settles → t.zones.live = s.zones.pending ∧ t.zones.generation = s.zones.generation + 1) ∧
        (waits .held ∨ waits .late → t.zones.pending = Image.empty ∧ t.zones.working = s.zones.working ∧
          t.zones.live = s.zones.pending ∧ t.zones.generation = s.zones.generation + 1 ∧ t.commit.engine = .releasing ∧
          t.commit.direction = .forward ∧ t.commit.releaseGen = s.zones.generation + 1 ∧
          t.commit.active = s.commit.active ∧ t.commit.tally = tally ∧
          (∀ c, c ≠ slot → (s.phaseRec c).phase = .held ∨ (s.phaseRec c).phase = .late →
            t.phaseRec c = { phase := .awaitResume, resends := 0, timeout := 250, timerOn := true } ∧
            CardMsg.resume (s.zones.generation + 1) ∈ (t.card c).outbox) ∧
          noted t fun r => { r with generation := s.zones.generation + 1 }) ∧
        (¬ waits .held → ¬ waits .late → ¬ waits .awaitResume →
          (settles ∨ s.commit.queued ≠ s.commit.active →
            noted t fun r => { r with outcome := .passedDegraded, generation := s.zones.generation + 1 }) ∧
          (AlarmsLawful s → s.alarms.length < 127 → AlarmStands t .commitDegraded 0 .major tally) ∧
          (s.commit.queued = none → ended t ∧ t.zones.pending = Image.empty) ∧
          ∀ k, s.commit.queued = some k →
            (othersUp → startedNext t k) ∧ (¬ othersUp → passedNext t k (s.zones.generation + 2))))) ∧
    ((s.phaseRec slot).phase = .awaitResume → ¬ below → (s.card slot).state = .joined → ∃ t,
      exec (.resumeTimeout slot) s = .next t ∧ fenced t ∧
      (waits .awaitResume → s.commit.engine = .releasing → t.zones = s.zones ∧
        t.commit.engine = .releasing ∧ t.commit.tally = tally ∧ noted t id) ∧
      (¬ waits .awaitResume → s.commit.engine = .releasing →
        (settles → t.zones.live = s.zones.live ∧ t.zones.generation = s.zones.generation) ∧
        (settles ∨ s.commit.queued ≠ s.commit.active →
          noted t fun r => { r with outcome := match s.commit.direction with
            | .forward => .passedDegraded
            | .abort => .aborted }) ∧
        (s.commit.direction = .forward → AlarmsLawful s → s.alarms.length < 127 →
          AlarmStands t .commitDegraded 0 .major tally) ∧
        (s.commit.queued = none → ended t ∧ t.zones = s.zones) ∧
        ∀ k, s.commit.queued = some k →
          (othersUp → startedNext t k) ∧ (¬ othersUp → passedNext t k (s.zones.generation + 1))))

/-- Commit Abort (R112, R113) and Commit Withdraw (R114). That Pending is emptied by the abort, before the end of the commit, is
the model's reading (log 32). -/
def Obligations.AbortAndWithdrawRule : Prop :=
  ∀ (f : Frame) (s : State), MasterClear s f.port →
    let held := fun c : Slot => (s.phaseRec c).phase = .held ∨ (s.phaseRec c).phase = .awaitHold
    (s.commit.engine = .idle → exec (.commitAbort f) s = .next (respond f (answer .idle) s)) ∧
    (s.commit.engine = .releasing → exec (.commitAbort f) s = .next (respond f (answer .tooLate) s)) ∧
    (s.commit.engine = .fencing → (∃ c, held c) → (∀ c, (s.phaseRec c).phase ≠ .awaitResume) → ∃ t,
      exec (.commitAbort f) s = .next (respond f (answer .started) t) ∧
      t.zones = { s.zones with pending := Image.empty } ∧ t.commit.engine = .releasing ∧ t.commit.direction = .abort ∧
      t.commit.releaseGen = s.zones.generation ∧ t.commit.active = s.commit.active ∧
      t.commit.queued = s.commit.queued ∧ t.commit.current = s.commit.current ∧ t.commit.tally = s.commit.tally ∧
      (∀ c, held c → t.phaseRec c = { phase := .awaitResume, resends := 0, timeout := 250, timerOn := true } ∧
        t.card c = { s.card c with outbox := (s.card c).outbox ++ [.resume s.zones.generation] }) ∧
      (∀ c, (s.phaseRec c).phase = .late → (t.phaseRec c).phase = .outside ∧ t.card c = s.card c) ∧
      (∀ p, (t.attention p).set.commit = true) ∧
      t = { s with zones := t.zones, commit := t.commit, cards := t.cards, attn := t.attn }) ∧
    (s.zones.workingState = .editable → exec (.commitWithdraw f) s = .next (respond f (answer .idle) s)) ∧
    (s.zones.workingState = .frozen → ∃ t, exec (.commitWithdraw f) s = .next (respond f (answer .done) t) ∧
      t.zones = { s.zones with workingState := .editable } ∧ t.commit.queued = none ∧
      t.commit = { s.commit with queued := none, current := t.commit.current, previous := t.commit.previous } ∧
      (∀ r, s.commit.current = some r → s.commit.queued = some r.number →
        t.commit.current = some { r with outcome := .withdrawn } ∧ t.commit.previous = s.commit.previous) ∧
      (∀ p, (t.attention p).set.commit = true) ∧ t = { s with zones := t.zones, commit := t.commit, attn := t.attn })

/-! ## The Name Map -/

/-- A Login from a Joined card (R119, R120): the first reason that applies, and what an Accept writes. A Logout (R121). -/
def Obligations.LoginLogoutRule : Prop :=
  ∀ (slot : Slot) (position : Byte) (name : DevName) (s : State), (s.card slot).state = .joined → NamesLawful s →
    let answered := fun (t : State) (accept : Bool) (reason : Byte) => { t with
      cards := t.cards.set slot { t.card slot with
        outbox := (t.card slot).outbox ++ [.loginAnswer position name accept reason] } }
    let i : Instr := .login slot position name
    (name = 0 → exec i s = .next (answered s false 1)) ∧
    (name ≠ 0 → 48 ≤ position.toNat → exec i s = .next (answered s false 2)) ∧
    (∀ n : PortIx, slotOf n = slot → posOf n = position.toNat → name ≠ 0 →
      (serviceable s n = false → exec i s = .next (answered s false 2)) ∧
      (serviceable s n = true →
        (∀ k e, (k, e) ∈ s.names → e.name = name →
          (e.status = .learned → exec i s = .next (if e.port = n then answered s true 0 else answered s false 3)) ∧
          (e.status = .pinnedPresent → exec i s = .next (if e.port = n then answered s true 0 else answered s false 4)) ∧
          (e.status = .pinned → e.port ≠ n → exec i s = .next (answered s false 4)) ∧
          (e.status = .pinned → e.port = n → 4 ≤ (s.port n).logins → exec i s = .next (answered s false 5)) ∧
          (e.status = .pinned → e.port = n → (s.port n).logins < 4 → exec i s = .next (answered { s with
            names := tableSet k { e with status := .pinnedPresent } s.names
            ports := s.ports.set n { s.port n with logins := (s.port n).logins + 1 } } true 0))) ∧
        ((∀ x ∈ s.names, x.2.name ≠ name) →
          (4 ≤ (s.port n).logins → exec i s = .next (answered s false 5)) ∧
          ((s.port n).logins < 4 → s.names.length = 2048 → AlarmsLawful s → s.alarms.length < 128 → ∃ t,
            exec i s = .next (answered t false 6) ∧ t = { s with alarms := t.alarms, attn := t.attn } ∧
            AlarmStands t .nameMapFull 0 .minor 0) ∧
          (∀ k, (s.port n).logins < 4 → k < 2048 → tableGet s.names k = none →
            (∀ j, j < k → tableGet s.names j ≠ none) → exec i s = .next (answered { s with
              names := tableSet k { name := name, port := n, status := .learned } s.names
              ports := s.ports.set n { s.port n with logins := (s.port n).logins + 1 } } true 0))))) ∧
    (∀ k e, (k, e) ∈ s.names → e.name = name → slotOf e.port = slot → posOf e.port = position.toNat →
      (e.status = .pinned → exec (.logout slot position name) s = .next s) ∧
      (e.status ≠ .pinned → ∃ t, exec (.logout slot position name) s = .next t ∧
        t.names = (if e.status = .learned then tableErase k s.names
          else tableSet k { e with status := .pinned } s.names) ∧
        t.ports = s.ports.set e.port { s.port e.port with logins := (s.port e.port).logins - 1 } ∧
        (∀ c, t.card c = if (s.card c).state = .joined then
            { s.card c with outbox := (s.card c).outbox ++ [.purge name] } else s.card c) ∧
        t = { s with names := t.names, ports := t.ports, cards := t.cards })) ∧
    ((∀ k e, (k, e) ∈ s.names → e.name = name → ¬ (slotOf e.port = slot ∧ posOf e.port = position.toNat)) →
      exec (.logout slot position name) s = .next s)

/-- A Query from a Joined card (R127, R128): the first step that applies gives the verdict, the reason and the zone, answered with
the Live generation on the asking card's link; nothing else changes. -/
def Obligations.QueryRule : Prop :=
  ∀ (slot : Slot) (tag : Half) (position : Byte) (x y : DevName) (s : State), (s.card slot).state = .joined →
    NamesLawful s →
    let answered := fun (allow : Bool) (reason : Byte) (zone : Half) => { s with
      cards := s.cards.set slot { s.card slot with
        outbox := (s.card slot).outbox ++ [.queryAnswer tag allow reason zone s.zones.generation] } }
    let i : Instr := .query slot tag position x y
    let loggedInOn := fun (d : DevName) (n : PortIx) => ∃ k e, (k, e) ∈ s.names ∧ e.name = d ∧ e.port = n ∧ e.status ≠ .pinned
    (x = y → exec i s = .next (answered false 1 0)) ∧
    (x ≠ y → 48 ≤ position.toNat → exec i s = .next (answered false 2 0)) ∧
    (∀ n : PortIx, slotOf n = slot → posOf n = position.toNat → x ≠ y →
      (live s n = false → exec i s = .next (answered false 2 0)) ∧
      (live s n = true → ¬ loggedInOn x n → exec i s = .next (answered false 3 0)) ∧
      (live s n = true → loggedInOn x n → (∀ m, ¬ loggedInOn y m) → exec i s = .next (answered false 4 0)) ∧
      (∀ m, live s n = true → loggedInOn x n → loggedInOn y m →
        (live s m = false → exec i s = .next (answered false 5 0)) ∧
        (live s m = true → exec i s = .next (match evaluate s s.zones.live x y with
          | .permitZone id => answered true 6 (BitVec.ofNat 16 id)
          | .permitDefault => answered true 7 0
          | .denyZoning => answered false 8 0
          | .denyDefault => answered false 7 0))))

/-- Name Pin, Name Unpin and Name Lookup (R124 to R126): the checks in their order, the entry each leaves, and the fields of a
Lookup (R171). -/
def Obligations.NameCommandsRule : Prop :=
  ∀ (f : Frame) (name : DevName) (s : State), NamesLawful s →
    (MasterClear s f.port → ∀ port : Half,
      let i : Instr := .namePin f name port
      let wrote := fun (k : Nat) (e : NameEntry) => respond f (answer .done) { s with names := tableSet k e s.names }
      (name = 0 → exec i s = .next (respond f (answer .invalidField) s)) ∧
      (name ≠ 0 → 671 < port.toNat → exec i s = .next (respond f (answer .outOfRange) s)) ∧
      (∀ n : PortIx, name ≠ 0 → port.toNat = n.val →
        (∀ k e, (k, e) ∈ s.names → e.name = name →
          (e.status = .learned → exec i s = .next (if e.port = n then wrote k { e with status := .pinnedPresent }
            else respond f (answer .conflict) s)) ∧
          (e.status = .pinned → exec i s = .next (if e.port = n then respond f (answer .noChange) s
            else wrote k { e with port := n })) ∧
          (e.status = .pinnedPresent → exec i s = .next (if e.port = n then respond f (answer .noChange) s
            else respond f (answer .conflict) s))) ∧
        ((∀ x ∈ s.names, x.2.name ≠ name) →
          (s.names.length = 2048 → exec i s = .next (respond f (answer .capacity) s)) ∧
          ∀ k, k < 2048 → tableGet s.names k = none → (∀ j, j < k → tableGet s.names j ≠ none) →
            exec i s = .next (wrote k { name := name, port := n, status := .pinned })))) ∧
    (MasterClear s f.port →
      let i : Instr := .nameUnpin f name
      (name = 0 → exec i s = .next (respond f (answer .invalidField) s)) ∧
      (name ≠ 0 → (∀ x ∈ s.names, x.2.name ≠ name) → exec i s = .next (respond f (answer .notFound) s)) ∧
      (∀ k e, name ≠ 0 → (k, e) ∈ s.names → e.name = name →
        (e.status = .learned → exec i s = .next (respond f (answer .noChange) s)) ∧
        (e.status = .pinned → exec i s = .next (respond f (answer .done) { s with names := tableErase k s.names })) ∧
        (e.status = .pinnedPresent → exec i s = .next (respond f (answer .done)
          { s with names := tableSet k { e with status := .learned } s.names })))) ∧
    (PortClear s f.port →
      let i : Instr := .nameLookup f name
      (name = 0 → exec i s = .next (respond f (answer .invalidField) s)) ∧
      (name ≠ 0 → (∀ x ∈ s.names, x.2.name ≠ name) → exec i s = .next (respond f (answer .notFound) s)) ∧
      (∀ k e, name ≠ 0 → (k, e) ∈ s.names → e.name = name → exec i s = .next (respond f
        { status := .done, detail := 0,
          fields := split2 (BitVec.ofNat 16 k) ++ split8 name ++
            [match e.status with
              | .learned => (0#8 : Byte)
              | .pinned => 1#8
              | .pinnedPresent => 2#8] ++
            split2 (BitVec.ofNat 16 e.port.val) ++
            [BitVec.ofNat 8 (e.port.val / 48 + 1), BitVec.ofNat 8 (e.port.val % 48),
             if e.status = .pinned then 0#8 else 1#8] } s)))

/-! ## The Alarm Table -/

/-- Claims and acknowledgements on the Alarm Table (R147 to R152): a raise on each state of the pair's entry and on none, an end,
Alarm Acknowledge and Alarm Acknowledge All, which adds Alarm where it changes or retires an entry that is not silent (R153). -/
def Obligations.AlarmsRule : Prop :=
  (∀ (c : Raise) (s : State), AlarmsLawful s →
    (∀ k e, (k, e) ∈ s.alarms → e.cause = c.cause → e.subject = c.subject →
      (e.state ≠ .clearedUnacked → raiseAlarm c s = { s with
        alarms := tableSet k
          (if e.severity = c.severity ∧ e.detail = c.detail then e
           else { e with severity := c.severity, detail := c.detail, last := s.uptime }) s.alarms }) ∧
      (e.state = .clearedUnacked → raiseAlarm c s = alarmChanged c.silent { s with
        alarms := tableSet k { e with
          severity := c.severity, detail := c.detail, silent := c.silent, state := .raised, count := min (e.count + 1) 255
          last := s.uptime } s.alarms })) ∧
    ((∀ x ∈ s.alarms, ¬ (x.2.cause = c.cause ∧ x.2.subject = c.subject)) → ∀ k, k < 128 → tableGet s.alarms k = none →
      (∀ j, j < k → tableGet s.alarms j ≠ none) → raiseAlarm c s = alarmChanged c.silent { s with
        alarms := tableSet k
          { cause := c.cause, subject := c.subject, severity := c.severity, state := .raised, count := 1
            first := s.uptime, last := s.uptime, silent := c.silent, detail := c.detail } s.alarms })) ∧
  (∀ (cause : Cause) (subject : Nat) (s : State), AlarmsLawful s →
    (∀ k e, (k, e) ∈ s.alarms → e.cause = cause → e.subject = subject →
      (e.state = .raised → endAlarm cause subject s = alarmChanged e.silent
        { s with alarms := tableSet k { e with state := .clearedUnacked, last := s.uptime } s.alarms }) ∧
      (e.state = .acknowledged → endAlarm cause subject s = alarmChanged e.silent
        { s with alarms := tableErase k s.alarms }) ∧
      (e.state = .clearedUnacked → endAlarm cause subject s = s)) ∧
    ((∀ x ∈ s.alarms, ¬ (x.2.cause = cause ∧ x.2.subject = subject)) → endAlarm cause subject s = s)) ∧
  (∀ (f : Frame) (position cause subject : Byte) (s : State), MasterClear s f.port →
    let i : Instr := .alarmAcknowledge f position cause subject
    (127 < position.toNat → exec i s = .next (respond f (answer .outOfRange) s)) ∧
    (position.toNat ≤ 127 → tableGet s.alarms position.toNat = none →
      exec i s = .next (respond f (answer .notFound) s)) ∧
    (∀ e, position.toNat ≤ 127 → tableGet s.alarms position.toNat = some e →
      let event := e.cause = .nameMapFull ∨ e.cause = .commitDegraded
      ((cause.toNat ≠ e.cause.code ∨ subject.toNat ≠ e.subject) → exec i s = .next (respond f (answer .notFound) s)) ∧
      (cause.toNat = e.cause.code → subject.toNat = e.subject →
        (e.state = .acknowledged → exec i s = .next (respond f (answer .noChange) s)) ∧
        (e.state = .raised → ¬ event → exec i s = .next (respond f (answer .done) (alarmChanged e.silent
          { s with alarms := tableSet position.toNat { e with state := .acknowledged, last := s.uptime } s.alarms }))) ∧
        ((e.state = .clearedUnacked ∨ (e.state = .raised ∧ event)) →
          exec i s = .next (respond f (answer .done) (alarmChanged e.silent
            { s with alarms := tableErase position.toNat s.alarms })))))) ∧
  (∀ (f : Frame) (s : State), MasterClear s f.port → AlarmsLawful s → ∃ t,
    exec (.alarmAcknowledgeAll f) s = .next (respond f
      (answer (if ∃ x ∈ s.alarms, x.2.state ≠ .acknowledged then .done else .noChange)) t) ∧
    t = { s with alarms := t.alarms, attn := t.attn } ∧
    ((∃ x ∈ s.alarms, x.2.state ≠ .acknowledged ∧ x.2.silent = false) → t.attn = (addReason .alarm s).attn) ∧
    ((∀ x ∈ s.alarms, x.2.state ≠ .acknowledged → x.2.silent = true) → t.attn = s.attn) ∧
    ∀ k, tableGet t.alarms k = match tableGet s.alarms k with
      | none => none
      | some e => match e.state with
        | .acknowledged => some e
        | .clearedUnacked => none
        | .raised => if e.cause = .nameMapFull ∨ e.cause = .commitDegraded then none
          else some { e with state := .acknowledged, last := s.uptime })

/-! ## Invariants and encodings -/

/-- Every step keeps the outputs: each ALERTN line follows its attention set and mask, each power enable line its card's state,
the thermal cap the thermal claims, the deficit state the deficit condition, and the fan duty and FANDUTY the first round, the
boost claims and the trays; and the scan turn stands at no Absent unit, for which a unit that goes while it is being read gives
the turn to the next (the model's choice, log 12; R22, R56, R59, R132, R137, R161). -/
def Obligations.OutputsFollowEveryStep : Prop :=
  ∀ s t : State, AlertsFollow s ∧ PowerFollows s ∧ CapFollows s ∧ DeficitFollows s ∧ DutyFollows s ∧ TurnFollows s →
    step s = .next t →
    AlertsFollow t ∧ PowerFollows t ∧ CapFollows t ∧ DeficitFollows t ∧ DutyFollows t ∧ TurnFollows t

/-- Every step keeps the Alarm Table, the Name Map and the three images lawful: positions in range, one entry per pair and per
name; zones by ascending id with unique lawful names, members within their bounds (R80 to R82, R117, R118, R145, R146). -/
def Obligations.TablesLawfulEveryStep : Prop :=
  ∀ s t : State, AlarmsLawful s ∧ NamesLawful s ∧ ImagesLawful s → step s = .next t →
    AlarmsLawful t ∧ NamesLawful t ∧ ImagesLawful t

/-- Every step keeps each port's login count the number of entries logged in on it, at most four, and every entry that is logged in
on a Serviceable port (R118). -/
def Obligations.LoginsFollowEveryStep : Prop :=
  ∀ s t : State, NamesLawful s ∧ WaitListFollows s ∧ LoginsFollow s → step s = .next t → LoginsFollow t

/-- Every step keeps the Commit Engine's own law: Idle exactly while no commit is active, with every card Outside and nothing
queued; Fencing while a card is in AwaitHold, Releasing while one is in AwaitResume; Working Frozen exactly while a commit is
queued; a card's timer running exactly in the two phases that await; and only Joined cards in a set (R98, R104, R108, R110,
R111). -/
def Obligations.CommitLawfulEveryStep : Prop :=
  ∀ s t : State, WaitListFollows s ∧ CommitLawful s → step s = .next t → CommitLawful t

/-- Every step keeps an armed operation on the master port alone, and Working Armed only with a Commit armed (R83, R159). -/
def Obligations.ArmedByMasterEveryStep : Prop :=
  ∀ s t : State, ArmedByMaster s → step s = .next t → ArmedByMaster t

/-- Every step keeps every pool's bound count the number of ports Bound or Grace to it and within its capacity, and a Vacant pool
empty (R62). -/
def Obligations.PoolsLawfulEveryStep : Prop :=
  ∀ s t : State, PoolsLawful s → step s = .next t → PoolsLawful t

/-- Every step keeps the wait list the list of the waiting cards and ports, each port's power as its eligibility, and the thermal
holds as the cap gives them (R1, R5, R49, R56); and it keeps the list in its order, cards by slot and then ports by priority and
number, no item twice (R49). -/
def Obligations.WaitListFollowsEveryStep : Prop :=
  (∀ s t : State, WaitListFollows s → step s = .next t → WaitListFollows t) ∧
    ∀ s t : State, WaitListFollows s ∧ WaitListOrdered s → step s = .next t → WaitListOrdered t

/-- Every step keeps the admitted draw the sum of the admitted draws and at or below the allowance (R46). -/
def Obligations.DrawLawfulEveryStep : Prop :=
  ∀ s t : State, DrawLawful s → step s = .next t → DrawLawful t

/-- The encoding and the decoding agree: the write transaction that carries a well-formed command frame, and the message that
carries a message row, decode to it, with every operand at every value (R168 to R170, tables 11-1, 11-3 and 11-5). That a
Confirm with any other operation code is spelled by the row CONFIRM_COMMIT is the model's reading (log 19). -/
def Obligations.EncodingsAgree : Prop :=
  (∀ (i : Instr) (port : PortId) (bytes : List Byte), i.wf = true → encodeTransaction i = some (port, bytes) →
    decodeTransaction port bytes = i) ∧
  ∀ (i : Instr) (slot : Slot) (bytes : List Byte), encodeMessage i = some (slot, bytes) → decodeMessage slot bytes = i
end

