-- ==== Sys2Proof/Laws/State.lean ====
section
/-! SUPPORT. What each update of `State` leaves alone and what it writes: one lemma a field, so that no proof unfolds a
record update. -/

namespace Sys2Proof.Machine

/-! ## modPort -/

@[simp] theorem modPort_cmd (n : PortIx) (f : PortRec → PortRec) (s : State) : (State.modPort n f s).cmd = s.cmd := rfl
@[simp] theorem modPort_attn (n : PortIx) (f : PortRec → PortRec) (s : State) : (State.modPort n f s).attn = s.attn := rfl
@[simp] theorem modPort_params (n : PortIx) (f : PortRec → PortRec) (s : State) : (State.modPort n f s).params = s.params := rfl
@[simp] theorem modPort_cards (n : PortIx) (f : PortRec → PortRec) (s : State) : (State.modPort n f s).cards = s.cards := rfl
@[simp] theorem modPort_power (n : PortIx) (f : PortRec → PortRec) (s : State) : (State.modPort n f s).power = s.power := rfl
@[simp] theorem modPort_license (n : PortIx) (f : PortRec → PortRec) (s : State) : (State.modPort n f s).license = s.license := rfl
@[simp] theorem modPort_zones (n : PortIx) (f : PortRec → PortRec) (s : State) : (State.modPort n f s).zones = s.zones := rfl
@[simp] theorem modPort_commit (n : PortIx) (f : PortRec → PortRec) (s : State) : (State.modPort n f s).commit = s.commit := rfl
@[simp] theorem modPort_names (n : PortIx) (f : PortRec → PortRec) (s : State) : (State.modPort n f s).names = s.names := rfl
@[simp] theorem modPort_scanner (n : PortIx) (f : PortRec → PortRec) (s : State) : (State.modPort n f s).scanner = s.scanner := rfl
@[simp] theorem modPort_rules (n : PortIx) (f : PortRec → PortRec) (s : State) : (State.modPort n f s).rules = s.rules := rfl
@[simp] theorem modPort_alarms (n : PortIx) (f : PortRec → PortRec) (s : State) : (State.modPort n f s).alarms = s.alarms := rfl
@[simp] theorem modPort_uptime (n : PortIx) (f : PortRec → PortRec) (s : State) : (State.modPort n f s).uptime = s.uptime := rfl
@[simp] theorem modPort_pending (n : PortIx) (f : PortRec → PortRec) (s : State) : (State.modPort n f s).pending = s.pending := rfl

/-! ## modCard -/

@[simp] theorem modCard_cmd (slot : Slot) (f : CardRec → CardRec) (s : State) : (State.modCard slot f s).cmd = s.cmd := rfl
@[simp] theorem modCard_attn (slot : Slot) (f : CardRec → CardRec) (s : State) : (State.modCard slot f s).attn = s.attn := rfl
@[simp] theorem modCard_params (slot : Slot) (f : CardRec → CardRec) (s : State) : (State.modCard slot f s).params = s.params := rfl
@[simp] theorem modCard_ports (slot : Slot) (f : CardRec → CardRec) (s : State) : (State.modCard slot f s).ports = s.ports := rfl
@[simp] theorem modCard_power (slot : Slot) (f : CardRec → CardRec) (s : State) : (State.modCard slot f s).power = s.power := rfl
@[simp] theorem modCard_license (slot : Slot) (f : CardRec → CardRec) (s : State) : (State.modCard slot f s).license = s.license := rfl
@[simp] theorem modCard_zones (slot : Slot) (f : CardRec → CardRec) (s : State) : (State.modCard slot f s).zones = s.zones := rfl
@[simp] theorem modCard_commit (slot : Slot) (f : CardRec → CardRec) (s : State) : (State.modCard slot f s).commit = s.commit := rfl
@[simp] theorem modCard_names (slot : Slot) (f : CardRec → CardRec) (s : State) : (State.modCard slot f s).names = s.names := rfl
@[simp] theorem modCard_scanner (slot : Slot) (f : CardRec → CardRec) (s : State) : (State.modCard slot f s).scanner = s.scanner := rfl
@[simp] theorem modCard_rules (slot : Slot) (f : CardRec → CardRec) (s : State) : (State.modCard slot f s).rules = s.rules := rfl
@[simp] theorem modCard_alarms (slot : Slot) (f : CardRec → CardRec) (s : State) : (State.modCard slot f s).alarms = s.alarms := rfl
@[simp] theorem modCard_uptime (slot : Slot) (f : CardRec → CardRec) (s : State) : (State.modCard slot f s).uptime = s.uptime := rfl
@[simp] theorem modCard_pending (slot : Slot) (f : CardRec → CardRec) (s : State) : (State.modCard slot f s).pending = s.pending := rfl

/-! ## modPool -/

@[simp] theorem modPool_cmd (i : PoolIx) (f : PoolRec → PoolRec) (s : State) : (State.modPool i f s).cmd = s.cmd := rfl
@[simp] theorem modPool_attn (i : PoolIx) (f : PoolRec → PoolRec) (s : State) : (State.modPool i f s).attn = s.attn := rfl
@[simp] theorem modPool_params (i : PoolIx) (f : PoolRec → PoolRec) (s : State) : (State.modPool i f s).params = s.params := rfl
@[simp] theorem modPool_ports (i : PoolIx) (f : PoolRec → PoolRec) (s : State) : (State.modPool i f s).ports = s.ports := rfl
@[simp] theorem modPool_cards (i : PoolIx) (f : PoolRec → PoolRec) (s : State) : (State.modPool i f s).cards = s.cards := rfl
@[simp] theorem modPool_power (i : PoolIx) (f : PoolRec → PoolRec) (s : State) : (State.modPool i f s).power = s.power := rfl
@[simp] theorem modPool_zones (i : PoolIx) (f : PoolRec → PoolRec) (s : State) : (State.modPool i f s).zones = s.zones := rfl
@[simp] theorem modPool_commit (i : PoolIx) (f : PoolRec → PoolRec) (s : State) : (State.modPool i f s).commit = s.commit := rfl
@[simp] theorem modPool_names (i : PoolIx) (f : PoolRec → PoolRec) (s : State) : (State.modPool i f s).names = s.names := rfl
@[simp] theorem modPool_scanner (i : PoolIx) (f : PoolRec → PoolRec) (s : State) : (State.modPool i f s).scanner = s.scanner := rfl
@[simp] theorem modPool_rules (i : PoolIx) (f : PoolRec → PoolRec) (s : State) : (State.modPool i f s).rules = s.rules := rfl
@[simp] theorem modPool_alarms (i : PoolIx) (f : PoolRec → PoolRec) (s : State) : (State.modPool i f s).alarms = s.alarms := rfl
@[simp] theorem modPool_uptime (i : PoolIx) (f : PoolRec → PoolRec) (s : State) : (State.modPool i f s).uptime = s.uptime := rfl
@[simp] theorem modPool_pending (i : PoolIx) (f : PoolRec → PoolRec) (s : State) : (State.modPool i f s).pending = s.pending := rfl

/-! ## modUnit -/

@[simp] theorem modUnit_cmd (u : UnitIx) (f : UnitRec → UnitRec) (s : State) : (State.modUnit u f s).cmd = s.cmd := rfl
@[simp] theorem modUnit_attn (u : UnitIx) (f : UnitRec → UnitRec) (s : State) : (State.modUnit u f s).attn = s.attn := rfl
@[simp] theorem modUnit_params (u : UnitIx) (f : UnitRec → UnitRec) (s : State) : (State.modUnit u f s).params = s.params := rfl
@[simp] theorem modUnit_ports (u : UnitIx) (f : UnitRec → UnitRec) (s : State) : (State.modUnit u f s).ports = s.ports := rfl
@[simp] theorem modUnit_cards (u : UnitIx) (f : UnitRec → UnitRec) (s : State) : (State.modUnit u f s).cards = s.cards := rfl
@[simp] theorem modUnit_power (u : UnitIx) (f : UnitRec → UnitRec) (s : State) : (State.modUnit u f s).power = s.power := rfl
@[simp] theorem modUnit_license (u : UnitIx) (f : UnitRec → UnitRec) (s : State) : (State.modUnit u f s).license = s.license := rfl
@[simp] theorem modUnit_zones (u : UnitIx) (f : UnitRec → UnitRec) (s : State) : (State.modUnit u f s).zones = s.zones := rfl
@[simp] theorem modUnit_commit (u : UnitIx) (f : UnitRec → UnitRec) (s : State) : (State.modUnit u f s).commit = s.commit := rfl
@[simp] theorem modUnit_names (u : UnitIx) (f : UnitRec → UnitRec) (s : State) : (State.modUnit u f s).names = s.names := rfl
@[simp] theorem modUnit_rules (u : UnitIx) (f : UnitRec → UnitRec) (s : State) : (State.modUnit u f s).rules = s.rules := rfl
@[simp] theorem modUnit_alarms (u : UnitIx) (f : UnitRec → UnitRec) (s : State) : (State.modUnit u f s).alarms = s.alarms := rfl
@[simp] theorem modUnit_uptime (u : UnitIx) (f : UnitRec → UnitRec) (s : State) : (State.modUnit u f s).uptime = s.uptime := rfl
@[simp] theorem modUnit_pending (u : UnitIx) (f : UnitRec → UnitRec) (s : State) : (State.modUnit u f s).pending = s.pending := rfl

/-! ## modRule -/

@[simp] theorem modRule_cmd (r : RuleIx) (f : RuleRec → RuleRec) (s : State) : (State.modRule r f s).cmd = s.cmd := rfl
@[simp] theorem modRule_attn (r : RuleIx) (f : RuleRec → RuleRec) (s : State) : (State.modRule r f s).attn = s.attn := rfl
@[simp] theorem modRule_params (r : RuleIx) (f : RuleRec → RuleRec) (s : State) : (State.modRule r f s).params = s.params := rfl
@[simp] theorem modRule_ports (r : RuleIx) (f : RuleRec → RuleRec) (s : State) : (State.modRule r f s).ports = s.ports := rfl
@[simp] theorem modRule_cards (r : RuleIx) (f : RuleRec → RuleRec) (s : State) : (State.modRule r f s).cards = s.cards := rfl
@[simp] theorem modRule_power (r : RuleIx) (f : RuleRec → RuleRec) (s : State) : (State.modRule r f s).power = s.power := rfl
@[simp] theorem modRule_license (r : RuleIx) (f : RuleRec → RuleRec) (s : State) : (State.modRule r f s).license = s.license := rfl
@[simp] theorem modRule_zones (r : RuleIx) (f : RuleRec → RuleRec) (s : State) : (State.modRule r f s).zones = s.zones := rfl
@[simp] theorem modRule_commit (r : RuleIx) (f : RuleRec → RuleRec) (s : State) : (State.modRule r f s).commit = s.commit := rfl
@[simp] theorem modRule_names (r : RuleIx) (f : RuleRec → RuleRec) (s : State) : (State.modRule r f s).names = s.names := rfl
@[simp] theorem modRule_scanner (r : RuleIx) (f : RuleRec → RuleRec) (s : State) : (State.modRule r f s).scanner = s.scanner := rfl
@[simp] theorem modRule_alarms (r : RuleIx) (f : RuleRec → RuleRec) (s : State) : (State.modRule r f s).alarms = s.alarms := rfl
@[simp] theorem modRule_uptime (r : RuleIx) (f : RuleRec → RuleRec) (s : State) : (State.modRule r f s).uptime = s.uptime := rfl
@[simp] theorem modRule_pending (r : RuleIx) (f : RuleRec → RuleRec) (s : State) : (State.modRule r f s).pending = s.pending := rfl

/-! ## modPhase -/

@[simp] theorem modPhase_cmd (slot : Slot) (f : CommitCard → CommitCard) (s : State) : (State.modPhase slot f s).cmd = s.cmd := rfl
@[simp] theorem modPhase_attn (slot : Slot) (f : CommitCard → CommitCard) (s : State) : (State.modPhase slot f s).attn = s.attn := rfl
@[simp] theorem modPhase_params (slot : Slot) (f : CommitCard → CommitCard) (s : State) : (State.modPhase slot f s).params = s.params := rfl
@[simp] theorem modPhase_ports (slot : Slot) (f : CommitCard → CommitCard) (s : State) : (State.modPhase slot f s).ports = s.ports := rfl
@[simp] theorem modPhase_cards (slot : Slot) (f : CommitCard → CommitCard) (s : State) : (State.modPhase slot f s).cards = s.cards := rfl
@[simp] theorem modPhase_power (slot : Slot) (f : CommitCard → CommitCard) (s : State) : (State.modPhase slot f s).power = s.power := rfl
@[simp] theorem modPhase_license (slot : Slot) (f : CommitCard → CommitCard) (s : State) : (State.modPhase slot f s).license = s.license := rfl
@[simp] theorem modPhase_zones (slot : Slot) (f : CommitCard → CommitCard) (s : State) : (State.modPhase slot f s).zones = s.zones := rfl
@[simp] theorem modPhase_names (slot : Slot) (f : CommitCard → CommitCard) (s : State) : (State.modPhase slot f s).names = s.names := rfl
@[simp] theorem modPhase_scanner (slot : Slot) (f : CommitCard → CommitCard) (s : State) : (State.modPhase slot f s).scanner = s.scanner := rfl
@[simp] theorem modPhase_rules (slot : Slot) (f : CommitCard → CommitCard) (s : State) : (State.modPhase slot f s).rules = s.rules := rfl
@[simp] theorem modPhase_alarms (slot : Slot) (f : CommitCard → CommitCard) (s : State) : (State.modPhase slot f s).alarms = s.alarms := rfl
@[simp] theorem modPhase_uptime (slot : Slot) (f : CommitCard → CommitCard) (s : State) : (State.modPhase slot f s).uptime = s.uptime := rfl
@[simp] theorem modPhase_pending (slot : Slot) (f : CommitCard → CommitCard) (s : State) : (State.modPhase slot f s).pending = s.pending := rfl

/-! ## modCmd -/

@[simp] theorem modCmd_attn (p : PortId) (f : CmdPort → CmdPort) (s : State) : (State.modCmd p f s).attn = s.attn := by cases p <;> rfl
@[simp] theorem modCmd_params (p : PortId) (f : CmdPort → CmdPort) (s : State) : (State.modCmd p f s).params = s.params := by cases p <;> rfl
@[simp] theorem modCmd_ports (p : PortId) (f : CmdPort → CmdPort) (s : State) : (State.modCmd p f s).ports = s.ports := by cases p <;> rfl
@[simp] theorem modCmd_cards (p : PortId) (f : CmdPort → CmdPort) (s : State) : (State.modCmd p f s).cards = s.cards := by cases p <;> rfl
@[simp] theorem modCmd_power (p : PortId) (f : CmdPort → CmdPort) (s : State) : (State.modCmd p f s).power = s.power := by cases p <;> rfl
@[simp] theorem modCmd_license (p : PortId) (f : CmdPort → CmdPort) (s : State) : (State.modCmd p f s).license = s.license := by cases p <;> rfl
@[simp] theorem modCmd_zones (p : PortId) (f : CmdPort → CmdPort) (s : State) : (State.modCmd p f s).zones = s.zones := by cases p <;> rfl
@[simp] theorem modCmd_commit (p : PortId) (f : CmdPort → CmdPort) (s : State) : (State.modCmd p f s).commit = s.commit := by cases p <;> rfl
@[simp] theorem modCmd_names (p : PortId) (f : CmdPort → CmdPort) (s : State) : (State.modCmd p f s).names = s.names := by cases p <;> rfl
@[simp] theorem modCmd_scanner (p : PortId) (f : CmdPort → CmdPort) (s : State) : (State.modCmd p f s).scanner = s.scanner := by cases p <;> rfl
@[simp] theorem modCmd_rules (p : PortId) (f : CmdPort → CmdPort) (s : State) : (State.modCmd p f s).rules = s.rules := by cases p <;> rfl
@[simp] theorem modCmd_alarms (p : PortId) (f : CmdPort → CmdPort) (s : State) : (State.modCmd p f s).alarms = s.alarms := by cases p <;> rfl
@[simp] theorem modCmd_uptime (p : PortId) (f : CmdPort → CmdPort) (s : State) : (State.modCmd p f s).uptime = s.uptime := by cases p <;> rfl
@[simp] theorem modCmd_pending (p : PortId) (f : CmdPort → CmdPort) (s : State) : (State.modCmd p f s).pending = s.pending := by cases p <;> rfl

/-! ## modAttn -/

@[simp] theorem modAttn_cmd (p : PortId) (f : PortAttention → PortAttention) (s : State) : (State.modAttn p f s).cmd = s.cmd := by cases p <;> rfl
@[simp] theorem modAttn_params (p : PortId) (f : PortAttention → PortAttention) (s : State) : (State.modAttn p f s).params = s.params := by cases p <;> rfl
@[simp] theorem modAttn_ports (p : PortId) (f : PortAttention → PortAttention) (s : State) : (State.modAttn p f s).ports = s.ports := by cases p <;> rfl
@[simp] theorem modAttn_cards (p : PortId) (f : PortAttention → PortAttention) (s : State) : (State.modAttn p f s).cards = s.cards := by cases p <;> rfl
@[simp] theorem modAttn_power (p : PortId) (f : PortAttention → PortAttention) (s : State) : (State.modAttn p f s).power = s.power := by cases p <;> rfl
@[simp] theorem modAttn_license (p : PortId) (f : PortAttention → PortAttention) (s : State) : (State.modAttn p f s).license = s.license := by cases p <;> rfl
@[simp] theorem modAttn_zones (p : PortId) (f : PortAttention → PortAttention) (s : State) : (State.modAttn p f s).zones = s.zones := by cases p <;> rfl
@[simp] theorem modAttn_commit (p : PortId) (f : PortAttention → PortAttention) (s : State) : (State.modAttn p f s).commit = s.commit := by cases p <;> rfl
@[simp] theorem modAttn_names (p : PortId) (f : PortAttention → PortAttention) (s : State) : (State.modAttn p f s).names = s.names := by cases p <;> rfl
@[simp] theorem modAttn_scanner (p : PortId) (f : PortAttention → PortAttention) (s : State) : (State.modAttn p f s).scanner = s.scanner := by cases p <;> rfl
@[simp] theorem modAttn_rules (p : PortId) (f : PortAttention → PortAttention) (s : State) : (State.modAttn p f s).rules = s.rules := by cases p <;> rfl
@[simp] theorem modAttn_alarms (p : PortId) (f : PortAttention → PortAttention) (s : State) : (State.modAttn p f s).alarms = s.alarms := by cases p <;> rfl
@[simp] theorem modAttn_uptime (p : PortId) (f : PortAttention → PortAttention) (s : State) : (State.modAttn p f s).uptime = s.uptime := by cases p <;> rfl
@[simp] theorem modAttn_pending (p : PortId) (f : PortAttention → PortAttention) (s : State) : (State.modAttn p f s).pending = s.pending := by cases p <;> rfl

/-! ## modPower -/

@[simp] theorem modPower_cmd (f : PowerBudget → PowerBudget) (s : State) : (State.modPower f s).cmd = s.cmd := rfl
@[simp] theorem modPower_attn (f : PowerBudget → PowerBudget) (s : State) : (State.modPower f s).attn = s.attn := rfl
@[simp] theorem modPower_params (f : PowerBudget → PowerBudget) (s : State) : (State.modPower f s).params = s.params := rfl
@[simp] theorem modPower_ports (f : PowerBudget → PowerBudget) (s : State) : (State.modPower f s).ports = s.ports := rfl
@[simp] theorem modPower_cards (f : PowerBudget → PowerBudget) (s : State) : (State.modPower f s).cards = s.cards := rfl
@[simp] theorem modPower_license (f : PowerBudget → PowerBudget) (s : State) : (State.modPower f s).license = s.license := rfl
@[simp] theorem modPower_zones (f : PowerBudget → PowerBudget) (s : State) : (State.modPower f s).zones = s.zones := rfl
@[simp] theorem modPower_commit (f : PowerBudget → PowerBudget) (s : State) : (State.modPower f s).commit = s.commit := rfl
@[simp] theorem modPower_names (f : PowerBudget → PowerBudget) (s : State) : (State.modPower f s).names = s.names := rfl
@[simp] theorem modPower_scanner (f : PowerBudget → PowerBudget) (s : State) : (State.modPower f s).scanner = s.scanner := rfl
@[simp] theorem modPower_rules (f : PowerBudget → PowerBudget) (s : State) : (State.modPower f s).rules = s.rules := rfl
@[simp] theorem modPower_alarms (f : PowerBudget → PowerBudget) (s : State) : (State.modPower f s).alarms = s.alarms := rfl
@[simp] theorem modPower_uptime (f : PowerBudget → PowerBudget) (s : State) : (State.modPower f s).uptime = s.uptime := rfl
@[simp] theorem modPower_pending (f : PowerBudget → PowerBudget) (s : State) : (State.modPower f s).pending = s.pending := rfl

/-! ## modZones -/

@[simp] theorem modZones_cmd (f : ZoneStore → ZoneStore) (s : State) : (State.modZones f s).cmd = s.cmd := rfl
@[simp] theorem modZones_attn (f : ZoneStore → ZoneStore) (s : State) : (State.modZones f s).attn = s.attn := rfl
@[simp] theorem modZones_params (f : ZoneStore → ZoneStore) (s : State) : (State.modZones f s).params = s.params := rfl
@[simp] theorem modZones_ports (f : ZoneStore → ZoneStore) (s : State) : (State.modZones f s).ports = s.ports := rfl
@[simp] theorem modZones_cards (f : ZoneStore → ZoneStore) (s : State) : (State.modZones f s).cards = s.cards := rfl
@[simp] theorem modZones_power (f : ZoneStore → ZoneStore) (s : State) : (State.modZones f s).power = s.power := rfl
@[simp] theorem modZones_license (f : ZoneStore → ZoneStore) (s : State) : (State.modZones f s).license = s.license := rfl
@[simp] theorem modZones_commit (f : ZoneStore → ZoneStore) (s : State) : (State.modZones f s).commit = s.commit := rfl
@[simp] theorem modZones_names (f : ZoneStore → ZoneStore) (s : State) : (State.modZones f s).names = s.names := rfl
@[simp] theorem modZones_scanner (f : ZoneStore → ZoneStore) (s : State) : (State.modZones f s).scanner = s.scanner := rfl
@[simp] theorem modZones_rules (f : ZoneStore → ZoneStore) (s : State) : (State.modZones f s).rules = s.rules := rfl
@[simp] theorem modZones_alarms (f : ZoneStore → ZoneStore) (s : State) : (State.modZones f s).alarms = s.alarms := rfl
@[simp] theorem modZones_uptime (f : ZoneStore → ZoneStore) (s : State) : (State.modZones f s).uptime = s.uptime := rfl
@[simp] theorem modZones_pending (f : ZoneStore → ZoneStore) (s : State) : (State.modZones f s).pending = s.pending := rfl

/-! ## modCommit -/

@[simp] theorem modCommit_cmd (f : CommitEngine → CommitEngine) (s : State) : (State.modCommit f s).cmd = s.cmd := rfl
@[simp] theorem modCommit_attn (f : CommitEngine → CommitEngine) (s : State) : (State.modCommit f s).attn = s.attn := rfl
@[simp] theorem modCommit_params (f : CommitEngine → CommitEngine) (s : State) : (State.modCommit f s).params = s.params := rfl
@[simp] theorem modCommit_ports (f : CommitEngine → CommitEngine) (s : State) : (State.modCommit f s).ports = s.ports := rfl
@[simp] theorem modCommit_cards (f : CommitEngine → CommitEngine) (s : State) : (State.modCommit f s).cards = s.cards := rfl
@[simp] theorem modCommit_power (f : CommitEngine → CommitEngine) (s : State) : (State.modCommit f s).power = s.power := rfl
@[simp] theorem modCommit_license (f : CommitEngine → CommitEngine) (s : State) : (State.modCommit f s).license = s.license := rfl
@[simp] theorem modCommit_zones (f : CommitEngine → CommitEngine) (s : State) : (State.modCommit f s).zones = s.zones := rfl
@[simp] theorem modCommit_names (f : CommitEngine → CommitEngine) (s : State) : (State.modCommit f s).names = s.names := rfl
@[simp] theorem modCommit_scanner (f : CommitEngine → CommitEngine) (s : State) : (State.modCommit f s).scanner = s.scanner := rfl
@[simp] theorem modCommit_rules (f : CommitEngine → CommitEngine) (s : State) : (State.modCommit f s).rules = s.rules := rfl
@[simp] theorem modCommit_alarms (f : CommitEngine → CommitEngine) (s : State) : (State.modCommit f s).alarms = s.alarms := rfl
@[simp] theorem modCommit_uptime (f : CommitEngine → CommitEngine) (s : State) : (State.modCommit f s).uptime = s.uptime := rfl
@[simp] theorem modCommit_pending (f : CommitEngine → CommitEngine) (s : State) : (State.modCommit f s).pending = s.pending := rfl

/-! ## modScanner -/

@[simp] theorem modScanner_cmd (f : SensorScanner → SensorScanner) (s : State) : (State.modScanner f s).cmd = s.cmd := rfl
@[simp] theorem modScanner_attn (f : SensorScanner → SensorScanner) (s : State) : (State.modScanner f s).attn = s.attn := rfl
@[simp] theorem modScanner_params (f : SensorScanner → SensorScanner) (s : State) : (State.modScanner f s).params = s.params := rfl
@[simp] theorem modScanner_ports (f : SensorScanner → SensorScanner) (s : State) : (State.modScanner f s).ports = s.ports := rfl
@[simp] theorem modScanner_cards (f : SensorScanner → SensorScanner) (s : State) : (State.modScanner f s).cards = s.cards := rfl
@[simp] theorem modScanner_power (f : SensorScanner → SensorScanner) (s : State) : (State.modScanner f s).power = s.power := rfl
@[simp] theorem modScanner_license (f : SensorScanner → SensorScanner) (s : State) : (State.modScanner f s).license = s.license := rfl
@[simp] theorem modScanner_zones (f : SensorScanner → SensorScanner) (s : State) : (State.modScanner f s).zones = s.zones := rfl
@[simp] theorem modScanner_commit (f : SensorScanner → SensorScanner) (s : State) : (State.modScanner f s).commit = s.commit := rfl
@[simp] theorem modScanner_names (f : SensorScanner → SensorScanner) (s : State) : (State.modScanner f s).names = s.names := rfl
@[simp] theorem modScanner_rules (f : SensorScanner → SensorScanner) (s : State) : (State.modScanner f s).rules = s.rules := rfl
@[simp] theorem modScanner_alarms (f : SensorScanner → SensorScanner) (s : State) : (State.modScanner f s).alarms = s.alarms := rfl
@[simp] theorem modScanner_uptime (f : SensorScanner → SensorScanner) (s : State) : (State.modScanner f s).uptime = s.uptime := rfl
@[simp] theorem modScanner_pending (f : SensorScanner → SensorScanner) (s : State) : (State.modScanner f s).pending = s.pending := rfl

/-! ## setNames -/

@[simp] theorem setNames_cmd (names : List (Nat × NameEntry)) (s : State) : (State.setNames names s).cmd = s.cmd := rfl
@[simp] theorem setNames_attn (names : List (Nat × NameEntry)) (s : State) : (State.setNames names s).attn = s.attn := rfl
@[simp] theorem setNames_params (names : List (Nat × NameEntry)) (s : State) : (State.setNames names s).params = s.params := rfl
@[simp] theorem setNames_ports (names : List (Nat × NameEntry)) (s : State) : (State.setNames names s).ports = s.ports := rfl
@[simp] theorem setNames_cards (names : List (Nat × NameEntry)) (s : State) : (State.setNames names s).cards = s.cards := rfl
@[simp] theorem setNames_power (names : List (Nat × NameEntry)) (s : State) : (State.setNames names s).power = s.power := rfl
@[simp] theorem setNames_license (names : List (Nat × NameEntry)) (s : State) : (State.setNames names s).license = s.license := rfl
@[simp] theorem setNames_zones (names : List (Nat × NameEntry)) (s : State) : (State.setNames names s).zones = s.zones := rfl
@[simp] theorem setNames_commit (names : List (Nat × NameEntry)) (s : State) : (State.setNames names s).commit = s.commit := rfl
@[simp] theorem setNames_scanner (names : List (Nat × NameEntry)) (s : State) : (State.setNames names s).scanner = s.scanner := rfl
@[simp] theorem setNames_rules (names : List (Nat × NameEntry)) (s : State) : (State.setNames names s).rules = s.rules := rfl
@[simp] theorem setNames_alarms (names : List (Nat × NameEntry)) (s : State) : (State.setNames names s).alarms = s.alarms := rfl
@[simp] theorem setNames_uptime (names : List (Nat × NameEntry)) (s : State) : (State.setNames names s).uptime = s.uptime := rfl
@[simp] theorem setNames_pending (names : List (Nat × NameEntry)) (s : State) : (State.setNames names s).pending = s.pending := rfl

/-! ## setAlarms -/

@[simp] theorem setAlarms_cmd (alarms : List (Nat × AlarmEntry)) (s : State) : (State.setAlarms alarms s).cmd = s.cmd := rfl
@[simp] theorem setAlarms_attn (alarms : List (Nat × AlarmEntry)) (s : State) : (State.setAlarms alarms s).attn = s.attn := rfl
@[simp] theorem setAlarms_params (alarms : List (Nat × AlarmEntry)) (s : State) : (State.setAlarms alarms s).params = s.params := rfl
@[simp] theorem setAlarms_ports (alarms : List (Nat × AlarmEntry)) (s : State) : (State.setAlarms alarms s).ports = s.ports := rfl
@[simp] theorem setAlarms_cards (alarms : List (Nat × AlarmEntry)) (s : State) : (State.setAlarms alarms s).cards = s.cards := rfl
@[simp] theorem setAlarms_power (alarms : List (Nat × AlarmEntry)) (s : State) : (State.setAlarms alarms s).power = s.power := rfl
@[simp] theorem setAlarms_license (alarms : List (Nat × AlarmEntry)) (s : State) : (State.setAlarms alarms s).license = s.license := rfl
@[simp] theorem setAlarms_zones (alarms : List (Nat × AlarmEntry)) (s : State) : (State.setAlarms alarms s).zones = s.zones := rfl
@[simp] theorem setAlarms_commit (alarms : List (Nat × AlarmEntry)) (s : State) : (State.setAlarms alarms s).commit = s.commit := rfl
@[simp] theorem setAlarms_names (alarms : List (Nat × AlarmEntry)) (s : State) : (State.setAlarms alarms s).names = s.names := rfl
@[simp] theorem setAlarms_scanner (alarms : List (Nat × AlarmEntry)) (s : State) : (State.setAlarms alarms s).scanner = s.scanner := rfl
@[simp] theorem setAlarms_rules (alarms : List (Nat × AlarmEntry)) (s : State) : (State.setAlarms alarms s).rules = s.rules := rfl
@[simp] theorem setAlarms_uptime (alarms : List (Nat × AlarmEntry)) (s : State) : (State.setAlarms alarms s).uptime = s.uptime := rfl
@[simp] theorem setAlarms_pending (alarms : List (Nat × AlarmEntry)) (s : State) : (State.setAlarms alarms s).pending = s.pending := rfl

/-! ## setParams -/

@[simp] theorem setParams_cmd (params : Params) (s : State) : (State.setParams params s).cmd = s.cmd := rfl
@[simp] theorem setParams_attn (params : Params) (s : State) : (State.setParams params s).attn = s.attn := rfl
@[simp] theorem setParams_ports (params : Params) (s : State) : (State.setParams params s).ports = s.ports := rfl
@[simp] theorem setParams_cards (params : Params) (s : State) : (State.setParams params s).cards = s.cards := rfl
@[simp] theorem setParams_power (params : Params) (s : State) : (State.setParams params s).power = s.power := rfl
@[simp] theorem setParams_license (params : Params) (s : State) : (State.setParams params s).license = s.license := rfl
@[simp] theorem setParams_zones (params : Params) (s : State) : (State.setParams params s).zones = s.zones := rfl
@[simp] theorem setParams_commit (params : Params) (s : State) : (State.setParams params s).commit = s.commit := rfl
@[simp] theorem setParams_names (params : Params) (s : State) : (State.setParams params s).names = s.names := rfl
@[simp] theorem setParams_scanner (params : Params) (s : State) : (State.setParams params s).scanner = s.scanner := rfl
@[simp] theorem setParams_rules (params : Params) (s : State) : (State.setParams params s).rules = s.rules := rfl
@[simp] theorem setParams_alarms (params : Params) (s : State) : (State.setParams params s).alarms = s.alarms := rfl
@[simp] theorem setParams_uptime (params : Params) (s : State) : (State.setParams params s).uptime = s.uptime := rfl
@[simp] theorem setParams_pending (params : Params) (s : State) : (State.setParams params s).pending = s.pending := rfl

/-! ## setMastership -/

@[simp] theorem setMastership_attn (m : Option PortId) (s : State) : (State.setMastership m s).attn = s.attn := rfl
@[simp] theorem setMastership_params (m : Option PortId) (s : State) : (State.setMastership m s).params = s.params := rfl
@[simp] theorem setMastership_ports (m : Option PortId) (s : State) : (State.setMastership m s).ports = s.ports := rfl
@[simp] theorem setMastership_cards (m : Option PortId) (s : State) : (State.setMastership m s).cards = s.cards := rfl
@[simp] theorem setMastership_power (m : Option PortId) (s : State) : (State.setMastership m s).power = s.power := rfl
@[simp] theorem setMastership_license (m : Option PortId) (s : State) : (State.setMastership m s).license = s.license := rfl
@[simp] theorem setMastership_zones (m : Option PortId) (s : State) : (State.setMastership m s).zones = s.zones := rfl
@[simp] theorem setMastership_commit (m : Option PortId) (s : State) : (State.setMastership m s).commit = s.commit := rfl
@[simp] theorem setMastership_names (m : Option PortId) (s : State) : (State.setMastership m s).names = s.names := rfl
@[simp] theorem setMastership_scanner (m : Option PortId) (s : State) : (State.setMastership m s).scanner = s.scanner := rfl
@[simp] theorem setMastership_rules (m : Option PortId) (s : State) : (State.setMastership m s).rules = s.rules := rfl
@[simp] theorem setMastership_alarms (m : Option PortId) (s : State) : (State.setMastership m s).alarms = s.alarms := rfl
@[simp] theorem setMastership_uptime (m : Option PortId) (s : State) : (State.setMastership m s).uptime = s.uptime := rfl
@[simp] theorem setMastership_pending (m : Option PortId) (s : State) : (State.setMastership m s).pending = s.pending := rfl

/-! ## addReason -/

@[simp] theorem addReason_cmd (r : Reason) (s : State) : (addReason r s).cmd = s.cmd := rfl
@[simp] theorem addReason_params (r : Reason) (s : State) : (addReason r s).params = s.params := rfl
@[simp] theorem addReason_ports (r : Reason) (s : State) : (addReason r s).ports = s.ports := rfl
@[simp] theorem addReason_cards (r : Reason) (s : State) : (addReason r s).cards = s.cards := rfl
@[simp] theorem addReason_power (r : Reason) (s : State) : (addReason r s).power = s.power := rfl
@[simp] theorem addReason_license (r : Reason) (s : State) : (addReason r s).license = s.license := rfl
@[simp] theorem addReason_zones (r : Reason) (s : State) : (addReason r s).zones = s.zones := rfl
@[simp] theorem addReason_commit (r : Reason) (s : State) : (addReason r s).commit = s.commit := rfl
@[simp] theorem addReason_names (r : Reason) (s : State) : (addReason r s).names = s.names := rfl
@[simp] theorem addReason_scanner (r : Reason) (s : State) : (addReason r s).scanner = s.scanner := rfl
@[simp] theorem addReason_rules (r : Reason) (s : State) : (addReason r s).rules = s.rules := rfl
@[simp] theorem addReason_alarms (r : Reason) (s : State) : (addReason r s).alarms = s.alarms := rfl
@[simp] theorem addReason_uptime (r : Reason) (s : State) : (addReason r s).uptime = s.uptime := rfl
@[simp] theorem addReason_pending (r : Reason) (s : State) : (addReason r s).pending = s.pending := rfl

/-! ## What the updates write -/

@[simp] theorem modPower_power (f : PowerBudget → PowerBudget) (s : State) : (s.modPower f).power = f s.power := rfl
@[simp] theorem modZones_zones (f : ZoneStore → ZoneStore) (s : State) : (s.modZones f).zones = f s.zones := rfl
@[simp] theorem modCommit_commit (f : CommitEngine → CommitEngine) (s : State) : (s.modCommit f).commit = f s.commit :=
  rfl
@[simp] theorem modScanner_scanner (f : SensorScanner → SensorScanner) (s : State) :
    (s.modScanner f).scanner = f s.scanner := rfl
@[simp] theorem setNames_names (l : List (Nat × NameEntry)) (s : State) : (s.setNames l).names = l := rfl
@[simp] theorem setAlarms_alarms (l : List (Nat × AlarmEntry)) (s : State) : (s.setAlarms l).alarms = l := rfl
@[simp] theorem setParams_params (x : Params) (s : State) : (s.setParams x).params = x := rfl
@[simp] theorem setMastership_mastership (m : Option PortId) (s : State) : (s.setMastership m).cmd.mastership = m := rfl
@[simp] theorem setMastership_cmdPort (m : Option PortId) (s : State) (p : PortId) :
    (s.setMastership m).cmdPort p = s.cmdPort p := by cases p <;> rfl
@[simp] theorem modCmd_mastership (p : PortId) (f : CmdPort → CmdPort) (s : State) :
    (s.modCmd p f).cmd.mastership = s.cmd.mastership := by cases p <;> rfl

/-- A port record after an update of a port record. -/
theorem modPort_port (n m : PortIx) (f : PortRec → PortRec) (s : State) :
    (s.modPort n f).port m = if n = m then f (s.port n) else s.port m := by
  simp only [State.port, State.modPort, Fin.getElem_fin, Vector.getElem_set, Fin.ext_iff]

@[simp] theorem modPort_port_same (n : PortIx) (f : PortRec → PortRec) (s : State) :
    (s.modPort n f).port n = f (s.port n) := by simp [modPort_port]

/-- A card record after an update of a card record. -/
theorem modCard_card (x y : Slot) (f : CardRec → CardRec) (s : State) :
    (s.modCard x f).card y = if x = y then f (s.card x) else s.card y := by
  simp only [State.card, State.modCard, Fin.getElem_fin, Vector.getElem_set, Fin.ext_iff]

@[simp] theorem modCard_card_same (x : Slot) (f : CardRec → CardRec) (s : State) :
    (s.modCard x f).card x = f (s.card x) := by simp [modCard_card]

/-- A pool record after an update of a pool record. -/
theorem modPool_pool (i j : PoolIx) (f : PoolRec → PoolRec) (s : State) :
    (s.modPool i f).pool j = if i = j then f (s.pool i) else s.pool j := by
  simp only [State.pool, State.modPool, Fin.getElem_fin, Vector.getElem_set, Fin.ext_iff]

@[simp] theorem modPool_pool_same (i : PoolIx) (f : PoolRec → PoolRec) (s : State) :
    (s.modPool i f).pool i = f (s.pool i) := by simp [modPool_pool]

@[simp] theorem modPool_chassis (i : PoolIx) (f : PoolRec → PoolRec) (s : State) :
    (s.modPool i f).license.chassis = s.license.chassis := rfl

/-- A unit record after an update of a unit record. -/
theorem modUnit_unit (u v : UnitIx) (f : UnitRec → UnitRec) (s : State) :
    (s.modUnit u f).unit v = if u = v then f (s.unit u) else s.unit v := by
  simp only [State.unit, State.modUnit, Fin.getElem_fin, Vector.getElem_set, Fin.ext_iff]

@[simp] theorem modUnit_unit_same (u : UnitIx) (f : UnitRec → UnitRec) (s : State) :
    (s.modUnit u f).unit u = f (s.unit u) := by simp [modUnit_unit]

/-- A rule after an update of a rule. -/
theorem modRule_rule (r q : RuleIx) (f : RuleRec → RuleRec) (s : State) :
    (s.modRule r f).rule q = if r = q then f (s.rule r) else s.rule q := by
  simp only [State.rule, State.modRule, Fin.getElem_fin, Vector.getElem_set, Fin.ext_iff]

@[simp] theorem modRule_rule_same (r : RuleIx) (f : RuleRec → RuleRec) (s : State) :
    (s.modRule r f).rule r = f (s.rule r) := by simp [modRule_rule]

/-- The Commit Engine's state of a card after an update of one. -/
theorem modPhase_phaseRec (x y : Slot) (f : CommitCard → CommitCard) (s : State) :
    (s.modPhase x f).phaseRec y = if x = y then f (s.phaseRec x) else s.phaseRec y := by
  simp only [State.phaseRec, State.modPhase, Fin.getElem_fin, Vector.getElem_set, Fin.ext_iff]

@[simp] theorem modPhase_phaseRec_same (x : Slot) (f : CommitCard → CommitCard) (s : State) :
    (s.modPhase x f).phaseRec x = f (s.phaseRec x) := by simp [modPhase_phaseRec]

/-- A command port after an update of a command port. -/
theorem modCmd_cmdPort (p q : PortId) (f : CmdPort → CmdPort) (s : State) :
    (s.modCmd p f).cmdPort q = if p = q then f (s.cmdPort p) else s.cmdPort q := by cases p <;> cases q <;> rfl

@[simp] theorem modCmd_cmdPort_same (p : PortId) (f : CmdPort → CmdPort) (s : State) :
    (s.modCmd p f).cmdPort p = f (s.cmdPort p) := by cases p <;> rfl

/-- A port's attention after an update of one. -/
theorem modAttn_attention (p q : PortId) (f : PortAttention → PortAttention) (s : State) :
    (s.modAttn p f).attention q = if p = q then f (s.attention p) else s.attention q := by
  cases p <;> cases q <;> rfl

@[simp] theorem modAttn_attention_same (p : PortId) (f : PortAttention → PortAttention) (s : State) :
    (s.modAttn p f).attention p = f (s.attention p) := by cases p <;> rfl

/-- A reason is added to the attention of both ports (R161). -/
@[simp] theorem addReason_attention (r : Reason) (p : PortId) (s : State) :
    (addReason r s).attention p = (s.attention p).add r := by cases p <;> rfl

/-! ## Records read through an unchanged field -/

/-- Equal `ports` give equal records. -/
theorem port_of_ports {s t : State} (h : t.ports = s.ports) (n : PortIx) : t.port n = s.port n := by
  simp only [State.port, h]

/-- Equal `cards` give equal records. -/
theorem card_of_cards {s t : State} (h : t.cards = s.cards) (slot : Slot) : t.card slot = s.card slot := by
  simp only [State.card, h]

/-- Equal `license` give equal records. -/
theorem pool_of_license {s t : State} (h : t.license = s.license) (i : PoolIx) : t.pool i = s.pool i := by
  simp only [State.pool, h]

/-- Equal `scanner` give equal records. -/
theorem unit_of_scanner {s t : State} (h : t.scanner = s.scanner) (u : UnitIx) : t.unit u = s.unit u := by
  simp only [State.unit, h]

/-- Equal `rules` give equal records. -/
theorem rule_of_rules {s t : State} (h : t.rules = s.rules) (r : RuleIx) : t.rule r = s.rule r := by
  simp only [State.rule, h]

/-- Equal `scanner` give equal records. -/
theorem source_of_scanner {s t : State} (h : t.scanner = s.scanner) (i : SourceIx) : t.source i = s.source i := by
  simp only [State.source, h]

/-- Equal `commit` give equal records. -/
theorem phaseRec_of_commit {s t : State} (h : t.commit = s.commit) (slot : Slot) : t.phaseRec slot = s.phaseRec slot := by
  simp only [State.phaseRec, h]

/-- Equal `cmd` give equal records. -/
theorem cmdPort_of_cmd {s t : State} (h : t.cmd = s.cmd) (p : PortId) : t.cmdPort p = s.cmdPort p := by
  cases p <;> simp [State.cmdPort, h]

/-- Equal `attn` give equal records. -/
theorem attention_of_attn {s t : State} (h : t.attn = s.attn) (p : PortId) : t.attention p = s.attention p := by
  cases p <;> simp [State.attention, h]

@[simp] theorem modCard_port (slot : Slot) (f : CardRec → CardRec) (s : State) (n : PortIx) : (State.modCard slot f s).port n = s.port n :=
  port_of_ports (by simp) n
@[simp] theorem modPool_port (i : PoolIx) (f : PoolRec → PoolRec) (s : State) (n : PortIx) : (State.modPool i f s).port n = s.port n :=
  port_of_ports (by simp) n
@[simp] theorem modUnit_port (u : UnitIx) (f : UnitRec → UnitRec) (s : State) (n : PortIx) : (State.modUnit u f s).port n = s.port n :=
  port_of_ports (by simp) n
@[simp] theorem modRule_port (r : RuleIx) (f : RuleRec → RuleRec) (s : State) (n : PortIx) : (State.modRule r f s).port n = s.port n :=
  port_of_ports (by simp) n
@[simp] theorem modPhase_port (slot : Slot) (f : CommitCard → CommitCard) (s : State) (n : PortIx) : (State.modPhase slot f s).port n = s.port n :=
  port_of_ports (by simp) n
@[simp] theorem modCmd_port (p : PortId) (f : CmdPort → CmdPort) (s : State) (n : PortIx) : (State.modCmd p f s).port n = s.port n :=
  port_of_ports (by simp) n
@[simp] theorem modAttn_port (p : PortId) (f : PortAttention → PortAttention) (s : State) (n : PortIx) : (State.modAttn p f s).port n = s.port n :=
  port_of_ports (by simp) n
@[simp] theorem modPower_port (f : PowerBudget → PowerBudget) (s : State) (n : PortIx) : (State.modPower f s).port n = s.port n :=
  port_of_ports (by simp) n
@[simp] theorem modZones_port (f : ZoneStore → ZoneStore) (s : State) (n : PortIx) : (State.modZones f s).port n = s.port n :=
  port_of_ports (by simp) n
@[simp] theorem modCommit_port (f : CommitEngine → CommitEngine) (s : State) (n : PortIx) : (State.modCommit f s).port n = s.port n :=
  port_of_ports (by simp) n
@[simp] theorem modScanner_port (f : SensorScanner → SensorScanner) (s : State) (n : PortIx) : (State.modScanner f s).port n = s.port n :=
  port_of_ports (by simp) n
@[simp] theorem setNames_port (names : List (Nat × NameEntry)) (s : State) (n : PortIx) : (State.setNames names s).port n = s.port n :=
  port_of_ports (by simp) n
@[simp] theorem setAlarms_port (alarms : List (Nat × AlarmEntry)) (s : State) (n : PortIx) : (State.setAlarms alarms s).port n = s.port n :=
  port_of_ports (by simp) n
@[simp] theorem setParams_port (params : Params) (s : State) (n : PortIx) : (State.setParams params s).port n = s.port n :=
  port_of_ports (by simp) n
@[simp] theorem setMastership_port (m : Option PortId) (s : State) (n : PortIx) : (State.setMastership m s).port n = s.port n :=
  port_of_ports (by simp) n
@[simp] theorem addReason_port (r : Reason) (s : State) (n : PortIx) : (addReason r s).port n = s.port n := rfl
@[simp] theorem modPort_card (n : PortIx) (f : PortRec → PortRec) (s : State) (slot : Slot) : (State.modPort n f s).card slot = s.card slot :=
  card_of_cards (by simp) slot
@[simp] theorem modPool_card (i : PoolIx) (f : PoolRec → PoolRec) (s : State) (slot : Slot) : (State.modPool i f s).card slot = s.card slot :=
  card_of_cards (by simp) slot
@[simp] theorem modUnit_card (u : UnitIx) (f : UnitRec → UnitRec) (s : State) (slot : Slot) : (State.modUnit u f s).card slot = s.card slot :=
  card_of_cards (by simp) slot
@[simp] theorem modRule_card (r : RuleIx) (f : RuleRec → RuleRec) (s : State) (slot : Slot) : (State.modRule r f s).card slot = s.card slot :=
  card_of_cards (by simp) slot
@[simp] theorem modPhase_card (slot : Slot) (f : CommitCard → CommitCard) (s : State) (slot' : Slot) : (State.modPhase slot f s).card slot' = s.card slot' :=
  card_of_cards (by simp) slot'
@[simp] theorem modCmd_card (p : PortId) (f : CmdPort → CmdPort) (s : State) (slot : Slot) : (State.modCmd p f s).card slot = s.card slot :=
  card_of_cards (by simp) slot
@[simp] theorem modAttn_card (p : PortId) (f : PortAttention → PortAttention) (s : State) (slot : Slot) : (State.modAttn p f s).card slot = s.card slot :=
  card_of_cards (by simp) slot
@[simp] theorem modPower_card (f : PowerBudget → PowerBudget) (s : State) (slot : Slot) : (State.modPower f s).card slot = s.card slot :=
  card_of_cards (by simp) slot
@[simp] theorem modZones_card (f : ZoneStore → ZoneStore) (s : State) (slot : Slot) : (State.modZones f s).card slot = s.card slot :=
  card_of_cards (by simp) slot
@[simp] theorem modCommit_card (f : CommitEngine → CommitEngine) (s : State) (slot : Slot) : (State.modCommit f s).card slot = s.card slot :=
  card_of_cards (by simp) slot
@[simp] theorem modScanner_card (f : SensorScanner → SensorScanner) (s : State) (slot : Slot) : (State.modScanner f s).card slot = s.card slot :=
  card_of_cards (by simp) slot
@[simp] theorem setNames_card (names : List (Nat × NameEntry)) (s : State) (slot : Slot) : (State.setNames names s).card slot = s.card slot :=
  card_of_cards (by simp) slot
@[simp] theorem setAlarms_card (alarms : List (Nat × AlarmEntry)) (s : State) (slot : Slot) : (State.setAlarms alarms s).card slot = s.card slot :=
  card_of_cards (by simp) slot
@[simp] theorem setParams_card (params : Params) (s : State) (slot : Slot) : (State.setParams params s).card slot = s.card slot :=
  card_of_cards (by simp) slot
@[simp] theorem setMastership_card (m : Option PortId) (s : State) (slot : Slot) : (State.setMastership m s).card slot = s.card slot :=
  card_of_cards (by simp) slot
@[simp] theorem addReason_card (r : Reason) (s : State) (slot : Slot) : (addReason r s).card slot = s.card slot := rfl
@[simp] theorem modPort_pool (n : PortIx) (f : PortRec → PortRec) (s : State) (i : PoolIx) : (State.modPort n f s).pool i = s.pool i :=
  pool_of_license (by simp) i
@[simp] theorem modCard_pool (slot : Slot) (f : CardRec → CardRec) (s : State) (i : PoolIx) : (State.modCard slot f s).pool i = s.pool i :=
  pool_of_license (by simp) i
@[simp] theorem modUnit_pool (u : UnitIx) (f : UnitRec → UnitRec) (s : State) (i : PoolIx) : (State.modUnit u f s).pool i = s.pool i :=
  pool_of_license (by simp) i
@[simp] theorem modRule_pool (r : RuleIx) (f : RuleRec → RuleRec) (s : State) (i : PoolIx) : (State.modRule r f s).pool i = s.pool i :=
  pool_of_license (by simp) i
@[simp] theorem modPhase_pool (slot : Slot) (f : CommitCard → CommitCard) (s : State) (i : PoolIx) : (State.modPhase slot f s).pool i = s.pool i :=
  pool_of_license (by simp) i
@[simp] theorem modCmd_pool (p : PortId) (f : CmdPort → CmdPort) (s : State) (i : PoolIx) : (State.modCmd p f s).pool i = s.pool i :=
  pool_of_license (by simp) i
@[simp] theorem modAttn_pool (p : PortId) (f : PortAttention → PortAttention) (s : State) (i : PoolIx) : (State.modAttn p f s).pool i = s.pool i :=
  pool_of_license (by simp) i
@[simp] theorem modPower_pool (f : PowerBudget → PowerBudget) (s : State) (i : PoolIx) : (State.modPower f s).pool i = s.pool i :=
  pool_of_license (by simp) i
@[simp] theorem modZones_pool (f : ZoneStore → ZoneStore) (s : State) (i : PoolIx) : (State.modZones f s).pool i = s.pool i :=
  pool_of_license (by simp) i
@[simp] theorem modCommit_pool (f : CommitEngine → CommitEngine) (s : State) (i : PoolIx) : (State.modCommit f s).pool i = s.pool i :=
  pool_of_license (by simp) i
@[simp] theorem modScanner_pool (f : SensorScanner → SensorScanner) (s : State) (i : PoolIx) : (State.modScanner f s).pool i = s.pool i :=
  pool_of_license (by simp) i
@[simp] theorem setNames_pool (names : List (Nat × NameEntry)) (s : State) (i : PoolIx) : (State.setNames names s).pool i = s.pool i :=
  pool_of_license (by simp) i
@[simp] theorem setAlarms_pool (alarms : List (Nat × AlarmEntry)) (s : State) (i : PoolIx) : (State.setAlarms alarms s).pool i = s.pool i :=
  pool_of_license (by simp) i
@[simp] theorem setParams_pool (params : Params) (s : State) (i : PoolIx) : (State.setParams params s).pool i = s.pool i :=
  pool_of_license (by simp) i
@[simp] theorem setMastership_pool (m : Option PortId) (s : State) (i : PoolIx) : (State.setMastership m s).pool i = s.pool i :=
  pool_of_license (by simp) i
@[simp] theorem addReason_pool (r : Reason) (s : State) (i : PoolIx) : (addReason r s).pool i = s.pool i := rfl
@[simp] theorem modPort_unit (n : PortIx) (f : PortRec → PortRec) (s : State) (u : UnitIx) : (State.modPort n f s).unit u = s.unit u :=
  unit_of_scanner (by simp) u
@[simp] theorem modCard_unit (slot : Slot) (f : CardRec → CardRec) (s : State) (u : UnitIx) : (State.modCard slot f s).unit u = s.unit u :=
  unit_of_scanner (by simp) u
@[simp] theorem modPool_unit (i : PoolIx) (f : PoolRec → PoolRec) (s : State) (u : UnitIx) : (State.modPool i f s).unit u = s.unit u :=
  unit_of_scanner (by simp) u
@[simp] theorem modRule_unit (r : RuleIx) (f : RuleRec → RuleRec) (s : State) (u : UnitIx) : (State.modRule r f s).unit u = s.unit u :=
  unit_of_scanner (by simp) u
@[simp] theorem modPhase_unit (slot : Slot) (f : CommitCard → CommitCard) (s : State) (u : UnitIx) : (State.modPhase slot f s).unit u = s.unit u :=
  unit_of_scanner (by simp) u
@[simp] theorem modCmd_unit (p : PortId) (f : CmdPort → CmdPort) (s : State) (u : UnitIx) : (State.modCmd p f s).unit u = s.unit u :=
  unit_of_scanner (by simp) u
@[simp] theorem modAttn_unit (p : PortId) (f : PortAttention → PortAttention) (s : State) (u : UnitIx) : (State.modAttn p f s).unit u = s.unit u :=
  unit_of_scanner (by simp) u
@[simp] theorem modPower_unit (f : PowerBudget → PowerBudget) (s : State) (u : UnitIx) : (State.modPower f s).unit u = s.unit u :=
  unit_of_scanner (by simp) u
@[simp] theorem modZones_unit (f : ZoneStore → ZoneStore) (s : State) (u : UnitIx) : (State.modZones f s).unit u = s.unit u :=
  unit_of_scanner (by simp) u
@[simp] theorem modCommit_unit (f : CommitEngine → CommitEngine) (s : State) (u : UnitIx) : (State.modCommit f s).unit u = s.unit u :=
  unit_of_scanner (by simp) u
@[simp] theorem setNames_unit (names : List (Nat × NameEntry)) (s : State) (u : UnitIx) : (State.setNames names s).unit u = s.unit u :=
  unit_of_scanner (by simp) u
@[simp] theorem setAlarms_unit (alarms : List (Nat × AlarmEntry)) (s : State) (u : UnitIx) : (State.setAlarms alarms s).unit u = s.unit u :=
  unit_of_scanner (by simp) u
@[simp] theorem setParams_unit (params : Params) (s : State) (u : UnitIx) : (State.setParams params s).unit u = s.unit u :=
  unit_of_scanner (by simp) u
@[simp] theorem setMastership_unit (m : Option PortId) (s : State) (u : UnitIx) : (State.setMastership m s).unit u = s.unit u :=
  unit_of_scanner (by simp) u
@[simp] theorem addReason_unit (r : Reason) (s : State) (u : UnitIx) : (addReason r s).unit u = s.unit u := rfl
@[simp] theorem modPort_rule (n : PortIx) (f : PortRec → PortRec) (s : State) (r : RuleIx) : (State.modPort n f s).rule r = s.rule r :=
  rule_of_rules (by simp) r
@[simp] theorem modCard_rule (slot : Slot) (f : CardRec → CardRec) (s : State) (r : RuleIx) : (State.modCard slot f s).rule r = s.rule r :=
  rule_of_rules (by simp) r
@[simp] theorem modPool_rule (i : PoolIx) (f : PoolRec → PoolRec) (s : State) (r : RuleIx) : (State.modPool i f s).rule r = s.rule r :=
  rule_of_rules (by simp) r
@[simp] theorem modUnit_rule (u : UnitIx) (f : UnitRec → UnitRec) (s : State) (r : RuleIx) : (State.modUnit u f s).rule r = s.rule r :=
  rule_of_rules (by simp) r
@[simp] theorem modPhase_rule (slot : Slot) (f : CommitCard → CommitCard) (s : State) (r : RuleIx) : (State.modPhase slot f s).rule r = s.rule r :=
  rule_of_rules (by simp) r
@[simp] theorem modCmd_rule (p : PortId) (f : CmdPort → CmdPort) (s : State) (r : RuleIx) : (State.modCmd p f s).rule r = s.rule r :=
  rule_of_rules (by simp) r
@[simp] theorem modAttn_rule (p : PortId) (f : PortAttention → PortAttention) (s : State) (r : RuleIx) : (State.modAttn p f s).rule r = s.rule r :=
  rule_of_rules (by simp) r
@[simp] theorem modPower_rule (f : PowerBudget → PowerBudget) (s : State) (r : RuleIx) : (State.modPower f s).rule r = s.rule r :=
  rule_of_rules (by simp) r
@[simp] theorem modZones_rule (f : ZoneStore → ZoneStore) (s : State) (r : RuleIx) : (State.modZones f s).rule r = s.rule r :=
  rule_of_rules (by simp) r
@[simp] theorem modCommit_rule (f : CommitEngine → CommitEngine) (s : State) (r : RuleIx) : (State.modCommit f s).rule r = s.rule r :=
  rule_of_rules (by simp) r
@[simp] theorem modScanner_rule (f : SensorScanner → SensorScanner) (s : State) (r : RuleIx) : (State.modScanner f s).rule r = s.rule r :=
  rule_of_rules (by simp) r
@[simp] theorem setNames_rule (names : List (Nat × NameEntry)) (s : State) (r : RuleIx) : (State.setNames names s).rule r = s.rule r :=
  rule_of_rules (by simp) r
@[simp] theorem setAlarms_rule (alarms : List (Nat × AlarmEntry)) (s : State) (r : RuleIx) : (State.setAlarms alarms s).rule r = s.rule r :=
  rule_of_rules (by simp) r
@[simp] theorem setParams_rule (params : Params) (s : State) (r : RuleIx) : (State.setParams params s).rule r = s.rule r :=
  rule_of_rules (by simp) r
@[simp] theorem setMastership_rule (m : Option PortId) (s : State) (r : RuleIx) : (State.setMastership m s).rule r = s.rule r :=
  rule_of_rules (by simp) r
@[simp] theorem addReason_rule (r : Reason) (s : State) (r' : RuleIx) : (addReason r s).rule r' = s.rule r' := rfl
@[simp] theorem modPort_source (n : PortIx) (f : PortRec → PortRec) (s : State) (i : SourceIx) : (State.modPort n f s).source i = s.source i :=
  source_of_scanner (by simp) i
@[simp] theorem modCard_source (slot : Slot) (f : CardRec → CardRec) (s : State) (i : SourceIx) : (State.modCard slot f s).source i = s.source i :=
  source_of_scanner (by simp) i
@[simp] theorem modPool_source (i : PoolIx) (f : PoolRec → PoolRec) (s : State) (i' : SourceIx) : (State.modPool i f s).source i' = s.source i' :=
  source_of_scanner (by simp) i'
@[simp] theorem modRule_source (r : RuleIx) (f : RuleRec → RuleRec) (s : State) (i : SourceIx) : (State.modRule r f s).source i = s.source i :=
  source_of_scanner (by simp) i
@[simp] theorem modPhase_source (slot : Slot) (f : CommitCard → CommitCard) (s : State) (i : SourceIx) : (State.modPhase slot f s).source i = s.source i :=
  source_of_scanner (by simp) i
@[simp] theorem modCmd_source (p : PortId) (f : CmdPort → CmdPort) (s : State) (i : SourceIx) : (State.modCmd p f s).source i = s.source i :=
  source_of_scanner (by simp) i
@[simp] theorem modAttn_source (p : PortId) (f : PortAttention → PortAttention) (s : State) (i : SourceIx) : (State.modAttn p f s).source i = s.source i :=
  source_of_scanner (by simp) i
@[simp] theorem modPower_source (f : PowerBudget → PowerBudget) (s : State) (i : SourceIx) : (State.modPower f s).source i = s.source i :=
  source_of_scanner (by simp) i
@[simp] theorem modZones_source (f : ZoneStore → ZoneStore) (s : State) (i : SourceIx) : (State.modZones f s).source i = s.source i :=
  source_of_scanner (by simp) i
@[simp] theorem modCommit_source (f : CommitEngine → CommitEngine) (s : State) (i : SourceIx) : (State.modCommit f s).source i = s.source i :=
  source_of_scanner (by simp) i
@[simp] theorem setNames_source (names : List (Nat × NameEntry)) (s : State) (i : SourceIx) : (State.setNames names s).source i = s.source i :=
  source_of_scanner (by simp) i
@[simp] theorem setAlarms_source (alarms : List (Nat × AlarmEntry)) (s : State) (i : SourceIx) : (State.setAlarms alarms s).source i = s.source i :=
  source_of_scanner (by simp) i
@[simp] theorem setParams_source (params : Params) (s : State) (i : SourceIx) : (State.setParams params s).source i = s.source i :=
  source_of_scanner (by simp) i
@[simp] theorem setMastership_source (m : Option PortId) (s : State) (i : SourceIx) : (State.setMastership m s).source i = s.source i :=
  source_of_scanner (by simp) i
@[simp] theorem addReason_source (r : Reason) (s : State) (i : SourceIx) : (addReason r s).source i = s.source i := rfl
@[simp] theorem modPort_phaseRec (n : PortIx) (f : PortRec → PortRec) (s : State) (slot : Slot) : (State.modPort n f s).phaseRec slot = s.phaseRec slot :=
  phaseRec_of_commit (by simp) slot
@[simp] theorem modCard_phaseRec (slot : Slot) (f : CardRec → CardRec) (s : State) (slot' : Slot) : (State.modCard slot f s).phaseRec slot' = s.phaseRec slot' :=
  phaseRec_of_commit (by simp) slot'
@[simp] theorem modPool_phaseRec (i : PoolIx) (f : PoolRec → PoolRec) (s : State) (slot : Slot) : (State.modPool i f s).phaseRec slot = s.phaseRec slot :=
  phaseRec_of_commit (by simp) slot
@[simp] theorem modUnit_phaseRec (u : UnitIx) (f : UnitRec → UnitRec) (s : State) (slot : Slot) : (State.modUnit u f s).phaseRec slot = s.phaseRec slot :=
  phaseRec_of_commit (by simp) slot
@[simp] theorem modRule_phaseRec (r : RuleIx) (f : RuleRec → RuleRec) (s : State) (slot : Slot) : (State.modRule r f s).phaseRec slot = s.phaseRec slot :=
  phaseRec_of_commit (by simp) slot
@[simp] theorem modCmd_phaseRec (p : PortId) (f : CmdPort → CmdPort) (s : State) (slot : Slot) : (State.modCmd p f s).phaseRec slot = s.phaseRec slot :=
  phaseRec_of_commit (by simp) slot
@[simp] theorem modAttn_phaseRec (p : PortId) (f : PortAttention → PortAttention) (s : State) (slot : Slot) : (State.modAttn p f s).phaseRec slot = s.phaseRec slot :=
  phaseRec_of_commit (by simp) slot
@[simp] theorem modPower_phaseRec (f : PowerBudget → PowerBudget) (s : State) (slot : Slot) : (State.modPower f s).phaseRec slot = s.phaseRec slot :=
  phaseRec_of_commit (by simp) slot
@[simp] theorem modZones_phaseRec (f : ZoneStore → ZoneStore) (s : State) (slot : Slot) : (State.modZones f s).phaseRec slot = s.phaseRec slot :=
  phaseRec_of_commit (by simp) slot
@[simp] theorem modScanner_phaseRec (f : SensorScanner → SensorScanner) (s : State) (slot : Slot) : (State.modScanner f s).phaseRec slot = s.phaseRec slot :=
  phaseRec_of_commit (by simp) slot
@[simp] theorem setNames_phaseRec (names : List (Nat × NameEntry)) (s : State) (slot : Slot) : (State.setNames names s).phaseRec slot = s.phaseRec slot :=
  phaseRec_of_commit (by simp) slot
@[simp] theorem setAlarms_phaseRec (alarms : List (Nat × AlarmEntry)) (s : State) (slot : Slot) : (State.setAlarms alarms s).phaseRec slot = s.phaseRec slot :=
  phaseRec_of_commit (by simp) slot
@[simp] theorem setParams_phaseRec (params : Params) (s : State) (slot : Slot) : (State.setParams params s).phaseRec slot = s.phaseRec slot :=
  phaseRec_of_commit (by simp) slot
@[simp] theorem setMastership_phaseRec (m : Option PortId) (s : State) (slot : Slot) : (State.setMastership m s).phaseRec slot = s.phaseRec slot :=
  phaseRec_of_commit (by simp) slot
@[simp] theorem addReason_phaseRec (r : Reason) (s : State) (slot : Slot) : (addReason r s).phaseRec slot = s.phaseRec slot := rfl
@[simp] theorem modPort_cmdPort (n : PortIx) (f : PortRec → PortRec) (s : State) (p : PortId) : (State.modPort n f s).cmdPort p = s.cmdPort p :=
  cmdPort_of_cmd (by simp) p
@[simp] theorem modCard_cmdPort (slot : Slot) (f : CardRec → CardRec) (s : State) (p : PortId) : (State.modCard slot f s).cmdPort p = s.cmdPort p :=
  cmdPort_of_cmd (by simp) p
@[simp] theorem modPool_cmdPort (i : PoolIx) (f : PoolRec → PoolRec) (s : State) (p : PortId) : (State.modPool i f s).cmdPort p = s.cmdPort p :=
  cmdPort_of_cmd (by simp) p
@[simp] theorem modUnit_cmdPort (u : UnitIx) (f : UnitRec → UnitRec) (s : State) (p : PortId) : (State.modUnit u f s).cmdPort p = s.cmdPort p :=
  cmdPort_of_cmd (by simp) p
@[simp] theorem modRule_cmdPort (r : RuleIx) (f : RuleRec → RuleRec) (s : State) (p : PortId) : (State.modRule r f s).cmdPort p = s.cmdPort p :=
  cmdPort_of_cmd (by simp) p
@[simp] theorem modPhase_cmdPort (slot : Slot) (f : CommitCard → CommitCard) (s : State) (p : PortId) : (State.modPhase slot f s).cmdPort p = s.cmdPort p :=
  cmdPort_of_cmd (by simp) p
@[simp] theorem modAttn_cmdPort (p : PortId) (f : PortAttention → PortAttention) (s : State) (p' : PortId) : (State.modAttn p f s).cmdPort p' = s.cmdPort p' :=
  cmdPort_of_cmd (by simp) p'
@[simp] theorem modPower_cmdPort (f : PowerBudget → PowerBudget) (s : State) (p : PortId) : (State.modPower f s).cmdPort p = s.cmdPort p :=
  cmdPort_of_cmd (by simp) p
@[simp] theorem modZones_cmdPort (f : ZoneStore → ZoneStore) (s : State) (p : PortId) : (State.modZones f s).cmdPort p = s.cmdPort p :=
  cmdPort_of_cmd (by simp) p
@[simp] theorem modCommit_cmdPort (f : CommitEngine → CommitEngine) (s : State) (p : PortId) : (State.modCommit f s).cmdPort p = s.cmdPort p :=
  cmdPort_of_cmd (by simp) p
@[simp] theorem modScanner_cmdPort (f : SensorScanner → SensorScanner) (s : State) (p : PortId) : (State.modScanner f s).cmdPort p = s.cmdPort p :=
  cmdPort_of_cmd (by simp) p
@[simp] theorem setNames_cmdPort (names : List (Nat × NameEntry)) (s : State) (p : PortId) : (State.setNames names s).cmdPort p = s.cmdPort p :=
  cmdPort_of_cmd (by simp) p
@[simp] theorem setAlarms_cmdPort (alarms : List (Nat × AlarmEntry)) (s : State) (p : PortId) : (State.setAlarms alarms s).cmdPort p = s.cmdPort p :=
  cmdPort_of_cmd (by simp) p
@[simp] theorem setParams_cmdPort (params : Params) (s : State) (p : PortId) : (State.setParams params s).cmdPort p = s.cmdPort p :=
  cmdPort_of_cmd (by simp) p
@[simp] theorem addReason_cmdPort (r : Reason) (s : State) (p : PortId) : (addReason r s).cmdPort p = s.cmdPort p := rfl
@[simp] theorem modPort_attention (n : PortIx) (f : PortRec → PortRec) (s : State) (p : PortId) : (State.modPort n f s).attention p = s.attention p :=
  attention_of_attn (by simp) p
@[simp] theorem modCard_attention (slot : Slot) (f : CardRec → CardRec) (s : State) (p : PortId) : (State.modCard slot f s).attention p = s.attention p :=
  attention_of_attn (by simp) p
@[simp] theorem modPool_attention (i : PoolIx) (f : PoolRec → PoolRec) (s : State) (p : PortId) : (State.modPool i f s).attention p = s.attention p :=
  attention_of_attn (by simp) p
@[simp] theorem modUnit_attention (u : UnitIx) (f : UnitRec → UnitRec) (s : State) (p : PortId) : (State.modUnit u f s).attention p = s.attention p :=
  attention_of_attn (by simp) p
@[simp] theorem modRule_attention (r : RuleIx) (f : RuleRec → RuleRec) (s : State) (p : PortId) : (State.modRule r f s).attention p = s.attention p :=
  attention_of_attn (by simp) p
@[simp] theorem modPhase_attention (slot : Slot) (f : CommitCard → CommitCard) (s : State) (p : PortId) : (State.modPhase slot f s).attention p = s.attention p :=
  attention_of_attn (by simp) p
@[simp] theorem modCmd_attention (p : PortId) (f : CmdPort → CmdPort) (s : State) (p' : PortId) : (State.modCmd p f s).attention p' = s.attention p' :=
  attention_of_attn (by simp) p'
@[simp] theorem modPower_attention (f : PowerBudget → PowerBudget) (s : State) (p : PortId) : (State.modPower f s).attention p = s.attention p :=
  attention_of_attn (by simp) p
@[simp] theorem modZones_attention (f : ZoneStore → ZoneStore) (s : State) (p : PortId) : (State.modZones f s).attention p = s.attention p :=
  attention_of_attn (by simp) p
@[simp] theorem modCommit_attention (f : CommitEngine → CommitEngine) (s : State) (p : PortId) : (State.modCommit f s).attention p = s.attention p :=
  attention_of_attn (by simp) p
@[simp] theorem modScanner_attention (f : SensorScanner → SensorScanner) (s : State) (p : PortId) : (State.modScanner f s).attention p = s.attention p :=
  attention_of_attn (by simp) p
@[simp] theorem setNames_attention (names : List (Nat × NameEntry)) (s : State) (p : PortId) : (State.setNames names s).attention p = s.attention p :=
  attention_of_attn (by simp) p
@[simp] theorem setAlarms_attention (alarms : List (Nat × AlarmEntry)) (s : State) (p : PortId) : (State.setAlarms alarms s).attention p = s.attention p :=
  attention_of_attn (by simp) p
@[simp] theorem setParams_attention (params : Params) (s : State) (p : PortId) : (State.setParams params s).attention p = s.attention p :=
  attention_of_attn (by simp) p
@[simp] theorem setMastership_attention (m : Option PortId) (s : State) (p : PortId) : (State.setMastership m s).attention p = s.attention p :=
  attention_of_attn (by simp) p

end Sys2Proof.Machine
end

