-- ==== Sys2Proof/Laws/Alarms.lean ====
section
/-! SUPPORT. What the claims of the Alarm Table and the attention sets change, said once: a claim writes the table and the
attention sets and nothing else, keeps each alert line at what its set and mask call for, and keeps the table's law. -/

namespace Sys2Proof.Machine

/-! ## Tables of positions -/

theorem mem_tableSet {α : Type} {i : Nat} {a : α} {t : List (Nat × α)} {x : Nat × α} (h : x ∈ tableSet i a t) :
    x = (i, a) ∨ x ∈ t := by
  induction t with
  | nil => simpa [tableSet] using h
  | cons y t ih =>
    obtain ⟨k, b⟩ := y
    simp only [tableSet] at h
    split at h
    · simpa using h
    · split at h
      · rcases List.mem_cons.1 h with h | h
        · exact .inl h
        · exact .inr (List.mem_cons_of_mem _ h)
      · rcases List.mem_cons.1 h with h | h
        · exact .inr (h ▸ List.mem_cons_self)
        · rcases ih h with h | h
          · exact .inl h
          · exact .inr (List.mem_cons_of_mem _ h)

/-- Putting an entry keeps the law of a table. -/
theorem TableLawful.tableSet {α : Type} {bound i : Nat} {a : α} {t : List (Nat × α)} (h : TableLawful bound t)
    (hi : i < bound) : TableLawful bound (tableSet i a t) := by
  refine ⟨?_, fun x hx => ?_⟩
  · have hp := h.1
    clear h
    induction t with
    | nil => simp [Machine.tableSet]
    | cons y t ih =>
      obtain ⟨k, b⟩ := y
      simp only [List.map_cons, List.pairwise_cons] at hp
      obtain ⟨hk, hp⟩ := hp
      simp only [Machine.tableSet]
      split
      · rename_i hlt
        simp only [List.map_cons, List.pairwise_cons, List.mem_cons, List.mem_map]
        refine ⟨fun m hm => ?_, fun m hm => hk m (List.mem_map.2 hm), hp⟩
        rcases hm with rfl | hm
        · exact hlt
        · exact lt_trans hlt (hk m (List.mem_map.2 hm))
      · split
        · rename_i he
          subst he
          simpa using ⟨fun m x hx => hk m (List.mem_map.2 ⟨(m, x), hx, rfl⟩), hp⟩
        · rename_i hle hne
          simp only [List.map_cons, List.pairwise_cons]
          refine ⟨fun m hm => ?_, ih hp⟩
          obtain ⟨x, hx, rfl⟩ := List.mem_map.1 hm
          rcases mem_tableSet hx with rfl | hx
          · exact lt_of_le_of_ne (not_lt.1 hle) (Ne.symm hne)
          · exact hk x.1 (List.mem_map.2 ⟨x, hx, rfl⟩)
  · rcases mem_tableSet hx with rfl | hx
    · exact hi
    · exact h.2 x hx

/-- Freeing a position keeps the law of a table. -/
theorem TableLawful.tableErase {α : Type} {bound i : Nat} {t : List (Nat × α)} (h : TableLawful bound t) :
    TableLawful bound (tableErase i t) := by
  refine ⟨?_, fun x hx => h.2 x (List.mem_of_mem_filter hx)⟩
  exact h.1.sublist (List.Sublist.map _ List.filter_sublist)

/-- In a lawful table a position holds the one entry that stands there. -/
theorem TableLawful.get_of_mem {α : Type} {bound : Nat} {t : List (Nat × α)} (h : TableLawful bound t) {i : Nat} {a : α}
    (hm : (i, a) ∈ t) : tableGet t i = some a := by
  obtain ⟨hp, hb⟩ := h
  induction t with
  | nil => simp at hm
  | cons y t ih =>
    obtain ⟨k, b⟩ := y
    simp only [List.map_cons, List.pairwise_cons] at hp
    rcases List.mem_cons.1 hm with he | hm
    · obtain ⟨rfl, rfl⟩ := Prod.mk.inj he
      simp [tableGet]
    · have hlt : k < i := hp.1 i (List.mem_map.2 ⟨(i, a), hm, rfl⟩)
      rw [tableGet, if_neg (Nat.ne_of_lt hlt)]
      exact ih hm hp.2 fun x hx => hb x (List.mem_cons_of_mem _ hx)

theorem mem_of_tableGet {α : Type} {t : List (Nat × α)} {i : Nat} {a : α} (h : tableGet t i = some a) : (i, a) ∈ t := by
  induction t with
  | nil => simp [tableGet] at h
  | cons y t ih =>
    obtain ⟨k, b⟩ := y
    simp only [tableGet] at h
    split at h
    · rename_i hk
      obtain ⟨rfl⟩ := Option.some.inj h
      simp [hk]
    · exact List.mem_cons_of_mem _ (ih h)

/-- The lowest free position is free. -/
theorem freePosition_free {α : Type} {bound i : Nat} {t : List (Nat × α)} (h : TableLawful bound t)
    (hf : freePosition bound t = some i) : i < bound ∧ ∀ x ∈ t, x.1 ≠ i := by
  have key : ∀ (t : List (Nat × α)) (j : Nat), (t.map Prod.fst).Pairwise (· < ·) → (∀ x ∈ t, j ≤ x.1) →
      ∀ x ∈ t, x.1 ≠ firstFree j t := by
    intro t
    induction t with
    | nil => simp
    | cons y t ih =>
      obtain ⟨k, b⟩ := y
      intro j hp hj x hx
      simp only [List.map_cons, List.pairwise_cons] at hp
      simp only [firstFree]
      have hk : j ≤ k := hj (k, b) List.mem_cons_self
      have hl : ∀ z ∈ t, k < z.1 := fun z hz => hp.1 z.1 (List.mem_map.2 ⟨z, hz, rfl⟩)
      split
      · rename_i he
        subst he
        have hge : k + 1 ≤ firstFree (k + 1) t := by
          have : ∀ (t : List (Nat × α)) (j : Nat), j ≤ firstFree j t := by
            intro t
            induction t with
            | nil => simp [firstFree]
            | cons y t ih =>
              intro j
              simp only [firstFree]
              split
              · exact le_trans (Nat.le_succ j) (ih (j + 1))
              · exact le_refl j
          exact this t (k + 1)
        rcases List.mem_cons.1 hx with rfl | hx
        · exact Nat.ne_of_lt hge
        · exact ih (k + 1) hp.2 (fun z hz => hl z hz) x hx
      · rename_i hne
        rcases List.mem_cons.1 hx with rfl | hx
        · exact hne
        · exact Nat.ne_of_gt (lt_of_le_of_lt hk (hl x hx))
  unfold freePosition at hf
  split at hf
  · rename_i hb
    obtain ⟨rfl⟩ := Option.some.inj hf
    exact ⟨hb, key t 0 h.1 fun x _ => Nat.zero_le _⟩
  · simp at hf

/-- Putting an entry that differs from every entry of another position keeps a relation between all entries. -/
theorem pairwise_tableSet {α : Type} {R : Nat × α → Nat × α → Prop} (hsymm : ∀ x y, R x y → R y x) {i : Nat} {a : α}
    {t : List (Nat × α)} (h : t.Pairwise R) (hn : ∀ x ∈ t, x.1 ≠ i → R (i, a) x) (hl : (t.map Prod.fst).Pairwise (· < ·)) :
    (tableSet i a t).Pairwise R := by
  induction t with
  | nil => simp [tableSet]
  | cons y t ih =>
    obtain ⟨k, b⟩ := y
    simp only [List.map_cons, List.pairwise_cons] at h hl
    have hgt : ∀ x ∈ t, k < x.1 := fun x hx => hl.1 x.1 (List.mem_map.2 ⟨x, hx, rfl⟩)
    simp only [tableSet]
    split
    · rename_i hlt
      simp only [List.pairwise_cons, List.mem_cons]
      refine ⟨fun x hx => ?_, h.1, h.2⟩
      rcases hx with rfl | hx
      · exact hn _ List.mem_cons_self (Nat.ne_of_gt hlt)
      · exact hn x (List.mem_cons_of_mem _ hx) (Nat.ne_of_gt (lt_trans hlt (hgt x hx)))
    · split
      · rename_i he
        subst he
        simp only [List.pairwise_cons]
        exact ⟨fun x hx => hn x (List.mem_cons_of_mem _ hx) (Nat.ne_of_gt (hgt x hx)), h.2⟩
      · rename_i hne
        simp only [List.pairwise_cons]
        refine ⟨fun x hx => ?_, ih h.2 (fun x hx hi => hn x (List.mem_cons_of_mem _ hx) hi) hl.2⟩
        rcases mem_tableSet hx with rfl | hx
        · exact hsymm _ _ (hn (k, b) List.mem_cons_self (Ne.symm hne))
        · exact h.1 x hx

/-- Two entries of different positions stand in a symmetric relation that all of a table's entries do. -/
theorem pairwise_mem {α : Type} {R : α → α → Prop} (hsymm : ∀ x y, R x y → R y x) {t : List α} (h : t.Pairwise R) {x y : α}
    (hx : x ∈ t) (hy : y ∈ t) (hne : x ≠ y) : R x y := by
  induction t with
  | nil => simp at hx
  | cons z t ih =>
    obtain ⟨hz, ht⟩ := List.pairwise_cons.1 h
    rcases List.mem_cons.1 hx with hx1 | hx <;> rcases List.mem_cons.1 hy with hy1 | hy
    · exact absurd (hx1.trans hy1.symm) hne
    · exact hx1 ▸ hz y hy
    · exact hy1 ▸ hsymm _ _ (hz x hx)
    · exact ih ht hx hy

/-! ## Claims write the table and the attention sets -/

theorem alarmChanged_eq (b : Bool) (s : State) : alarmChanged b s = { s with attn := (alarmChanged b s).attn } := by
  unfold alarmChanged
  split <;> rfl

@[simp] theorem alarmChanged_alarms (b : Bool) (s : State) : (alarmChanged b s).alarms = s.alarms := by
  rw [alarmChanged_eq]

theorem retireAlarm_eq (pos : Nat) (e : AlarmEntry) (s : State) :
    retireAlarm pos e s = { s with alarms := (retireAlarm pos e s).alarms, attn := (retireAlarm pos e s).attn } := by
  unfold retireAlarm
  rw [alarmChanged_eq]
  rfl

theorem changedPut_eq (b : Bool) (pos : Nat) (e : AlarmEntry) (s : State) :
    alarmChanged b (putAlarm pos e s) =
      { s with alarms := tableSet pos e s.alarms, attn := (alarmChanged b (putAlarm pos e s)).attn } := by
  rw [alarmChanged_eq]
  rfl

/-- A raise claim writes the Alarm Table and the attention sets and nothing else (R147, R148). -/
theorem raiseAlarm_eq (r : Raise) (s : State) :
    raiseAlarm r s = { s with alarms := (raiseAlarm r s).alarms, attn := (raiseAlarm r s).attn } := by
  unfold raiseAlarm
  split
  · split
    · rfl
    · rfl
    · rw [changedPut_eq]
  · split
    · rw [changedPut_eq]
    · rfl

/-- An end claim writes the Alarm Table and the attention sets and nothing else (R149). -/
theorem endAlarm_eq (c : Cause) (subject : Nat) (s : State) :
    endAlarm c subject s = { s with alarms := (endAlarm c subject s).alarms, attn := (endAlarm c subject s).attn } := by
  unfold endAlarm
  split
  · split
    · rw [changedPut_eq]
    · rw [retireAlarm_eq]
    · rfl
  · rfl

/-! ## The alert lines follow (R161) -/

theorem AlertsFollow.of_attn {s t : State} (h : AlertsFollow s) (ha : t.attn = s.attn) : AlertsFollow t := by
  intro p
  rw [attention_of_attn ha]
  exact h p

theorem AlertsFollow.addReason (r : Reason) (s : State) : AlertsFollow (addReason r s) := by
  intro p
  cases p <;> rfl

theorem AlertsFollow.alarmChanged {s : State} (b : Bool) (h : AlertsFollow s) : AlertsFollow (alarmChanged b s) := by
  unfold Machine.alarmChanged
  split
  · exact h
  · exact AlertsFollow.addReason _ _

theorem AlertsFollow.raiseAlarm {s : State} (r : Raise) (h : AlertsFollow s) : AlertsFollow (raiseAlarm r s) := by
  unfold Machine.raiseAlarm
  split
  · split
    · exact h.of_attn rfl
    · exact h.of_attn rfl
    · exact AlertsFollow.alarmChanged _ (h.of_attn rfl)
  · split
    · exact AlertsFollow.alarmChanged _ (h.of_attn rfl)
    · exact h

theorem AlertsFollow.endAlarm {s : State} (c : Cause) (subject : Nat) (h : AlertsFollow s) :
    AlertsFollow (endAlarm c subject s) := by
  unfold Machine.endAlarm
  split
  · split
    · exact AlertsFollow.alarmChanged _ (h.of_attn rfl)
    · exact AlertsFollow.alarmChanged _ (h.of_attn rfl)
    · exact h
  · exact h

/-! ## The law of the Alarm Table (R145, R146) -/

theorem AlarmsLawful.of_alarms {s t : State} (h : AlarmsLawful s) (ha : t.alarms = s.alarms) : AlarmsLawful t := by
  unfold AlarmsLawful at h ⊢
  rw [ha]
  exact h

theorem AlarmsLawful.alarmChanged {s : State} (b : Bool) (h : AlarmsLawful s) : AlarmsLawful (alarmChanged b s) :=
  h.of_alarms (by simp)

/-- Writing over an entry with one of the same pair keeps the law. -/
theorem AlarmsLawful.rewrite {s : State} {pos : Nat} {e e' : AlarmEntry} (h : AlarmsLawful s) (he : (pos, e) ∈ s.alarms)
    (hc : e'.cause = e.cause) (hs : e'.subject = e.subject) : AlarmsLawful (putAlarm pos e' s) := by
  refine ⟨h.1.tableSet (h.1.2 _ he), pairwise_tableSet (fun x y hxy hyx => hxy ⟨hyx.1.symm, hyx.2.symm⟩) h.2 ?_ h.1.1⟩
  intro x hx hne
  have hd := pairwise_mem (fun x y hxy hyx => hxy ⟨hyx.1.symm, hyx.2.symm⟩) h.2 he hx fun hh => hne (by rw [← hh])
  rwa [← hc, ← hs] at hd

theorem alarmFor_mem {s : State} {c : Cause} {subject pos : Nat} {e : AlarmEntry}
    (h : alarmFor s c subject = some (pos, e)) : (pos, e) ∈ s.alarms ∧ e.cause = c ∧ e.subject = subject := by
  unfold alarmFor at h
  have hp := List.find?_some h
  simp only [decide_eq_true_eq] at hp
  exact ⟨List.mem_of_find?_eq_some h, hp⟩

theorem alarmFor_none {s : State} {c : Cause} {subject : Nat} (h : alarmFor s c subject = none) :
    ∀ x ∈ s.alarms, ¬ (x.2.cause = c ∧ x.2.subject = subject) := by
  unfold alarmFor at h
  rw [List.find?_eq_none] at h
  intro x hx
  simpa using h x hx

theorem AlarmsLawful.raiseAlarm {s : State} (r : Raise) (h : AlarmsLawful s) : AlarmsLawful (raiseAlarm r s) := by
  unfold Machine.raiseAlarm
  split
  · rename_i pos e hf
    obtain ⟨hm, hc, hs⟩ := alarmFor_mem hf
    have hu : AlarmsLawful (putAlarm pos (updatedAlarm r s.uptime e) s) := by
      refine h.rewrite hm ?_ ?_ <;> (unfold updatedAlarm; split <;> rfl)
    split
    · exact hu
    · exact hu
    · exact AlarmsLawful.alarmChanged _ (h.rewrite hm rfl rfl)
  · rename_i hf
    split
    · rename_i pos hp
      obtain ⟨hb, hfree⟩ := freePosition_free h.1 hp
      refine AlarmsLawful.alarmChanged _ ⟨h.1.tableSet hb, ?_⟩
      refine pairwise_tableSet (fun x y hxy hyx => hxy ⟨hyx.1.symm, hyx.2.symm⟩) h.2 ?_ h.1.1
      intro x hx _ hxy
      exact alarmFor_none hf x hx ⟨hxy.1.symm, hxy.2.symm⟩
    · exact h

theorem AlarmsLawful.retireAlarm {s : State} (pos : Nat) (e : AlarmEntry) (h : AlarmsLawful s) :
    AlarmsLawful (retireAlarm pos e s) :=
  AlarmsLawful.alarmChanged _ ⟨h.1.tableErase, h.2.sublist List.filter_sublist⟩

theorem AlarmsLawful.endAlarm {s : State} (c : Cause) (subject : Nat) (h : AlarmsLawful s) :
    AlarmsLawful (endAlarm c subject s) := by
  unfold Machine.endAlarm
  split
  · rename_i pos e hf
    obtain ⟨hm, _, _⟩ := alarmFor_mem hf
    split
    · exact AlarmsLawful.alarmChanged _ (h.rewrite hm rfl rfl)
    · exact h.retireAlarm _ _
    · exact h
  · exact h

/-- Acknowledging an entry keeps the law (R151). -/
theorem AlarmsLawful.acknowledgeEntry {s : State} {pos : Nat} {e : AlarmEntry} (h : AlarmsLawful s)
    (hm : (pos, e) ∈ s.alarms) : AlarmsLawful (acknowledgeEntry pos e s) := by
  unfold Machine.acknowledgeEntry
  split
  · split
    · exact h.retireAlarm _ _
    · exact AlarmsLawful.alarmChanged _ (h.rewrite hm rfl rfl)
  · exact h.retireAlarm _ _
  · exact h

/-! ## The law of the Name Map (R117, R118) -/

theorem NamesLawful.of_names {s t : State} (h : NamesLawful s) (ha : t.names = s.names) : NamesLawful t := by
  unfold NamesLawful at h ⊢
  rw [ha]
  exact h

theorem NamesLawful.freeName {s : State} (pos : Nat) (h : NamesLawful s) : NamesLawful (freeName pos s) :=
  ⟨h.1.tableErase, h.2.1.sublist List.filter_sublist, fun x hx => h.2.2 x (List.mem_of_mem_filter hx)⟩

/-- Writing an entry at a position below the bound keeps the law where no other position holds its name. -/
theorem NamesLawful.putName {s : State} {pos : Nat} {e : NameEntry} (h : NamesLawful s)
    (hb : pos < Config.namePositions) (hn : e.name ≠ 0) (hd : ∀ x ∈ s.names, x.1 ≠ pos → e.name ≠ x.2.name) :
    NamesLawful (putName pos e s) := by
  refine ⟨h.1.tableSet hb, pairwise_tableSet (fun x y hxy => Ne.symm hxy) h.2.1 hd h.1.1, fun x hx => ?_⟩
  rcases mem_tableSet hx with rfl | hx
  · exact hn
  · exact h.2.2 x hx

/-- Writing over an entry with one of the same name keeps the law. -/
theorem NamesLawful.rewrite {s : State} {pos : Nat} {e e' : NameEntry} (h : NamesLawful s) (he : (pos, e) ∈ s.names)
    (hn : e'.name = e.name) : NamesLawful (Machine.putName pos e' s) := by
  refine h.putName (h.1.2 _ he) (by rw [hn]; exact h.2.2 _ he) fun x hx hne => ?_
  rw [hn]
  exact pairwise_mem (fun x y hxy => Ne.symm hxy) h.2.1 he hx fun hh => hne (by rw [← hh])

end Sys2Proof.Machine
end

