-- ==== Sys2Proof/Laws/Frames.lean ====
section
/-! SUPPORT. What a command port does around a command, said once: when a frame is taken, what the taking of it disarms,
and what its answer writes. -/

namespace Sys2Proof.Machine

/-! ## Responses (R156) -/

/-- A response writes the port's slot and link state and nothing else (R156). -/
theorem respond_eq (f : Frame) (a : Answer) (s : State) : respond f a s = { s with cmd := (respond f a s).cmd } := by
  unfold respond State.modCmd
  cases f.port <;> rfl

/-- The port that answers is Working with the response in its slot (R156). -/
@[simp] theorem respond_cmdPort (f : Frame) (a : Answer) (s : State) : (respond f a s).cmdPort f.port =
    { s.cmdPort f.port with
      working := true
      response := some { tag := f.tag, status := a.status, detail := a.detail, fields := a.fields } } := by
  simp [respond]

/-- The other port is as it was (R156). -/
theorem respond_cmdPort_other (f : Frame) (a : Answer) (s : State) {p : PortId} (h : p ≠ f.port) :
    (respond f a s).cmdPort p = s.cmdPort p := by
  rw [respond, modCmd_cmdPort, if_neg h.symm]

@[simp] theorem respond_mastership (f : Frame) (a : Answer) (s : State) :
    (respond f a s).cmd.mastership = s.cmd.mastership := by
  simp [respond]

/-! ## Disarming (R160) -/

/-- Working's state when it is not Armed stands through a disarming (R83, R160). -/
theorem unarmWorking_of_ne {z : ZoneStore} (h : z.workingState ≠ .armed) : unarmWorking z = z := by
  unfold unarmWorking
  cases z with
  | mk a b c d e w => cases w <;> simp_all

theorem disarm_eq (p : PortId) (s : State) :
    disarm p s = { s with cmd := (disarm p s).cmd, zones := (disarm p s).zones } := by
  unfold disarm State.modCmd
  cases p <;> rfl

@[simp] theorem disarm_cmdPort (p : PortId) (s : State) :
    (disarm p s).cmdPort p = { s.cmdPort p with armed := .none } := by
  simp only [disarm]
  rw [modCmd_cmdPort_same]
  cases p <;> rfl

theorem disarm_cmdPort_other {p q : PortId} (h : q ≠ p) (s : State) : (disarm p s).cmdPort q = s.cmdPort q := by
  simp only [disarm]
  rw [modCmd_cmdPort, if_neg h.symm]
  cases q <;> rfl

@[simp] theorem disarm_mastership (p : PortId) (s : State) : (disarm p s).cmd.mastership = s.cmd.mastership := by
  simp [disarm]

/-- With nothing armed a disarming changes nothing (R160). -/
theorem disarm_of_none {p : PortId} {s : State} (h : (s.cmdPort p).armed = .none) : disarm p s = s := by
  cases p <;> simp_all [disarm, State.modCmd, State.cmdPort] <;> rw [← h]

/-- Disarming twice is disarming once. -/
theorem disarm_disarm (p : PortId) (s : State) : disarm p (disarm p s) = disarm p s := disarm_of_none (by simp)

theorem disarmMaster_of_none {p : PortId} {s : State} (h : (s.cmdPort p).armed = .none) : disarmMaster p s = s := by
  unfold disarmMaster
  split
  · exact disarm_of_none h
  · rfl

theorem disarmMaster_of_master {p : PortId} {s : State} (h : s.cmd.mastership = some p) :
    disarmMaster p s = disarm p s := by
  simp [disarmMaster, isMaster, h]

theorem disarmMaster_of_observer {p : PortId} {s : State} (h : s.cmd.mastership ≠ some p) : disarmMaster p s = s := by
  simp [disarmMaster, isMaster, h]

/-! ## Taking a frame (R156, R158, R167) -/

theorem PortClear.takes {s : State} {p : PortId} (h : PortClear s p) : PortTakes s p := h.1

theorem MasterClear.clear {s : State} {p : PortId} (h : MasterClear s p) : PortClear s p := h.1

theorem receiveFrame_takes {f : Frame} {s : State} (h : PortTakes s f.port) (take : State → State) :
    receiveFrame f take s = take s := by
  simp [receiveFrame, h.1, h.2]

theorem receiveFrame_held {f : Frame} {s : State} (h : (s.cmdPort f.port).prstLow = true) (take : State → State) :
    receiveFrame f take s = s := by
  simp [receiveFrame, h]

theorem receiveFrame_busy {f : Frame} {s : State} (h : (s.cmdPort f.port).prstLow = false)
    (hw : (s.cmdPort f.port).working = true) (take : State → State) :
    receiveFrame f take s = refuseBusy f.port f.tag s := by
  simp [receiveFrame, h, hw]

theorem withRight_any (f : Frame) (body : State → State × Answer) (s : State) :
    withRight f .any body s = answerWith f body s := by
  simp [withRight]

theorem withRight_master {f : Frame} {s : State} (h : s.cmd.mastership = some f.port) (r : Right)
    (body : State → State × Answer) : withRight f r body s = answerWith f body s := by
  simp [withRight, isMaster, h]

theorem withRight_observer {f : Frame} {s : State} (h : s.cmd.mastership ≠ some f.port)
    (body : State → State × Answer) : withRight f .master body s = respond f (answer .privilege) s := by
  simp [withRight, isMaster, h]

/-- A command that any port may use, on a port with nothing armed. -/
theorem disarmingCommand_any {f : Frame} {s : State} (h : PortClear s f.port) (body : State → State × Answer) :
    disarmingCommand f .any body s = respond f (body s).2 (body s).1 := by
  rw [disarmingCommand, receiveFrame_takes h.1, disarmMaster_of_none h.2, withRight_any, answerWith]

/-- A master command on a master port with nothing armed. -/
theorem disarmingCommand_master {f : Frame} {s : State} (h : MasterClear s f.port) (r : Right)
    (body : State → State × Answer) : disarmingCommand f r body s = respond f (body s).2 (body s).1 := by
  rw [disarmingCommand, receiveFrame_takes h.1.1, disarmMaster_of_none h.1.2, withRight_master h.2, answerWith]

/-- A command of either port that keeps an armed operation. -/
theorem keepingCommand_any {f : Frame} {s : State} (h : PortTakes s f.port) (body : State → State × Answer) :
    keepingCommand f .any body s = respond f (body s).2 (body s).1 := by
  rw [keepingCommand, receiveFrame_takes h, withRight_any, answerWith]

/-- A Confirm on the master port. -/
theorem keepingCommand_master {f : Frame} {s : State} (h : PortTakes s f.port) (hm : s.cmd.mastership = some f.port)
    (r : Right) (body : State → State × Answer) :
    keepingCommand f r body s = respond f (body s).2 (body s).1 := by
  rw [keepingCommand, receiveFrame_takes h, withRight_master hm, answerWith]

end Sys2Proof.Machine
end

