-- ==== Sys2Proof/Laws/Moves.lean ====
section
/-! SUPPORT. What the events of the blocks can do, said once: `Moves k s t` says that t follows from s by record updates
that touch neither the command ports, the parameters, the uptime nor the queue. Every operation of the blocks moves in
this sense, so whatever these updates keep, every operation keeps. -/

namespace Sys2Proof.Machine

/-- Which records an operation may change beside the power, link and card records that every pass may change. -/
structure Scope where
  settings : Bool
  licences : Bool
  sensors : Bool

/-- No intent, priority, license, pool, rule or scanner record. -/
def Scope.power : Scope := ⟨false, false, false⟩

/-- Also licenses and pools. -/
def Scope.licence : Scope := ⟨false, true, false⟩

/-- Any of them. -/
def Scope.every : Scope := ⟨true, true, true⟩

/-- t follows from s by updates within the scope. -/
inductive Moves (k : Scope) (s : State) : State → Prop
  | refl : Moves k s s
  | port {t} (n : PortIx) (f : PortRec → PortRec)
      (hs : k.settings = false → ∀ r, (f r).intent = r.intent ∧ (f r).priority = r.priority)
      (hl : k.licences = false → ∀ r, (f r).license = r.license) (h : Moves k s t) : Moves k s (t.modPort n f)
  | card {t} (slot : Slot) (f : CardRec → CardRec)
      (hc : ∀ c, (f c).state = c.state ∧ (f c).powerEnable = c.powerEnable) (h : Moves k s t) :
      Moves k s (t.modCard slot f)
  | enter {t} (slot : Slot) (st : CardState) (h : Moves k s t) : Moves k s (t.modCard slot (CardRec.enter st))
  | pool {t} (i : PoolIx) (f : PoolRec → PoolRec) (hk : k.licences = true) (h : Moves k s t) :
      Moves k s (t.modPool i f)
  | phase {t} (slot : Slot) (f : CommitCard → CommitCard) (h : Moves k s t) : Moves k s (t.modPhase slot f)
  | commit {t} (f : CommitEngine → CommitEngine) (h : Moves k s t) : Moves k s (t.modCommit f)
  | power {t} (f : PowerBudget → PowerBudget) (hp : ∀ p, (f p).cap = p.cap ∧ (f p).claims = p.claims)
      (h : Moves k s t) : Moves k s (t.modPower f)
  | claims {t} (l : List ThermalClaim) (h : Moves k s t) :
      Moves k s (t.modPower fun p => { p with claims := l, cap := capOf l })
  | toPending {t} (h : Moves k s t) : Moves k s (copyToPending t)
  | toLive {t} (h : Moves k s t) : Moves k s (copyToLive t)
  | dropPending {t} (h : Moves k s t) : Moves k s (emptyPending t)
  | freeName {t} (pos : Nat) (h : Moves k s t) : Moves k s (freeName pos t)
  | logOff {t} (pos : Nat) (e : NameEntry) (he : tableGet t.names pos = some e) (h : Moves k s t) :
      Moves k s (putName pos { e with status := .pinned } t)
  | reason {t} (r : Reason) (h : Moves k s t) : Moves k s (addReason r t)
  | raise {t} (r : Raise) (h : Moves k s t) : Moves k s (raiseAlarm r t)
  | clear {t} (c : Cause) (subject : Nat) (h : Moves k s t) : Moves k s (endAlarm c subject t)
  | scanner {t} (f : SensorScanner → SensorScanner) (hk : k.sensors = true) (h : Moves k s t) :
      Moves k s (t.modScanner f)
  | rule {t} (r : RuleIx) (f : RuleRec → RuleRec) (hk : k.sensors = true) (h : Moves k s t) :
      Moves k s (t.modRule r f)

namespace Moves

variable {k : Scope} {s t : State}

theorem unit (u : UnitIx) (f : UnitRec → UnitRec) (hk : k.sensors = true) (h : Moves k s t) :
    Moves k s (t.modUnit u f) :=
  h.scanner (fun x => { x with units := x.units.set u (f (t.unit u)) }) hk

theorem trans {u : State} (h : Moves k s t) (h' : Moves k t u) : Moves k s u := by
  induction h' with
  | refl => exact h
  | port n f hs hl _ ih => exact ih.port n f hs hl
  | card slot f hc _ ih => exact ih.card slot f hc
  | enter slot st _ ih => exact ih.enter slot st
  | pool i f hk _ ih => exact ih.pool i f hk
  | phase slot f _ ih => exact ih.phase slot f
  | commit f _ ih => exact ih.commit f
  | power f hp _ ih => exact ih.power f hp
  | claims l _ ih => exact ih.claims l
  | toPending _ ih => exact ih.toPending
  | toLive _ ih => exact ih.toLive
  | dropPending _ ih => exact ih.dropPending
  | freeName pos _ ih => exact ih.freeName pos
  | logOff pos e he _ ih => exact ih.logOff pos e he
  | reason r _ ih => exact ih.reason r
  | raise r _ ih => exact ih.raise r
  | clear c subject _ ih => exact ih.clear c subject
  | scanner f hk _ ih => exact ih.scanner f hk
  | rule r f hk _ ih => exact ih.rule r f hk

theorem forEach {α : Type} (act : α → State → State) (ha : ∀ x t, Moves k s t → Moves k s (act x t)) (l : List α)
    (h : Moves k s t) : Moves k s (Machine.forEach l act t) := by
  unfold Machine.forEach
  induction l generalizing t with
  | nil => exact h
  | cons x l ih => exact ih (ha x t h)

/-! ## Sending and cards -/

theorem send (slot : Slot) (m : CardMsg) (h : Moves k s t) : Moves k s (Machine.send slot m t) :=
  h.card slot _ fun _ => ⟨rfl, rfl⟩

theorem sendJoined (m : CardMsg) (h : Moves k s t) : Moves k s (Machine.sendJoined m t) := by
  unfold Machine.sendJoined
  refine forEach _ (fun slot t ht => ?_) _ h
  split
  · exact ht.send slot m
  · exact ht

theorem enterCard (slot : Slot) (st : CardState) (h : Moves k s t) : Moves k s (Machine.enterCard slot st t) :=
  (h.enter slot st).reason .slot

theorem startTimer (slot : Slot) (ms : Nat) (h : Moves k s t) : Moves k s (Machine.startTimer slot ms t) :=
  h.card slot _ fun _ => ⟨rfl, rfl⟩

theorem stopTimer (slot : Slot) (h : Moves k s t) : Moves k s (Machine.stopTimer slot t) :=
  h.card slot _ fun _ => ⟨rfl, rfl⟩

theorem clearTemp (slot : Slot) (h : Moves k s t) : Moves k s (Machine.clearTemp slot t) :=
  h.card slot _ fun _ => ⟨rfl, rfl⟩

/-! ## Names -/

theorem endLoginAt (pos : Nat) (h : Moves k s t) : Moves k s (Machine.endLoginAt pos t) := by
  unfold Machine.endLoginAt
  split
  · rename_i e he
    unfold Machine.endLogin
    refine sendJoined _ (port _ _ (fun _ _ => ⟨rfl, rfl⟩) (fun _ _ => rfl) ?_)
    cases e.status
    · exact h.freeName pos
    · exact h
    · exact h.logOff pos e he
  · exact h

theorem removeLogins (n : PortIx) (h : Moves k s t) : Moves k s (Machine.removeLogins n t) :=
  (h.forEach _ (fun pos _ ht => ht.endLoginAt pos) _).port n _ (fun _ _ => ⟨rfl, rfl⟩) (fun _ _ => rfl)

/-! ## Ports -/

theorem loseServiceable (n : PortIx) (h : Moves k s t) : Moves k s (Machine.loseServiceable n t) := by
  unfold Machine.loseServiceable
  have hd : Moves k s (t.modPort n fun r => { r with link := .dark }) :=
    h.port n _ (fun _ _ => ⟨rfl, rfl⟩) (fun _ _ => rfl)
  refine removeLogins n ?_
  split
  · exact hd.send _ _
  · exact hd

theorem gainServiceable (n : PortIx) (h : Moves k s t) : Moves k s (Machine.gainServiceable n t) := h.send _ _

theorem reviewServiceable (n : PortIx) (was : Bool) (h : Moves k s t) :
    Moves k s (Machine.reviewServiceable n was t) := by
  unfold Machine.reviewServiceable
  split
  · exact h.loseServiceable n
  · exact h.gainServiceable n
  · exact h
  · exact h

theorem enterWait (x : WaitItem) (h : Moves k s t) : Moves k s (Machine.enterWait x t) :=
  h.power _ fun _ => ⟨rfl, rfl⟩

theorem leaveWait (x : WaitItem) (h : Moves k s t) : Moves k s (Machine.leaveWait x t) :=
  h.power _ fun _ => ⟨rfl, rfl⟩

theorem chargeDraw (w : Nat) (h : Moves k s t) : Moves k s (Machine.chargeDraw w t) := h.power _ fun _ => ⟨rfl, rfl⟩

theorem releaseDraw (w : Nat) (h : Moves k s t) : Moves k s (Machine.releaseDraw w t) := h.power _ fun _ => ⟨rfl, rfl⟩

theorem setPower (n : PortIx) (x : PortPower) (hold : Bool) (h : Moves k s t) :
    Moves k s (Machine.setPower n x hold t) :=
  h.port n _ (fun _ _ => ⟨rfl, rfl⟩) (fun _ _ => rfl)

theorem joinWait (n : PortIx) (h : Moves k s t) : Moves k s (Machine.joinWait n t) :=
  (h.setPower n _ _).enterWait _

theorem loseEligibility (n : PortIx) (draw : Nat) (h : Moves k s t) : Moves k s (Machine.loseEligibility n draw t) := by
  unfold Machine.loseEligibility
  refine setPower _ _ _ ?_
  split
  · exact h.leaveWait _
  · exact h.releaseDraw _
  · exact h

theorem reviewEligible (n : PortIx) (was : Bool) (draw : Nat) (h : Moves k s t) :
    Moves k s (Machine.reviewEligible n was draw t) := by
  unfold Machine.reviewEligible
  split
  · exact h.loseEligibility n draw
  · exact h.joinWait n
  · exact h
  · exact h

theorem portChange (n : PortIx) (f : PortRec → PortRec)
    (hs : k.settings = false → ∀ r, (f r).intent = r.intent ∧ (f r).priority = r.priority)
    (hl : k.licences = false → ∀ r, (f r).license = r.license) (h : Moves k s t) :
    Moves k s (Machine.portChange n f t) :=
  ((h.port n f hs hl).reviewEligible _ _ _).reviewServiceable _ _

theorem admitPort (n : PortIx) (h : Moves k s t) : Moves k s (Machine.admitPort n t) :=
  ((h.leaveWait _).chargeDraw _).portChange n _ (fun _ _ => ⟨rfl, rfl⟩) (fun _ _ => rfl)

theorem displacePort (n : PortIx) (hold : Bool) (h : Moves k s t) : Moves k s (Machine.displacePort n hold t) :=
  (((h.releaseDraw _).setPower _ _ _).enterWait _).reviewServiceable _ _

theorem portsFollowCard (slot : Slot) (before : State) (h : Moves k s t) :
    Moves k s (Machine.portsFollowCard slot before t) :=
  h.forEach _ (fun _ _ ht => (ht.reviewEligible _ _ _).reviewServiceable _ _) _

theorem takeLink (slot : Slot) (position : Byte) (lit : Bool) (h : Moves k s t) :
    Moves k s (Machine.takeLink slot position lit t) := by
  unfold Machine.takeLink
  split
  · exact h
  · split
    · unfold Machine.linkReport
      split
      · split
        · exact h.send _ _
        · exact h
      · split
        · exact h.port _ _ (fun _ _ => ⟨rfl, rfl⟩) (fun _ _ => rfl)
        · exact removeLogins _ (port _ _ (fun _ _ => ⟨rfl, rfl⟩) (fun _ _ => rfl) h)
        · exact h
        · exact h
    · exact h

/-! ## Handshake and restore pass -/

theorem startProbe (slot : Slot) (attempts : Nat) (h : Moves k s t) : Moves k s (Machine.startProbe slot attempts t) :=
  startTimer _ _ (send _ _ (card slot _ (fun _ => ⟨rfl, rfl⟩) ((h.clearTemp slot).enterCard slot _)))

theorem startAdmitting (slot : Slot) (h : Moves k s t) : Moves k s (Machine.startAdmitting slot t) :=
  (((h.enterCard slot _).clearTemp slot).send _ _).startTimer _ _

theorem placeCard (slot : Slot) (h : Moves k s t) : Moves k s (Machine.placeCard slot t) :=
  (h.enterCard slot _).enterWait _

theorem failCard (slot : Slot) (reason : FailureReason) (h : Moves k s t) :
    Moves k s (Machine.failCard slot reason t) :=
  raise _ (card slot _ (fun _ => ⟨rfl, rfl⟩) (((h.stopTimer slot).clearTemp slot).enterCard slot _))

theorem admitCard (slot : Slot) (h : Moves k s t) : Moves k s (Machine.admitCard slot t) :=
  ((h.leaveWait _).chargeDraw _).startAdmitting _

theorem restoreItem (x : WaitItem) (h : Moves k s t) : Moves k s (Machine.restoreItem x t) := by
  unfold Machine.restoreItem
  split <;> split
  · exact h.admitCard _
  · exact h
  · exact h.admitPort _
  · exact h

theorem restorePass (h : Moves k s t) : Moves k s (Machine.restorePass t) := by
  have hf := h.forEach Machine.restoreItem (fun x _ ht => ht.restoreItem x) t.power.waitList
  unfold Machine.restorePass
  dsimp only
  split
  · exact hf.reason _
  · exact hf

theorem settleDeficit (h : Moves k s t) : Moves k s (Machine.settleDeficit t) := by
  unfold Machine.settleDeficit
  split
  · exact raise _ (power _ (fun _ => ⟨rfl, rfl⟩) h)
  · exact clear _ _ (power _ (fun _ => ⟨rfl, rfl⟩) h)
  · exact h
  · exact h

/-! ## Commit Engine -/

theorem noteRecord (x : Option Half) (g : ResultRec → ResultRec) (h : Moves k s t) :
    Moves k s (Machine.noteRecord x g t) := by
  unfold Machine.noteRecord
  split
  · exact h
  · dsimp only
    split
    · exact h.commit _
    · exact (h.commit _).reason _

theorem setPhase (slot : Slot) (p : Phase) (h : Moves k s t) : Moves k s (Machine.setPhase slot p t) := h.phase _ _

theorem sendHold (slot : Slot) (h : Moves k s t) : Moves k s (Machine.sendHold slot t) := (h.phase _ _).send _ _

theorem sendResume (slot : Slot) (h : Moves k s t) : Moves k s (Machine.sendResume slot t) := (h.phase _ _).send _ _

theorem beginCommit (number : Half) (h : Moves k s t) : Moves k s (Machine.beginCommit number t) :=
  ((h.toPending.commit _).forEach _ (fun x _ ht => ht.sendHold x) _).reason _

theorem switchLive (h : Moves k s t) : Moves k s (Machine.switchLive t) :=
  (((h.toLive.noteRecord _ _).commit _).forEach _ (fun x _ ht => ht.sendResume x) _).reason _

theorem closeCommit (h : Moves k s t) : Moves k s (Machine.closeCommit t) := by
  have hn := (h.forEach (fun slot => Machine.setPhase slot .outside) (fun x _ ht => ht.setPhase x _) allSlots).noteRecord
    (Machine.forEach allSlots (fun slot => Machine.setPhase slot .outside) t).commit.active
    (fun r => { r with outcome := endOutcome t.commit })
  unfold Machine.closeCommit
  refine reason _ (commit _ ?_)
  split
  · exact hn.raise _
  · exact hn

theorem switchIfDue (h : Moves k s t) : Moves k s (Machine.switchIfDue t) := by
  unfold Machine.switchIfDue
  split
  · exact h.switchLive
  · exact h

theorem endIfDue (h : Moves k s t) : Moves k s (Machine.endIfDue t) := by
  unfold Machine.endIfDue
  split
  · exact h.closeCommit
  · exact h

theorem startQueued (h : Moves k s t) : Moves k s (Machine.startQueued t) := by
  unfold Machine.startQueued
  split
  · exact (h.beginCommit _).switchIfDue.endIfDue
  · exact h
  · exact h
  · exact h

theorem commitFollows (h : Moves k s t) : Moves k s (Machine.commitFollows t) := h.switchIfDue.endIfDue.startQueued

theorem fenceClaim (slot : Slot) (h : Moves k s t) : Moves k s (Machine.fenceClaim slot t) := by
  unfold Machine.fenceClaim
  split
  · exact ((h.enterCard _ _).raise _).portsFollowCard _ _
  · exact h

theorem fenceCard (slot : Slot) (h : Moves k s t) : Moves k s (Machine.fenceCard slot t) :=
  ((((h.setPhase _ _).commit _).noteRecord _ _).fenceClaim _).commitFollows

theorem cardJoined (slot : Slot) (h : Moves k s t) : Moves k s (Machine.cardJoined slot t) := by
  unfold Machine.cardJoined
  split
  · exact h.setPhase _ _
  · exact h.sendResume _
  · exact h

theorem cardLeft (slot : Slot) (h : Moves k s t) : Moves k s (Machine.cardLeft slot t) := by
  unfold Machine.cardLeft
  split
  · exact h
  · exact (h.setPhase _ _).commitFollows

theorem holdAck (slot : Slot) (g : Word) (h : Moves k s t) : Moves k s (Machine.holdAck slot g t) := by
  unfold Machine.holdAck
  split
  · exact (h.setPhase _ _).commitFollows
  · exact h

theorem resumeAck (slot : Slot) (g : Word) (h : Moves k s t) : Moves k s (Machine.resumeAck slot g t) := by
  unfold Machine.resumeAck
  split
  · exact (h.setPhase _ _).commitFollows
  · exact h

theorem commitTimeout (slot : Slot) (m : CardMsg) (h : Moves k s t) : Moves k s (Machine.commitTimeout slot m t) := by
  unfold Machine.commitTimeout
  dsimp only
  split
  · exact (h.phase _ _).send _ _
  · exact h.fenceCard _

theorem holdTimeout (slot : Slot) (h : Moves k s t) : Moves k s (Machine.holdTimeout slot t) := by
  unfold Machine.holdTimeout
  split
  · exact h.commitTimeout _ _
  · exact h

theorem resumeTimeout (slot : Slot) (h : Moves k s t) : Moves k s (Machine.resumeTimeout slot t) := by
  unfold Machine.resumeTimeout
  split
  · exact h.commitTimeout _ _
  · exact h

/-! ## Departures -/

theorem releaseCard (slot : Slot) (h : Moves k s t) : Moves k s (Machine.releaseCard slot t) := by
  unfold Machine.releaseCard
  split
  · exact h.releaseDraw _
  · split
    · exact h.leaveWait _
    · exact h

theorem tellDeparture (slot : Slot) (before : State) (h : Moves k s t) :
    Moves k s (Machine.tellDeparture slot before t) := by
  unfold Machine.tellDeparture
  split
  · exact (h.cardLeft _).portsFollowCard _ _
  · exact h

theorem endCardFault (slot : Slot) (before : State) (h : Moves k s t) :
    Moves k s (Machine.endCardFault slot before t) := by
  unfold Machine.endCardFault
  split
  · exact h.clear _ _
  · exact h

theorem leaveCard (slot : Slot) (st : CardState) (h : Moves k s t) : Moves k s (Machine.leaveCard slot st t) :=
  (((((h.releaseCard slot).enterCard slot st).stopTimer slot).clearTemp slot).tellDeparture slot t).endCardFault slot t

theorem shedCard (slot : Slot) (h : Moves k s t) : Moves k s (Machine.shedCard slot t) :=
  (h.leaveCard _ _).enterWait _

theorem parkClaim (slot : Slot) (r : RuleIx) (h : Moves k s t) : Moves k s (Machine.parkClaim slot r t) := by
  unfold Machine.parkClaim
  dsimp only
  have hc : Moves k s (t.modCard slot fun c => { c with parkClaims := addRule r c.parkClaims }) :=
    h.card slot _ fun _ => ⟨rfl, rfl⟩
  split
  · exact (hc.leaveCard _ _).restorePass
  · exact hc

theorem parkWithdraw (slot : Slot) (r : RuleIx) (h : Moves k s t) : Moves k s (Machine.parkWithdraw slot r t) := by
  unfold Machine.parkWithdraw
  dsimp only
  have hc : Moves k s (t.modCard slot fun c => { c with parkClaims := dropRule r c.parkClaims }) :=
    h.card slot _ fun _ => ⟨rfl, rfl⟩
  split
  · exact (hc.placeCard _).restorePass
  · exact hc

theorem restoreIfReleased (slot : Slot) (before : State) (h : Moves k s t) :
    Moves k s (Machine.restoreIfReleased slot before t) := by
  unfold Machine.restoreIfReleased
  split
  · exact h.restorePass
  · exact h

theorem removal (slot : Slot) (h : Moves k s t) : Moves k s (Machine.removal slot t) := by
  unfold Machine.removal
  split
  · exact restoreIfReleased _ _ (card slot _ (fun _ => ⟨rfl, rfl⟩) (h.leaveCard _ _))
  · exact h

theorem slotResetBody (slot : Slot) (h : Moves k s t) : Moves k s (Machine.slotResetBody slot t) := by
  unfold Machine.slotResetBody
  split
  · exact ((h.leaveCard _ _).startProbe _ _).restoreIfReleased _ _
  · split
    · exact h
    · exact restoreIfReleased _ _ (card slot _ (fun _ => ⟨rfl, rfl⟩) (h.leaveCard _ _))

/-! ## Budget -/

theorem shedPortStep (n : PortIx) (h : Moves k s t) : Moves k s (Machine.shedPortStep n t) := by
  unfold Machine.shedPortStep
  split
  · exact h.displacePort _ _
  · exact h

theorem shedCardStep (slot : Slot) (h : Moves k s t) : Moves k s (Machine.shedCardStep slot t) := by
  unfold Machine.shedCardStep
  split
  · exact h.shedCard _
  · exact h

theorem shedPass (h : Moves k s t) : Moves k s (Machine.shedPass t) :=
  ((h.forEach _ (fun x _ ht => ht.shedPortStep x) _).forEach _ (fun x _ ht => ht.shedCardStep x) _).reason _

theorem budgetFollows (before : State) (h : Moves k s t) : Moves k s (Machine.budgetFollows before t) := by
  unfold Machine.budgetFollows
  split
  · split
    · exact h.shedPass
    · exact h
  · split
    · exact h.restorePass
    · exact h

theorem budgetChange (g : PowerBudget → PowerBudget) (hg : ∀ p, (g p).cap = p.cap ∧ (g p).claims = p.claims)
    (h : Moves k s t) : Moves k s (Machine.budgetChange g t) := by
  unfold Machine.budgetChange
  refine budgetFollows _ ?_
  split
  · exact (h.power g hg).reason _
  · exact h.power g hg

theorem setCounted (i : Fin 6) (rating : Option Nat) (h : Moves k s t) : Moves k s (Machine.setCounted i rating t) :=
  h.budgetChange _ fun _ => ⟨rfl, rfl⟩

theorem setPowerMode (field : Byte) (h : Moves k s t) : Moves k s (Machine.setPowerMode field t).1 := by
  unfold Machine.setPowerMode
  split
  · exact h
  · split
    · exact h
    · exact reason _ (budgetChange _ (fun _ => ⟨rfl, rfl⟩) h)

theorem capFell (c : Nat) (h : Moves k s t) : Moves k s (Machine.capFell c t) := by
  have hd := h.forEach (fun n => Machine.displacePort n true) (fun x _ ht => ht.displacePort x _)
    (portsAtCap t c .admitted)
  have hh := hd.forEach (fun n s => Machine.setPower n .waiting true s) (fun x _ ht => ht.setPower x _ _)
    (portsAtCap (Machine.forEach (portsAtCap t c .admitted) (fun n => Machine.displacePort n true) t) c .waiting)
  unfold Machine.capFell
  dsimp only
  split
  · exact hh
  · exact hh.restorePass

theorem capRose (c : Nat) (h : Moves k s t) : Moves k s (Machine.capRose c t) :=
  (h.forEach _ (fun x _ ht => ht.setPower x _ _) _).restorePass

theorem setClaims (l : List ThermalClaim) (h : Moves k s t) : Moves k s (Machine.setClaims l t) := by
  unfold Machine.setClaims
  dsimp only
  split
  · exact ((h.claims l).capFell _).reason _
  · split
    · exact ((h.claims l).capRose _).reason _
    · exact h.claims l

/-! ## Licences -/

theorem poolTermClaim (i : PoolIx) (a b : PoolState) (h : Moves k s t) : Moves k s (Machine.poolTermClaim i a b t) := by
  unfold Machine.poolTermClaim
  split
  · exact h.raise _
  · exact h.raise _
  all_goals
    split
    · exact h.clear _ _
    · exact h.clear _ _
    · exact h
    · exact h

theorem writePool (i : PoolIx) (r : PoolRec) (hk : k.licences = true) (h : Moves k s t) :
    Moves k s (Machine.writePool i r t) := by
  unfold Machine.writePool
  dsimp only
  split
  · exact h.pool _ _ hk
  · exact ((h.pool _ _ hk).poolTermClaim _ _ _).reason _

theorem changeBound (i : PoolIx) (g : Nat → Nat) (hk : k.licences = true) (h : Moves k s t) :
    Moves k s (Machine.changeBound i g t) :=
  (h.pool _ _ hk).reason _

theorem licenseChange (n : PortIx) (l : License) (hk : k.licences = true) (h : Moves k s t) :
    Moves k s (Machine.portChange n (fun r => { r with license := l }) t) :=
  h.portChange n _ (fun _ _ => ⟨rfl, rfl⟩) (fun hf => by simp [hk] at hf)

theorem bindPort (n : PortIx) (i : PoolIx) (hk : k.licences = true) (h : Moves k s t) :
    Moves k s (Machine.bindPort n i t) := by
  unfold Machine.bindPort
  refine licenseChange _ _ hk (changeBound _ _ hk ?_)
  split
  · exact h.changeBound _ _ hk
  · exact h

theorem unbindPort (n : PortIx) (hk : k.licences = true) (h : Moves k s t) : Moves k s (Machine.unbindPort n t) := by
  unfold Machine.unbindPort
  refine licenseChange _ _ hk ?_
  split
  · exact h.changeBound _ _ hk
  · exact h

theorem autoBind (n : PortIx) (hk : k.licences = true) (h : Moves k s t) : Moves k s (Machine.autoBind n t) := by
  unfold Machine.autoBind
  split
  · exact h.bindPort _ _ hk
  · exact h

theorem rebindingPass (hk : k.licences = true) (h : Moves k s t) : Moves k s (Machine.rebindingPass t) :=
  h.forEach _ (fun x _ ht => ht.autoBind x hk) _

theorem rebindThenRestore (before : Nat) (hk : k.licences = true) (h : Moves k s t) :
    Moves k s (Machine.rebindThenRestore before t) := by
  unfold Machine.rebindThenRestore
  dsimp only
  split
  · exact (h.rebindingPass hk).restorePass
  · exact h.rebindingPass hk

theorem applyCredential (c : Credential) (hk : k.licences = true) (h : Moves k s t) :
    Moves k s (Machine.applyCredential c t) := by
  unfold Machine.applyCredential
  refine rebindThenRestore _ hk (reason _ ?_)
  split
  · exact forEach _ (fun x _ ht => ht.licenseChange x _ hk) _ (h.writePool _ _ hk)
  · exact h.writePool _ _ hk

theorem poolInstall (pool tier kind : Byte) (capacity hours warn : Half) (check : Word) (hk : k.licences = true)
    (h : Moves k s t) : Moves k s (Machine.poolInstall pool tier kind capacity hours warn check t).1 := by
  unfold Machine.poolInstall
  split
  · exact h
  · split
    · exact h
    · dsimp only
      split
      · exact h
      · split
        · exact h
        · split
          · exact h
          · dsimp only
            exact applyCredential _ hk h

theorem enterGrace (i : PoolIx) (n : PortIx) (hk : k.licences = true) (h : Moves k s t) :
    Moves k s (Machine.enterGrace i n t) := by
  unfold Machine.enterGrace
  split
  · exact h.unbindPort _ hk
  · exact h.licenseChange _ _ hk

theorem countPool (i : PoolIx) (hk : k.licences = true) (h : Moves k s t) : Moves k s (Machine.countPool i t) := by
  unfold Machine.countPool
  dsimp only
  split
  · split
    · exact (h.writePool _ _ hk).forEach _ (fun x _ ht => ht.enterGrace i x hk) _
    · exact h.writePool _ _ hk
  · exact h

theorem countGrace (n : PortIx) (hk : k.licences = true) (h : Moves k s t) : Moves k s (Machine.countGrace n t) := by
  unfold Machine.countGrace
  split
  · split
    · exact h.unbindPort _ hk
    · exact h.licenseChange _ _ hk
  · exact h
  · exact h

theorem hourTimer (hk : k.licences = true) (h : Moves k s t) : Moves k s (Machine.hourTimer t) := by
  have hp := h.forEach Machine.countPool (fun x _ ht => ht.countPool x hk) allPools
  have hg := hp.forEach Machine.countGrace (fun x _ ht => ht.countGrace x hk) (portsInGrace t)
  unfold Machine.hourTimer
  dsimp only
  split
  · exact hg.rebindThenRestore _ hk
  · exact hg

theorem confirmedPoolRevoke (i : PoolIx) (hk : k.licences = true) (h : Moves k s t) :
    Moves k s (Machine.confirmedPoolRevoke i t).1 := by
  unfold Machine.confirmedPoolRevoke
  split
  · exact h
  · dsimp only
    exact rebindThenRestore _ hk (reason _ (writePool _ _ hk (forEach _ (fun x _ ht => ht.unbindPort x hk) _ h)))

/-! ## Port commands -/

theorem changePriority (n : PortIx) (prio : Priority) (hk : k.settings = true) (h : Moves k s t) :
    Moves k s (Machine.changePriority n prio t) := by
  have hp : Moves k s (t.modPort n fun r => { r with priority := prio }) :=
    h.port n _ (fun hf => by simp [hk] at hf) (fun _ _ => rfl)
  unfold Machine.changePriority
  dsimp only
  split
  · exact hp
  · split
    · exact ((hp.leaveWait _).setPower _ _ _).enterWait _
    · exact (((hp.leaveWait _).setPower _ _ _).enterWait _).restorePass
  · split
    · exact (hp.displacePort _ _).restorePass
    · exact hp

theorem enableSteps (n : PortIx) (named : Option PoolIx) (hk : k.licences = true) (h : Moves k s t) :
    Moves k s (Machine.enableSteps n named t).1 := by
  unfold Machine.enableSteps
  split
  · exact h
  · split
    · exact h.restorePass
    · split
      · exact h
      · exact (h.bindPort _ _ hk).restorePass

theorem enablePort (n : PortIx) (named : Option PoolIx) (prio : Option Priority) (hs : k.settings = true)
    (hl : k.licences = true) (h : Moves k s t) : Moves k s (Machine.enablePort n named prio t).1 := by
  unfold Machine.enablePort
  split
  · split
    · split
      · exact h
      · exact h.changePriority _ _ hs
    · exact h
  · exact enableSteps _ _ hl (portChange n _ (fun hf => by simp [hs] at hf) (fun _ _ => rfl) h)

theorem portEnable (port : Half) (pool priority : Byte) (hs : k.settings = true) (hl : k.licences = true)
    (h : Moves k s t) : Moves k s (Machine.portEnable port pool priority t).1 := by
  unfold Machine.portEnable
  split
  · exact h
  · split
    · exact h
    · exact h.enablePort _ _ _ hs hl

theorem portDisable (port : Half) (hs : k.settings = true) (h : Moves k s t) :
    Moves k s (Machine.portDisable port t).1 := by
  unfold Machine.portDisable
  split
  · exact h
  · split
    · exact h
    · rename_i n _ _ _
      have hp : Moves k s (Machine.portChange n (fun r => { r with intent := .disabled }) t) :=
        h.portChange n _ (fun hf => by simp [hs] at hf) (fun _ _ => rfl)
      unfold Machine.disablePort
      dsimp only
      split
      · exact hp.restorePass
      · exact hp

theorem portReleaseLicense (port : Half) (hl : k.licences = true) (h : Moves k s t) :
    Moves k s (Machine.portReleaseLicense port t).1 := by
  unfold Machine.portReleaseLicense
  split
  · exact h
  · split
    · exact h
    · split
      · exact h
      · dsimp only
        exact rebindThenRestore _ hl (h.unbindPort _ hl)

theorem portSetPriority (port : Half) (priority : Byte) (hs : k.settings = true) (h : Moves k s t) :
    Moves k s (Machine.portSetPriority port priority t).1 := by
  unfold Machine.portSetPriority
  split
  · exact h
  · exact h
  · split
    · exact h
    · exact h.changePriority _ _ hs

/-! ## Slots -/

theorem presenceRise (slot : Slot) (h : Moves k s t) : Moves k s (Machine.presenceRise slot t) := by
  have hc : Moves k s (t.modCard slot fun c => { c with presence := true }) := h.card slot _ fun _ => ⟨rfl, rfl⟩
  unfold Machine.presenceRise
  split
  · exact h
  · dsimp only
    split
    · exact hc.startProbe _ _
    · exact hc

theorem probeTimeout (slot : Slot) (h : Moves k s t) : Moves k s (Machine.probeTimeout slot t) := by
  unfold Machine.probeTimeout
  split
  · split
    · exact startTimer _ _ (send _ _ (card slot _ (fun _ => ⟨rfl, rfl⟩) h))
    · exact h.failCard _ _
  · exact h

theorem tierCheck (slot : Slot) (tier : Nat) (hk : k.licences = true) (h : Moves k s t) :
    Moves k s (Machine.tierCheck slot tier t) := by
  unfold Machine.tierCheck
  dsimp only
  split
  · exact h
  · exact (h.forEach _ (fun x _ ht => ht.unbindPort x hk) _).rebindingPass hk

theorem acceptIdent (slot : Slot) (id : Identity) (hk : k.licences = true) (h : Moves k s t) :
    Moves k s (Machine.acceptIdent slot id t) := by
  have ht := ((h.stopTimer slot).card slot (fun c => { c with identity := some id }) fun _ => ⟨rfl, rfl⟩).tierCheck
    slot id.tier hk
  unfold Machine.acceptIdent
  dsimp only
  generalize Machine.tierCheck _ _ _ = u at ht
  have hp : Moves k s (if (u.card slot).parkClaims.isEmpty then Machine.placeCard slot u
      else Machine.enterCard slot .parked u) := by
    split
    · exact ht.placeCard _
    · exact ht.enterCard _ _
  generalize (if (u.card slot).parkClaims.isEmpty then Machine.placeCard slot u
      else Machine.enterCard slot .parked u) = v at hp ⊢
  split
  · exact hp.restorePass
  · exact hp

theorem takeIdent (slot : Slot) (cardType : Half) (portCount tier : Byte) (baseDraw : Half) (hk : k.licences = true)
    (h : Moves k s t) : Moves k s (Machine.takeIdent slot cardType portCount tier baseDraw t) := by
  unfold Machine.takeIdent
  split
  · exact h.failCard _ _
  · exact h.acceptIdent _ _ hk

theorem joinCard (slot : Slot) (hk : k.licences = true) (h : Moves k s t) : Moves k s (Machine.joinCard slot t) := by
  unfold Machine.joinCard
  dsimp only
  exact restorePass (rebindingPass hk (portsFollowCard slot t (cardJoined slot
    (card slot _ (fun _ => ⟨rfl, rfl⟩) ((h.stopTimer slot).enterCard slot _)))))

theorem takeReady (slot : Slot) (g : Word) (hk : k.licences = true) (h : Moves k s t) :
    Moves k s (Machine.takeReady slot g t) := by
  unfold Machine.takeReady
  split
  · exact h.joinCard _ hk
  · exact h.send _ _

theorem admittingTimeout (slot : Slot) (h : Moves k s t) : Moves k s (Machine.admittingTimeout slot t) := by
  unfold Machine.admittingTimeout
  split
  · dsimp only
    refine restorePass ?_
    split
    · exact (h.releaseDraw _).startProbe _ _
    · exact (h.releaseDraw _).failCard _ _
  · exact h

theorem takeTemperature (slot : Slot) (v : Half) (h : Moves k s t) : Moves k s (Machine.takeTemperature slot v t) :=
  h.card slot _ fun _ => ⟨rfl, rfl⟩

theorem leaveMessage (slot : Slot) (h : Moves k s t) : Moves k s (t.modCard slot CardRec.leave) :=
  h.card slot _ fun c => by unfold CardRec.leave; split <;> exact ⟨rfl, rfl⟩

theorem takeMessage (slot : Slot) (valid : CardState → Bool) (act : State → State)
    (ha : Moves k s t → Moves k s (act t)) (h : Moves k s t) : Moves k s (Machine.takeMessage slot valid act t) := by
  unfold Machine.takeMessage
  split
  · exact ha h
  · exact h

/-! ## Rules -/

theorem recomputeDuty (hk : k.sensors = true) (h : Moves k s t) : Moves k s (Machine.recomputeDuty t) := h.scanner _ hk

theorem setBoosts (l : List RuleIx) (hk : k.sensors = true) (h : Moves k s t) : Moves k s (Machine.setBoosts l t) :=
  (h.scanner _ hk).recomputeDuty hk

theorem applyAction (r : RuleIx) (rule : RuleRec) (hk : k.sensors = true) (h : Moves k s t) :
    Moves k s (Machine.applyAction r rule t) := by
  unfold Machine.applyAction
  split
  · exact h
  · exact h.setBoosts _ hk
  · exact h.setClaims _
  · split
    · exact h.parkClaim _ _
    · exact h

theorem withdrawAction (r : RuleIx) (rule : RuleRec) (hk : k.sensors = true) (h : Moves k s t) :
    Moves k s (Machine.withdrawAction r rule t) := by
  unfold Machine.withdrawAction
  split
  · exact h
  · exact h.setBoosts _ hk
  · exact h.setClaims _
  · split
    · exact h.parkWithdraw _ _
    · exact h

theorem beginCondition (r : RuleIx) (rule : RuleRec) (hk : k.sensors = true) (h : Moves k s t) :
    Moves k s (Machine.beginCondition r rule t) := (h.raise _).applyAction _ _ hk

theorem endCondition (r : RuleIx) (rule : RuleRec) (hk : k.sensors = true) (h : Moves k s t) :
    Moves k s (Machine.endCondition r rule t) := (h.clear _ _).withdrawAction _ _ hk

theorem evaluateRule (r : RuleIx) (hk : k.sensors = true) (h : Moves k s t) : Moves k s (Machine.evaluateRule r t) := by
  unfold Machine.evaluateRule
  dsimp only
  split
  · unfold Machine.ruleClaims
    split
    · exact (h.rule _ _ hk).beginCondition _ _ hk
    · exact (h.rule _ _ hk).endCondition _ _ hk
    · exact h.rule _ _ hk
    · exact h.rule _ _ hk
  · exact h

theorem evaluateRules (hk : k.sensors = true) (h : Moves k s t) : Moves k s (Machine.evaluateRules t) :=
  h.forEach _ (fun x _ ht => ht.evaluateRule x hk) _

theorem endIfHolds (r : RuleIx) (hk : k.sensors = true) (h : Moves k s t) : Moves k s (Machine.endIfHolds r t) := by
  unfold Machine.endIfHolds
  split
  · exact h.endCondition _ _ hk
  · exact h

theorem ruleWrite (rule : Byte) (x : RuleFields) (hk : k.sensors = true) (h : Moves k s t) :
    Moves k s (Machine.ruleWrite rule x t).1 := by
  unfold Machine.ruleWrite
  split
  · exact h
  · split
    · exact h
    · dsimp only
      exact Moves.rule _ _ hk (h.endIfHolds _ hk)

theorem ruleEnable (rule : Byte) (hk : k.sensors = true) (h : Moves k s t) :
    Moves k s (Machine.ruleEnable rule t).1 := by
  unfold Machine.ruleEnable
  split
  · exact h
  · split
    · exact h
    · split
      · exact h
      · dsimp only
        exact Moves.rule _ _ hk h

theorem ruleDisable (rule : Byte) (hk : k.sensors = true) (h : Moves k s t) :
    Moves k s (Machine.ruleDisable rule t).1 := by
  unfold Machine.ruleDisable
  split
  · exact h
  · split
    · exact h
    · dsimp only
      exact Moves.rule _ _ hk (h.endIfHolds _ hk)

/-! ## Scanner -/

theorem reportPsu (u : UnitIx) (rating : Option Nat) (h : Moves k s t) : Moves k s (Machine.reportPsu u rating t) := by
  unfold Machine.reportPsu
  split
  · exact h.setCounted _ _
  · exact h

theorem raiseFanFault (u : UnitIx) (detail : Nat) (hk : k.sensors = true) (h : Moves k s t) :
    Moves k s (Machine.raiseFanFault u detail t) := (h.unit _ _ hk).raise _

theorem unitPresenceRise (u : UnitIx) (hk : k.sensors = true) (h : Moves k s t) :
    Moves k s (Machine.unitPresenceRise u t) := by
  unfold Machine.unitPresenceRise
  split
  · exact h
  · dsimp only
    split
    · exact h.unit _ _ hk
    · exact recomputeDuty hk (budgetChange _ (fun _ => ⟨rfl, rfl⟩) (h.unit _ _ hk))

theorem departUnit (u : UnitIx) (hk : k.sensors = true) (h : Moves k s t) : Moves k s (Machine.departUnit u t) := by
  unfold Machine.departUnit
  dsimp only
  split
  · exact (h.unit _ _ hk).scanner _ hk
  · exact h.unit _ _ hk

theorem unitPresenceFall (u : UnitIx) (hk : k.sensors = true) (h : Moves k s t) :
    Moves k s (Machine.unitPresenceFall u t) := by
  unfold Machine.unitPresenceFall
  split
  · exact h
  · split
    · unfold Machine.psuDeparts
      split
      · exact (h.departUnit _ hk).reportPsu _ _
      · exact (h.departUnit _ hk).clear _ _
      · exact h.departUnit _ hk
      · exact h.departUnit _ hk
    · exact recomputeDuty hk (raiseFanFault _ _ hk (budgetChange _ (fun _ => ⟨rfl, rfl⟩) (h.departUnit _ hk)))

theorem reportRating (u : UnitIx) (h : Moves k s t) : Moves k s (Machine.reportRating u t) := by
  unfold Machine.reportRating
  split
  · split
    · exact h
    · exact h.setCounted _ _
  · exact h

theorem psuFollows (u : UnitIx) (before : UnitState) (c : ReadClass) (h : Moves k s t) :
    Moves k s (Machine.psuFollows u before c t) := by
  unfold Machine.psuFollows
  split
  · exact h.reportRating _
  · exact (h.clear _ _).reportRating _
  · exact (h.raise _).reportPsu _ _
  · exact h.raise _
  · split
    · exact h.reportRating _
    · exact h
  · exact h

theorem endFanFault (u : UnitIx) (hk : k.sensors = true) (h : Moves k s t) : Moves k s (Machine.endFanFault u t) := by
  unfold Machine.endFanFault
  split
  · exact (h.unit _ _ hk).clear _ _
  · exact h

theorem trayFollows (u : UnitIx) (before : UnitState) (hk : k.sensors = true) (h : Moves k s t) :
    Moves k s (Machine.trayFollows u before t) := by
  unfold Machine.trayFollows
  split
  · exact h
  · split
    · exact (h.raiseFanFault _ _ hk).recomputeDuty hk
    · exact (h.endFanFault _ hk).recomputeDuty hk
    · exact h.recomputeDuty hk
    · exact h.recomputeDuty hk

theorem unitReadComplete (u : UnitIx) (x : UnitReading) (hk : k.sensors = true) (h : Moves k s t) :
    Moves k s (Machine.unitReadComplete u x t) := by
  unfold Machine.unitReadComplete
  split
  · dsimp only
    split
    · exact ((h.scanner _ hk).unit _ _ hk).psuFollows _ _ _
    · exact ((h.scanner _ hk).unit _ _ hk).trayFollows _ _ hk
  · exact h

theorem endRound (hk : k.sensors = true) (h : Moves k s t) : Moves k s (Machine.endRound t) :=
  (((h.scanner _ hk).recomputeDuty hk).scanner _ hk).evaluateRules hk

theorem chassisSensorReadComplete (x : ChassisSensor) (v : Option Half) (hk : k.sensors = true) (h : Moves k s t) :
    Moves k s (Machine.chassisSensorReadComplete x v t) := by
  unfold Machine.chassisSensorReadComplete
  split
  · unfold Machine.recordSensor
    split
    · exact h.scanner _ hk
    · exact (h.scanner _ hk).endRound hk
  · exact h

theorem scanTimerExpiry (hk : k.sensors = true) (h : Moves k s t) : Moves k s (Machine.scanTimerExpiry t) :=
  h.scanner _ hk

end Moves

end Sys2Proof.Machine
end

