-- ==== Sys2Proof/Laws/Kept.lean ====
section
/-! SUPPORT. What every operation of the blocks keeps, from `Moves`: the records outside its reach, and the laws of
Safety.lean that speak of the records inside it. -/

namespace Sys2Proof.Machine.Moves

variable {k : Scope} {s t : State}

/-! ## Records outside the reach of every operation of the blocks -/

theorem cmd_eq (h : Moves k s t) : t.cmd = s.cmd := by
  induction h with
  | refl => rfl
  | raise r _ ih => rw [raiseAlarm_eq]; exact ih
  | clear c subject _ ih => rw [endAlarm_eq]; exact ih
  | _ => assumption

theorem params_eq (h : Moves k s t) : t.params = s.params := by
  induction h with
  | refl => rfl
  | raise r _ ih => rw [raiseAlarm_eq]; exact ih
  | clear c subject _ ih => rw [endAlarm_eq]; exact ih
  | _ => assumption

theorem uptime_eq (h : Moves k s t) : t.uptime = s.uptime := by
  induction h with
  | refl => rfl
  | raise r _ ih => rw [raiseAlarm_eq]; exact ih
  | clear c subject _ ih => rw [endAlarm_eq]; exact ih
  | _ => assumption

theorem pending_eq (h : Moves k s t) : t.pending = s.pending := by
  induction h with
  | refl => rfl
  | raise r _ ih => rw [raiseAlarm_eq]; exact ih
  | clear c subject _ ih => rw [endAlarm_eq]; exact ih
  | _ => assumption

/-! ## Records outside the reach of an operation of a narrower scope -/

theorem rules_eq (hk : k.sensors = false) (h : Moves k s t) : t.rules = s.rules := by
  induction h with
  | refl => rfl
  | raise r _ ih => rw [raiseAlarm_eq]; exact ih
  | clear c subject _ ih => rw [endAlarm_eq]; exact ih
  | scanner f hf _ _ => simp [hk] at hf
  | rule r f hf _ _ => simp [hk] at hf
  | _ => assumption

theorem scanner_eq (hk : k.sensors = false) (h : Moves k s t) : t.scanner = s.scanner := by
  induction h with
  | refl => rfl
  | raise r _ ih => rw [raiseAlarm_eq]; exact ih
  | clear c subject _ ih => rw [endAlarm_eq]; exact ih
  | scanner f hf _ _ => simp [hk] at hf
  | rule r f hf _ _ => simp [hk] at hf
  | _ => assumption

theorem license_eq (hk : k.licences = false) (h : Moves k s t) : t.license = s.license := by
  induction h with
  | refl => rfl
  | raise r _ ih => rw [raiseAlarm_eq]; exact ih
  | clear c subject _ ih => rw [endAlarm_eq]; exact ih
  | pool i f hf _ _ => simp [hk] at hf
  | _ => assumption

/-- No operation writes Working's content: a commit reads it, an abort leaves it (R85, R112). -/
theorem working_eq (h : Moves k s t) : t.zones.working = s.zones.working := by
  induction h with
  | refl => rfl
  | raise r _ ih => rw [raiseAlarm_eq]; exact ih
  | clear c subject _ ih => rw [endAlarm_eq]; exact ih
  | _ => assumption

theorem raise_ports (r : Raise) (s : State) (n : PortIx) : (raiseAlarm r s).port n = s.port n :=
  port_of_ports (by rw [raiseAlarm_eq]) n

theorem clear_ports (c : Cause) (subject : Nat) (s : State) (n : PortIx) : (endAlarm c subject s).port n = s.port n :=
  port_of_ports (by rw [endAlarm_eq]) n

/-- The master's settings of a port stand but under a command that sets them (R12). -/
theorem settings_eq (hk : k.settings = false) (h : Moves k s t) (n : PortIx) :
    (t.port n).intent = (s.port n).intent ∧ (t.port n).priority = (s.port n).priority := by
  induction h with
  | refl => exact ⟨rfl, rfl⟩
  | port m f hs _ _ ih =>
    rw [modPort_port]
    split
    · rename_i he
      subst he
      exact ⟨(hs hk _).1.trans ih.1, (hs hk _).2.trans ih.2⟩
    · exact ih
  | raise r _ ih => rw [raise_ports]; exact ih
  | clear c subject _ ih => rw [clear_ports]; exact ih
  | _ => assumption

/-- A port's license stands but under an operation of the License Unit (R12). -/
theorem portLicense_eq (hk : k.licences = false) (h : Moves k s t) (n : PortIx) :
    (t.port n).license = (s.port n).license := by
  induction h with
  | refl => rfl
  | port m f _ hl _ ih =>
    rw [modPort_port]
    split
    · rename_i he
      subst he
      exact (hl hk _).trans ih
    · exact ih
  | raise r _ ih => rw [raise_ports]; exact ih
  | clear c subject _ ih => rw [clear_ports]; exact ih
  | _ => assumption

/-! ## Laws -/

theorem alertsFollow (h : Moves k s t) (hs : AlertsFollow s) : AlertsFollow t := by
  induction h with
  | refl => exact hs
  | reason r _ ih => exact AlertsFollow.addReason _ _
  | raise r _ ih => exact ih.raiseAlarm r
  | clear c subject _ ih => exact ih.endAlarm c subject
  | port _ _ _ _ _ ih => exact ih.of_attn rfl
  | card _ _ _ _ ih => exact ih.of_attn rfl
  | enter _ _ _ ih => exact ih.of_attn rfl
  | pool _ _ _ _ ih => exact ih.of_attn rfl
  | phase _ _ _ ih => exact ih.of_attn rfl
  | commit _ _ ih => exact ih.of_attn rfl
  | power _ _ _ ih => exact ih.of_attn rfl
  | claims _ _ ih => exact ih.of_attn rfl
  | toPending _ ih => exact ih.of_attn rfl
  | toLive _ ih => exact ih.of_attn rfl
  | dropPending _ ih => exact ih.of_attn rfl
  | freeName _ _ ih => exact ih.of_attn rfl
  | logOff _ _ _ _ ih => exact ih.of_attn rfl
  | scanner _ _ _ ih => exact ih.of_attn rfl
  | rule _ _ _ _ ih => exact ih.of_attn rfl

theorem powerFollows_of_cards (h : PowerFollows s) (hc : t.cards = s.cards) : PowerFollows t := by
  intro slot
  rw [card_of_cards hc]
  exact h slot

theorem powerFollows (h : Moves k s t) (hs : PowerFollows s) : PowerFollows t := by
  induction h with
  | refl => exact hs
  | card slot f hc _ ih =>
    intro x
    rw [modCard_card]
    split
    · rename_i he
      subst he
      rw [(hc _).1, (hc _).2]
      exact ih _
    · exact ih x
  | enter slot st _ ih =>
    intro x
    rw [modCard_card]
    split
    · cases st <;> rfl
    · exact ih x
  | raise r _ ih => exact powerFollows_of_cards ih (by rw [raiseAlarm_eq])
  | clear c subject _ ih => exact powerFollows_of_cards ih (by rw [endAlarm_eq])
  | _ => rename_i ih; exact powerFollows_of_cards ih rfl

theorem capFollows_of_power (h : CapFollows s) (hp : t.power = s.power) : CapFollows t := by
  unfold CapFollows at h ⊢
  rw [hp]
  exact h

theorem capFollows (h : Moves k s t) (hs : CapFollows s) : CapFollows t := by
  induction h with
  | refl => exact hs
  | power f hp _ ih =>
    unfold CapFollows at ih ⊢
    simp only [modPower_power, (hp _).1, (hp _).2]
    exact ih
  | claims l _ ih => rfl
  | raise r _ ih => exact capFollows_of_power ih (by rw [raiseAlarm_eq])
  | clear c subject _ ih => exact capFollows_of_power ih (by rw [endAlarm_eq])
  | _ => rename_i ih; exact capFollows_of_power ih rfl

theorem alarmsLawful (h : Moves k s t) (hs : AlarmsLawful s) : AlarmsLawful t := by
  induction h with
  | refl => exact hs
  | raise r _ ih => exact ih.raiseAlarm r
  | clear c subject _ ih => exact ih.endAlarm c subject
  | _ => rename_i ih; exact ih.of_alarms rfl

theorem namesLawful (h : Moves k s t) (hs : NamesLawful s) : NamesLawful t := by
  induction h with
  | refl => exact hs
  | freeName pos _ ih => exact ih.freeName pos
  | logOff pos e he _ ih => exact ih.rewrite (mem_of_tableGet he) rfl
  | raise r _ ih => exact ih.of_names (by rw [raiseAlarm_eq])
  | clear c subject _ ih => exact ih.of_names (by rw [endAlarm_eq])
  | _ => rename_i ih; exact ih.of_names rfl

theorem imageLawful_empty : ImageLawful Image.empty := by
  refine ⟨?_, ?_, ?_, ?_, ?_, ?_⟩ <;> simp [Image.empty, Image.memberTotal, nameForm]

theorem imagesLawful_of_zones (h : ImagesLawful s) (hz : t.zones = s.zones) : ImagesLawful t := by
  unfold ImagesLawful at h ⊢
  rw [hz]
  exact h

theorem imagesLawful (h : Moves k s t) (hs : ImagesLawful s) : ImagesLawful t := by
  induction h with
  | refl => exact hs
  | toPending _ ih => exact ⟨ih.1, ih.1, ih.2.2⟩
  | toLive _ ih => exact ⟨ih.1, imageLawful_empty, ih.2.1⟩
  | dropPending _ ih => exact ⟨ih.1, imageLawful_empty, ih.2.2⟩
  | raise r _ ih => exact imagesLawful_of_zones ih (by rw [raiseAlarm_eq])
  | clear c subject _ ih => exact imagesLawful_of_zones ih (by rw [endAlarm_eq])
  | _ => rename_i ih; exact imagesLawful_of_zones ih rfl

end Sys2Proof.Machine.Moves
end

