-- ==== Sys2Proof/Tests/Slice0.lean ====
section
/-! SUPPORT. The author's tests: the smoke test of WellFormed, the two checks and a few encodings written out from the
spec, a few worked steps, and for each obligation concrete states and operands that meet its hypotheses. -/

namespace Sys2Proof.Tests

set_option maxRecDepth 100000
set_option Elab.async false

open Sys2Proof Sys2Proof.Machine

/-! ## Small states -/

/-- A frame on port A with tag 7. -/
def fA : Frame := { port := .a, tag := 7 }

/-- A port of a present supervisor. -/
def present : CmdPort := { CmdPort.cold with supervisor := true }

/-- Port A holds mastership, its supervisor present; every record is at its cold value. -/
def base : State := { State.reset with cmd := { mastership := some .a, a := present, b := CmdPort.cold } }

/-- `base` with this port A. -/
def withA (p : CmdPort) : State := { base with cmd := { mastership := some .a, a := p, b := CmdPort.cold } }

/-- `base` with one port record and one power state. -/
def withPort (n : PortIx) (r : PortRec) (p : PowerBudget) : State :=
  { base with ports := State.reset.ports.set n r, power := p }

/-- A state with this record for a card. -/
def withCard (slot : Slot) (c : CardRec) (s : State) : State := { s with cards := s.cards.set slot c }

/-- A state with this pool record. -/
def withPool (k : PoolIx) (r : PoolRec) (s : State) : State :=
  { s with license := { chassis := 1, pools := s.license.pools.set k r } }

/-- A state with this unit record. -/
def withUnit (u : UnitIx) (r : UnitRec) (s : State) : State :=
  { s with scanner := { s.scanner with units := s.scanner.units.set u r } }

/-- A state with this rule record. -/
def withRule (k : RuleIx) (r : RuleRec) (s : State) : State := { s with rules := s.rules.set k r }

/-- The state that a command leaves. -/
def after (i : Instr) (s : State) : State :=
  match exec i s with
  | .next t => t
  | .fault _ | .refused _ => s

/-- A card of 16 ports and tier 1 in a state, its line high. -/
def cardIn (st : CardState) : CardRec :=
  { CardRec.cold with
    state := st
    identity := some { cardType := 1, portCount := 16, tier := 1, baseDraw := 40 }
    presence := true
    powerEnable := st.powered }

/-- A card without identity in a state, its line high and its timer running or not. -/
def bareIn (st : CardState) (timer : Bool) : CardRec :=
  { CardRec.cold with state := st, presence := true, timerOn := timer, powerEnable := st.powered }

/-- An enabled port bound to pool 1. -/
def boundPort (p : PortPower) (hold : Bool) : PortRec :=
  { PortRec.cold with intent := .enabled, license := .bound 0, power := p, hold := hold }

/-- A Perpetual pool of tier 1 with this bound count. -/
def poolWith (bound : Nat) : PoolRec :=
  { state := .active, tier := 1, kind := .perpetual, capacity := 16, bound := bound, hours := 0, warn := 0 }

/-- A power budget with this wait list, cap and deficit state. -/
def powerWith (l : List WaitItem) (cap : Nat) (deficit : Bool) : PowerBudget :=
  { PowerBudget.cold with waitList := l, cap := cap, deficit := deficit }

/-- A frame that `base` with nothing armed takes. -/
theorem base_masterClear : MasterClear base .a := by unfold MasterClear PortClear PortTakes; decide +kernel

/-! ## Laws on small states -/

theorem reset_port (n : PortIx) : State.reset.port n = PortRec.cold := by
  simp [State.reset, State.port]

theorem base_port (n : PortIx) : base.port n = PortRec.cold := by
  simp [base, State.reset, State.port]

theorem withPort_port_ne {n m : PortIx} (h : m ≠ n) (r : PortRec) (p : PowerBudget) :
    (withPort n r p).port m = PortRec.cold := by
  have h' : n.val ≠ m.val := fun e => h (Fin.ext e.symm)
  simp [withPort, base, State.port, Fin.getElem_fin, Vector.getElem_set_ne, h', State.reset]

/-- The wait list's law where every port but one is cold comes down to that port, the cards and the list. -/
theorem waitListFollows_of_one {s : State} (n : PortIx) (hp : ∀ m, m ≠ n → s.port m = PortRec.cold)
    (h : (∀ x ∈ s.power.waitList, x ≠ .port n → ∃ c, x = .card c) ∧
      (∀ slot, WaitItem.card slot ∈ s.power.waitList ↔ (s.card slot).state = .waiting) ∧
      (WaitItem.port n ∈ s.power.waitList ↔ (s.port n).power = .waiting) ∧
      ((s.port n).power = .off ↔ eligible s n = false) ∧
      ((s.port n).hold = true ↔ (s.port n).power = .waiting ∧ s.power.cap ≤ (s.port n).priority.val) ∧
      ((s.port n).power = .admitted → (s.port n).priority.val < s.power.cap)) : WaitListFollows s := by
  obtain ⟨hl, hc, h1, h2, h3, h4⟩ := h
  refine ⟨hc, fun m => ?_, fun m => ?_, fun m => ?_, fun m => ?_⟩ <;> by_cases e : m = n
  · exact e ▸ h1
  · rw [hp m e]
    constructor
    · intro hm
      obtain ⟨c, hx⟩ := hl _ hm (fun q => e (WaitItem.port.inj q))
      exact nomatch hx
    · intro hm; exact nomatch hm
  · exact e ▸ h2
  · simp [eligible, hp m e, PortRec.cold]
  · exact e ▸ h3
  · simp [hp m e, PortRec.cold]
  · exact e ▸ h4
  · simp [hp m e, PortRec.cold]

theorem reset_waitListFollows : WaitListFollows State.reset :=
  waitListFollows_of_one 0 (fun m _ => reset_port m) (by decide +kernel)

theorem base_waitListFollows : WaitListFollows base :=
  waitListFollows_of_one 0 (fun m _ => base_port m) (by decide +kernel)

theorem base_drawSum : drawSum base = 0 := by
  have hn : ∀ l : List PortIx, (l.map fun n => if (base.port n).power = .admitted then portDraw base n else 0).sum = 0 := by
    intro l
    induction l with
    | nil => rfl
    | cons n l ih => simp only [List.map_cons, List.sum_cons, ih, base_port n]; rfl
  have hc : ∀ l : List Slot, (l.map fun c => if (base.card c).state.powered then (base.card c).baseDraw else 0).sum = 0 := by
    intro l
    induction l with
    | nil => rfl
    | cons c l ih =>
      have h : (base.card c).state.powered = false := by simp [base, State.reset, State.card, CardRec.cold, CardState.powered]
      simp [h, ih]
  rw [drawSum, hn, hc]

theorem base_drawLawful : DrawLawful base :=
  ⟨base_waitListFollows, by decide +kernel, base_drawSum.symm, by decide +kernel⟩

theorem base_poolsLawful : PoolsLawful base := by
  intro i
  have hp : base.pool i = PoolRec.vacant := by simp [base, State.reset, State.pool]
  refine ⟨?_, ?_, fun _ => hp⟩
  · rw [hp]; simp [boundTo, base, State.reset, PortRec.cold, License.pool?, PoolRec.vacant, Vector.toList_replicate]
  · rw [hp]; decide

/-! ## WellFormed refuses an ill-formed term of each check -/

theorem test_wf_setSetName : (Instr.setSetName fA [0x41#8]).wf = false := by decide
theorem test_wf_zoneCreate : (Instr.zoneCreate fA 1 (List.replicate 33 0x41#8) 0).wf = false := by decide
theorem test_wf_zoneRename : (Instr.zoneRename fA 1 []).wf = false := by decide
theorem test_wf_shortTransaction : (Instr.shortTransaction .a (List.replicate 6 0#8)).wf = false := by decide +kernel
theorem test_wf_badCheck : (Instr.badCheck .a [1#8, 7#8]).wf = false := by decide +kernel
theorem test_wf_badLength : (Instr.badLength .a [1#8, 7#8]).wf = false := by decide +kernel
theorem test_wf_illegalCommand : (Instr.illegalCommand .a (frameBytes 7 0x01 [])).wf = false := by decide +kernel
theorem test_wf_reservedCommand : (Instr.reservedCommand .a (frameBytes 7 0x0C [])).wf = false := by decide +kernel
theorem test_wf_linkCheckDiscard : (Instr.linkCheckDiscard 0 (messageBytes 0x49 [0#8, 25#8])).wf = false := by
  decide +kernel
theorem test_wf_confirmPool : (Instr.confirmCommit fA 0x22 1).wf = false := by decide
theorem test_wf_confirmSlot : (Instr.confirmCommit fA 0x18 1).wf = false := by decide
theorem test_wf_readingOfPsu : (Instr.unitReadComplete 0 (.fan 2000)).wf = false := by decide
theorem test_wf_readingOfTray : (Instr.unitReadComplete 6 (.psu 1000 0 0 true)).wf = false := by decide
theorem test_wf_accepts : (Instr.setSetName fA (List.replicate 32 0#8)).wf = true ∧
    (Instr.shortTransaction .a [1#8]).wf = true ∧ (Instr.reservedCommand .a (frameBytes 7 0xBF [])).wf = true ∧
    (Instr.illegalCommand .a (frameBytes 7 0x0C [])).wf = true ∧ (Instr.confirmCommit fA 0x39 0).wf = true ∧
    (Instr.linkCheckDiscard 0 []).wf = true ∧ (Instr.unitReadComplete 9 (.fan 0)).wf = true := by decide +kernel

/-! ## Checks and encodings -/

/-- The ASCII digits 1 to 9. -/
def digits : List Byte := [0x31#8, 0x32#8, 0x33#8, 0x34#8, 0x35#8, 0x36#8, 0x37#8, 0x38#8, 0x39#8]

/-- The frame check's value on the digits (the CRC with polynomial 1021 hex and initial value FFFF hex). -/
theorem test_crc16_digits : crc16 digits = 0x29B1#16 := by decide +kernel

/-- The credential check's value on the digits (R66). -/
theorem test_crc32_digits : crc32 digits = 0xCBF43926#32 := by decide +kernel

/-- A Port Enable of port 671 with pool 2 and priority 5, tag 9: code, tag, length, port, pool, priority, check (table 11-1). -/
theorem test_decode_portEnable : decodeTransaction .b (withCheck [0x10#8, 9#8, 0#8, 4#8, 0x02#8, 0x9F#8, 2#8, 5#8]) =
    .portEnable { port := .b, tag := 9 } 671 2 5 := by decide +kernel

/-- A Fetch of table 9 with base cursor 1, mode 0, operand 3, flags 3 and load cursor 2. -/
theorem test_decode_fetch : decodeTransaction .a (withCheck [0x09#8, 7#8, 0#8, 7#8, 9#8, 1#8, 0#8, 0#8, 3#8, 3#8, 2#8]) =
    .fetch fA 9 1 0 3 3 2 := by decide +kernel

/-- Confirm goes to the row its operation code names. -/
theorem test_decode_confirm :
    decodeTransaction .a (withCheck [0x0B#8, 7#8, 0#8, 2#8, 0x22#8, 16#8]) = .confirmPoolRevoke fA 16 ∧
    decodeTransaction .a (withCheck [0x0B#8, 7#8, 0#8, 2#8, 0x18#8, 14#8]) = .confirmSlotReset fA 14 ∧
    decodeTransaction .a (withCheck [0x0B#8, 7#8, 0#8, 2#8, 0x39#8, 0#8]) = .confirmCommit fA 0x39 0 := by decide +kernel

/-- An Ident of 48 ports, tier 3, 600 W, and a Link of position 47, Lit (table 11-5). -/
theorem test_decode_messages :
    decodeMessage 13 (withCheck [0x41#8, 6#8, 0x12#8, 0x34#8, 48#8, 3#8, 2#8, 0x58#8]) = .ident 13 0x1234 48 3 600 ∧
    decodeMessage 0 (withCheck [0x43#8, 2#8, 47#8, 1#8]) = .link 0 47 true := by decide +kernel

/-- A response of Identify as it leaves on SDO begins with the marker, the tag, DONE, detail 0 and length 20 (table 11-2). -/
theorem test_response_bytes : (responseBytes (Response.mk 7 .done 0 (List.replicate 20 1#8))).take 6 = [0xA5#8, 7#8, 0#8, 0#8, 0#8, 20#8] := by decide +kernel

/-! ## Worked steps -/

/-- From reset, a supervisor's presence rise and then a Master Claim make port A the master (R159). -/
theorem test_claim_after_rise : (after (.masterClaim fA) (after (.supervisorPresenceRise .a) State.reset)).cmd.mastership =
    some .a := by decide +kernel

/-- A presence rise sends Probe and adds Slot to both attention sets (R24). -/
theorem test_presence_rise : let s := after (.presenceRise 13) State.reset
    (s.card 13).outbox = [.probe] ∧ (s.card 13).state = .probing ∧ (s.attention .a).set.slot = true ∧
      (s.attention .b).alertLow = true := by decide +kernel

/-- A unit that has just been inserted. -/
def starting : UnitRec := { UnitRec.cold with state := .starting, presence := true }

/-- A state whose scan round stands at this turn. -/
def atTurn (x : Turn) (s : State) : State := { s with scanner := { s.scanner with turn := some x } }

/-- A PSU that a round has reached comes Online at its first Good read and its rating is counted (R134, R44); the turn passes on. -/
theorem test_psu_online :
    let s := after (.unitReadComplete 0 (.psu 3000 100 20 true)) (after .scanTimerExpiry (withUnit 0 starting base))
    (s.unit 0).state = .online ∧ s.power.counted[0] = some 3000 ∧ s.scanner.turn = some .inlet := by decide +kernel

/-- A Joined card in slot 1 with a Serviceable port 0. -/
def inService : State :=
  withPool 0 (poolWith 1) (withCard 0 (cardIn .joined) (withPort 0 (boundPort .admitted false) PowerBudget.cold))

/-- A Login on a Serviceable port takes the first free position and is accepted (R119, R120). -/
theorem test_login_accept :
    let s := after (.login 0 0 5) inService
    s.names = [(0, { name := 5, port := 0, status := .learned })] ∧ (s.port 0).logins = 1 ∧
      (s.card 0).outbox = [.loginAnswer 0 5 true 0] := by decide +kernel

/-! ## States that meet the hypotheses of the obligations

Each theorem below is named after its obligation and shows concrete states and operands that meet the hypotheses of each of its
clauses, at the values where a range ends. -/

/-- A frame on port B with tag 8. -/
def fB : Frame := { port := .b, tag := 8 }

/-- Both supervisors present, this port the master. -/
def duo (m : Option PortId) : State :=
  { base with cmd := { mastership := m, a := present, b := present } }

/-- `base` with an operation armed on port A. -/
def armedWith (x : Armed) : State := withA { present with armed := x }

/-- `base` with this Zone Store. -/
def withZones (z : ZoneStore) : State := { base with zones := z }

/-- `base` with Working in this state. -/
def workingIn (w : WorkingState) : State := withZones { ZoneStore.cold with workingState := w }

/-- `base` with Working in this state, and the Commit armed on port A. -/
def commitArmed (working : Image) : State :=
  { armedWith .commit with zones := { ZoneStore.cold with working := working, workingState := .armed } }

/-- A response that waits. -/
def waitingResponse : Response := { tag := 1, status := .done, detail := 0, fields := [] }

theorem base_takes : PortTakes base .a := base_masterClear.1.1

theorem meets_IdentityAndStatusRule : PortTakes base .a := base_takes

theorem inService_waitListFollows : WaitListFollows inService :=
  waitListFollows_of_one 0 (fun _ h => withPort_port_ne h (boundPort .admitted false) PowerBudget.cold) (by decide +kernel)

theorem meets_StepTakesTheFrontCommand :
    { base with pending := [.uptimeTick] }.pending = .uptimeTick :: [] ∧ base.pending = [] := by decide +kernel

theorem meets_PortResetRule : PortTakes base .a ∧ (base.cmdPort .b).prstLow = false ∧
    frameOf (.identify fA) = some fA ∧ ((withA { present with prstLow := true }).cmdPort .a).prstLow = true ∧
    rawOf (.shortTransaction .a [1#8]) = some (.a, [1#8]) ∧ rawOf (.badCheck .a []) = some (.a, []) := by
  unfold PortTakes; decide +kernel

theorem meets_NothingMovesWithoutItsCause :
    ((withA { present with prstLow := true }).cmdPort .a).prstLow = true ∧ (base.cmdPort .b).supervisor = false ∧
    ((withCard 0 (cardIn .joined) base).card 0).presence = true ∧ DeficitFollows base ∧
    (base.card 13).presence = false ∧ DeficitFollows (withUnit 9 starting base) ∧
    ((withUnit 9 starting base).unit 9).presence = true ∧ (base.unit 0).presence = false ∧
    (base.card 0).state ≠ .probing ∧ ((withCard 0 (bareIn .probing false) base).card 0).timerOn = false ∧
    (base.card 0).state ≠ .admitting ∧ (base.phaseRec 13).phase ≠ .awaitHold ∧
    (base.phaseRec 13).phase ≠ .awaitResume ∧
    (base.scanner.turn ≠ some (.unit 9) ∧ base.scanner.turn ≠ some .inlet ∧ base.scanner.turn ≠ some .outlet) ∧
    (atTurn (.unit 9) base).scanner.turn = some (.unit 9) ∧ ((atTurn (.unit 9) base).unit 9).state = .absent := by
  unfold DeficitFollows; decide +kernel

theorem meets_MastershipRule :
    (PortClear base .b ∧ (base.cmdPort .b).supervisor = false) ∧
    (PortClear base .a ∧ (base.cmdPort .a).supervisor = true ∧ base.cmd.mastership = some .a) ∧
    (PortClear (duo none) .a ∧ ((duo none).cmdPort .a).supervisor = true ∧ (duo none).cmd.mastership = none) ∧
    (PortClear (duo (some .a)) .b ∧ ((duo (some .a)).cmdPort .b).supervisor = true ∧
      ∃ q, q ≠ PortId.b ∧ (duo (some .a)).cmd.mastership = some q ∧ ((duo (some .a)).cmdPort q).supervisor = true) ∧
    (let s := { duo (some .b) with cmd := { mastership := some .b, a := present, b := CmdPort.cold } };
      PortClear s .a ∧ (s.cmdPort .a).supervisor = true ∧
        ∃ q, q ≠ PortId.a ∧ s.cmd.mastership = some q ∧ (s.cmdPort q).supervisor = false) ∧
    (PortTakes base .b ∧ base.cmd.mastership ≠ some .b) ∧ ((duo none).cmdPort .b).supervisor = true := by
  simp only [PortClear, PortTakes]
  exact ⟨by decide +kernel, by decide +kernel, by decide +kernel, ⟨by decide +kernel, by decide +kernel, .a, by decide +kernel⟩,
    ⟨by decide +kernel, by decide +kernel, .b, by decide +kernel⟩, by decide +kernel⟩

theorem meets_RightsRule :
    (frameOf (.portDisable fB 0) = some fB ∧ codeOf (.portDisable fB 0) = some 0x11 ∧ PortTakes base .b ∧
      base.cmd.mastership ≠ some .b ∧ 0x11 ∉ observerCodes) ∧
    (frameOf (.portDisable fA 0) = some fA ∧ codeOf (.portDisable fA 0) = some 0x11 ∧ PortTakes base .a ∧
      base.cmd.mastership = some .a) ∧
    (frameOf (.masterClaim fA) = some fA ∧ codeOf (.masterClaim fA) = some 0x05 ∧ 0x05 ∈ observerCodes ∧
      (base.cmdPort .a).supervisor = true) := by
  unfold PortTakes; decide +kernel

theorem meets_DisarmingRule :
    (frameOf (.masterRelease fA) = some fA ∧ codeOf (.masterRelease fA) = some 0x06 ∧ PortTakes (armedWith .commit) .a ∧
      (armedWith .commit).cmd.mastership = some .a) ∧
    (frameOf (.readAttention fA) = some fA ∧ codeOf (.readAttention fA) = some 0x03) ∧
    (confirmOf fA 0x39 0 = .confirmCommit fA 0x39 0 ∧ (base.cmdPort .a).armed = .none ∧ DeficitFollows base) ∧
    (((armedWith .commit).cmdPort .a).armed = .commit ∧ confirmOf fA 0x39 1 = .confirmCommit fA 0x39 1) ∧
    (((armedWith (.poolRevoke 15)).cmdPort .a).armed = .poolRevoke 15 ∧
      confirmOf fA 0x22 15 = .confirmPoolRevoke fA 15 ∧ (15 : Byte).toNat ≠ (15 : PoolIx).val + 1) ∧
    (((armedWith (.slotReset 0)).cmdPort .a).armed = .slotReset 0 ∧
      confirmOf fA 0x18 0 = .confirmSlotReset fA 0 ∧ (0 : Byte).toNat ≠ (0 : Slot).val + 1) := by
  unfold PortTakes DeficitFollows; decide +kernel

theorem meets_SetupsArm : MasterClear base .a ∧ base.zones.workingState = .editable ∧
    MasterClear (workingIn .frozen) .a ∧ (workingIn .frozen).zones.workingState = .frozen ∧
    (1 : Byte).toNat = (0 : PoolIx).val + 1 ∧ (16 : Byte).toNat = (15 : PoolIx).val + 1 ∧ 16 < (17 : Byte).toNat ∧
    (1 : Byte).toNat = (0 : Slot).val + 1 ∧ (14 : Byte).toNat = (13 : Slot).val + 1 ∧ 14 < (15 : Byte).toNat := by
  unfold MasterClear PortClear PortTakes; decide +kernel

theorem meets_FramesAndReads :
    (let s := withA { present with working := true, response := some waitingResponse, tally := 255 };
      (s.cmdPort .a).prstLow = false ∧ (s.cmdPort .a).working = true ∧ (s.cmdPort .a).response = some waitingResponse) ∧
    PortTakes base .a ∧ frameOf (.identify fA) = some fA ∧ rawOf (.shortTransaction .a [1#8, 7#8]) = some (.a, [1#8, 7#8]) ∧
    fA.tag = byteAt [1#8, 7#8] 1 := by
  unfold PortTakes; decide +kernel

/-- A transaction whose check is right. -/
def checked (bytes : List Byte) : Prop :=
  6 ≤ bytes.length ∧ bytes.drop (bytes.length - 2) = split2 (crc16 (bytes.take (bytes.length - 2)))

/-- What each clause of the frame checks asks of the bytes: too short; a wrong check; a wrong length; the reserved codes'
bounds; a code beside them and one not assigned; an assigned code that keeps an armed operation, and one that does not, with a
payload of another length; a command. -/
theorem meets_FrameChecks : PortTakes base .a ∧
    (∀ bytes ∈ [[], [1#8, 7#8, 0#8, 0#8, 0#8]], rawOf (.shortTransaction .a bytes) = some (.a, bytes) ∧ bytes.length < 6) ∧
    ¬ checked [1#8, 7#8, 0#8, 0#8, 0#8, 0#8] ∧
    (checked (withCheck [1#8, 7#8, 0#8, 1#8]) ∧
      (halfAt (withCheck [1#8, 7#8, 0#8, 1#8]) 2).toNat ≠ (withCheck [1#8, 7#8, 0#8, 1#8]).length - 6) ∧
    (∀ code ∈ [0x80#8, 0xBF#8, 0x7F#8, 0xC0#8, 0x0C#8, 0x01#8], checked (frameBytes 7 code []) ∧
      (halfAt (frameBytes 7 code []) 2).toNat = (frameBytes 7 code []).length - 6 ∧ byteAt (frameBytes 7 code []) 0 = code) ∧
    (∀ code ∈ [0x7F, 0xC0, 0x0C], ¬ (0x80 ≤ code ∧ code ≤ 0xBF)) ∧ ¬ assignedCode 0x7F ∧ ¬ assignedCode 0xC0 ∧
    ¬ assignedCode 0x0C ∧ assignedCode 0x01 ∧
    payloadLength (byteAt (frameBytes 7 0x01 [0#8]) 0).toNat ≠ some ((frameBytes 7 0x01 [0#8]).length - 6) ∧
    (∀ code ∈ [0x01#8, 0x02#8, 0x03#8, 0x05#8, 0x0B#8], checked (frameBytes 7 code [0#8]) ∧
      (halfAt (frameBytes 7 code [0#8]) 2).toNat = (frameBytes 7 code [0#8]).length - 6 ∧
      payloadLength code.toNat ≠ some ((frameBytes 7 code [0#8]).length - 6)) ∧ assignedCode 0x05 ∧ assignedCode 0x0B ∧
    payloadLength 0x01 = some ((frameBytes 7 0x01 []).length - 6) := by
  unfold PortTakes assignedCode checked
  and_intros <;> decide +kernel

theorem meets_AttentionRule : PortTakes base .a ∧ PortClear base .a ∧ 32 ≤ (32 : Byte).toNat ∧ (31 : Byte).toNat < 32 := by
  unfold PortClear PortTakes; decide +kernel

theorem meets_CursorRule : rawOf (.readStatus fA) = none ∧ (exec (.readStatus fA) base = .next (after (.readStatus fA) base)) ∧
    PortClear base .a ∧ 7 < (8 : Byte).toNat ∧ (1 : Byte).toNat = (0 : Fin 7).val + 1 ∧
    (7 : Byte).toNat = (6 : Fin 7).val + 1 := by
  refine ⟨rfl, rfl, base_masterClear.1, ?_⟩
  decide

/-- The condition on a parameter's number and value. -/
def lawfulParameter (number : Byte) (value : Half) : Prop :=
  (number = 1 ∧ value.toNat ≤ 7) ∨ (number = 2 ∧ value.toNat ≤ 7) ∨ (number = 3 ∧ value.toNat ≤ 168) ∨
    (number = 4 ∧ 30 ≤ value.toNat ∧ value.toNat ≤ 100) ∨ (number = 5 ∧ value.toNat ≤ 20000)

/-- The values where the ranges of the parameters end, and the values that the parameters hold. -/
theorem meets_ParameterRule : MasterClear base .a ∧
    (¬ lawfulParameter 0 1 ∧ ¬ lawfulParameter 6 1 ∧ ¬ lawfulParameter 1 8 ∧ ¬ lawfulParameter 2 8 ∧
      ¬ lawfulParameter 3 169 ∧ ¬ lawfulParameter 4 29 ∧ ¬ lawfulParameter 4 101 ∧ ¬ lawfulParameter 5 20001) ∧
    (lawfulParameter 1 7 ∧ lawfulParameter 2 7 ∧ lawfulParameter 3 168 ∧ lawfulParameter 4 30 ∧ lawfulParameter 4 100 ∧
      lawfulParameter 5 20000 ∧ lawfulParameter 1 4) ∧
    (4 : Half).toNat = base.params.probeRetry ∧ (7 : Half).toNat ≠ base.params.probeRetry := by
  refine ⟨base_masterClear, ?_, ?_, by decide +kernel, by decide +kernel⟩ <;> unfold lawfulParameter <;>
    and_intros <;> decide

/-- `base` with a unit in Starting at position 3 of its table. -/
def thirdUnit : State := withUnit 2 starting base

theorem meets_FetchRule_checks : PortClear base .a ∧ 10 < (11 : Byte).toNat ∧ 7 < (8 : Byte).toNat ∧ 1 < (2 : Byte).toNat ∧
    7 < ((8 : Half).extractLsb' 0 8).toNat ∧ ((7 : Half).extractLsb' 0 8).toNat ≤ 7 ∧ (1 : Byte).getLsbD 0 = true ∧
    (2 : Byte).getLsbD 1 = true ∧ tableOf 1 = some .ports ∧ tableOf 10 = some .alarms := by
  unfold PortClear PortTakes; decide +kernel

theorem meets_FetchRule_rows :
    (Table.ports.first ≤ 0 ∧ 671 ≤ Table.ports.last ∧ Table.ports.last < 672) ∧
    (0 < Table.cards.first ∧ Table.cards.first ≤ 1 ∧ 14 ≤ Table.cards.last ∧ Table.cards.last < 15) ∧
    (∀ j, 127 ≤ j → j ≤ Table.alarms.last → (tableRow base .alarms j).occupied = false) ∧
    (Table.units.first ≤ 1 ∧ 3 ≤ Table.units.last ∧ (tableRow thirdUnit .units 3).occupied = true ∧
        ∀ m, 1 ≤ m → m < 3 → (tableRow thirdUnit .units m).occupied = false) := by
  refine ⟨by decide, by decide, fun j h1 h2 => ?_, by decide, by decide, by decide +kernel, fun m h1 h2 => ?_⟩
  · obtain rfl : j = 127 := Nat.le_antisymm h2 h1
    decide +kernel
  · obtain rfl | rfl : m = 1 ∨ m = 2 := by omega
    · decide +kernel
    · decide +kernel

/-! ### Ports, cards, power, licences -/

/-- `base` with a Joined card of 16 ports in slot 1 and this record for port 0. -/
def oneUp (r : PortRec) (p : PowerBudget) : State := withCard 0 (cardIn .joined) (withPort 0 r p)

theorem oneUp_port_ne {m : PortIx} (h : m ≠ 0) (r : PortRec) (p : PowerBudget) : (oneUp r p).port m = PortRec.cold :=
  withPort_port_ne h r p

/-- A port of the Joined card that waits for draw. -/
def waitingPort : State := oneUp (boundPort .waiting false) (powerWith [.port 0] 5 true)

/-- An Admitted port of the Joined card under the cap 5. -/
def cappedPort : State := oneUp (boundPort .admitted false) (powerWith [] 5 false)

/-- A Disabled port of the Joined card, pool 1 able to serve it. -/
def servable : State := withPool 0 (poolWith 0) (oneUp PortRec.cold PowerBudget.cold)

theorem waitingPort_laws : MasterClear waitingPort .a ∧ DeficitFollows waitingPort ∧ WaitListFollows waitingPort :=
  ⟨base_masterClear, by unfold DeficitFollows; decide +kernel,
    waitListFollows_of_one 0 (fun _ h => oneUp_port_ne h (boundPort .waiting false) (powerWith [.port 0] 5 true))
      (by decide +kernel)⟩

theorem cappedPort_laws : MasterClear cappedPort .a ∧ DeficitFollows cappedPort ∧ WaitListFollows cappedPort :=
  ⟨base_masterClear, by unfold DeficitFollows; decide +kernel,
    waitListFollows_of_one 0 (fun _ h => oneUp_port_ne h (boundPort .admitted false) (powerWith [] 5 false))
      (by decide +kernel)⟩

theorem servable_laws : MasterClear servable .a ∧ DeficitFollows servable ∧ WaitListFollows servable :=
  ⟨base_masterClear, by unfold DeficitFollows; decide +kernel,
    waitListFollows_of_one 0 (fun _ h => oneUp_port_ne h PortRec.cold PowerBudget.cold) (by decide +kernel)⟩

theorem inService_laws : MasterClear inService .a ∧ DeficitFollows inService ∧ WaitListFollows inService ∧
    NamesLawful inService ∧ AlarmsLawful inService :=
  ⟨base_masterClear, by unfold DeficitFollows; decide +kernel, inService_waitListFollows,
    by unfold NamesLawful TableLawful; decide +kernel, by unfold AlarmsLawful TableLawful; decide +kernel⟩

theorem base_laws : MasterClear base .a ∧ DeficitFollows base ∧ WaitListFollows base ∧ NamesLawful base ∧
    AlarmsLawful base ∧ base.alarms.length < 128 :=
  ⟨base_masterClear, by unfold DeficitFollows; decide +kernel, base_waitListFollows,
    by unfold NamesLawful TableLawful; decide +kernel, by unfold AlarmsLawful TableLawful; decide +kernel, by decide⟩

theorem meets_PortEnableRule :
    671 < (672 : Half).toNat ∧ ¬ (17 : Byte).toNat ≤ 16 ∧ ¬ ((8 : Byte).toNat ≤ 7 ∨ (8 : Byte) = 255) ∧
    ((16 : Byte).toNat ≤ 16 ∧ ((7 : Byte).toNat ≤ 7 ∨ (7 : Byte) = 255)) ∧ (671 : Half).toNat = (671 : PortIx).val ∧
    (inService.port 0).intent = .enabled ∧
    ((base.port 671).intent = .disabled ∧ (base.card (slotOf 671)).state.inService = false) ∧
    ((servable.port 15).intent = .disabled ∧ (servable.card (slotOf 15)).state.inService = true ∧
      withinCount servable 15 = true ∧ (servable.port 15).license = .unlicensed ∧
      ((index1? 16 2).filter fun k => poolServes servable (servable.card (slotOf 15)).tier k) = none ∧
      autoChoice servable 15 = some 0) ∧ withinCount servable 16 = false := by decide +kernel

theorem meets_PortDisableRule : 671 < (672 : Half).toNat ∧ (671 : Half).toNat = (671 : PortIx).val ∧
    (base.port 671).intent = .disabled ∧ (inService.port 0).intent = .enabled ∧ serviceable inService 0 = true ∧
    (waitingPort.port 0).intent = .enabled ∧ (waitingPort.port 0).power ≠ .admitted ∧
    (inService.port 0).power = .admitted ∧ NamesLawful inService := by
  unfold NamesLawful TableLawful; decide +kernel

/-- `base` with a Disabled port 671 Bound to pool 16. -/
def boundOff : State := withPort 671 { PortRec.cold with license := .bound 15 } PowerBudget.cold

theorem meets_PortReleaseLicenseRule : MasterClear boundOff .a ∧ DeficitFollows boundOff ∧ WaitListFollows boundOff ∧
    (boundOff.port 671).intent = .disabled ∧ (boundOff.port 671).license.pool? = some 15 ∧
    (∀ m, rebindCandidate boundOff m = false) ∧ (base.port 671).license = .unlicensed ∧
    (inService.port 0).intent = .enabled := by
  have hp : ∀ m, m ≠ 671 → boundOff.port m = PortRec.cold :=
    fun _ h => withPort_port_ne h { PortRec.cold with license := .bound 15 } PowerBudget.cold
  have h0 : (boundOff.port 671).intent = .disabled := by decide +kernel
  refine ⟨base_masterClear, by unfold DeficitFollows; decide +kernel, waitListFollows_of_one 671 hp (by decide +kernel), h0,
    by decide +kernel, fun m => ?_, by decide +kernel, by decide +kernel⟩
  by_cases h : m = 671
  · subst h; simp [rebindCandidate, h0]
  · simp [rebindCandidate, hp m h, PortRec.cold]

theorem meets_PortSetPriorityRule : 7 < (8 : Byte).toNat ∧ (7 : Byte).toNat = (7 : Priority).val ∧
    (base.port 671).priority = 4 ∧ (base.port 671).power = .off ∧
    ((cappedPort.port 0).power = .admitted ∧ cappedPort.power.cap = 5) ∧
    ((waitingPort.port 0).power = .waiting ∧ waitingPort.power.cap = 5) ∧
    ((4 : Priority).val < 5 ∧ 5 ≤ (5 : Priority).val) ∧ (cappedPort.card (slotOf 0)).state = .joined ∧
    serviceable cappedPort 0 = true ∧ NamesLawful cappedPort := by
  unfold NamesLawful TableLawful; decide +kernel

theorem meets_LinkRule : (base.card 0).state ≠ .joined ∧ (inService.card 0).state = .joined ∧ NamesLawful inService ∧
    (inService.card 0).portCount ≤ (16 : Byte).toNat ∧ (slotOf 15 = 0 ∧ posOf 15 = (15 : Byte).toNat) ∧
    (15 : Byte).toNat < (inService.card 0).portCount ∧ serviceable inService 15 = false ∧ serviceable inService 0 = true ∧
    (inService.port 0).link = .dark ∧
    (serviceable (oneUp { boundPort .admitted false with link := .lit } PowerBudget.cold) 0 = true) := by
  refine ⟨by decide +kernel, by decide +kernel, inService_laws.2.2.2.1, ?_⟩
  decide +kernel

/-- `base` with a card in Probing in slot 14 with this attempt count. -/
def probingAt (attempts : Nat) : State := withCard 13 { bareIn .probing true with attempts := attempts } base

theorem meets_ProbingAndAdmittingTimeouts_probing : ((base.card 13).presence = false ∧ (base.card 13).state = .empty) ∧
    (((probingAt 3).card 13).state = .probing ∧ ((probingAt 3).card 13).timerOn = true ∧
      ((probingAt 3).card 13).attempts < (probingAt 3).params.probeRetry) ∧
    ((probingAt 4).params.probeRetry ≤ ((probingAt 4).card 13).attempts ∧ AlarmsLawful (probingAt 4) ∧
      (probingAt 4).alarms.length < 128) := by
  unfold AlarmsLawful TableLawful; decide +kernel

/-- What R26 asks of an Ident. -/
def goodIdent (portCount tier : Byte) (baseDraw : Half) : Prop :=
  (portCount.toNat = 16 ∨ portCount.toNat = 32 ∨ portCount.toNat = 48) ∧
    (tier.toNat = 1 ∨ tier.toNat = 2 ∨ tier.toNat = 3) ∧ 40 ≤ baseDraw.toNat ∧ baseDraw.toNat ≤ 600

theorem meets_IdentRule : ((probingAt 0).card 13).state = .probing ∧ DeficitFollows (probingAt 0) ∧
    WaitListFollows (probingAt 0) ∧ goodIdent 16 1 40 ∧ goodIdent 48 3 600 ∧ ¬ goodIdent 17 1 40 ∧ ¬ goodIdent 16 0 40 ∧
    ¬ goodIdent 16 4 40 ∧ ¬ goodIdent 16 1 39 ∧ ¬ goodIdent 16 1 601 ∧ AlarmsLawful (probingAt 0) ∧
    ((probingAt 0).card 13).parkClaims = [] ∧
    ((withCard 0 { bareIn .probing true with parkClaims := [63] } base).card 0).parkClaims ≠ [] ∧
    (probingAt 0).power.waitList = [] ∧ ∀ n, ((probingAt 0).port n).license = .unlicensed := by
  refine ⟨by decide +kernel, by unfold DeficitFollows; decide +kernel, waitListFollows_of_one 0 (fun m _ => base_port m)
    (by decide +kernel), ?_, ?_, ?_, ?_, ?_, ?_, ?_, by unfold AlarmsLawful TableLawful; decide +kernel, by decide +kernel,
    by decide +kernel, by decide +kernel, fun n => ?_⟩
  on_goal 8 => exact congrArg PortRec.license (base_port n)
  all_goals unfold goodIdent; decide

/-- A card that comes back with a tier above the one of the pool that its port 0 is Bound to. -/
def failingIdent : State :=
  withPool 0 (poolWith 1) (withCard 0 (bareIn .probing true) (withPort 0 (boundPort .off false) PowerBudget.cold))

theorem meets_IdentRule_failing : WaitListFollows failingIdent ∧ DeficitFollows failingIdent ∧
    (failingIdent.card 0).state = .probing ∧ slotOf 0 = 0 ∧ (failingIdent.port 0).license.pool? = some 0 ∧
    (failingIdent.pool 0).tier < (3 : Byte).toNat :=
  ⟨waitListFollows_of_one 0 (fun _ h => withPort_port_ne h (boundPort .off false) PowerBudget.cold) (by decide +kernel),
    by unfold DeficitFollows; decide +kernel, by decide +kernel⟩

/-- `base` with a card in Admitting in slot 14 with this attempt count. -/
def admittingAt (attempts : Nat) : State :=
  withCard 13 { cardIn .admitting with attempts := attempts, timerOn := true } base

theorem meets_ReadyRule : ((admittingAt 0).card 13).state = .admitting ∧ DeficitFollows (admittingAt 0) ∧
    WaitListFollows (admittingAt 0) ∧ (0 : Word) = (admittingAt 0).zones.generation ∧
    (1 : Word) ≠ (admittingAt 0).zones.generation :=
  ⟨by decide +kernel, by unfold DeficitFollows; decide +kernel, waitListFollows_of_one 0 (fun m _ => base_port m)
    (by decide +kernel), rfl, by decide⟩

/-- A card whose Ready joins it and makes its port 0 eligible. -/
theorem meets_ReadyRule_eligible :
    let s := withCard 0 { cardIn .admitting with timerOn := true } (withPort 0 (boundPort .off false) PowerBudget.cold)
    (s.card 0).state = .admitting ∧ DeficitFollows s ∧ WaitListFollows s ∧ ((after (.ready 0 0) s).port 0).power = .waiting := by
  refine ⟨by decide +kernel, by unfold DeficitFollows; decide +kernel, ?_, by decide +kernel⟩
  exact waitListFollows_of_one 0 (fun _ h => withPort_port_ne h (boundPort .off false) PowerBudget.cold) (by decide +kernel)

theorem meets_ProbingAndAdmittingTimeouts_admitting : ((admittingAt 3).card 13).timerOn = true ∧
    ((admittingAt 3).card 13).attempts < (admittingAt 3).params.probeRetry ∧ (admittingAt 3).power.waitList = [] ∧
    (admittingAt 4).params.probeRetry ≤ ((admittingAt 4).card 13).attempts ∧ AlarmsLawful (admittingAt 4) := by
  unfold AlarmsLawful TableLawful; decide +kernel

theorem meets_CardLeavesRule : WaitListFollows inService ∧ (inService.card 0).presence = true ∧
    ((armedWith (.slotReset 13)).cmdPort .a).armed = .slotReset 13 ∧ PortTakes (armedWith (.slotReset 13)) .a ∧
    (14 : Byte).toNat = (13 : Slot).val + 1 ∧ ((armedWith (.slotReset 13)).card 13).presence = false ∧
    ((armedWith (.slotReset 13)).card 13).state = .empty ∧ DeficitFollows (armedWith (.slotReset 13)) ∧
    ((withCard 13 (cardIn .fenced) (armedWith (.slotReset 13))).card 13).presence = true ∧
    (base.card 0).state.powered = false ∧ (inService.card 0).state.powered = true ∧ NamesLawful inService ∧
    NamesLawful (armedWith (.slotReset 13)) := by
  refine ⟨inService_waitListFollows, ?_⟩
  unfold PortTakes DeficitFollows NamesLawful TableLawful; decide +kernel

/-- Bytes that fail each link check in turn; the bytes of a Ready pass them. -/
theorem meets_MessagesRule_discarded : (base.card 0).state = .empty ∧ DeficitFollows base ∧ [1#8, 2#8, 3#8].length < 4 ∧
    (let bytes : List Byte := [0x49#8, 2#8, 0#8, 0#8, 0#8, 0#8];
      bytes.drop (bytes.length - 2) ≠ split2 (crc16 (bytes.take (bytes.length - 2)))) ∧
    (byteAt (withCheck [0x40#8, 0#8]) 0).toNat < 0x41 ∧ 0x49 < (byteAt (withCheck [0x4A#8, 0#8]) 0).toNat ∧
    messageLength (byteAt (withCheck [0x49#8, 1#8, 0#8]) 0).toNat ≠ some (byteAt (withCheck [0x49#8, 1#8, 0#8]) 1).toNat ∧
    (byteAt (withCheck [0x49#8, 2#8, 0#8]) 1).toNat ≠ (withCheck [0x49#8, 2#8, 0#8]).length - 4 ∧
    1 < (byteAt (withCheck [0x43#8, 2#8, 0#8, 2#8]) 3).toNat ∧
    encodeMessage (.ready 0 5) = some (0, withCheck [0x42#8, 4#8, 0#8, 0#8, 0#8, 5#8]) := by
  unfold DeficitFollows; decide +kernel

theorem meets_MessagesRule_leaving : (inService.card 0).state = .joined ∧ (inService.card 0).outbox = [] ∧
    ((withCard 13 { bareIn .probing true with outbox := [.probe] } base).card 13).outbox = .probe :: [] := by decide +kernel

/-- A budget with these three PSUs of feed A counted. -/
def counting (a b c : Option Nat) (mode : PowerMode) : PowerBudget :=
  { PowerBudget.cold with counted := ((((Vector.replicate 6 none).set 0 a).set 1 b).set 5 c), mode := mode }

theorem meets_BudgetRule : (counting none none none .none).mode = .none ∧ (counting none none none .feed).mode = .feed ∧
    (∀ i j : Fin 6, (counting (some 3000) none none .nPlus1).counted[i] ≠ none →
      (counting (some 3000) none none .nPlus1).counted[j] ≠ none → i = j) ∧
    ((counting (some 3000) none (some 500) .nPlus1).counted[(0 : Fin 6)] ≠ none ∧
      (counting (some 3000) none (some 500) .nPlus1).counted[(5 : Fin 6)] ≠ none ∧
      ∀ x : Fin 6, ((counting (some 3000) none (some 500) .nPlus1).counted[x]).getD 0 ≤ 3000) ∧
    (cardOf inService 0).tier ∈ [1, 2, 3] ∧ 2 < (3 : Byte).toNat ∧ powerModeOf 2 = some .feed ∧
    powerModeOf 1 = some base.power.mode ∧ DrawLawful base := by
  refine ⟨rfl, rfl, by decide +kernel, by decide +kernel, by decide +kernel, by decide, rfl, rfl, base_drawLawful⟩

/-- A port of the Joined card that waits for draw which the PSU gives, in mode None. -/
def roomyPort : State :=
  oneUp (boundPort .waiting false)
    { counting (some 3000) none none .none with waitList := [.port 0], admitted := 40, deficit := true }

/-- An Admitted port of the Joined card, in mode None, with no PSU to give their draws. -/
def starvedPort : State := oneUp (boundPort .admitted false) { counting none none none .none with admitted := 42 }

theorem roomyPort_waitListFollows : WaitListFollows roomyPort :=
  waitListFollows_of_one 0 (fun _ h => oneUp_port_ne h (boundPort .waiting false) roomyPort.power) (by decide +kernel)

theorem starvedPort_waitListFollows : WaitListFollows starvedPort :=
  waitListFollows_of_one 0 (fun _ h => oneUp_port_ne h (boundPort .admitted false) starvedPort.power) (by decide +kernel)

/-- A restore pass that has something to admit, over a list in its order. -/
theorem meets_RestoreAndShedPasses_restore : WaitListFollows roomyPort ∧ roomyPort.power.waitList.Nodup ∧
    restoreTakes roomyPort roomyPort.power.admitted roomyPort.power.waitList = [.port 0] ∧ WaitListOrdered roomyPort :=
  ⟨roomyPort_waitListFollows, by decide +kernel, by decide +kernel, List.pairwise_singleton ..⟩

/-- A shed pass that sheds the Admitted port and then its card. -/
theorem meets_RestoreAndShedPasses_shed : WaitListFollows starvedPort ∧ starvedPort.power.waitList.Nodup ∧
    starvedPort.power.admitted = drawSum starvedPort ∧ CommitLawful starvedPort ∧
    NamesLawful starvedPort ∧ (∀ n, n ∈ [(0 : PortIx)] ↔ (starvedPort.port n).power = .admitted) ∧
    allowanceOf starvedPort.power < starvedPort.power.admitted ∧
    shedTakes (portDraw starvedPort) (allowanceOf starvedPort.power) starvedPort.power.admitted [(0 : PortIx)] = [0] ∧
    shedTakes (fun c => (starvedPort.card c).baseDraw) (allowanceOf starvedPort.power) 40
      ((List.finRange 14).reverse.filter fun c => (starvedPort.card c).state.powered) = [0] := by
  refine ⟨starvedPort_waitListFollows, by decide +kernel, by decide +kernel, by unfold CommitLawful; decide +kernel,
    by unfold NamesLawful TableLawful; decide +kernel, fun n => ?_, by decide +kernel, by decide +kernel, by decide +kernel⟩
  by_cases h : n = 0
  · subst h; decide +kernel
  · rw [show starvedPort.port n = PortRec.cold from oneUp_port_ne h (boundPort .admitted false) starvedPort.power]
    simp [h, PortRec.cold]

/-- A change of mode that raises the allowance, and one that lowers it below the draw. -/
theorem meets_RestoreAndShedPasses_mode : MasterClear roomyPort .a ∧ powerModeOf 1 = some .nPlus1 ∧
    PowerMode.nPlus1 ≠ roomyPort.power.mode ∧
    allowanceOf { roomyPort.power with mode := .nPlus1 } < allowanceOf roomyPort.power ∧
    allowanceOf { roomyPort.power with mode := .nPlus1 } < roomyPort.power.admitted ∧
    (let s := { roomyPort with power := { roomyPort.power with mode := .nPlus1 } };
      MasterClear s .a ∧ powerModeOf 0 = some .none ∧ PowerMode.none ≠ s.power.mode ∧
        allowanceOf s.power < allowanceOf { s.power with mode := .none }) := by
  unfold MasterClear PortClear PortTakes; decide +kernel

/-- The deficit begins, ends and stands. -/
theorem meets_RestoreAndShedPasses_deficit :
    (let s : State := { base with power := powerWith [.card 0] 8 false };
      AlarmsLawful s ∧ s.alarms.length < 128 ∧ s.power.deficit = false ∧ (settleDeficit s).power.deficit = true) ∧
    (let s : State := { base with power := powerWith [] 8 true };
      AlarmsLawful s ∧ s.power.deficit = true ∧ (settleDeficit s).power.deficit = false) ∧ DeficitFollows base := by
  unfold AlarmsLawful TableLawful DeficitFollows; decide +kernel

/-! A rebinding pass: port 0 of the Joined card is the one candidate, Unlicensed or in the grace of pool 1, with pool 2 to choose
or none. -/

theorem poolsLawful_of_one {s : State} (r : PortRec) (p : PowerBudget) (hs : s.ports = (oneUp r p).ports)
    (h : ∀ i, (s.pool i).bound = (if r.license.pool? = some i then 1 else 0) ∧ (s.pool i).bound ≤ (s.pool i).capacity ∧
      ((s.pool i).state = .vacant → s.pool i = PoolRec.vacant)) : PoolsLawful s := by
  refine fun i => ⟨?_, (h i).2⟩
  rw [(h i).1, boundTo, hs]
  have hl : (oneUp r p).ports.toList = r :: List.replicate 671 PortRec.cold := by
    simp [oneUp, withCard, withPort, State.reset, Vector.toList_set, Vector.toList_replicate, List.replicate_succ]
  have hc : (PortRec.cold.license.pool? == some i) = false := rfl
  rw [hl, List.countP_cons, List.countP_replicate, hc]
  simp only [Bool.false_eq_true, if_false, Nat.zero_add, beq_iff_eq]

/-- The Joined card with this record for its port 0, and pools 1 and 2 as given. -/
def rebindable (r : PortRec) (one two : PoolRec) : State := withPool 1 two (withPool 0 one (oneUp r PowerBudget.cold))

/-- The candidates of a rebinding pass, as the obligation names them. -/
def candidatesOf (s : State) : List PortIx :=
  (List.finRange 672).filter fun n => (s.port n).intent = .enabled ∧
    ((s.card (slotOf n)).state = .joined ∨ (s.card (slotOf n)).state = .fenced) ∧
    posOf n < (s.card (slotOf n)).portCount ∧ ∀ k, (s.port n).license ≠ .bound k

theorem candidatesOf_rebindable (r : PortRec) (one two : PoolRec) (hr : r.intent = .enabled)
    (hl : ∀ k, r.license ≠ .bound k) : candidatesOf (rebindable r one two) = [0] := by
  have h0 : (rebindable r one two).port 0 = r := by simp [rebindable, withPool, oneUp, withCard, withPort, State.port]
  have hn : ∀ n, n ≠ 0 → (rebindable r one two).port n = PortRec.cold := fun n h => oneUp_port_ne h r PowerBudget.cold
  have hc : ((rebindable r one two).card (slotOf 0)).state = .joined := by
    simp [rebindable, withPool, oneUp, withCard, State.card, cardIn, slotOf]
  have hp : posOf 0 < ((rebindable r one two).card (slotOf 0)).portCount := by
    simp [rebindable, withPool, oneUp, withCard, State.card, cardIn, slotOf, posOf, CardRec.portCount]
  have hd : (List.finRange 672) = 0 :: (List.finRange 671).map Fin.succ := List.finRange_succ
  rw [candidatesOf, hd, List.filter_cons]
  simp only [h0, hr, hc, hp, hl, ne_eq, not_false_eq_true, implies_true, and_self, true_or, decide_true, if_true]
  refine congrArg _ (List.filter_eq_nil_iff.mpr fun n hm => ?_)
  obtain ⟨m, _, rfl⟩ := List.mem_map.mp hm
  simp [hn m.succ (Fin.succ_ne_zero m), PortRec.cold]

/-- An Unlicensed port of the Joined card, and one in the grace of pool 1 that keeps its power. -/
def unlicensedPort : PortRec := { boundPort .off false with license := .unlicensed }
def gracePort : PortRec := { boundPort .admitted false with license := .grace 0 3 }

theorem meets_RebindingRule :
    (let s := rebindable unlicensedPort (poolWith 0) PoolRec.vacant;
      PoolsLawful s ∧ WaitListFollows s ∧ candidatesOf s = [0] ∧ rebindTakes s [0] = [(0, 0)]) ∧
    (let s := rebindable gracePort { poolWith 1 with state := .expired, kind := .term } (poolWith 0);
      PoolsLawful s ∧ WaitListFollows s ∧ candidatesOf s = [0] ∧ rebindTakes s [0] = [(0, 1)]) ∧
    (let s := rebindable unlicensedPort PoolRec.vacant PoolRec.vacant;
      PoolsLawful s ∧ WaitListFollows s ∧ candidatesOf s = [0] ∧ rebindTakes s [0] = [] ∧ WaitListOrdered s) :=
  ⟨⟨poolsLawful_of_one unlicensedPort PowerBudget.cold rfl (by decide +kernel),
      waitListFollows_of_one 0 (fun _ h => oneUp_port_ne h unlicensedPort PowerBudget.cold) (by decide +kernel),
      candidatesOf_rebindable _ _ _ rfl (fun _ h => nomatch h), by decide +kernel⟩,
    ⟨poolsLawful_of_one gracePort PowerBudget.cold rfl (by decide +kernel),
      waitListFollows_of_one 0 (fun _ h => oneUp_port_ne h gracePort PowerBudget.cold) (by decide +kernel),
      candidatesOf_rebindable _ _ _ rfl (fun _ h => nomatch h), by decide +kernel⟩,
    ⟨poolsLawful_of_one unlicensedPort PowerBudget.cold rfl (by decide +kernel),
      waitListFollows_of_one 0 (fun _ h => oneUp_port_ne h unlicensedPort PowerBudget.cold) (by decide +kernel),
      candidatesOf_rebindable _ _ _ rfl (fun _ h => nomatch h), by decide +kernel, List.Pairwise.nil⟩⟩

/-- What R65 asks of a credential's fields. -/
def credentialRight (pool tier kind : Byte) (capacity hours : Half) : Prop :=
  1 ≤ pool.toNat ∧ pool.toNat ≤ 16 ∧ 1 ≤ tier.toNat ∧ tier.toNat ≤ 3 ∧ kind.toNat ≤ 1 ∧ 1 ≤ capacity.toNat ∧
    capacity.toNat ≤ 672 ∧ ¬ (kind = 1 ∧ hours = 0)

theorem meets_CredentialRule : base.license.chassis = 0 ∧ inService.license.chassis ≠ 0 ∧ MasterClear inService .a ∧
    credentialRight 1 1 0 1 0 ∧ credentialRight 16 3 1 672 1 ∧ ¬ credentialRight 0 1 0 1 0 ∧ ¬ credentialRight 17 1 0 1 0 ∧
    ¬ credentialRight 1 0 0 1 0 ∧ ¬ credentialRight 1 4 0 1 0 ∧ ¬ credentialRight 1 1 2 1 0 ∧ ¬ credentialRight 1 1 0 0 0 ∧
    ¬ credentialRight 1 1 0 673 0 ∧ ¬ credentialRight 1 1 1 1 0 ∧ (inService.pool 15).state = .vacant ∧
    ((inService.pool 0).state ≠ .vacant ∧ (inService.pool 0).tier = 1 ∧ (inService.pool 0).kind = .perpetual ∧
      (inService.pool 0).bound = 1) ∧ ((withPool 0 (poolWith 2) inService).pool 0).bound = 2 := by
  refine ⟨rfl, by decide, base_masterClear, ?_, ?_, ?_, ?_, ?_, ?_, ?_, ?_, ?_, ?_, by decide +kernel, by decide +kernel,
    by decide +kernel⟩ <;> unfold credentialRight <;> decide

theorem meets_AutomaticChoiceRule : (servable.port 0).license = .unlicensed ∧ autoChoice servable 0 = some 0 ∧ autoChoice base 0 = none := by decide +kernel

/-- A Term pool with two hours and one port Bound to it. -/
def termPool : State :=
  withPool 0 { poolWith 1 with kind := .term, hours := 2, warn := 1 } (oneUp (boundPort .admitted false) PowerBudget.cold)

/-- `inService` with this Term pool in place of pool 1. -/
def termIn (state : PoolState) (hours warn : Nat) : State :=
  withPool 0 { poolWith 1 with kind := .term, state := state, hours := hours, warn := warn } inService

theorem alarmsLawful_of_empty {s : State} (h : s.alarms = []) : AlarmsLawful s := by
  simp [AlarmsLawful, TableLawful, h]

/-- The hour timer takes a pool to Expiring and one to Expired, and a pool that is neither is not counted. -/
theorem meets_HourTimerRule_poolTerm :
    AlarmsLawful termPool ∧ termPool.alarms.length < 112 ∧
    ((termPool.pool 0).state = .active ∧ ((after .hourTimerExpiry termPool).pool 0).state = .expiring) ∧
    (((termIn .expiring 1 1).pool 0).state = .expiring ∧ ((termIn .expiring 1 1).pool 0).kind = .term ∧
      ((termIn .expiring 1 1).pool 0).hours = 1 ∧ 1 ≤ ((termIn .expiring 1 1).pool 0).bound) ∧
    (inService.pool 0).kind ≠ .term :=
  ⟨alarmsLawful_of_empty rfl, by decide +kernel⟩

/-- A Term credential of tier 1 for a pool, 16 ports, with these hours and warn hours 1, issued for chassis 1. -/
def credentialFor (pool : Byte) (hours : Half) : Instr :=
  .poolInstall fA pool 1 1 16 hours 1 (checkWord pool 1 1 16 hours 1 1)

/-- An Expired pool. -/
def expiredPool : State := termIn .expired 0 1

/-- A replacement takes an Expired pool to Active; an install takes a Vacant one to Expiring. -/
theorem meets_CredentialRule_poolTerm : (expiredPool.license.chassis = 1 ∧ (expiredPool.pool 0).state = .expired ∧
    ((after (credentialFor 1 5) expiredPool).pool 0).state = .active ∧ (expiredPool.pool 15).state = .vacant ∧
    (credentialPool { pool := 15, tier := 1, kind := .term, capacity := 16, hours := 1, warn := 1 } 0).state = .expiring ∧
    expiredPool.alarms.length < 112) ∧
    AlarmsLawful expiredPool :=
  ⟨by decide +kernel, alarmsLawful_of_empty rfl⟩

/-- An Expired pool with its revocation armed. -/
def revokable : State := { expiredPool with cmd := (armedWith (.poolRevoke 0)).cmd }

theorem meets_PoolRevokeConfirmed_poolTerm : (PortTakes revokable .a ∧ revokable.cmd.mastership = some .a ∧
    DeficitFollows revokable ∧ (revokable.cmdPort .a).armed = .poolRevoke 0 ∧ (revokable.pool 0).state = .expired) ∧
    AlarmsLawful revokable ∧ revokable.alarms.length < 112 := by
  refine ⟨?_, alarmsLawful_of_empty rfl, by decide +kernel⟩
  unfold PortTakes DeficitFollows; decide +kernel

theorem meets_HourTimerRule : DeficitFollows termPool ∧ (termPool.pool 0).kind = .term ∧ 1 < (termPool.pool 0).hours ∧
    1 ≤ (termPool.pool 0).bound ∧ (∀ k : PoolIx, k ≠ 0 → (termPool.pool k).bound = 0) ∧
    ∀ n k h, (termPool.port n).license = .grace k h → 1 < h := by
  refine ⟨by unfold DeficitFollows; decide +kernel, by decide +kernel, by decide +kernel, by decide +kernel,
    by decide +kernel, fun n k h e => ?_⟩
  by_cases hn : n = 0
  · subst hn
    have : (termPool.port 0).license = .bound 0 := by decide +kernel
    rw [this] at e; exact nomatch e
  · have hp : termPool.port n = PortRec.cold := oneUp_port_ne hn (boundPort .admitted false) PowerBudget.cold
    rw [hp] at e; exact nomatch e

/-- The Joined card's port 0 in the last hour of its grace. -/
def lastGrace : State :=
  rebindable { gracePort with license := .grace 0 1 } { poolWith 1 with state := .expired, kind := .term } PoolRec.vacant

/-- A port that loses its licence: at the hour timer, and at the revocation of its pool. -/
theorem meets_HourTimerRule_lost : DeficitFollows lastGrace ∧ WaitListFollows lastGrace ∧ NamesLawful lastGrace ∧
    (lastGrace.port 0).license = .grace 0 1 ∧ NamesLawful termPool :=
  ⟨by unfold DeficitFollows; decide +kernel,
    waitListFollows_of_one 0 (fun _ h => oneUp_port_ne h { gracePort with license := .grace 0 1 } PowerBudget.cold)
      (by decide +kernel), by unfold NamesLawful TableLawful; decide +kernel⟩

theorem meets_PoolRevokeConfirmed_lost : WaitListFollows revokable ∧ NamesLawful revokable ∧
    (revokable.port 0).license.pool? = some 0 :=
  ⟨waitListFollows_of_one 0 (fun _ h => withPort_port_ne h (boundPort .admitted false) PowerBudget.cold) (by decide +kernel),
    by unfold NamesLawful TableLawful; decide +kernel⟩

theorem meets_PoolRevokeConfirmed : PortTakes (armedWith (.poolRevoke 15)) .a ∧ DeficitFollows (armedWith (.poolRevoke 15)) ∧
    ((armedWith (.poolRevoke 15)).cmdPort .a).armed = .poolRevoke 15 ∧ (16 : Byte).toNat = (15 : PoolIx).val + 1 ∧
    ((armedWith (.poolRevoke 15)).pool 15).state = .vacant ∧
    ((withPool 15 (poolWith 0) (armedWith (.poolRevoke 15))).pool 15).state ≠ .vacant := by
  unfold PortTakes DeficitFollows; decide +kernel

/-! ### Units and rules -/

/-- A unit in a state, present. -/
def unitIn (st : UnitState) (good bad : Nat) : UnitRec :=
  { UnitRec.cold with state := st, good := good, bad := bad, presence := true, fanFault := st == .faulted }

theorem meets_UnitPresenceRule : DeficitFollows base ∧ (base.unit 0).presence = false ∧ (base.unit 9).state = .absent ∧
    DeficitFollows (withUnit 5 (unitIn .online 0 0) base) ∧
    ((withUnit 5 (unitIn .online 0 0) base).unit 5).state = .online ∧
    ((withUnit 6 (unitIn .faulted 0 0) base).unit 6).presence = true ∧
    ((withUnit 6 (unitIn .faulted 0 0) base).unit 6).state ≠ .absent ∧ base.scanner.turn ≠ some (.unit 6) ∧
    (let s := atTurn (.unit 6) (withUnit 6 (unitIn .faulted 0 0) base);
      DeficitFollows s ∧ s.scanner.turn = some (.unit 6) ∧ (s.unit 6).presence = true) ∧ AlarmsLawful base ∧ base.alarms.length < 128 := by
  unfold DeficitFollows AlarmsLawful TableLawful; decide +kernel

/-- A PSU with two bad reads and a tray with two good ones, each at its turn. -/
def psuRead : State := atTurn (.unit 0) (withUnit 0 (unitIn .online 0 2) base)
def trayRead : State := atTurn (.unit 9) (withUnit 9 (unitIn .faulted 2 0) base)

theorem meets_UnitReadRule : DeficitFollows base ∧ (base.unit 0).state = .absent ∧ base.scanner.turn ≠ some (.unit 0) ∧
    (DeficitFollows psuRead ∧ (psuRead.unit 0).state = .online ∧ psuRead.scanner.turn = some (.unit 0)) ∧
    (DeficitFollows trayRead ∧ (trayRead.unit 9).state = .faulted ∧ trayRead.scanner.turn = some (.unit 9)) ∧
    (trayRead.unit 9).fanFault = true ∧ AlarmsLawful psuRead ∧ psuRead.alarms.length < 128 ∧
    ((499 : Half).toNat < 500 ∧ ¬ (500 : Half).toNat < 500 ∧ ¬ 3000 < (3000 : Half).toNat ∧ 3000 < (3001 : Half).toNat) ∧
    (base.params.fanFloor ≤ (1500 : Half).toNat ∧ ¬ base.params.fanFloor ≤ (1499 : Half).toNat) ∧
    ((after (.unitReadComplete 9 (.fan 1500)) trayRead).unit 9).state = .online ∧
    (let s := atTurn (.unit 9) (withUnit 9 { unitIn .starting 0 0 with fanFault := true } base);
      DeficitFollows s ∧ (s.unit 9).fanFault = true ∧ ((after (.unitReadComplete 9 (.fan 1500)) s).unit 9).state = .online) ∧
    ((after (.unitReadComplete 9 (.fan 1499)) trayRead).unit 9).state = (trayRead.unit 9).state ∧
    (let s := atTurn (.unit 5) (withUnit 5 (unitIn .starting 0 2) base);
      DeficitFollows s ∧ (s.unit 5).state ≠ .online ∧ ((after (.unitReadComplete 5 .failed) s).unit 5).state = .faulted) ∧
    AlarmsLawful trayRead ∧
    ((after (.unitReadComplete 0 .failed) psuRead).unit 0).state = .faulted := by
  unfold DeficitFollows AlarmsLawful TableLawful; decide +kernel

/-- An enabled rule on source 49, its comparator A matching every value at or above 0. -/
def ruleIn (st : RuleState) (action : RuleAction) (source : SourceIx) : RuleRec :=
  { RuleRec.cold with
    written := true
    enabled := true
    source := source
    cmpA := { type := .atOrAbove, threshold := 0 }
    holdOff := 1
    release := 1
    action := action
    state := st }

/-- A state whose source presents this value and flag. -/
def withSource (k : SourceIx) (x : Source) (s : State) : State :=
  { s with scanner := { s.scanner with sources := s.scanner.sources.set k x } }

/-- Rule 63 about to see its condition begin. -/
def beginningIn (action : RuleAction) (s : State) : State :=
  withSource 16 { value := 0, valid := true } (withRule 63 (ruleIn .idle action 16) s)

/-- Rule 63 about to see its condition end: it holds and its source is invalid. -/
def endingIn (action : RuleAction) (s : State) : State := withRule 63 (ruleIn .active action 16) s

def beginning (action : RuleAction) : State := beginningIn action base
def ending (action : RuleAction) : State := endingIn action base

/-- A port of priority 4, displaced by the claim of rule 63 on n = 4. -/
def heldPort : State :=
  oneUp (boundPort .waiting true) { powerWith [.port 0] 4 false with claims := [{ rule := 63, n := 4 }] }

/-- Two rules that claim the same n. -/
def twoClaims : State :=
  { base with power := { powerWith [] 4 false with claims := [{ rule := 62, n := 4 }, { rule := 63, n := 4 }] } }

theorem meets_ScanRoundRule : DeficitFollows base ∧ (base.rule 0).enabled = false ∧
    ((withRule 63 (ruleIn .idle .none 49) base).rule 63).enabled = true ∧
    (base.unit 0).shows = false ∧
    (DeficitFollows (atTurn .inlet base) ∧ (atTurn .inlet base).scanner.turn = some .inlet) ∧
    (DeficitFollows (atTurn .outlet base) ∧ (atTurn .outlet base).scanner.turn = some .outlet) := by
  unfold DeficitFollows; decide +kernel

theorem meets_RuleConditionRule : ((beginning .fanBoost).rule 63).enabled = true ∧ AlarmsLawful (beginning .fanBoost) ∧
    ((beginning .cardOff).rule 63).state.holds = false ∧
    ((evaluateRule 63 (beginning .fanBoost)).rule 63).state.holds = true ∧
    ((evaluateRule 63 (beginning .cardOff)).rule 63).state.holds = true ∧
    ((ending .fanBoost).rule 63).state.holds = true ∧
    ((evaluateRule 63 (ending .fanBoost)).rule 63).state.holds = false ∧
    ((evaluateRule 63 (ending .cardOff)).rule 63).state.holds = false ∧
    ((ending .none).rule 63).source.val = (0 : Slot).val + 16 := by
  unfold AlarmsLawful TableLawful; decide +kernel

/-- The first park claim on a card in service and one on a card with a claim; the last claim's end on a Parked card. -/
theorem meets_RuleConditionRule_park :
    (let s := beginningIn .cardOff inService;
      (s.rule 63).source.val = (0 : Slot).val + 16 ∧ (s.card 0).parkClaims = [] ∧ (s.card 0).state.powered = true ∧
        NamesLawful s ∧ AlarmsLawful s ∧ s.alarms.length < 128 ∧ ((evaluateRule 63 s).rule 63).state.holds = true) ∧
    (let s := beginningIn .cardOff (withCard 0 { cardIn .parked with parkClaims := [62] } base);
      (s.card 0).parkClaims ≠ [] ∧ NamesLawful s ∧ AlarmsLawful s ∧ ((evaluateRule 63 s).rule 63).state.holds = true) ∧
    (let s := endingIn .cardOff (withCard 0 { cardIn .parked with parkClaims := [63] } base);
      (s.card 0).state = .parked ∧ NamesLawful s ∧ AlarmsLawful s ∧ (s.rule 63).state.holds = true ∧
        ((evaluateRule 63 s).rule 63).state.holds = false ∧ ((evaluateRule 63 s).card 0).parkClaims = []) := by
  unfold NamesLawful AlarmsLawful TableLawful; decide +kernel

theorem meets_RuleConditionRule_park_waitList : WaitListFollows (beginningIn .cardOff inService) :=
  waitListFollows_of_one 0 (fun _ h => withPort_port_ne h (boundPort .admitted false) PowerBudget.cold) (by decide +kernel)

theorem meets_RuleConditionRule_shed : ((beginning (.shed 7)).rule 63).state.holds = false ∧
    ((evaluateRule 63 (beginning (.shed 7))).rule 63).state.holds = true ∧
    ((evaluateRule 63 (ending (.shed 0))).rule 63).state.holds = false := by decide +kernel

theorem meets_RuleConditionRule_names : NamesLawful (beginningIn (.shed 4) cappedPort) ∧
    NamesLawful (endingIn (.shed 4) heldPort) ∧ AlarmsLawful (beginningIn (.shed 4) cappedPort) := by
  unfold NamesLawful AlarmsLawful TableLawful; decide +kernel

/-- The cap falls and displaces an Admitted port; it rises and clears a hold; it stands where another rule claims the same n. -/
theorem meets_RuleConditionRule_cap :
    (let s := beginningIn (.shed 4) cappedPort;
      (s.rule 63).enabled = true ∧ ((evaluateRule 63 s).rule 63).state.holds = true ∧
      (evaluateRule 63 s).power.cap < s.power.cap ∧ (s.port 0).power = .admitted ∧ 4 ≤ (s.port 0).priority.val ∧
      serviceable s 0 = true) ∧
    (let s := endingIn (.shed 4) heldPort;
      (s.rule 63).state.holds = true ∧ ((evaluateRule 63 s).rule 63).state.holds = false ∧
      s.power.cap < (evaluateRule 63 s).power.cap ∧ (s.port 0).power = .waiting ∧ (s.port 0).hold = true) ∧
    (let s := endingIn (.shed 4) twoClaims;
      (s.rule 63).state.holds = true ∧ ((evaluateRule 63 s).rule 63).state.holds = false ∧
      (evaluateRule 63 s).power.cap = s.power.cap) := by decide +kernel

/-- What R139 asks of a Rule Write's fields. -/
def ruleRight (source typeA typeB combine holdOff release severity action n : Byte) : Prop :=
  source.toNat ≤ 49 ∧ typeA.toNat ≤ 2 ∧ typeB.toNat ≤ 2 ∧ combine.toNat ≤ 2 ∧ severity.toNat ≤ 2 ∧ 1 ≤ holdOff.toNat ∧
    holdOff.toNat ≤ 15 ∧ 1 ≤ release.toNat ∧ release.toNat ≤ 15 ∧ action.toNat ≤ 3 ∧ (action = 2 → n.toNat ≤ 7) ∧
    (action = 3 → 16 ≤ source.toNat ∧ source.toNat ≤ 29)

theorem meets_RuleCommandsRule_fields : ruleRight 49 2 2 2 15 15 2 2 7 ∧ ruleRight 0 0 0 0 1 1 0 0 255 ∧
    ruleRight 16 0 0 0 1 1 0 3 0 ∧ ruleRight 29 0 0 0 1 1 0 3 0 ∧ ¬ ruleRight 15 0 0 0 1 1 0 3 0 ∧
    ¬ ruleRight 30 0 0 0 1 1 0 3 0 ∧ ¬ ruleRight 50 0 0 0 1 1 0 0 0 ∧ ¬ ruleRight 0 0 0 0 0 1 0 0 0 ∧
    ¬ ruleRight 0 0 0 0 16 1 0 0 0 ∧ ¬ ruleRight 0 0 0 0 1 1 0 2 8 ∧ ¬ ruleRight 0 0 0 0 1 1 0 4 0 := by
  unfold ruleRight; and_intros <;> decide

theorem meets_RuleCommandsRule : MasterClear base .a ∧ DeficitFollows base ∧ 63 < (64 : Byte).toNat ∧
    (63 : Byte).toNat = (63 : RuleIx).val ∧ (base.rule 63).written = false ∧ ((ending .none).rule 63).written = true ∧
    ((ending .none).rule 63).enabled = true ∧
    ((withRule 63 { ruleIn .idle .none 0 with enabled := false } base).rule 63).enabled = false ∧
    (∀ action ∈ [RuleAction.fanBoost, .shed 4, .cardOff], MasterClear (ending action) .a ∧ DeficitFollows (ending action) ∧
      ((ending action).rule 63).state.holds = true ∧ ((ending action).rule 63).enabled = true ∧
      ((ending action).rule 63).action = action) := by
  unfold MasterClear PortClear PortTakes DeficitFollows; decide +kernel

/-! ### Zones -/

/-- A Plain zone of this id with these members; its name is one letter. -/
def plain (id : Nat) (letter : Byte) (members : List Member) : Zone :=
  { id := id, name := [letter], kind := .plain, members := members }

/-- A member by name. -/
def named (d : DevName) : Member := { designator := .name d, role := .none }

/-- An image of these zones. -/
def imageOf (zones : List Zone) : Image := { Image.empty with zones := zones }

/-- `base` with two zones in Working: 1 with one member and 512, a Peer zone without one. -/
def twoZones : State :=
  withZones { ZoneStore.cold with
    working := imageOf [plain 1 0x41 [named 5], { id := 512, name := [0x42#8], kind := .peer, members := [] }] }

theorem twoZones_lawful : ImagesLawful twoZones := by
  unfold ImagesLawful ImageLawful ZoneLawful; decide +kernel

/-- The 32-byte field of a one-letter name, of the empty name, and of no name. -/
def letterField : List Byte := 0x43#8 :: List.replicate 31 0
def emptyField : List Byte := List.replicate 32 0
def digitField : List Byte := 0x31#8 :: List.replicate 31 0

theorem letterField_spells : spells letterField [0x43#8] := by unfold spells lawfulName; decide +kernel

theorem emptyField_spells : spells emptyField [] := by
  refine ⟨⟨by decide, by simp, by simp⟩, by decide⟩

theorem digitField_none (name : List Byte) : ¬ spells digitField name := by
  rintro ⟨⟨-, -, h⟩, e⟩
  cases name with
  | nil => exact absurd e (by decide)
  | cons c l =>
    have hc : c = 0x31#8 := by
      have := congrArg List.head? e
      simp only [digitField, List.cons_append, List.head?_cons] at this
      exact (Option.some.inj this).symm
    exact absurd (h c rfl) (by rw [hc]; decide)

theorem meets_WorkingImageRule : MasterClear (workingIn .frozen) .a ∧ (workingIn .frozen).zones.workingState = .frozen ∧
    base.zones.workingState = .editable ∧ spells letterField [0x43#8] ∧ spells emptyField [] ∧ digitField.length = 32 ∧
    (∀ name, ¬ spells digitField name) ∧ 1 < (2 : Byte).toNat :=
  ⟨base_masterClear, rfl, rfl, letterField_spells, emptyField_spells, rfl, digitField_none, by decide⟩

theorem meets_ZoneRecordsRule : MasterClear twoZones .a ∧ twoZones.zones.workingState = .editable ∧ ImagesLawful twoZones ∧
    ¬ 1 ≤ (0 : Half).toNat ∧ ¬ (513 : Half).toNat ≤ 512 ∧ (1 ≤ (512 : Half).toNat ∧ (512 : Half).toNat ≤ 512) ∧
    spells letterField [0x43#8] ∧ (∀ name, spells digitField name → name = []) ∧
    (∃ z ∈ twoZones.zones.working.zones, z.id = (512 : Half).toNat) ∧
    (∃ z ∈ twoZones.zones.working.zones, z.name = [0x41#8] ∧ z.id ≠ 2) ∧
    (∀ z ∈ twoZones.zones.working.zones, z.id ≠ (2 : Half).toNat ∧ z.name ≠ [0x43#8]) :=
  ⟨base_masterClear, rfl, twoZones_lawful, by decide, by decide, by decide, letterField_spells,
    fun name h => absurd h (digitField_none name), by decide +kernel, by decide +kernel, by decide +kernel⟩

/-- A value field of slot 14, position 47. -/
def portValue : DevName := 0x0E2F000000000000

/-- A full zone of 64 members. -/
def fullZone : Zone := plain 2 0x43 ((List.range 64).map fun k => named (BitVec.ofNat 64 (k + 1)))

/-- `base` with that zone in Working. -/
def fullWorking : State := withZones { ZoneStore.cold with working := imageOf [fullZone] }

theorem meets_MembersRule : MasterClear twoZones .a ∧ ImagesLawful twoZones ∧
    (portValue.extractLsb' 56 8).toNat = (13 : Slot).val + 1 ∧ (portValue.extractLsb' 48 8).toNat = (47 : Fin 48).val ∧
    (∃ z ∈ twoZones.zones.working.zones, z.id = (1 : Half).toNat ∧ z.kind = .plain ∧
      (∃ m ∈ z.members, m.designator = .name 5) ∧ (∀ m ∈ z.members, m.designator ≠ .name 6) ∧ z.members.length < 64) ∧
    (∃ z ∈ twoZones.zones.working.zones, z.id = (512 : Half).toNat ∧ z.kind = .peer) ∧
    (∀ z ∈ twoZones.zones.working.zones, z.id ≠ (2 : Half).toNat) ∧
    (twoZones.zones.working.zones.map fun z => z.members.length).sum < 4096 ∧
    ((fullWorking.zones.working.zones.map fun z => z.members.length).sum = 64 ∧
      ∀ m ∈ fullZone.members, m.designator ≠ .name 65) :=
  ⟨base_masterClear, twoZones_lawful, by decide, by decide, by decide +kernel, by decide +kernel, by decide +kernel,
    by decide +kernel, by decide +kernel⟩

theorem meets_MembersRule_full : ImagesLawful fullWorking := by
  unfold ImagesLawful ImageLawful ZoneLawful; and_intros <;> decide +kernel

theorem meets_ZoneReadsRule : ImageLawful twoZones.zones.working ∧ PortClear base .a ∧ (1 : DevName) ≠ 0 ∧
    1 < (2 : Byte).toNat ∧ MasterClear base .a ∧ 2 < (3 : Byte).toNat ∧ (2 : Byte).toNat ≤ 2 :=
  ⟨twoZones_lawful.1, base_masterClear.1, by decide, by decide, base_masterClear, by decide, by decide⟩

/-! ### The Commit Engine -/

/-- The Commit armed on the master port, Working `working`, Hold awaited of no card, slot 1's card Joined or not. -/
def ready (working : Image) (up : Bool) : State :=
  if up then withCard 0 (cardIn .joined) (commitArmed working) else commitArmed working

/-- A commit engine in a state with these phases for slots 1 and 2. -/
def engineIn (e : EngineState) (p q : Phase) (resends : Nat) : CommitEngine :=
  { CommitEngine.cold with
    engine := e
    active := some 1
    current := some { number := 1, outcome := .inFlight, fenced := 0, generation := 0 }
    cards := (CommitEngine.cold.cards.set 0 { phase := p, resends := resends, timeout := 250, timerOn := true }).set 1
      { phase := q, resends := 0, timeout := 250, timerOn := true } }

/-- Slots 1 and 2 Joined, the commit engine as given. -/
def inFlight (c : CommitEngine) : State :=
  withCard 1 (cardIn .joined) (withCard 0 (cardIn .joined) { base with commit := c })

theorem meets_CommitConfirmed : PortTakes (ready Image.empty true) .a ∧ DeficitFollows (ready Image.empty true) ∧
    ((ready Image.empty true).cmdPort .a).armed = .commit ∧ (ready Image.empty true).zones.workingState = .armed ∧
    (ready Image.empty true).commit.queued = none ∧ (ready Image.empty true).commit.engine = .idle ∧
    (∀ c, ((ready Image.empty true).phaseRec c).phase = .outside) ∧ ((ready Image.empty true).card 0).state = .joined ∧
    (∀ c, ((ready Image.empty false).card c).state ≠ .joined) ∧
    (∀ z ∈ (imageOf [plain 1 0x41 [named 5]]).zones, z.members ≠ [] ∧ z.kind ≠ .peer) ∧
    twoZones.zones.working.zones = [plain 1 0x41 [named 5]] ++ { id := 512, name := [0x42#8], kind := .peer, members := [] } :: [] ∧
    { commitArmed Image.empty with commit := engineIn .fencing .awaitHold .held 0 }.commit.engine ≠ .idle := by
  unfold PortTakes DeficitFollows; decide +kernel

/-- Of a Peer zone that wants a Principal, every zone having members. -/
theorem meets_CommitConfirmed_wanting :
    ∀ z ∈ [({ id := 1, name := [0x41#8], kind := .peer, members := [{ designator := .name 5, role := .peer }] } : Zone)],
      z.members ≠ [] ∧ z.kind = .peer ∧ ∀ m ∈ z.members, m.role ≠ .principal := by decide

theorem meets_AcknowledgementsRule :
    (∀ c, ((inFlight c).card 0).state = .joined) ∧
    ((inFlight (engineIn .fencing .awaitHold .awaitHold 0)).commit.engine = .fencing ∧
      ((inFlight (engineIn .fencing .awaitHold .awaitHold 0)).phaseRec 0).phase = .awaitHold ∧
      (1 : Word) = (inFlight (engineIn .fencing .awaitHold .awaitHold 0)).zones.generation + 1 ∧
      ((inFlight (engineIn .fencing .awaitHold .awaitHold 0)).phaseRec 1).phase = .awaitHold) ∧
    (∀ c : Slot, c ≠ 0 → ((inFlight (engineIn .fencing .awaitHold .held 0)).phaseRec c).phase ≠ .awaitHold) ∧
    ((inFlight (engineIn .releasing .awaitResume .awaitResume 0)).phaseRec 1).phase = .awaitResume ∧
    (∀ c : Slot, c ≠ 0 → ((inFlight (engineIn .releasing .awaitResume .done 0)).phaseRec c).phase ≠ .awaitResume) ∧
    (inFlight (engineIn .releasing .awaitResume .done 0)).commit.queued = none ∧
    (inFlight { engineIn .releasing .awaitResume .done 0 with queued := some 2 }).commit.queued = some 2 := by
  refine ⟨fun c => rfl, ?_⟩
  decide +kernel

/-- The active commit's record in previous, a commit queued behind it: the last Resume-Ack, of a forward commit with one fenced. -/
def endingQueued : State :=
  inFlight { engineIn .releasing .awaitResume .done 0 with
    queued := some 2, tally := 1
    current := some { number := 2, outcome := .inFlight, fenced := 0, generation := 0 }
    previous := some { number := 1, outcome := .inFlight, fenced := 1, generation := 0 } }

theorem meets_AcknowledgementsRule_previous : endingQueued.commit.active = some 1 ∧
    endingQueued.commit.previous = some { number := 1, outcome := .inFlight, fenced := 1, generation := 0 } ∧
    (∀ q, endingQueued.commit.current = some q → q.number ≠ 1) ∧ endingQueued.commit.direction = .forward ∧
    endingQueued.commit.tally ≠ 0 ∧ AlarmsLawful endingQueued ∧ endingQueued.alarms.length < 128 ∧
    endingQueued.commit.engine = .releasing ∧ (endingQueued.phaseRec 0).phase = .awaitResume ∧
    endingQueued.commit.releaseGen = 0 ∧ (∀ c : Slot, c ≠ 0 → (endingQueued.phaseRec c).phase ≠ .awaitResume) := by
  refine ⟨rfl, rfl, fun q h => ?_, ?_⟩
  · have h' : some { number := 2, outcome := .inFlight, fenced := 0, generation := 0 } = some q := h
    cases h'; decide
  · unfold AlarmsLawful TableLawful; decide +kernel

theorem meets_CommitTimeoutsRule :
    (∀ c, ((inFlight c).card 0).state = .joined) ∧
    (((inFlight (engineIn .fencing .awaitHold .awaitHold 2)).phaseRec 0).timerOn = true ∧
      ((inFlight (engineIn .fencing .awaitHold .awaitHold 2)).phaseRec 0).resends < base.params.commitRetry) ∧
    (¬ ((inFlight (engineIn .fencing .awaitHold .awaitHold 3)).phaseRec 0).resends < base.params.commitRetry ∧
      ((inFlight (engineIn .fencing .awaitHold .awaitHold 3)).phaseRec 1).phase = .awaitHold) ∧
    ((inFlight (engineIn .releasing .awaitResume .awaitResume 3)).phaseRec 0).phase = .awaitResume ∧
    AlarmsLawful (inFlight (engineIn .releasing .awaitResume .awaitResume 3)) := by
  refine ⟨fun c => rfl, ?_⟩
  unfold AlarmsLawful TableLawful; decide +kernel

/-- `engineIn` with a commit queued. -/
def queuedIn (e : EngineState) (p q : Phase) : CommitEngine := { engineIn e p q 3 with queued := some 2 }

/-- A fence that leaves no card awaited: another card stands Held or Late, or none does; a commit is queued, or none is, with
another card Joined. -/
theorem meets_CommitTimeoutsRule_last :
    (∀ q ∈ [Phase.held, .late, .outside], ((inFlight (engineIn .fencing .awaitHold q 3)).phaseRec 0).timerOn = true ∧
      ¬ ((inFlight (engineIn .fencing .awaitHold q 3)).phaseRec 0).resends < base.params.commitRetry ∧
      (inFlight (engineIn .fencing .awaitHold q 3)).commit.engine = .fencing ∧
      (inFlight (engineIn .fencing .awaitHold q 3)).commit.queued = none ∧
      ((inFlight (engineIn .fencing .awaitHold q 3)).phaseRec 1).phase = q ∧
      ∀ c : Slot, c ≠ 0 → ((inFlight (engineIn .fencing .awaitHold q 3)).phaseRec c).phase ≠ .awaitHold) ∧
    (∀ c : Slot, c ≠ 0 → ((inFlight (engineIn .releasing .awaitResume .done 3)).phaseRec c).phase ≠ .awaitResume) ∧
    ((inFlight (engineIn .releasing .awaitResume .done 3)).commit.direction = .forward ∧
      (inFlight { engineIn .releasing .awaitResume .done 3 with direction := .abort }).commit.direction = .abort) ∧
    ((inFlight (queuedIn .fencing .awaitHold .outside)).commit.queued = some 2 ∧
      (inFlight (queuedIn .releasing .awaitResume .done)).commit.queued = some 2 ∧
      ((inFlight (queuedIn .fencing .awaitHold .outside)).card 1).state = .joined) ∧
    (inFlight (engineIn .fencing .awaitHold .outside 3)).alarms.length < 127 := by decide +kernel

/-- A commit queued and no other card Joined: the card of slot 1 alone, awaited in Fencing or in Releasing. -/
theorem meets_CommitTimeoutsRule_alone :
    ∀ x ∈ [(EngineState.fencing, Phase.awaitHold), (.releasing, .awaitResume)],
      let s := withCard 0 (cardIn .joined) { base with commit := queuedIn x.1 x.2 .outside };
      s.commit.queued = some 2 ∧ s.commit.queued ≠ s.commit.active ∧ (s.phaseRec 0).phase = x.2 ∧
        (s.phaseRec 0).timerOn = true ∧ ¬ (s.phaseRec 0).resends < s.params.commitRetry ∧
        (s.card 0).state = .joined ∧ (∀ c : Slot, c ≠ 0 → (s.card c).state ≠ .joined ∧ (s.phaseRec c).phase = .outside) ∧
        NamesLawful s := by
  unfold NamesLawful TableLawful; decide +kernel

theorem meets_AbortAndWithdrawRule : MasterClear base .a ∧ base.commit.engine = .idle ∧
    MasterClear (inFlight (engineIn .fencing .awaitHold .held 0)) .a ∧
    (engineIn .releasing .awaitResume .done 0).engine = .releasing ∧
    (engineIn .fencing .awaitHold .held 0).engine = .fencing ∧
    ((inFlight (engineIn .fencing .awaitHold .held 0)).phaseRec 0).phase = .awaitHold ∧
    (∀ c, ((inFlight (engineIn .fencing .awaitHold .held 0)).phaseRec c).phase ≠ .awaitResume) ∧
    ((inFlight (engineIn .fencing .awaitHold .late 0)).phaseRec 1).phase = .late ∧
    base.zones.workingState = .editable ∧ (workingIn .frozen).zones.workingState = .frozen := by
  unfold MasterClear PortClear PortTakes; decide +kernel

/-! ### Names and alarms -/

/-- A state with one Name Map entry. -/
def withName (st : NameStatus) (n : PortIx) (s : State) : State :=
  { s with names := [(2047, { name := 5, port := n, status := st })] }

theorem withName_lawful (st : NameStatus) (n : PortIx) (s : State) : NamesLawful (withName st n s) := by
  simp [NamesLawful, TableLawful, withName]

theorem meets_LoginLogoutRule : (inService.card 0).state = .joined ∧ NamesLawful inService ∧ 48 ≤ (48 : Byte).toNat ∧
    slotOf 0 = 0 ∧ posOf 0 = (0 : Byte).toNat ∧ serviceable inService 0 = true ∧ serviceable inService 15 = false ∧
    (∀ x ∈ inService.names, x.2.name ≠ 5) ∧ (inService.port 0).logins < 4 ∧ tableGet inService.names 0 = none ∧
    4 ≤ ((oneUp { boundPort .admitted false with logins := 4 } PowerBudget.cold).port 0).logins ∧
    slotOf 671 ≠ 0 ∧ (2047, { name := 5, port := 0, status := .pinned }) ∈ (withName .pinned 0 inService).names ∧
    (2047, { name := 5, port := 671, status := .learned }) ∈ (withName .learned 671 inService).names := by
  refine ⟨by decide +kernel, inService_laws.2.2.2.1, ?_⟩
  decide +kernel

/-- Position k of a full Name Map. -/
def fullNames : List (Nat × NameEntry) :=
  (List.range 2048).map fun k => (k, { name := BitVec.ofNat 64 (k + 6), port := 0, status := .pinned })

theorem fullNames_length : fullNames.length = 2048 := by simp [fullNames]

theorem fullNames_lawful : NamesLawful { base with names := fullNames } := by
  refine ⟨⟨?_, ?_⟩, ?_, ?_⟩
  · simpa [fullNames, Function.comp_def] using List.pairwise_lt_range
  · simp [fullNames]
  · simp only [fullNames, List.pairwise_map]
    refine List.Pairwise.imp_of_mem ?_ List.pairwise_lt_range
    intro a b ha hb h e
    have := congrArg BitVec.toNat e
    simp at ha hb this
    omega
  · simp only [fullNames, List.mem_map, List.mem_range]
    rintro x ⟨k, hk, rfl⟩ e
    have := congrArg BitVec.toNat e
    simp at this
    omega

/-- The Name Map full: a Pin finds no position, and a Login on a Serviceable port none. -/
theorem meets_fullNameMap : NamesLawful { base with names := fullNames } ∧ fullNames.length = 2048 ∧
    ∀ x ∈ fullNames, x.2.name ≠ 5 := by
  refine ⟨fullNames_lawful, fullNames_length, ?_⟩
  simp only [fullNames, List.mem_map, List.mem_range]
  rintro x ⟨k, hk, rfl⟩ e
  have := congrArg BitVec.toNat e
  simp at this
  omega

/-- Ports 0 and 1 of the card Live, with the device 5 logged in on port 0. -/
def liveNames : State :=
  withName .learned 0 (oneUp { boundPort .admitted false with link := .lit } PowerBudget.cold)

theorem meets_QueryRule : (liveNames.card 0).state = .joined ∧ NamesLawful liveNames ∧ live inService 0 = false ∧
    live liveNames 0 = true ∧ (∃ x ∈ liveNames.names, x.2.name = 5 ∧ x.2.port = 0 ∧ x.2.status ≠ .pinned) ∧
    (∀ x ∈ liveNames.names, x.2.name ≠ 6) ∧ live liveNames 1 = false ∧ (5 : DevName) ≠ 6 ∧ 48 ≤ (48 : Byte).toNat := by
  refine ⟨by decide +kernel, withName_lawful _ _ _, ?_⟩
  decide +kernel

/-- A second device, logged in on the same Live port: both ends of a Query are Live. -/
def livePair : State :=
  { liveNames with names := [(0, { name := 5, port := 0, status := .learned }),
      (1, { name := 6, port := 0, status := .pinnedPresent })] }

theorem meets_QueryRule_pair : NamesLawful livePair ∧ live livePair 0 = true ∧
    (∃ x ∈ livePair.names, x.2.name = 5 ∧ x.2.port = 0 ∧ x.2.status ≠ .pinned) ∧
    (∃ x ∈ livePair.names, x.2.name = 6 ∧ x.2.port = 0 ∧ x.2.status ≠ .pinned) := by
  unfold NamesLawful TableLawful; decide +kernel

theorem meets_NameCommandsRule : MasterClear (withName .learned 0 base) .a ∧ NamesLawful (withName .learned 0 base) ∧
    (2047, { name := 5, port := 0, status := .learned }) ∈ (withName .learned 0 base).names ∧
    (2047, { name := 5, port := 0, status := .pinned }) ∈ (withName .pinned 0 base).names ∧
    (2047, { name := 5, port := 0, status := .pinnedPresent }) ∈ (withName .pinnedPresent 0 base).names ∧
    671 < (672 : Half).toNat ∧ (671 : Half).toNat = (671 : PortIx).val ∧ (5 : DevName) ≠ 0 ∧
    (∀ x ∈ base.names, x.2.name ≠ 5) ∧ tableGet base.names 0 = none :=
  ⟨base_masterClear, withName_lawful _ _ _, by simp [withName], by simp [withName], by simp [withName], by decide, by decide,
    by decide, by simp [base, State.reset], rfl⟩

/-- An alarm entry in a state. -/
def alarmIn (c : Cause) (st : AlarmState) : AlarmEntry :=
  { cause := c, subject := 3, severity := .minor, state := st, count := 255, first := 0, last := 0, silent := false, detail := 0 }

/-- `base` with an entry at the last position. -/
def withAlarm (c : Cause) (st : AlarmState) : State := { base with alarms := [(127, alarmIn c st)] }

theorem meets_AlarmsRule : (∀ c st, AlarmsLawful (withAlarm c st) ∧ tableGet (withAlarm c st).alarms 127 = some (alarmIn c st)) ∧
    tableGet (withAlarm .rule .raised).alarms 0 = none ∧ MasterClear (withAlarm .rule .raised) .a ∧
    127 < (128 : Byte).toNat ∧ (127 : Byte).toNat ≤ 127 ∧ (8 : Byte).toNat = Cause.commitDegraded.code ∧
    (3 : Byte).toNat = (alarmIn .commitDegraded .raised).subject ∧ (4 : Byte).toNat ≠ (alarmIn .rule .raised).subject ∧
    (∀ x ∈ base.alarms, ¬ (x.2.cause = Cause.rule ∧ x.2.subject = 3)) := by
  refine ⟨fun c st => ⟨by simp [AlarmsLawful, TableLawful, withAlarm], rfl⟩, rfl, base_masterClear, by decide, by decide,
    by decide, by decide, by decide, by simp [base, State.reset]⟩

/-- `base` with this alarm entry, silent. -/
def withSilent (st : AlarmState) : State := { base with alarms := [(127, { alarmIn .rule st with silent := true })] }

/-- For Acknowledge All: an entry not silent that is not Acknowledged; a silent one; every entry Acknowledged. -/
theorem meets_AlarmsRule_all : MasterClear (withSilent .raised) .a ∧ AlarmsLawful (withSilent .raised) ∧
    (∃ x ∈ (withAlarm .rule .raised).alarms, x.2.state ≠ .acknowledged ∧ x.2.silent = false) ∧
    (∃ x ∈ (withSilent .raised).alarms, x.2.state ≠ .acknowledged) ∧
    (∀ x ∈ (withSilent .raised).alarms, x.2.state ≠ .acknowledged → x.2.silent = true) ∧
    ∀ x ∈ (withAlarm .rule .acknowledged).alarms, ¬ x.2.state ≠ .acknowledged := by
  unfold MasterClear PortClear PortTakes AlarmsLawful TableLawful; decide +kernel

/-- What FetchTables asks of an image, a position of the Name Map and one of the Alarm Table. -/
theorem meets_FetchTables : ImageLawful base.zones.live ∧ ImageLawful twoZones.zones.working ∧
    plain 1 0x41 [named 5] ∈ twoZones.zones.working.zones ∧ tableGet base.names 2047 = none ∧
    tableGet (withName .learned 671 base).names 2047 = some { name := 5, port := 671, status := .learned } ∧
    tableGet base.alarms 127 = none ∧ tableGet (withAlarm .rule .raised).alarms 127 = some (alarmIn .rule .raised) := by
  refine ⟨?_, twoZones_lawful.1, ?_⟩
  · unfold ImageLawful ZoneLawful; decide +kernel
  · decide +kernel

/-! ### Invariants and encodings -/

/-- `base` with one second to count. -/
def ticking : State := { base with pending := [.uptimeTick] }

theorem ticking_steps : ∃ t, step ticking = .next t ∧ t.uptime = 1 := ⟨_, rfl, by decide +kernel⟩

theorem meets_EveryStep : AlertsFollow ticking ∧ PowerFollows ticking ∧ CapFollows ticking ∧ DeficitFollows ticking ∧
    AlarmsLawful ticking ∧ NamesLawful ticking ∧ ImagesLawful ticking ∧ DutyFollows ticking ∧ TurnFollows ticking := by
  refine ⟨?_, ?_, ?_, ?_, ?_, ?_, ?_, ?_, ?_⟩
  · rintro (_ | _) <;> rfl
  · unfold PowerFollows; decide +kernel
  · unfold CapFollows; decide +kernel
  · unfold DeficitFollows; decide +kernel
  · unfold AlarmsLawful TableLawful; decide +kernel
  · unfold NamesLawful TableLawful; decide +kernel
  · unfold ImagesLawful ImageLawful ZoneLawful; decide +kernel
  · unfold DutyFollows; decide +kernel
  · exact fun u h => nomatch h

/-- The device 5 logged in on port 0. -/
def loggedInOn0 : State :=
  { withName .learned 0 (oneUp { boundPort .admitted false with link := .lit, logins := 1 } PowerBudget.cold) with
    pending := [.uptimeTick] }

theorem meets_LoginsFollowEveryStep : NamesLawful loggedInOn0 ∧ WaitListFollows loggedInOn0 ∧ LoginsFollow loggedInOn0 ∧
    ∃ t, step loggedInOn0 = .next t := by
  have hp : ∀ m, m ≠ 0 → loggedInOn0.port m = PortRec.cold := fun _ h =>
    oneUp_port_ne h { boundPort .admitted false with link := .lit, logins := 1 } PowerBudget.cold
  refine ⟨withName_lawful .learned 0 base, waitListFollows_of_one 0 hp (by decide +kernel), ⟨fun n => ?_, ?_⟩, _, rfl⟩
  · by_cases h : n = 0
    · subst h; decide +kernel
    · rw [hp n h]
      have h' : ¬ (0 : PortIx) = n := fun e => h e.symm
      simp [loggedInOn0, withName, loggedIn, PortRec.cold, h']
  · decide +kernel

/-- A commit in Fencing over two Joined cards, a second to count. -/
def fencing : State := { inFlight (engineIn .fencing .awaitHold .awaitHold 0) with pending := [.uptimeTick] }

theorem meets_CommitLawfulEveryStep : WaitListFollows fencing ∧ CommitLawful fencing ∧ ∃ t, step fencing = .next t := by
  refine ⟨waitListFollows_of_one 0 (fun m _ => base_port m) (by decide +kernel), ?_, _, rfl⟩
  unfold CommitLawful; decide +kernel

/-- The wait list of one port in its order, a second to count. -/
theorem meets_WaitListOrderedEveryStep : WaitListFollows roomyPort ∧ WaitListOrdered roomyPort ∧
    roomyPort.power.waitList ≠ [] :=
  ⟨roomyPort_waitListFollows, List.pairwise_singleton .., by decide +kernel⟩

theorem meets_ArmedByMasterEveryStep : ArmedByMaster ticking := by
  refine ⟨?_, fun h => absurd h (by decide)⟩
  rintro (_ | _) h <;> exact absurd rfl h

theorem meets_PoolsAndDrawEveryStep : PoolsLawful base ∧ WaitListFollows base ∧ DrawLawful base ∧ step base = .next base :=
  ⟨base_poolsLawful, base_waitListFollows, base_drawLawful, rfl⟩

theorem meets_EncodingsAgree : (Instr.setSetName fA letterField).wf = true ∧
    encodeTransaction (.setSetName fA letterField) = some (.a, frameBytes 7 0x32 letterField) ∧
    encodeMessage (.ready 0 5) = some (0, messageBytes 0x42 [0#8, 0#8, 0#8, 5#8]) := by decide +kernel

end Sys2Proof.Tests
end

/-! PROOFS. What a message to every Joined card writes (R123), what the removal of a port's logins leaves (R121, R122), and
from these the table of Link messages (R8). -/

namespace Sys2Proof.Machine

/-! ## Tables of positions: what a write or an erasure reads back -/

theorem tableGet_tableSet {α : Type} (i j : Nat) (a : α) (t : List (Nat × α)) :
    tableGet (tableSet i a t) j = if j = i then some a else tableGet t j := by
  induction t with
  | nil => simp [tableSet, tableGet, eq_comm]
  | cons y t ih =>
    obtain ⟨k, b⟩ := y
    simp only [tableSet]
    split
    · simp [tableGet, eq_comm]
    · split
      · rename_i hik
        subst hik
        by_cases hj : j = i
        · simp [tableGet, hj]
        · simp [tableGet, hj, Ne.symm hj]
      · simp only [tableGet, ih]
        by_cases hk : k = j
        · have hji : j ≠ i := fun h => by omega
          simp [hk, hji]
        · simp [hk]

theorem tableGet_tableErase {α : Type} (i j : Nat) (t : List (Nat × α)) :
    tableGet (tableErase i t) j = if j = i then none else tableGet t j := by
  induction t with
  | nil => simp [tableErase, tableGet]
  | cons y t ih =>
    obtain ⟨k, b⟩ := y
    unfold tableErase at ih ⊢
    by_cases hk : k = i
    · subst hk
      by_cases hj : j = k <;> simp_all [tableGet, eq_comm]
    · by_cases hj : k = j <;> simp_all [tableGet]

/-! ## Messages to the Joined cards (R123) -/

/-- A card record with messages behind those that wait, if the card is Joined. -/
def CardRec.told (c : CardRec) (l : List CardMsg) : CardRec :=
  if c.state = .joined then { c with outbox := c.outbox ++ l } else c

@[simp] theorem CardRec.told_nil (c : CardRec) : c.told [] = c := by
  simp [CardRec.told]

@[simp] theorem CardRec.told_told (c : CardRec) (l l' : List CardMsg) : (c.told l).told l' = c.told (l ++ l') := by
  by_cases h : c.state = .joined <;> simp [CardRec.told, h]

/-- One slot's part of `sendJoined`. -/
def sendIfJoined (m : CardMsg) (slot : Slot) (s : State) : State :=
  if (s.card slot).state = .joined then send slot m s else s

theorem sendJoined_eq_forEach (m : CardMsg) (s : State) : sendJoined m s = forEach allSlots (sendIfJoined m) s := rfl

theorem sendIfJoined_card (m : CardMsg) (slot c : Slot) (s : State) :
    (sendIfJoined m slot s).card c = if slot = c then (s.card c).told [m] else s.card c := by
  unfold sendIfJoined CardRec.told
  by_cases hc : slot = c
  · subst hc
    split <;> simp [send]
  · split <;> simp [send, modCard_card, hc]

theorem forEach_sendIfJoined_card (m : CardMsg) (c : Slot) {l : List Slot} (hl : l.Nodup) (s : State) :
    (forEach l (sendIfJoined m) s).card c = if c ∈ l then (s.card c).told [m] else s.card c := by
  induction l generalizing s with
  | nil => simp [forEach]
  | cons x l ih =>
    obtain ⟨hx, hl⟩ := List.nodup_cons.1 hl
    have hstep : forEach (x :: l) (sendIfJoined m) s = forEach l (sendIfJoined m) (sendIfJoined m x s) := rfl
    rw [hstep, ih hl, sendIfJoined_card]
    by_cases hc : x = c
    · subst hc
      simp [hx]
    · simp [hc, Ne.symm hc]

/-- Every Joined card, and no other, gets the message (R123). -/
theorem sendJoined_card (m : CardMsg) (c : Slot) (s : State) : (sendJoined m s).card c = (s.card c).told [m] := by
  have hslots : allSlots.Nodup ∧ c ∈ allSlots := ⟨List.nodup_finRange 14, List.mem_finRange c⟩
  rw [sendJoined_eq_forEach, forEach_sendIfJoined_card m c hslots.1, if_pos hslots.2]

/-- Sending to the Joined cards writes card records and nothing else. -/
theorem sendJoined_eq (m : CardMsg) (s : State) : sendJoined m s = { s with cards := (sendJoined m s).cards } := by
  rw [sendJoined_eq_forEach]
  generalize allSlots = l
  induction l generalizing s with
  | nil => rfl
  | cons x l ih =>
    have hstep : forEach (x :: l) (sendIfJoined m) s = forEach l (sendIfJoined m) (sendIfJoined m x s) := rfl
    have hone : sendIfJoined m x s = { s with cards := (sendIfJoined m x s).cards } := by
      unfold sendIfJoined
      split <;> rfl
    rw [hstep, ih, hone]

@[simp] theorem sendJoined_names (m : CardMsg) (s : State) : (sendJoined m s).names = s.names := by
  rw [sendJoined_eq]

@[simp] theorem sendJoined_port (m : CardMsg) (s : State) (n : PortIx) : (sendJoined m s).port n = s.port n :=
  port_of_ports (by rw [sendJoined_eq]) n

/-! ## The end of one login (R121) -/

/-- What is left of an entry once its login ends: a Learned entry is freed, a PinnedPresent one becomes Pinned (R121). -/
def NameEntry.loggedOut (e : NameEntry) : Option NameEntry :=
  match e.status with
  | .learned => none
  | .pinnedPresent => some { e with status := .pinned }
  | .pinned => some e

theorem NameEntry.loggedOut_of_not_loggedIn {e : NameEntry} (h : e.status.loggedIn = false) : e.loggedOut = some e := by
  unfold NameEntry.loggedOut
  cases hs : e.status <;> simp_all [NameStatus.loggedIn]

/-- The Name Map with the login of the entry at a position ended. -/
def writeLogout (pos : Nat) (e : NameEntry) (s : State) : State :=
  match e.status with
  | .learned => freeName pos s
  | .pinnedPresent => putName pos { e with status := .pinned } s
  | .pinned => s

theorem endLogin_eq (pos : Nat) (e : NameEntry) (s : State) :
    endLogin pos e s = sendJoined (.purge e.name) (lowerLogins e.port (writeLogout pos e s)) := rfl

theorem writeLogout_eq (pos : Nat) (e : NameEntry) (s : State) :
    writeLogout pos e s = { s with names := (writeLogout pos e s).names } := by
  unfold writeLogout
  split <;> rfl

theorem writeLogout_port (pos : Nat) (e : NameEntry) (s : State) (n : PortIx) :
    (writeLogout pos e s).port n = s.port n :=
  port_of_ports (by rw [writeLogout_eq]) n

theorem writeLogout_card (pos : Nat) (e : NameEntry) (s : State) (c : Slot) :
    (writeLogout pos e s).card c = s.card c :=
  card_of_cards (by rw [writeLogout_eq]) c

/-- The end of a login writes ports, cards and names and nothing else (R121, R123). -/
theorem endLogin_frame (pos : Nat) (e : NameEntry) (s : State) : endLogin pos e s =
    { s with ports := (endLogin pos e s).ports, cards := (endLogin pos e s).cards, names := (endLogin pos e s).names } := by
  obtain ⟨names, hw⟩ : ∃ names, writeLogout pos e s = { s with names := names } := ⟨_, writeLogout_eq pos e s⟩
  obtain ⟨cards, hc⟩ : ∃ cards, endLogin pos e s = { lowerLogins e.port { s with names := names } with cards := cards } :=
    ⟨_, by rw [endLogin_eq, hw]; exact sendJoined_eq _ _⟩
  rw [hc]
  rfl

theorem tableGet_writeLogout {pos : Nat} {e : NameEntry} {s : State} (he : tableGet s.names pos = some e) (p : Nat) :
    tableGet (writeLogout pos e s).names p = if p = pos then e.loggedOut else tableGet s.names p := by
  unfold writeLogout NameEntry.loggedOut
  cases e.status with
  | learned => exact tableGet_tableErase pos p s.names
  | pinnedPresent => exact tableGet_tableSet pos p _ s.names
  | pinned =>
    by_cases hp : p = pos
    · simp [hp, he]
    · simp [hp]

/-- From s to t the logins of these entries, all of port n, have ended: each entry is as its logout leaves it, a Purge for each
waits for every Joined card in their order, and of the ports only the login count of n may differ (R121 to R123). -/
structure LoginsEnded (n : PortIx) (l : List (Nat × NameEntry)) (s t : State) : Prop where
  frame : t = { s with ports := t.ports, cards := t.cards, names := t.names }
  ended : ∀ x ∈ l, tableGet t.names x.1 = x.2.loggedOut
  kept : ∀ pos, pos ∉ l.map Prod.fst → tableGet t.names pos = tableGet s.names pos
  port : t.port n = { s.port n with logins := (t.port n).logins }
  others : ∀ m, m ≠ n → t.port m = s.port m
  cards : ∀ c, t.card c = (s.card c).told (l.map fun x => .purge x.2.name)

theorem endLogin_loginsEnded {pos : Nat} {e : NameEntry} {s : State} (he : tableGet s.names pos = some e) :
    LoginsEnded e.port [(pos, e)] s (endLogin pos e s) := by
  have hnames : (endLogin pos e s).names = (writeLogout pos e s).names := by
    rw [endLogin_eq, sendJoined_names, lowerLogins, modPort_names]
  have hport : ∀ m, (endLogin pos e s).port m = (lowerLogins e.port s).port m := fun m => by
    rw [endLogin_eq, sendJoined_port, lowerLogins, lowerLogins, modPort_port, modPort_port, writeLogout_port,
      writeLogout_port]
  refine ⟨?_, ?_, fun p hp => ?_, ?_, fun m hm => ?_, fun c => ?_⟩
  · exact endLogin_frame pos e s
  · simp [hnames, tableGet_writeLogout he]
  · have hp : p ≠ pos := by simpa using hp
    rw [hnames, tableGet_writeLogout he, if_neg hp]
  · rw [hport, lowerLogins, modPort_port_same]
  · rw [hport, lowerLogins, modPort_port, if_neg hm.symm]
  · rw [endLogin_eq, sendJoined_card, lowerLogins, modPort_card, writeLogout_card]
    rfl

/-! ## The removal of a port's logins (R122) -/

theorem LoginsEnded.refl (n : PortIx) (s : State) : LoginsEnded n [] s s :=
  ⟨rfl, by simp, fun _ _ => rfl, rfl, fun _ _ => rfl, fun c => (CardRec.told_nil _).symm⟩

theorem LoginsEnded.cons {n : PortIx} {x : Nat × NameEntry} {l : List (Nat × NameEntry)} {s u t : State}
    (h : LoginsEnded n [x] s u) (h' : LoginsEnded n l u t) (hx : x.1 ∉ l.map Prod.fst) : LoginsEnded n (x :: l) s t := by
  refine ⟨?_, fun y hy => ?_, fun pos hpos => ?_, ?_, fun m hm => ?_, fun c => ?_⟩
  · rw [h'.frame, h.frame]
  · rcases List.mem_cons.1 hy with rfl | hy
    · rw [h'.kept _ hx, h.ended _ List.mem_cons_self]
    · exact h'.ended y hy
  · obtain ⟨hne, hl⟩ : pos ≠ x.1 ∧ pos ∉ l.map Prod.fst := by simpa using hpos
    rw [h'.kept pos hl, h.kept pos (by simpa using hne)]
  · rw [h'.port, h.port]
  · rw [h'.others m hm, h.others m hm]
  · rw [h'.cards, h.cards, CardRec.told_told, List.map_cons, List.map_cons, List.map_nil, List.singleton_append]

/-- Ending the logins at distinct positions in turn ends the logins of the entries that stand there. -/
theorem forEach_endLoginAt {n : PortIx} {l : List (Nat × NameEntry)} {s : State} (hd : (l.map Prod.fst).Nodup)
    (hl : ∀ x ∈ l, tableGet s.names x.1 = some x.2 ∧ x.2.port = n) :
    LoginsEnded n l s (forEach (l.map Prod.fst) endLoginAt s) := by
  induction l generalizing s with
  | nil => exact .refl n s
  | cons x l ih =>
    obtain ⟨hx, hd⟩ := List.nodup_cons.1 hd
    obtain ⟨he, rfl⟩ := hl x List.mem_cons_self
    have hfirst : LoginsEnded x.2.port [x] s (endLogin x.1 x.2 s) := endLogin_loginsEnded he
    have hat : endLoginAt x.1 s = endLogin x.1 x.2 s := by simp [endLoginAt, he]
    have hrun : forEach ((x :: l).map Prod.fst) endLoginAt s
        = forEach (l.map Prod.fst) endLoginAt (endLogin x.1 x.2 s) := by
      rw [← hat]
      rfl
    rw [hrun]
    refine hfirst.cons (ih hd fun y hy => ?_) hx
    obtain ⟨hg, hp⟩ := hl y (List.mem_cons_of_mem _ hy)
    have hne : y.1 ≠ x.1 := fun h => hx (h ▸ List.mem_map_of_mem hy)
    exact ⟨by rw [hfirst.kept y.1 (by simpa using hne), hg], hp⟩

/-- The entries that are logged in on a port, by ascending position. -/
def entriesOn (s : State) (n : PortIx) : List (Nat × NameEntry) :=
  s.names.filter fun x => x.2.port == n && x.2.status.loggedIn

theorem mem_entriesOn {s : State} {n : PortIx} {x : Nat × NameEntry} :
    x ∈ entriesOn s n ↔ x ∈ s.names ∧ x.2.port = n ∧ x.2.status.loggedIn = true := by
  simp [entriesOn]

theorem removeLogins_eq (n : PortIx) (s : State) : removeLogins n s =
    (forEach ((entriesOn s n).map Prod.fst) endLoginAt s).modPort n fun r => { r with logins := 0 } := rfl

/-- The removal of a port's logins ends the login of each entry on it (R122). -/
theorem forEach_loginsOn_ended (n : PortIx) {s : State} (h : NamesLawful s) :
    LoginsEnded n (entriesOn s n) s (forEach ((entriesOn s n).map Prod.fst) endLoginAt s) := by
  obtain ⟨htable, -, -⟩ := h
  refine forEach_endLoginAt ?_ fun x hx => ?_
  · have hnodup : (s.names.map Prod.fst).Nodup := htable.1.imp Nat.ne_of_lt
    exact hnodup.sublist (List.filter_sublist.map _)
  · obtain ⟨hm, hp, -⟩ := mem_entriesOn.1 hx
    exact ⟨htable.get_of_mem hm, hp⟩

/-- The removal of a port's logins writes ports, cards and names and nothing else. -/
theorem removeLogins_frame (n : PortIx) {s : State} (h : NamesLawful s) : removeLogins n s =
    { s with ports := (removeLogins n s).ports, cards := (removeLogins n s).cards, names := (removeLogins n s).names } := by
  rw [removeLogins_eq, (forEach_loginsOn_ended n h).frame]
  rfl

/-- The port itself keeps everything but its login count, which is 0 (R122). -/
theorem removeLogins_port (n : PortIx) {s : State} (h : NamesLawful s) :
    (removeLogins n s).port n = { s.port n with logins := 0 } := by
  rw [removeLogins_eq, modPort_port_same, (forEach_loginsOn_ended n h).port]

theorem removeLogins_port_other {n m : PortIx} (hm : m ≠ n) {s : State} (h : NamesLawful s) :
    (removeLogins n s).port m = s.port m := by
  rw [removeLogins_eq, modPort_port, if_neg hm.symm, (forEach_loginsOn_ended n h).others m hm]

/-- Each Joined card gets a Purge for each name logged in on the port (R123). -/
theorem removeLogins_card (n : PortIx) {s : State} (h : NamesLawful s) (c : Slot) :
    (removeLogins n s).card c = (s.card c).told ((loggedIn s n).map .purge) := by
  rw [removeLogins_eq, modPort_card, (forEach_loginsOn_ended n h).cards, loggedIn, List.map_map]
  rfl

/-- Each entry of the Name Map: as its logout leaves it on the port, as it was on any other (R121, R122). -/
theorem tableGet_removeLogins (n : PortIx) {s : State} (h : NamesLawful s) (pos : Nat) :
    tableGet (removeLogins n s).names pos =
      (tableGet s.names pos).bind fun e => if e.port = n then e.loggedOut else some e := by
  have hrun := forEach_loginsOn_ended n h
  rw [removeLogins_eq, modPort_names]
  by_cases hpos : pos ∈ (entriesOn s n).map Prod.fst
  · obtain ⟨⟨_, e⟩, hx, rfl⟩ := List.mem_map.1 hpos
    obtain ⟨hm, hp, -⟩ := mem_entriesOn.1 hx
    simp only [hrun.ended _ hx, h.1.get_of_mem hm, Option.bind_some, if_pos hp]
  · rw [hrun.kept pos hpos]
    cases hg : tableGet s.names pos with
    | none => rfl
    | some e =>
      rw [Option.bind_some]
      split
      · rename_i hp
        have hout : e.status.loggedIn = false := by
          by_contra hin
          have hx : (pos, e) ∈ entriesOn s n := mem_entriesOn.2 ⟨mem_of_tableGet hg, hp, by simpa using hin⟩
          exact hpos (List.mem_map_of_mem hx)
        rw [NameEntry.loggedOut_of_not_loggedIn hout]
      · rfl

theorem removeLogins_loginsGone (n : PortIx) {s : State} (h : NamesLawful s) : LoginsGone s (removeLogins n s) n := by
  refine ⟨fun pos => ?_, by rw [removeLogins_port n h]⟩
  rw [tableGet_removeLogins n h]
  cases tableGet s.names pos <;> rfl

/-! ## Link messages (R8) -/

/-- A port stands at its position of its slot (R1). -/
theorem portAt_slotOf_posOf (n : PortIx) : portAt (slotOf n) (posOf n) = some n := by
  have hpos : posOf n < 48 := Nat.mod_lt _ (by decide)
  rw [portAt, dif_pos hpos]
  exact congrArg some (Fin.ext (Nat.div_add_mod n.val 48))

/-- The port at a position is of the slot and stands there (R1). -/
theorem of_portAt {slot : Slot} {pos : Nat} {n : PortIx} (h : portAt slot pos = some n) :
    slotOf n = slot ∧ posOf n = pos := by
  unfold portAt at h
  split at h
  · obtain rfl := Option.some.inj h
    constructor
    · apply Fin.ext
      simp only [slotOf, portOf]
      omega
    · simp only [posOf, portOf]
      omega
  · cases h

theorem isJoined_iff (st : CardState) : st.isJoined = true ↔ st = .joined := by
  cases st <;> simp [CardState.isJoined]

theorem exec_link (slot : Slot) (position : Byte) (lit : Bool) (s : State) : exec (.link slot position lit) s =
    .next (takeMessage slot CardState.isJoined (takeLink slot position lit) s) := rfl

/-- A Link message from a card that is not Joined is discarded (R40). -/
theorem exec_link_of_not_joined {slot : Slot} {s : State} (h : (s.card slot).state ≠ .joined) (position : Byte) (lit : Bool) :
    exec (.link slot position lit) s = .next s := by
  rw [exec_link, takeMessage, if_neg (mt (isJoined_iff _).1 h)]

theorem exec_link_of_joined {slot : Slot} {s : State} (h : (s.card slot).state = .joined) (position : Byte) (lit : Bool) :
    exec (.link slot position lit) s = .next (takeLink slot position lit s) := by
  rw [exec_link, takeMessage, if_pos ((isJoined_iff _).2 h)]

/-- A position at or above the card's port count is discarded (R8). -/
theorem takeLink_above_count {slot : Slot} {position : Byte} {s : State} (h : (s.card slot).portCount ≤ position.toNat)
    (lit : Bool) : takeLink slot position lit s = s := by
  unfold takeLink
  cases hn : portAt slot position.toNat with
  | none => rfl
  | some n =>
    obtain ⟨hs, hp⟩ := of_portAt hn
    have hout : withinCount s n = false := by simpa [withinCount, cardOf, hs, hp] using h
    simp [hout]

/-- A position below the card's port count reports the link of the port that stands there (R8). -/
theorem takeLink_within_count {n : PortIx} {position : Byte} {s : State} (hp : posOf n = position.toNat)
    (h : position.toNat < (s.card (slotOf n)).portCount) (lit : Bool) :
    takeLink (slotOf n) position lit s = linkReport n lit s := by
  have hin : withinCount s n = true := by simpa [withinCount, cardOf, hp] using h
  simp [takeLink, ← hp, portAt_slotOf_posOf, hin]

theorem linkReport_lit_of_not_serviceable {n : PortIx} {s : State} (h : serviceable s n = false) :
    linkReport n true s = send (slotOf n) (.revoke (posOf n)) s := by
  simp [linkReport, h]

theorem linkReport_dark_of_not_serviceable {n : PortIx} {s : State} (h : serviceable s n = false) :
    linkReport n false s = s := by
  simp [linkReport, h]

/-- A port record written as it stands changes nothing. -/
theorem modPort_of_fixed {n : PortIx} {f : PortRec → PortRec} {s : State} (h : f (s.port n) = s.port n) :
    s.modPort n f = s := by
  simp only [State.modPort, h]
  simp [State.port]

/-- A Lit report makes the link of a Serviceable port Lit, whatever it was (R8). -/
theorem linkReport_lit_of_serviceable {n : PortIx} {s : State} (h : serviceable s n = true) :
    linkReport n true s = s.modPort n fun r => { r with link := .lit } := by
  cases hl : (s.port n).link with
  | dark => simp [linkReport, h, hl]
  | lit =>
    rw [modPort_of_fixed (by rw [← hl])]
    simp [linkReport, h, hl]

theorem linkReport_dark_of_dark {n : PortIx} {s : State} (h : serviceable s n = true) (hl : (s.port n).link = .dark) :
    linkReport n false s = s := by
  simp [linkReport, h, hl]

/-- A Dark report of a Serviceable port that was Lit removes its logins (R8). -/
theorem linkReport_dark_of_lit {n : PortIx} {s : State} (h : serviceable s n = true) (hl : (s.port n).link = .lit) :
    linkReport n false s = removeLogins n (s.modPort n fun r => { r with link := .dark }) := by
  simp [linkReport, h, hl]

end Sys2Proof.Machine

section
open Sys2Proof Sys2Proof.Machine

/-- Settles O24, row by row of the table of R8. -/
theorem linkRule : Obligations.LinkRule := by
  refine ⟨fun slot position lit s h => exec_link_of_not_joined h position lit, fun slot position s hj hnames => ?_⟩
  simp only [exec_link_of_joined hj]
  refine ⟨fun habove lit => by rw [takeLink_above_count habove], ?_⟩
  rintro n rfl hpos hbelow
  simp only [takeLink_within_count hpos hbelow]
  refine ⟨fun hno => ⟨?_, ?_⟩, fun hserv => ⟨?_, fun hdark => ?_, fun hlit => ?_⟩⟩
  · rw [linkReport_lit_of_not_serviceable hno, hpos]
    rfl
  · rw [linkReport_dark_of_not_serviceable hno]
  · rw [linkReport_lit_of_serviceable hserv]
    rfl
  · rw [linkReport_dark_of_dark hserv hdark]
  · refine ⟨_, rfl, ?_⟩
    rw [linkReport_dark_of_lit hserv hlit]
    have hdarkNames : NamesLawful (s.modPort n fun r => { r with link := .dark }) := hnames.of_names rfl
    refine ⟨?_, removeLogins_loginsGone n hdarkNames, ?_, fun m hm => ?_, fun c => ?_⟩
    · exact removeLogins_frame n hdarkNames
    · rw [removeLogins_port n hdarkNames, modPort_port_same]
    · rw [removeLogins_port_other hm hdarkNames, modPort_port, if_neg hm.symm]
    · exact removeLogins_card n hdarkNames c

end

/-! PROOFS. The available budget by its mode (R45, R46); what the restore pass and the shed pass leave of the Power Budget
Unit and where they bring the admitted draw (R47, R50, R52); and from these Set Power Mode (R48). -/

namespace Sys2Proof.Machine

/-! ## The available budget by the mode (R45) -/

/-- The sum of the counted ratings. -/
theorem ratingSum_all (p : PowerBudget) : ratingSum p (List.finRange 6) = countedRating p 0 + countedRating p 1 +
    countedRating p 2 + countedRating p 3 + countedRating p 4 + countedRating p 5 := by
  simp only [ratingSum, List.finRange, List.ofFn_succ, List.ofFn_zero, List.map_cons, List.map_nil, List.sum_cons,
    List.sum_nil, Fin.isValue, Fin.reduceSucc]
  omega

theorem availableOf_none {p : PowerBudget} (h : p.mode = .none) : availableOf p = ratingSum p (List.finRange 6) := by
  simp only [availableOf, h]

/-- The counted PSUs, ascending. -/
def countedPsus (p : PowerBudget) : List (Fin 6) := (List.finRange 6).filter fun i => p.counted[i].isSome

theorem mem_countedPsus {p : PowerBudget} {i : Fin 6} : i ∈ countedPsus p ↔ p.counted[i] ≠ none := by
  simp [countedPsus, Option.isSome_iff_ne_none]

theorem countedPsus_nodup (p : PowerBudget) : (countedPsus p).Nodup := (List.nodup_finRange 6).filter _

theorem availableOf_nPlus1 {p : PowerBudget} (h : p.mode = .nPlus1) : availableOf p =
    if (countedPsus p).length < 2 then 0
    else ratingSum p (List.finRange 6) - ((List.finRange 6).map (countedRating p)).foldl max 0 := by
  simp only [availableOf, h]
  rfl

theorem length_countedPsus_lt {p : PowerBudget} (h : ∀ i j : Fin 6, p.counted[i] ≠ none → p.counted[j] ≠ none → i = j) :
    (countedPsus p).length < 2 := by
  have hsame : ∀ i ∈ countedPsus p, ∀ j ∈ countedPsus p, i = j := fun i hi j hj =>
    h i j (mem_countedPsus.1 hi) (mem_countedPsus.1 hj)
  have hnodup := countedPsus_nodup p
  match hl : countedPsus p with
  | [] => exact Nat.zero_lt_two
  | [_] => exact Nat.one_lt_two
  | a :: b :: l =>
    rw [hl] at hsame hnodup
    obtain rfl : a = b := hsame a (by simp) b (by simp)
    simp at hnodup

theorem two_le_length_countedPsus {p : PowerBudget} {i j : Fin 6} (hi : p.counted[i] ≠ none) (hj : p.counted[j] ≠ none)
    (hij : i ≠ j) : 2 ≤ (countedPsus p).length := by
  have hpair : [i, j].Nodup := by simpa using hij
  refine (hpair.subperm fun x hx => ?_).length_le
  obtain rfl | rfl : x = i ∨ x = j := by simpa using hx
  · exact mem_countedPsus.2 hi
  · exact mem_countedPsus.2 hj

/-- The largest counted rating is the rating of a PSU that no other exceeds. -/
theorem foldl_max_countedRating {p : PowerBudget} {k : Fin 6} (h : ∀ x, countedRating p x ≤ countedRating p k) :
    ((List.finRange 6).map (countedRating p)).foldl max 0 = countedRating p k := by
  rw [List.foldl_eq_foldr]
  refine le_antisymm (List.max_le_of_forall_le _ _ fun r hr => ?_) ?_
  · obtain ⟨x, -, rfl⟩ := List.mem_map.1 hr
    exact h x
  · exact List.le_max_of_le (List.mem_map_of_mem (List.mem_finRange k)) le_rfl

/-- In N+1 mode with two PSUs counted the largest counted rating is left out (R45). -/
theorem availableOf_nPlus1_of_two {p : PowerBudget} (h : p.mode = .nPlus1) {i j k : Fin 6} (hi : p.counted[i] ≠ none)
    (hj : p.counted[j] ≠ none) (hij : i ≠ j) (hk : ∀ x, countedRating p x ≤ countedRating p k) :
    availableOf p = ratingSum p (List.finRange 6) - countedRating p k := by
  rw [availableOf_nPlus1 h, if_neg (Nat.not_lt.2 (two_le_length_countedPsus hi hj hij)), foldl_max_countedRating hk]

theorem availableOf_nPlus1_of_one {p : PowerBudget} (h : p.mode = .nPlus1)
    (hone : ∀ i j : Fin 6, p.counted[i] ≠ none → p.counted[j] ≠ none → i = j) : availableOf p = 0 := by
  rw [availableOf_nPlus1 h, if_pos (length_countedPsus_lt hone)]

theorem availableOf_feed {p : PowerBudget} (h : p.mode = .feed) : availableOf p =
    min (countedRating p 0 + countedRating p 1 + countedRating p 2)
      (countedRating p 3 + countedRating p 4 + countedRating p 5) := by
  simp [availableOf, h, ratingSum, add_assoc]

theorem headroomOf_eq (p : PowerBudget) :
    headroomOf p = (availableOf p : Int) - 150 - 60 * p.trays - p.admitted := by
  unfold headroomOf fixedLoads
  omega

/-- The draw of a port by its card's tier (R46). -/
theorem portDraw_of_tier {s : State} {n : PortIx} (h : (cardOf s n).tier ∈ [1, 2, 3]) :
    portDraw s n = if (cardOf s n).tier = 1 then 2 else if (cardOf s n).tier = 2 then 4 else 7 := by
  unfold portDraw
  obtain h | h | h : (cardOf s n).tier = 1 ∨ (cardOf s n).tier = 2 ∨ (cardOf s n).tier = 3 := by simpa using h
  all_goals simp [h, tierDraw]

/-! ## What the passes leave of the Power Budget Unit (R43) -/

/-- The budget with nothing admitted, nothing waiting and no deficit: what no admission and no shed writes. -/
def PowerBudget.supply (p : PowerBudget) : PowerBudget := { p with admitted := 0, waitList := [], deficit := false }

theorem PowerBudget.supply_eq_iff {p q : PowerBudget} : p.supply = q.supply ↔
    p.counted = q.counted ∧ p.trays = q.trays ∧ p.mode = q.mode ∧ p.claims = q.claims ∧ p.cap = q.cap := by
  simp [supply]

theorem allowanceOf_supply (p : PowerBudget) : allowanceOf p.supply = allowanceOf p := rfl

theorem allowanceOf_of_supply {p q : PowerBudget} (h : p.supply = q.supply) : allowanceOf p = allowanceOf q := by
  rw [← allowanceOf_supply p, h, allowanceOf_supply]

/-- From s to t the supply of the budget stands, the admitted draw has not risen, and every card keeps its state and identity,
and with these its draw and its ports' draws (R46). -/
structure DrawFalls (s t : State) : Prop where
  supply : t.power.supply = s.power.supply
  admitted : t.power.admitted ≤ s.power.admitted
  state : ∀ c, (t.card c).state = (s.card c).state
  identity : ∀ c, (t.card c).identity = (s.card c).identity

namespace DrawFalls

variable {s t u : State}

theorem refl (s : State) : DrawFalls s s := ⟨rfl, le_rfl, fun _ => rfl, fun _ => rfl⟩

theorem baseDraw (h : DrawFalls s t) (c : Slot) : (t.card c).baseDraw = (s.card c).baseDraw := by
  rw [CardRec.baseDraw, h.identity]
  rfl

theorem portDraw (h : DrawFalls s t) (n : PortIx) : portDraw t n = portDraw s n := by
  rw [Machine.portDraw, cardOf, CardRec.tier, h.identity]
  rfl

theorem trans (h : DrawFalls s t) (h' : DrawFalls t u) : DrawFalls s u :=
  ⟨h'.supply.trans h.supply, h'.admitted.trans h.admitted, fun c => (h'.state c).trans (h.state c),
    fun c => (h'.identity c).trans (h.identity c)⟩

theorem of_power_cards (h : DrawFalls s t) (hp : u.power = t.power) (hc : u.cards = t.cards) : DrawFalls s u := by
  refine ⟨by rw [hp, h.supply], hp ▸ h.admitted, fun c => ?_, fun c => ?_⟩
  · rw [card_of_cards hc, h.state]
  · rw [card_of_cards hc, h.identity]

theorem port (n : PortIx) (f : PortRec → PortRec) (h : DrawFalls s t) : DrawFalls s (t.modPort n f) :=
  h.of_power_cards rfl rfl

theorem card (slot : Slot) (f : CardRec → CardRec) (hf : ∀ c, (f c).state = c.state ∧ (f c).identity = c.identity)
    (h : DrawFalls s t) : DrawFalls s (t.modCard slot f) := by
  have hsame : ∀ c, ((t.modCard slot f).card c).state = (t.card c).state ∧
      ((t.modCard slot f).card c).identity = (t.card c).identity := fun c => by
    rw [modCard_card]
    split
    · rename_i he
      exact he ▸ hf _
    · exact ⟨rfl, rfl⟩
  exact ⟨h.supply, h.admitted, fun c => (hsame c).1.trans (h.state c), fun c => (hsame c).2.trans (h.identity c)⟩

theorem power (f : PowerBudget → PowerBudget) (hf : ∀ p, (f p).supply = p.supply ∧ (f p).admitted ≤ p.admitted)
    (h : DrawFalls s t) : DrawFalls s (t.modPower f) :=
  ⟨(hf _).1.trans h.supply, (hf _).2.trans h.admitted, h.state, h.identity⟩

theorem reason (r : Reason) (h : DrawFalls s t) : DrawFalls s (addReason r t) := h.of_power_cards rfl rfl

theorem raise (r : Raise) (h : DrawFalls s t) : DrawFalls s (raiseAlarm r t) :=
  h.of_power_cards (by rw [raiseAlarm_eq]) (by rw [raiseAlarm_eq])

theorem clear (c : Cause) (subject : Nat) (h : DrawFalls s t) : DrawFalls s (endAlarm c subject t) :=
  h.of_power_cards (by rw [endAlarm_eq]) (by rw [endAlarm_eq])

theorem forEach {α : Type} (act : α → State → State) (ha : ∀ x t, DrawFalls s t → DrawFalls s (act x t)) (l : List α)
    (h : DrawFalls s t) : DrawFalls s (Machine.forEach l act t) := by
  unfold Machine.forEach
  induction l generalizing t with
  | nil => exact h
  | cons x l ih => exact ih (ha x t h)

/-! ### Messages and names -/

theorem send (slot : Slot) (m : CardMsg) (h : DrawFalls s t) : DrawFalls s (Machine.send slot m t) :=
  h.card slot _ fun _ => ⟨rfl, rfl⟩

theorem sendIfJoined (m : CardMsg) (slot : Slot) (h : DrawFalls s t) : DrawFalls s (Machine.sendIfJoined m slot t) := by
  unfold Machine.sendIfJoined
  split
  · exact h.send slot m
  · exact h

theorem endLoginAt (pos : Nat) (h : DrawFalls s t) : DrawFalls s (Machine.endLoginAt pos t) := by
  unfold Machine.endLoginAt
  split
  · rename_i e _
    have hw : DrawFalls s (writeLogout pos e t) :=
      h.of_power_cards (by rw [writeLogout_eq]) (by rw [writeLogout_eq])
    rw [endLogin_eq, sendJoined_eq_forEach]
    exact forEach _ (fun slot _ ht => ht.sendIfJoined _ slot) _ (hw.port _ _)
  · exact h

theorem removeLogins (n : PortIx) (h : DrawFalls s t) : DrawFalls s (Machine.removeLogins n t) :=
  (h.forEach _ (fun pos _ ht => ht.endLoginAt pos) _).port n _

/-! ### Serviceable and eligibility -/

theorem loseServiceable (n : PortIx) (h : DrawFalls s t) : DrawFalls s (Machine.loseServiceable n t) := by
  unfold Machine.loseServiceable
  refine removeLogins n ?_
  split
  · exact (h.port n _).send _ _
  · exact h.port n _

theorem reviewServiceable (n : PortIx) (was : Bool) (h : DrawFalls s t) :
    DrawFalls s (Machine.reviewServiceable n was t) := by
  unfold Machine.reviewServiceable
  split
  · exact h.loseServiceable n
  · exact h.send _ _
  · exact h
  · exact h

theorem enterWait (x : WaitItem) (h : DrawFalls s t) : DrawFalls s (Machine.enterWait x t) :=
  h.power _ fun _ => ⟨rfl, le_rfl⟩

theorem leaveWait (x : WaitItem) (h : DrawFalls s t) : DrawFalls s (Machine.leaveWait x t) :=
  h.power _ fun _ => ⟨rfl, le_rfl⟩

theorem releaseDraw (w : Nat) (h : DrawFalls s t) : DrawFalls s (Machine.releaseDraw w t) :=
  h.power _ fun _ => ⟨rfl, Nat.sub_le _ _⟩

theorem loseEligibility (n : PortIx) (draw : Nat) (h : DrawFalls s t) :
    DrawFalls s (Machine.loseEligibility n draw t) := by
  unfold Machine.loseEligibility
  refine port n _ ?_
  split
  · exact h.leaveWait _
  · exact h.releaseDraw _
  · exact h

theorem reviewEligible (n : PortIx) (was : Bool) (draw : Nat) (h : DrawFalls s t) :
    DrawFalls s (Machine.reviewEligible n was draw t) := by
  unfold Machine.reviewEligible
  split
  · exact h.loseEligibility n draw
  · exact (h.port n _).enterWait _
  · exact h
  · exact h

theorem portChange (n : PortIx) (f : PortRec → PortRec) (h : DrawFalls s t) : DrawFalls s (Machine.portChange n f t) :=
  ((h.port n f).reviewEligible _ _ _).reviewServiceable _ _

theorem portsFollowCard (slot : Slot) (before : State) (h : DrawFalls s t) :
    DrawFalls s (Machine.portsFollowCard slot before t) :=
  h.forEach _ (fun _ _ ht => (ht.reviewEligible _ _ _).reviewServiceable _ _) _

/-! ### The Commit Engine -/

theorem noteRecord (number : Option Half) (g : ResultRec → ResultRec) (h : DrawFalls s t) :
    DrawFalls s (Machine.noteRecord number g t) := by
  unfold Machine.noteRecord
  split
  · exact h
  · dsimp only
    split
    · exact h.of_power_cards rfl rfl
    · exact h.of_power_cards rfl rfl

theorem setPhase (slot : Slot) (p : Phase) (h : DrawFalls s t) : DrawFalls s (Machine.setPhase slot p t) :=
  h.of_power_cards rfl rfl

theorem awaitPhase (slot : Slot) (p : Phase) (h : DrawFalls s t) : DrawFalls s (Machine.awaitPhase slot p t) :=
  h.of_power_cards rfl rfl

theorem commit (f : CommitEngine → CommitEngine) (h : DrawFalls s t) : DrawFalls s (t.modCommit f) :=
  h.of_power_cards rfl rfl

theorem zones (f : ZoneStore → ZoneStore) (h : DrawFalls s t) : DrawFalls s (t.modZones f) :=
  h.of_power_cards rfl rfl

theorem beginCommit (number : Half) (h : DrawFalls s t) : DrawFalls s (Machine.beginCommit number t) :=
  (((h.zones _).commit _).forEach _ (fun slot _ ht => (ht.awaitPhase slot _).send _ _) _).reason _

theorem switchLive (h : DrawFalls s t) : DrawFalls s (Machine.switchLive t) :=
  ((((h.zones _).noteRecord _ _).commit _).forEach _ (fun slot _ ht => (ht.awaitPhase slot _).send _ _) _).reason _

theorem closeCommit (h : DrawFalls s t) : DrawFalls s (Machine.closeCommit t) := by
  have hout := h.forEach (fun slot => Machine.setPhase slot .outside) (fun slot _ ht => ht.setPhase slot _) allSlots
  unfold Machine.closeCommit
  refine reason _ (commit _ ?_)
  split
  · exact (hout.noteRecord _ _).raise _
  · exact hout.noteRecord _ _

theorem switchIfDue (h : DrawFalls s t) : DrawFalls s (Machine.switchIfDue t) := by
  unfold Machine.switchIfDue
  split
  · exact h.switchLive
  · exact h

theorem endIfDue (h : DrawFalls s t) : DrawFalls s (Machine.endIfDue t) := by
  unfold Machine.endIfDue
  split
  · exact h.closeCommit
  · exact h

theorem startQueued (h : DrawFalls s t) : DrawFalls s (Machine.startQueued t) := by
  unfold Machine.startQueued
  split
  · exact (h.beginCommit _).switchIfDue.endIfDue
  · exact h
  · exact h
  · exact h

theorem cardLeft (slot : Slot) (h : DrawFalls s t) : DrawFalls s (Machine.cardLeft slot t) := by
  unfold Machine.cardLeft
  split
  · exact h
  · exact (h.setPhase slot _).switchIfDue.endIfDue.startQueued

/-! ### Departures -/

theorem tellDeparture (slot : Slot) (before : State) (h : DrawFalls s t) :
    DrawFalls s (Machine.tellDeparture slot before t) := by
  unfold Machine.tellDeparture
  split
  · exact (h.cardLeft slot).portsFollowCard slot before
  · exact h

theorem endCardFault (slot : Slot) (before : State) (h : DrawFalls s t) :
    DrawFalls s (Machine.endCardFault slot before t) := by
  unfold Machine.endCardFault
  split
  · exact h.clear _ _
  · exact h

/-- Once its draw is released and its state entered, the rest of a card's departure raises no draw (R31, R55). -/
theorem leaveCard (slot : Slot) (st : CardState) (s : State) :
    DrawFalls (enterCard slot st (releaseCard slot s)) (Machine.leaveCard slot st s) := by
  have hstop := (refl (enterCard slot st (releaseCard slot s))).card slot (fun c => { c with timerOn := false })
    fun _ => ⟨rfl, rfl⟩
  have hcold := hstop.card slot (fun c => { c with tempValid := false }) fun _ => ⟨rfl, rfl⟩
  exact (hcold.tellDeparture slot s).endCardFault slot s

end DrawFalls

/-! ## The shed pass (R52, R53) -/

theorem forEach_cons {α : Type} (x : α) (l : List α) (act : α → State → State) (s : State) :
    forEach (x :: l) act s = forEach l act (act x s) := rfl

/-- A loop whose every step leaves a state as it stands leaves it. -/
theorem forEach_of_fixed {α : Type} {act : α → State → State} {s : State} (h : ∀ x, act x s = s) (l : List α) :
    forEach l act s = s := by
  induction l with
  | nil => rfl
  | cons x l ih => rw [forEach_cons, h, ih]

theorem overdrawn_of_power {s t : State} (h : t.power = s.power) : overdrawn t = overdrawn s := by
  simp only [overdrawn, h]

theorem overdrawn_eq_false {s : State} : overdrawn s = false ↔ s.power.admitted ≤ allowanceOf s.power := by
  simp [overdrawn]

/-- Shedding down a list: if each step at an item releases the item's draw and moves no later item's, then at the end the draw is
within the allowance, or it is no more than what was drawn beside the list (R52). -/
theorem forEach_sheds {α : Type} {act : α → State → State} {draw : State → α → Nat} (rest : Nat)
    (hidle : ∀ x s, overdrawn s = false → act x s = s)
    (hshed : ∀ x s, overdrawn s = true → (act x s).power.admitted ≤ s.power.admitted - draw s x)
    {l : List α} (hkeep : l.Pairwise fun x y => ∀ s, overdrawn s = true → draw (act x s) y = draw s y) {s : State}
    (h : s.power.admitted ≤ (l.map (draw s)).sum + rest) :
    overdrawn (forEach l act s) = false ∨ (forEach l act s).power.admitted ≤ rest := by
  induction l generalizing s with
  | nil => exact .inr (by simpa [forEach] using h)
  | cons x l ih =>
    obtain ⟨hx, hl⟩ := List.pairwise_cons.1 hkeep
    cases ho : overdrawn s with
    | false => exact .inl (by rwa [forEach_of_fixed fun y => hidle y s ho])
    | true =>
      have hrest : l.map (draw (act x s)) = l.map (draw s) := List.map_congr_left fun y hy => hx y hy s ho
      have hstep := hshed x s ho
      rw [List.map_cons, List.sum_cons] at h
      rw [forEach_cons]
      exact ih hl (by rw [hrest]; omega)

theorem displacePort_drawFalls (n : PortIx) (hold : Bool) (s : State) :
    DrawFalls (releaseDraw (portDraw s n) s) (displacePort n hold s) :=
  (((DrawFalls.refl _).port n _).enterWait _).reviewServiceable n _

theorem shedPortStep_of_within {s : State} (h : overdrawn s = false) (n : PortIx) : shedPortStep n s = s := by
  simp [shedPortStep, h]

theorem shedPortStep_of_overdrawn {s : State} (h : overdrawn s = true) (n : PortIx) :
    shedPortStep n s = displacePort n false s := by
  simp [shedPortStep, h]

theorem shedPortStep_drawFalls (n : PortIx) (s : State) : DrawFalls s (shedPortStep n s) := by
  cases h : overdrawn s with
  | false => rw [shedPortStep_of_within h]; exact .refl s
  | true =>
    rw [shedPortStep_of_overdrawn h]
    exact ((DrawFalls.refl s).releaseDraw _).trans (displacePort_drawFalls n false s)

/-- The ports' part of the pass brings the draw within the allowance, or down to what is drawn beside its ports (R52). -/
theorem forEach_shedPortStep {l : List PortIx} {rest : Nat} {s : State}
    (h : s.power.admitted ≤ (l.map (portDraw s)).sum + rest) :
    overdrawn (forEach l shedPortStep s) = false ∨ (forEach l shedPortStep s).power.admitted ≤ rest := by
  refine forEach_sheds rest (fun n s ho => shedPortStep_of_within ho n) (fun n s ho => ?_) (List.pairwise_of_forall ?_) h
  · rw [shedPortStep_of_overdrawn ho]
    exact (displacePort_drawFalls n false s).admitted
  · exact fun n m s _ => (shedPortStep_drawFalls n s).portDraw m

/-- What a card adds to the admitted draw: its base draw while it is Admitting, Joined or Fenced (R46). -/
def poweredDraw (s : State) (c : Slot) : Nat := if (s.card c).state.powered then (s.card c).baseDraw else 0

theorem DrawFalls.poweredDraw {s t : State} (h : DrawFalls s t) (c : Slot) : poweredDraw t c = poweredDraw s c := by
  rw [Machine.poweredDraw, h.state, h.baseDraw]
  rfl

theorem releaseCard_of_powered {c : Slot} {s : State} (h : (s.card c).state.powered = true) :
    releaseCard c s = releaseDraw (poweredDraw s c) s := by
  simp [releaseCard, poweredDraw, h]

theorem shedCard_drawFalls (c : Slot) (s : State) :
    DrawFalls (enterCard c .waiting (releaseCard c s)) (shedCard c s) :=
  (DrawFalls.leaveCard c .waiting s).enterWait _

theorem enterCard_card_other {c d : Slot} (h : d ≠ c) (st : CardState) (s : State) :
    (enterCard c st s).card d = s.card d := by
  rw [enterCard, addReason_card, modCard_card, if_neg h.symm]

/-- The pass at a card sheds nothing, or sheds the card where it is powered. -/
theorem shedCardStep_cases (c : Slot) (s : State) :
    shedCardStep c s = s ∧ (overdrawn s = true → (s.card c).state.powered = false) ∨
      (s.card c).state.powered = true ∧ shedCardStep c s = shedCard c s := by
  unfold shedCardStep
  split
  · rename_i h
    exact .inr ⟨(Bool.and_eq_true_iff.1 h).2, rfl⟩
  · rename_i h
    exact .inl ⟨rfl, fun ho => by simpa [ho] using h⟩

theorem shedCardStep_supply (c : Slot) (s : State) : (shedCardStep c s).power.supply = s.power.supply := by
  obtain ⟨hs, -⟩ | ⟨hp, hs⟩ := shedCardStep_cases c s
  · rw [hs]
  · rw [hs, (shedCard_drawFalls c s).supply, releaseCard_of_powered hp]
    rfl

theorem shedCardStep_poweredDraw {c d : Slot} (h : d ≠ c) (s : State) :
    poweredDraw (shedCardStep c s) d = poweredDraw s d := by
  obtain ⟨hs, -⟩ | ⟨hp, hs⟩ := shedCardStep_cases c s
  · rw [hs]
  · rw [hs, (shedCard_drawFalls c s).poweredDraw, releaseCard_of_powered hp, poweredDraw, enterCard_card_other h]
    rfl

/-- While the draw exceeds the allowance, the pass at a card releases what the card draws (R52). -/
theorem shedCardStep_admitted {s : State} (h : overdrawn s = true) (c : Slot) :
    (shedCardStep c s).power.admitted ≤ s.power.admitted - poweredDraw s c := by
  obtain ⟨hs, hout⟩ | ⟨hp, hs⟩ := shedCardStep_cases c s
  · simp [hs, poweredDraw, hout h]
  · have hfalls := (shedCard_drawFalls c s).admitted
    rw [releaseCard_of_powered hp] at hfalls
    exact hs ▸ hfalls

theorem shedCardStep_of_within {s : State} (h : overdrawn s = false) (c : Slot) : shedCardStep c s = s := by
  simp [shedCardStep, h]

/-- The cards' part of the pass brings the draw within the allowance, where no more is drawn than the cards draw (R52). -/
theorem forEach_shedCardStep {l : List Slot} (hl : l.Nodup) {s : State}
    (h : s.power.admitted ≤ (l.map (poweredDraw s)).sum) : overdrawn (forEach l shedCardStep s) = false := by
  have hkeep : l.Pairwise fun c d => ∀ s, overdrawn s = true → poweredDraw (shedCardStep c s) d = poweredDraw s d :=
    hl.imp fun hne s _ => shedCardStep_poweredDraw hne.symm s
  obtain hin | hnone := forEach_sheds 0 (fun c s ho => shedCardStep_of_within ho c)
    (fun c s ho => shedCardStep_admitted ho c) hkeep h
  · exact hin
  · exact overdrawn_eq_false.2 (by omega)

theorem mem_portsWhere {s : State} {test : PortIx → PortRec → Bool} {n : PortIx} :
    n ∈ portsWhere s test ↔ test n (s.port n) = true := by
  have hzip : (List.finRange 672).zip s.ports.toList = (List.finRange 672).map fun n => (n, s.port n) := by
    refine List.ext_getElem (by simp) fun i _ _ => ?_
    simp [State.port]
  simp [portsWhere, hzip]

theorem mem_shedPorts {s : State} {n : PortIx} (h : (s.port n).power = .admitted) : n ∈ shedPorts s := by
  simp [shedPorts, mem_portsWhere, h]

/-- A sum that counts the elements with a property is the sum over these. -/
theorem sum_map_ite_eq_filter {α : Type} (test : α → Prop) [DecidablePred test] (f : α → Nat) (l : List α) :
    (l.map fun x => if test x then f x else 0).sum = ((l.filter (test ·)).map f).sum := by
  induction l with
  | nil => rfl
  | cons x l ih => by_cases hx : test x <;> simp [hx, ih]

/-- The draws of the Admitted ports are among those of the ports that the pass goes through (R46, R52). -/
theorem admitted_sum_le_shedPorts (s : State) :
    ((List.finRange 672).map fun n => if (s.port n).power = .admitted then portDraw s n else 0).sum ≤
      ((shedPorts s).map (portDraw s)).sum := by
  rw [sum_map_ite_eq_filter]
  have hsub : ((List.finRange 672).filter fun n => (s.port n).power = .admitted).Subperm (shedPorts s) :=
    ((List.nodup_finRange 672).filter _).subperm fun n hn => mem_shedPorts (by simpa using hn)
  obtain ⟨l, hperm, hsub⟩ := hsub
  rw [← (hperm.map (portDraw s)).sum_eq]
  exact (hsub.map (portDraw s)).sum_le_sum fun _ _ => Nat.zero_le _

theorem drawSum_le_shedPorts (s : State) :
    drawSum s ≤ ((shedPorts s).map (portDraw s)).sum + (allSlots.map (poweredDraw s)).sum := by
  have h := admitted_sum_le_shedPorts s
  rw [add_comm]
  exact Nat.add_le_add_left h _

theorem forEach_shedPortStep_drawFalls (l : List PortIx) (s : State) : DrawFalls s (forEach l shedPortStep s) :=
  (DrawFalls.refl s).forEach _ (fun n t ht => ht.trans (shedPortStep_drawFalls n t)) l

theorem forEach_shedCardStep_supply (l : List Slot) (s : State) :
    (forEach l shedCardStep s).power.supply = s.power.supply := by
  induction l generalizing s with
  | nil => rfl
  | cons c l ih => exact (ih _).trans (shedCardStep_supply c s)

theorem shedPass_power (s : State) : (shedPass s).power =
    (forEach allSlots.reverse shedCardStep (forEach (shedPorts s) shedPortStep s)).power := by
  rw [shedPass, addReason_power]

/-- No shed moves the supply of the budget. -/
theorem shedPass_supply (s : State) : (shedPass s).power.supply = s.power.supply := by
  rw [shedPass_power, forEach_shedCardStep_supply, (forEach_shedPortStep_drawFalls _ s).supply]

/-- Ports and then cards: the pass brings the draw within the allowance where no more is admitted than these draw (R52). -/
theorem overdrawn_forEach_sheds {ports : List PortIx} {cards : List Slot} (hcards : cards.Nodup) {s : State}
    (h : s.power.admitted ≤ (ports.map (portDraw s)).sum + (cards.map (poweredDraw s)).sum) :
    overdrawn (forEach cards shedCardStep (forEach ports shedPortStep s)) = false := by
  obtain hin | hleft := forEach_shedPortStep h
  · rwa [forEach_of_fixed fun c => shedCardStep_of_within hin c]
  · have hsame : poweredDraw (forEach ports shedPortStep s) = poweredDraw s :=
      funext (forEach_shedPortStep_drawFalls ports s).poweredDraw
    exact forEach_shedCardStep hcards (by simpa only [hsame] using hleft)

/-- A shed pass brings the draw within the allowance, where no more is admitted than the cards and ports draw (R52). -/
theorem overdrawn_shedPass {s : State} (h : s.power.admitted ≤ drawSum s) : overdrawn (shedPass s) = false := by
  have hslots : allSlots.reverse.Nodup := List.nodup_reverse.2 (List.nodup_finRange 14)
  rw [overdrawn_of_power (shedPass_power s)]
  refine overdrawn_forEach_sheds hslots ?_
  rw [List.map_reverse, List.sum_reverse]
  exact h.trans (drawSum_le_shedPorts s)

/-! ## The restore pass (R50) -/

/-- Admitting a port charges its draw at most. -/
theorem admitPort_drawFalls (n : PortIx) (s : State) : DrawFalls (chargeDraw (portDraw s n) s) (admitPort n s) :=
  ((DrawFalls.refl _).leaveWait (.port n)).portChange n _

theorem admitCard_power (c : Slot) (s : State) :
    (admitCard c s).power = (chargeDraw (s.card c).baseDraw (leaveWait (.card c) s)).power := rfl

theorem restoreItem_card (c : Slot) (s : State) :
    restoreItem (.card c) s = if fits s (s.card c).baseDraw then admitCard c s else s := rfl

theorem restoreItem_port (n : PortIx) (s : State) :
    restoreItem (.port n) s = if !(s.port n).hold && fits s (portDraw s n) then admitPort n s else s := rfl

/-- An item of a restore pass is left, or its draw fits and is charged at most (R50). -/
theorem restoreItem_cases (x : WaitItem) (s : State) : restoreItem x s = s ∨
    ∃ draw, fits s draw = true ∧ (restoreItem x s).power.supply = s.power.supply ∧
      (restoreItem x s).power.admitted ≤ s.power.admitted + draw := by
  cases x with
  | card c =>
    rw [restoreItem_card]
    split
    · rename_i hfit
      exact .inr ⟨_, hfit, by rw [admitCard_power]; rfl, by rw [admitCard_power]; rfl⟩
    · exact .inl rfl
  | port n =>
    rw [restoreItem_port]
    split
    · rename_i hfit
      have hfalls := admitPort_drawFalls n s
      exact .inr ⟨_, (Bool.and_eq_true_iff.1 hfit).2, hfalls.supply, hfalls.admitted⟩
    · exact .inl rfl

/-- From s to t the supply of the budget stands, and a draw within the allowance is still within it. -/
structure StaysWithin (s t : State) : Prop where
  supply : t.power.supply = s.power.supply
  within : s.power.admitted ≤ allowanceOf s.power → t.power.admitted ≤ allowanceOf t.power

theorem StaysWithin.trans {s t u : State} (h : StaysWithin s t) (h' : StaysWithin t u) : StaysWithin s u :=
  ⟨h'.supply.trans h.supply, fun hs => h'.within (h.within hs)⟩

theorem restoreItem_staysWithin (x : WaitItem) (s : State) : StaysWithin s (restoreItem x s) := by
  obtain hs | ⟨draw, hfit, hsupply, hdraw⟩ := restoreItem_cases x s
  · rw [hs]
    exact ⟨rfl, id⟩
  · have hfit : draw + s.power.admitted ≤ allowanceOf s.power := by simpa [fits] using hfit
    exact ⟨hsupply, fun _ => by rw [allowanceOf_of_supply hsupply]; omega⟩

theorem forEach_restoreItem_staysWithin (l : List WaitItem) (s : State) : StaysWithin s (forEach l restoreItem s) := by
  induction l generalizing s with
  | nil => exact ⟨rfl, id⟩
  | cons x l ih => exact (restoreItem_staysWithin x s).trans (ih _)

/-- A restore pass moves no supply of the budget and keeps the draw within the allowance (R50). -/
theorem restorePass_staysWithin (s : State) : StaysWithin s (restorePass s) := by
  have h := forEach_restoreItem_staysWithin s.power.waitList s
  unfold restorePass
  dsimp only
  split
  · exact ⟨h.supply, h.within⟩
  · exact h

/-! ## Budget changes (R47) -/

/-- The state that a budget change makes, with Power added where the available budget or the allowance moves (R60). -/
def budgetSet (g : PowerBudget → PowerBudget) (s : State) : State :=
  if budgetMoved s (s.modPower g) then addReason .power (s.modPower g) else s.modPower g

theorem budgetChange_eq (g : PowerBudget → PowerBudget) (s : State) :
    budgetChange g s = budgetFollows s (budgetSet g s) := rfl

theorem budgetSet_eq (g : PowerBudget → PowerBudget) (s : State) :
    budgetSet g s = { s with power := g s.power, attn := (budgetSet g s).attn } := by
  unfold budgetSet
  split <;> rfl

theorem budgetSet_power (g : PowerBudget → PowerBudget) (s : State) : (budgetSet g s).power = g s.power := by
  rw [budgetSet_eq]

theorem drawSum_of_ports_cards {s t : State} (hp : t.ports = s.ports) (hc : t.cards = s.cards) :
    drawSum t = drawSum s := by
  simp only [drawSum, portDraw, cardOf, port_of_ports hp, card_of_cards hc]

theorem budgetSet_drawSum (g : PowerBudget → PowerBudget) (s : State) : drawSum (budgetSet g s) = drawSum s :=
  drawSum_of_ports_cards (by rw [budgetSet_eq]) (by rw [budgetSet_eq])

/-- The passes that follow a budget change move no supply of the budget (R47). -/
theorem budgetFollows_supply (before s : State) : (budgetFollows before s).power.supply = s.power.supply := by
  unfold budgetFollows
  split
  · split
    · exact shedPass_supply s
    · rfl
  · split
    · exact (restorePass_staysWithin s).supply
    · rfl

/-- Where the draw was lawful against the allowance before, the passes bring it within the new one (R47). -/
theorem budgetFollows_within {before s : State} (hsum : s.power.admitted ≤ drawSum s)
    (hbefore : s.power.admitted ≤ allowanceOf before.power) :
    (budgetFollows before s).power.admitted ≤ allowanceOf (budgetFollows before s).power := by
  unfold budgetFollows
  split
  · cases ho : overdrawn s with
    | false => exact overdrawn_eq_false.1 ho
    | true => exact overdrawn_eq_false.1 (overdrawn_shedPass hsum)
  · split
    · exact (restorePass_staysWithin s).within (by omega)
    · omega

theorem budgetFollows_of_allowance {before s : State} (h : allowanceOf s.power = allowanceOf before.power) :
    budgetFollows before s = s := by
  simp [budgetFollows, h]

theorem budgetChange_supply (g : PowerBudget → PowerBudget) (s : State) :
    (budgetChange g s).power.supply = (g s.power).supply := by
  rw [budgetChange_eq, budgetFollows_supply, budgetSet_power]

/-- A change of the supply in a lawful state leaves the draw within the new allowance (R47). -/
theorem budgetChange_within (g : PowerBudget → PowerBudget) (hg : ∀ p, (g p).admitted = p.admitted) {s : State}
    (h : DrawLawful s) : (budgetChange g s).power.admitted ≤ allowanceOf (budgetChange g s).power := by
  obtain ⟨-, -, hsum, hwithin⟩ := h
  rw [budgetChange_eq]
  refine budgetFollows_within ?_ ?_
  · rw [budgetSet_drawSum, budgetSet_power, hg, hsum]
  · rwa [budgetSet_power, hg]

/-- A change that leaves the allowance where it stands calls for no pass (R47). -/
theorem budgetChange_of_allowance {g : PowerBudget → PowerBudget} {s : State}
    (h : allowanceOf (g s.power) = allowanceOf s.power) : budgetChange g s = budgetSet g s := by
  rw [budgetChange_eq, budgetFollows_of_allowance (by rw [budgetSet_power, h])]

/-! ## The deficit (R59) -/

theorem settleDeficit_of_follows {s : State} (h : DeficitFollows s) : settleDeficit s = s := by
  unfold DeficitFollows at h
  unfold settleDeficit
  rw [← h]
  cases s.power.deficit <;> rfl

theorem DeficitFollows.of_power_ports {s t : State} (h : DeficitFollows s) (hd : t.power.deficit = s.power.deficit)
    (hw : t.power.waitList = s.power.waitList) (hp : t.ports = s.ports) : DeficitFollows t := by
  simp only [DeficitFollows, deficitHolds, hd, hw, port_of_ports hp] at h ⊢
  exact h

/-- Settling the deficit writes the deficit state, the Alarm Table and the attention sets and nothing else (R59). -/
theorem settleDeficit_eq (s : State) : settleDeficit s =
    { s with
      power := { s.power with deficit := (settleDeficit s).power.deficit }
      alarms := (settleDeficit s).alarms
      attn := (settleDeficit s).attn } := by
  unfold settleDeficit
  split
  · rw [raiseAlarm_eq]; rfl
  · rw [endAlarm_eq]; rfl
  · rfl
  · rfl

theorem settleDeficit_supply (s : State) : (settleDeficit s).power.supply = s.power.supply := by
  rw [settleDeficit_eq]
  rfl

theorem settleDeficit_allowance (s : State) : allowanceOf (settleDeficit s).power = allowanceOf s.power :=
  allowanceOf_of_supply (settleDeficit_supply s)

theorem settleDeficit_admitted (s : State) : (settleDeficit s).power.admitted = s.power.admitted := by
  rw [settleDeficit_eq]

/-! ## Power in the attention sets (R161) -/

/-- Power is in the attention sets of both ports. -/
def PowerNoted (s : State) : Prop := ∀ p, (s.attention p).set.power = true

theorem powerNoted_addReason_power (s : State) : PowerNoted (addReason .power s) := fun p => by
  rw [addReason_attention]
  rfl

namespace PowerNoted

variable {s t : State}

theorem of_attn (h : PowerNoted s) (ha : t.attn = s.attn) : PowerNoted t := fun p => by
  rw [attention_of_attn ha]
  exact h p

theorem alarmChanged (silent : Bool) (h : PowerNoted s) : PowerNoted (alarmChanged silent s) := by
  unfold Machine.alarmChanged
  split
  · exact h
  · intro p
    rw [addReason_attention]
    exact h p

/-- No raise claim takes a reason out of the attention sets (R153). -/
theorem raiseAlarm (r : Raise) (h : PowerNoted s) : PowerNoted (raiseAlarm r s) := by
  unfold Machine.raiseAlarm
  split
  · split
    · exact h.of_attn rfl
    · exact h.of_attn rfl
    · exact alarmChanged _ (h.of_attn rfl)
  · split
    · exact alarmChanged _ (h.of_attn rfl)
    · exact h

/-- No end claim takes a reason out of the attention sets (R153). -/
theorem endAlarm (c : Cause) (subject : Nat) (h : PowerNoted s) : PowerNoted (endAlarm c subject s) := by
  unfold Machine.endAlarm
  split
  · split
    · exact alarmChanged _ (h.of_attn rfl)
    · exact alarmChanged _ (h.of_attn rfl)
    · exact h
  · exact h

theorem settleDeficit (h : PowerNoted s) : PowerNoted (settleDeficit s) := by
  unfold Machine.settleDeficit
  split
  · exact raiseAlarm _ (h.of_attn rfl)
  · exact endAlarm _ _ (h.of_attn rfl)
  · exact h
  · exact h

end PowerNoted

/-! ## Set Power Mode (R48) -/

theorem exec_setPowerMode {f : Frame} {s : State} (h : MasterClear s f.port) (field : Byte) :
    exec (.setPowerMode f field) s =
      .next (respond f (setPowerMode field s).2 (settleDeficit (setPowerMode field s).1)) := by
  change Host.Outcome.next (disarmingCommand f .master (settled (setPowerMode field)) s) = _
  rw [disarmingCommand_master h, settled]

theorem powerModeOf_of_gt {field : Byte} (h : 2 < field.toNat) : powerModeOf field = none := by
  unfold powerModeOf
  split
  case h_4 => rfl
  all_goals omega

theorem setPowerMode_of_none {field : Byte} (h : powerModeOf field = none) (s : State) :
    setPowerMode field s = (s, answer .invalidField) := by
  simp [setPowerMode, h]

theorem setPowerMode_of_same {field : Byte} {s : State} (h : powerModeOf field = some s.power.mode) :
    setPowerMode field s = (s, answer .noChange) := by
  simp [setPowerMode, h]

/-- A new power mode recorded, with the pass that the move of the allowance calls for, the deficit not yet settled (R48). -/
def modeChanged (mode : PowerMode) (s : State) : State :=
  addReason .power (budgetChange (fun p => { p with mode := mode }) s)

theorem modeChanged_power (mode : PowerMode) (s : State) :
    (modeChanged mode s).power = (budgetChange (fun p => { p with mode := mode }) s).power := by
  rw [modeChanged, addReason_power]

theorem setPowerMode_of_ne {field : Byte} {mode : PowerMode} (h : powerModeOf field = some mode) {s : State}
    (hne : mode ≠ s.power.mode) : setPowerMode field s = (modeChanged mode s, answer .done) := by
  simp [setPowerMode, h, hne, modeChanged]

theorem settled_modeChanged_supply (mode : PowerMode) (s : State) :
    (settleDeficit (modeChanged mode s)).power.supply = { s.power with mode := mode }.supply := by
  rw [settleDeficit_supply, modeChanged_power, budgetChange_supply]

theorem settled_modeChanged_within (mode : PowerMode) {s : State} (h : DrawLawful s) :
    (settleDeficit (modeChanged mode s)).power.admitted ≤ allowanceOf (settleDeficit (modeChanged mode s)).power := by
  rw [settleDeficit_admitted, settleDeficit_allowance, modeChanged_power]
  exact budgetChange_within (fun p => { p with mode := mode }) (fun _ => rfl) h

theorem moves_settled_modeChanged (mode : PowerMode) (s : State) :
    Moves .power s (settleDeficit (modeChanged mode s)) :=
  ((Moves.refl.budgetChange (fun p => { p with mode := mode }) fun _ => ⟨rfl, rfl⟩).reason .power).settleDeficit

/-- Where the allowance stands, a new mode moves nothing but itself and the attention sets (R47, R48). -/
theorem settled_modeChanged_of_allowance {mode : PowerMode} {s : State} (hd : DeficitFollows s)
    (h : allowanceOf { s.power with mode := mode } = allowanceOf s.power) : settleDeficit (modeChanged mode s) =
      { s with power := { s.power with mode := mode }, attn := (modeChanged mode s).attn } := by
  have hmode : modeChanged mode s =
      { s with power := { s.power with mode := mode }, attn := (modeChanged mode s).attn } := by
    rw [modeChanged, budgetChange_of_allowance h, budgetSet_eq]
    rfl
  refine (settleDeficit_of_follows (hd.of_power_ports ?_ ?_ ?_)).trans hmode
  all_goals rw [hmode]

/-! ## What an operation of the Power Budget Unit leaves as it was -/

theorem Moves.licensesKept {k : Scope} {s t : State} (hk : k.licences = false) (h : Moves k s t) : LicensesKept s t :=
  ⟨h.license_eq hk, h.portLicense_eq hk⟩

theorem Moves.settingsKept {k : Scope} {s t : State} (hk : k.settings = false) (h : Moves k s t) : SettingsKept s t :=
  h.settings_eq hk

theorem Moves.sensorsKept {k : Scope} {s t : State} (hk : k.sensors = false) (h : Moves k s t) : SensorsKept s t :=
  ⟨h.rules_eq hk, h.scanner_eq hk⟩

theorem Moves.outsideKept {k : Scope} {s t : State} (hk : k.licences = false) (h : Moves k s t) : OutsideKept s t :=
  ⟨h.cmd_eq, h.params_eq, congrArg LicenseUnit.chassis (h.license_eq hk), h.uptime_eq, h.pending_eq⟩

end Sys2Proof.Machine

section
open Sys2Proof Sys2Proof.Machine

/-- Settles O32: the budget by its mode, and Set Power Mode over what the passes of a budget change keep. -/
theorem budgetRule : Obligations.BudgetRule := by
  refine ⟨fun p => ⟨fun hm => ?_, availableOf_nPlus1_of_one, fun hm i j k hi hj hij hmax => ?_, availableOf_feed, rfl,
    headroomOf_eq p⟩, fun s n h => portDraw_of_tier h, fun f field s hclear hd => ⟨fun hbig => ?_,
    fun mode hfield => ⟨fun hsame => ?_, fun hne => ?_⟩⟩, rfl, rfl, rfl⟩
  · exact (availableOf_none hm).trans (ratingSum_all p)
  · exact (availableOf_nPlus1_of_two hm hi hj hij hmax).trans (congrArg (· - countedRating p k) (ratingSum_all p))
  · rw [exec_setPowerMode hclear, setPowerMode_of_none (powerModeOf_of_gt hbig), settleDeficit_of_follows hd]
  · subst hsame
    rw [exec_setPowerMode hclear, setPowerMode_of_same hfield, settleDeficit_of_follows hd]
  · have hsupply := settled_modeChanged_supply mode s
    have hmoves := moves_settled_modeChanged mode s
    obtain ⟨hcounted, htrays, hmode, hclaims, hcap⟩ := PowerBudget.supply_eq_iff.1 hsupply
    refine ⟨settleDeficit (modeChanged mode s), ?_, hmode, hcounted, htrays, hclaims, hcap,
      (powerNoted_addReason_power _).settleDeficit, settled_modeChanged_within mode, fun hstands => ?_,
      hmoves.licensesKept rfl, hmoves.settingsKept rfl, hmoves.sensorsKept rfl, hmoves.outsideKept rfl⟩
    · rw [exec_setPowerMode hclear, setPowerMode_of_ne hfield hne]
    · have hallow : allowanceOf { s.power with mode := mode } = allowanceOf s.power :=
        (allowanceOf_of_supply hsupply).symm.trans hstands
      rw [settled_modeChanged_of_allowance hd hallow]
      exact ⟨rfl, rfl, rfl, rfl⟩

end

/-! PROOFS. The automatic pool choice as the eligible pool of least key, and the order of preference that the key spells (R68). -/

namespace Sys2Proof.Machine

/-! ## Eligible pools (R68) -/

theorem PoolState.serves_iff (st : PoolState) : st.serves = true ↔ st = .active ∨ st = .expiring := by
  cases st <;> simp [PoolState.serves]

theorem poolServes_iff {s : State} {tier : Nat} {k : PoolIx} : poolServes s tier k = true ↔
    ((s.pool k).state = .active ∨ (s.pool k).state = .expiring) ∧ (s.pool k).bound < (s.pool k).capacity ∧
      tier ≤ (s.pool k).tier := by
  simp [poolServes, PoolState.serves_iff, and_assoc]

/-- A license that is not Bound names a pool as its own only in Grace. -/
theorem License.pool?_ne_some_iff {l : License} (h : ∀ k, l ≠ .bound k) (k : PoolIx) :
    l.pool? ≠ some k ↔ ∀ hours, l ≠ .grace k hours := by
  cases l with
  | unlicensed => simp [License.pool?]
  | bound i => exact absurd rfl (h i)
  | grace i hours => simp [License.pool?]

/-- The conditions under which the automatic choice may take a pool for a port, as R68 lists them. -/
def EligiblePool (s : State) (n : PortIx) (k : PoolIx) : Prop :=
  ((s.pool k).state = .active ∨ (s.pool k).state = .expiring) ∧ (s.pool k).bound < (s.pool k).capacity ∧
    (cardOf s n).tier ≤ (s.pool k).tier ∧ ∀ hours, (s.port n).license ≠ .grace k hours

/-- The pools among which `autoChoice` takes the best, by ascending pool id. -/
def eligiblePools (s : State) (n : PortIx) : List PoolIx :=
  allPools.filter fun i => poolServes s (cardOf s n).tier i && (s.port n).license.pool? != some i

theorem mem_eligiblePools {s : State} {n : PortIx} (h : ∀ k, (s.port n).license ≠ .bound k) (k : PoolIx) :
    k ∈ eligiblePools s n ↔ EligiblePool s n k := by
  have hown := License.pool?_ne_some_iff h k
  simp only [eligiblePools, allPools, List.mem_filter, List.mem_finRange, true_and, Bool.and_eq_true, bne_iff_ne,
    poolServes_iff, hown, EligiblePool, and_assoc]

/-! ## The order of preference (R68) -/

/-- Pool k goes before pool m: by tier, then Perpetual before Term, then by pool id (R68). -/
def PoolBefore (s : State) (k m : PoolIx) : Prop :=
  (s.pool k).tier < (s.pool m).tier ∨
    ((s.pool k).tier = (s.pool m).tier ∧
      (((s.pool k).kind = .perpetual ∧ (s.pool m).kind = .term) ∨ ((s.pool k).kind = (s.pool m).kind ∧ k < m)))

/-- A pool id is below 16 and a kind weighs 0 or 16, so the key compares tier, kind and id in that order. -/
theorem poolKey_lt_iff {s : State} {k m : PoolIx} : poolKey s k < poolKey s m ↔ PoolBefore s k m := by
  have hk := k.isLt
  have hm := m.isLt
  unfold poolKey PoolBefore
  cases (s.pool k).kind <;> cases (s.pool m).kind <;>
    simp only [Fin.lt_def, reduceCtorEq, and_true, and_false, true_and, false_and, or_false, false_or] <;> omega

theorem poolKey_injective (s : State) : Function.Injective (poolKey s) := by
  intro k m h
  have hmod : ∀ i : PoolIx, poolKey s i % 16 = i.val := fun i => by
    have := i.isLt
    unfold poolKey
    split <;> omega
  exact Fin.ext (by rw [← hmod k, h, hmod m])

/-! ## The choice (R68) -/

theorem betterPool_eq (s : State) : betterPool s = List.argAux fun i j => poolKey s i < poolKey s j := by
  funext best i
  cases best <;> rfl

theorem autoChoice_eq_argmin (s : State) (n : PortIx) : autoChoice s n = (eligiblePools s n).argmin (poolKey s) := by
  unfold autoChoice
  rw [betterPool_eq]
  rfl

theorem autoChoice_eq_none_iff {s : State} {n : PortIx} (h : ∀ k, (s.port n).license ≠ .bound k) :
    autoChoice s n = none ↔ ∀ k, ¬ EligiblePool s n k := by
  rw [autoChoice_eq_argmin, List.argmin_eq_none, List.eq_nil_iff_forall_not_mem]
  simp only [mem_eligiblePools h]

theorem eligiblePool_of_autoChoice {s : State} {n : PortIx} (h : ∀ k, (s.port n).license ≠ .bound k) {k : PoolIx}
    (hk : autoChoice s n = some k) : EligiblePool s n k := by
  rw [autoChoice_eq_argmin] at hk
  exact (mem_eligiblePools h k).1 (List.argmin_mem hk)

theorem poolBefore_of_autoChoice {s : State} {n : PortIx} (h : ∀ k, (s.port n).license ≠ .bound k) {k m : PoolIx}
    (hk : autoChoice s n = some k) (hne : m ≠ k) (hm : EligiblePool s n m) : PoolBefore s k m := by
  rw [autoChoice_eq_argmin] at hk
  have hle : poolKey s k ≤ poolKey s m := List.le_of_mem_argmin ((mem_eligiblePools h m).2 hm) hk
  have hkey : poolKey s k ≠ poolKey s m := (poolKey_injective s).ne hne.symm
  exact poolKey_lt_iff.1 (hle.lt_of_ne hkey)

end Sys2Proof.Machine

section
open Sys2Proof Sys2Proof.Machine

/-- Settles O34: the choice is the eligible pool of least key, and the key orders pools as R68 prefers them. -/
theorem automaticChoiceRule : Obligations.AutomaticChoiceRule := fun _ _ h =>
  ⟨autoChoice_eq_none_iff h, fun _ hk =>
    ⟨eligiblePool_of_autoChoice h hk, fun _ hne hm => poolBefore_of_autoChoice h hk hne hm⟩⟩

end

/-! PROOFS. The Zone Store: what the operand fields of its commands decode to (R81, R87 to R92), what each edit of Working
answers and leaves (R83 to R92), and the zoning evaluation with the two commands that read the images (R93 to R96). -/

namespace Sys2Proof.Machine

/-! ## Names (R81, R168) -/

theorem isNameChar_of_isLetter {c : Byte} (h : isLetter c = true) : isNameChar c = true := by
  simp [isNameChar, h]

theorem ne_zero_of_isNameChar {c : Byte} (h : isNameChar c = true) : c ≠ 0 := by
  rintro rfl
  exact absurd h (by decide)

/-- The form of R81 as the model tests it. -/
theorem lawfulName_iff {name : List Byte} : lawfulName name ↔ nameForm name = true ∧ name.length ≤ 32 := by
  cases name with
  | nil => simp [lawfulName, nameForm]
  | cons c rest =>
    simp only [lawfulName, nameForm, List.forall_mem_cons, List.head?_cons, Option.some.injEq, forall_eq',
      Bool.and_eq_true, List.all_eq_true]
    constructor
    · rintro ⟨hlen, ⟨-, hrest⟩, hc⟩
      exact ⟨⟨hc, hrest⟩, hlen⟩
    · rintro ⟨⟨hc, hrest⟩, hlen⟩
      exact ⟨hlen, ⟨isNameChar_of_isLetter hc, hrest⟩, hc⟩

theorem nameOf_of_spells {field name : List Byte} (h : spells field name) : nameOf field = some name := by
  obtain ⟨hlaw, rfl⟩ := h
  obtain ⟨hform, hlen⟩ := lawfulName_iff.1 hlaw
  have hne : ∀ c ∈ name, decide (c ≠ 0) = true := fun c hc =>
    decide_eq_true (ne_zero_of_isNameChar (hlaw.2.1 c hc))
  have htake : (name ++ List.replicate (32 - name.length) (0 : Byte)).takeWhile (· ≠ 0) = name := by
    rw [List.takeWhile_append_of_pos hne]
    simp
  have hdrop : (name ++ List.replicate (32 - name.length) (0 : Byte)).dropWhile (· ≠ 0) =
      List.replicate (32 - name.length) 0 := by
    rw [List.dropWhile_append_of_pos hne]
    simp
  simp only [nameOf, htake, hdrop]
  simp [hform, hlen]

theorem spells_of_nameOf {field name : List Byte} (hfield : field.length = 32) (h : nameOf field = some name) :
    spells field name := by
  simp only [nameOf, Option.ite_none_right_eq_some, Option.some.injEq, Bool.and_eq_true, List.all_eq_true,
    beq_iff_eq, decide_eq_true_eq] at h
  obtain ⟨⟨⟨hzero, hform⟩, hlen⟩, hname⟩ := h
  rw [hname] at hform hlen
  have hfull := List.takeWhile_append_dropWhile (p := fun c : Byte => decide (c ≠ 0)) (l := field)
  rw [hname, List.eq_replicate_of_mem hzero] at hfull
  have hrest := congrArg List.length hfull
  rw [List.length_append, List.length_replicate, hfield] at hrest
  refine ⟨lawfulName_iff.2 ⟨hform, hlen⟩, ?_⟩
  rw [← hfull, ← hrest, Nat.add_sub_cancel_left]

/-- A name field decodes to the name that it spells. -/
theorem nameOf_eq_some_iff {field name : List Byte} (hfield : field.length = 32) :
    nameOf field = some name ↔ spells field name :=
  ⟨spells_of_nameOf hfield, nameOf_of_spells⟩

theorem nameOf_eq_none {field : List Byte} (hfield : field.length = 32) (h : ∀ name, ¬ spells field name) :
    nameOf field = none :=
  Option.eq_none_iff_forall_ne_some.2 fun name hname => h name (spells_of_nameOf hfield hname)

theorem zoneNameOf_of_spells {field name : List Byte} (h : spells field name) (hne : name ≠ []) :
    zoneNameOf field = some name := by
  cases name with
  | nil => exact absurd rfl hne
  | cons c rest => simp [zoneNameOf, nameOf_of_spells h]

/-- A zone's name field that spells no name but the empty one is refused (R88, R90). -/
theorem zoneNameOf_eq_none {field : List Byte} (hfield : field.length = 32) (h : ∀ name, spells field name → name = []) :
    zoneNameOf field = none := by
  cases hname : nameOf field with
  | none => simp [zoneNameOf, hname]
  | some name =>
    obtain rfl := h name (spells_of_nameOf hfield hname)
    simp [zoneNameOf, hname]

/-! ## The other operand fields (R87, R88, R91) -/

theorem zoneIdOf_of_range {zone : Half} (h : 1 ≤ zone.toNat ∧ zone.toNat ≤ 512) : zoneIdOf zone = some zone.toNat :=
  if_pos h

theorem zoneIdOf_of_not_range {zone : Half} (h : ¬ (1 ≤ zone.toNat ∧ zone.toNat ≤ 512)) : zoneIdOf zone = none :=
  if_neg h

theorem accessOf_of_gt {b : Byte} (h : 1 < b.toNat) : accessOf b = none := by
  unfold accessOf
  split
  case h_3 => rfl
  all_goals omega

theorem zoneKindOf_of_gt {b : Byte} (h : 1 < b.toNat) : zoneKindOf b = none := by
  unfold zoneKindOf
  split
  case h_3 => rfl
  all_goals omega

theorem byte_le_one {b : Byte} (h : b.toNat ≤ 1) : b = 0 ∨ b = 1 := by bv_omega

theorem byte_le_two {b : Byte} (h : b.toNat ≤ 2) : b = 0 ∨ b = 1 ∨ b = 2 := by bv_omega

theorem zoneKindOf_of_le {b : Byte} (h : b.toNat ≤ 1) :
    zoneKindOf b = some (if b = 0 then ZoneKind.plain else .peer) := by
  obtain rfl | rfl := byte_le_one h <;> rfl

theorem index?_eq_some_iff {n v : Nat} {i : Fin n} : index? n v = some i ↔ v = i.val := by
  unfold index?
  split
  · simp [Fin.ext_iff]
  · have := i.isLt
    simp only [reduceCtorEq, false_iff]
    omega

theorem index1?_eq_some_iff {n v : Nat} {i : Fin n} : index1? n v = some i ↔ v = i.val + 1 := by
  unfold index1?
  split
  · simp only [reduceCtorEq, false_iff]
    omega
  · rw [index?_eq_some_iff]
    omega

/-- The designator of a Name, or of a Port by the first two bytes of its value (R91). -/
theorem designatorOf_eq_some_iff {kind : Byte} {value : DevName} {d : Designator} :
    designatorOf kind value = some d ↔ (kind = 0 ∧ value ≠ 0 ∧ d = .name value) ∨
      (kind = 1 ∧ ∃ (slot : Slot) (pos : Fin 48), (value.extractLsb' 56 8).toNat = slot.val + 1 ∧
        (value.extractLsb' 48 8).toNat = pos.val ∧ d = .port slot pos) := by
  simp only [← index1?_eq_some_iff, ← index?_eq_some_iff]
  unfold designatorOf
  split
  case h_1 hk =>
    obtain rfl : kind = 0 := BitVec.eq_of_toNat_eq hk
    have hkind : ¬ (0 : Byte) = 1 := by decide
    simp only [hkind, Option.ite_none_left_eq_some, Option.some.injEq, true_and, false_and, or_false]
    exact and_congr_right' eq_comm
  case h_2 hk =>
    obtain rfl : kind = 1 := BitVec.eq_of_toNat_eq hk
    have hkind : ¬ (1 : Byte) = 0 := by decide
    simp only [hkind, true_and, false_and, false_or]
    split
    case h_1 slot pos hslot hpos =>
      simp only [hslot, hpos, Option.some.injEq, exists_and_left, exists_eq_left']
      exact eq_comm
    case h_2 hnone =>
      simp only [reduceCtorEq, false_iff]
      rintro ⟨slot, pos, hslot, hpos, -⟩
      exact hnone slot pos hslot hpos
  case h_3 h0 h1 =>
    simp only [reduceCtorEq, false_iff]
    rintro (⟨rfl, -⟩ | ⟨rfl, -⟩)
    · exact h0 rfl
    · exact h1 rfl

/-- The role that a field gives in a zone of a kind (R91). -/
theorem roleOf_eq_some_iff {kind : ZoneKind} {role : Byte} {r : Role} : roleOf kind role = some r ↔
    (kind = .plain ∧ role = 0 ∧ r = .none) ∨ (kind = .peer ∧ role = 1 ∧ r = .principal) ∨
      (kind = .peer ∧ role = 2 ∧ r = .peer) := by
  have h0 : role = 0 ↔ role.toNat = 0 := by simp [BitVec.toNat_eq]
  have h1 : role = 1 ↔ role.toNat = 1 := by simp [BitVec.toNat_eq]
  have h2 : role = 2 ↔ role.toNat = 2 := by simp [BitVec.toNat_eq]
  rw [h0, h1, h2]
  unfold roleOf
  split
  case h_1 hr => simp [hr, eq_comm]
  case h_2 hr => simp [hr, eq_comm]
  case h_3 hr => simp [hr, eq_comm]
  case h_4 hplain hone htwo =>
    simp only [reduceCtorEq, false_iff]
    rintro (⟨hk, hr, -⟩ | ⟨hk, hr, -⟩ | ⟨hk, hr, -⟩)
    · exact hplain hk hr
    · exact hone hk hr
    · exact htwo hk hr

/-! ## Zones by their ids (R80, R82) -/

theorem zone?_eq_none {im : Image} {id : Nat} (h : ∀ z ∈ im.zones, z.id ≠ id) : im.zone? id = none := by
  simpa [Image.zone?] using h

theorem zone?_ne_none {im : Image} {id : Nat} (h : ∃ z ∈ im.zones, z.id = id) : im.zone? id ≠ none := by
  simpa [Image.zone?] using h

/-- One zone of an image to an id (R82). -/
theorem ImageLawful.eq_of_id {im : Image} (h : ImageLawful im) {z w : Zone} (hz : z ∈ im.zones) (hw : w ∈ im.zones)
    (hid : w.id = z.id) : w = z :=
  List.inj_on_of_nodup_map (h.1.imp Nat.ne_of_lt) hw hz hid

theorem ImageLawful.zone?_of_mem {im : Image} (h : ImageLawful im) {z : Zone} (hz : z ∈ im.zones) :
    im.zone? z.id = some z := by
  obtain ⟨w, hw⟩ := Option.ne_none_iff_exists'.1 (zone?_ne_none ⟨z, hz, rfl⟩)
  have hid : w.id = z.id := by simpa using List.find?_some hw
  rw [hw, h.eq_of_id hz (List.mem_of_find?_eq_some hw) hid]

/-- The id of a zone of a lawful image is in range (R81). -/
theorem ImageLawful.zoneIdOf_of_mem {im : Image} (h : ImageLawful im) {z : Zone} (hz : z ∈ im.zones) {zone : Half}
    (hid : z.id = zone.toNat) : zoneIdOf zone = some zone.toNat := by
  obtain ⟨-, -, hzones, -⟩ := h
  obtain ⟨hlow, hhigh, -⟩ := hzones z hz
  exact zoneIdOf_of_range (hid ▸ ⟨hlow, hhigh⟩)

theorem ImageLawful.designators_nodup {im : Image} (h : ImageLawful im) {z : Zone} (hz : z ∈ im.zones) :
    (z.members.map Member.designator).Nodup := by
  obtain ⟨-, -, hzones, -⟩ := h
  obtain ⟨-, -, -, -, -, -, hnodup, -⟩ := hzones z hz
  exact hnodup

theorem mem_insertZone {z w : Zone} {l : List Zone} : w ∈ insertZone z l ↔ w = z ∨ w ∈ l := by
  induction l with
  | nil => simp [insertZone]
  | cons y t ih =>
    unfold insertZone
    split
    · simp
    · simp only [List.mem_cons, ih]
      tauto

/-- A zone of a new id goes to its place in ascending id (R88). -/
theorem insertZone_sorted {z : Zone} {l : List Zone} (h : (l.map Zone.id).Pairwise (· < ·))
    (hnew : ∀ w ∈ l, w.id ≠ z.id) : ((insertZone z l).map Zone.id).Pairwise (· < ·) := by
  rw [List.pairwise_map] at *
  induction l with
  | nil => simp [insertZone]
  | cons y t ih =>
    obtain ⟨hy, ht⟩ := List.pairwise_cons.1 h
    obtain ⟨hne, hnewt⟩ := List.forall_mem_cons.1 hnew
    unfold insertZone
    split
    case isTrue hlt =>
      exact List.pairwise_cons.2 ⟨List.forall_mem_cons.2 ⟨hlt, fun w hw => hlt.trans (hy w hw)⟩, h⟩
    case isFalse hge =>
      refine List.pairwise_cons.2 ⟨fun w hw => ?_, ih ht hnewt⟩
      obtain rfl | hw := mem_insertZone.1 hw
      · omega
      · exact hy w hw

/-- A change of a zone that keeps its id keeps the ids of the image. -/
theorem modZone_ids {id : Nat} {g : Zone → Zone} (hg : ∀ z, (g z).id = z.id) (im : Image) :
    (modZone id g im).zones.map Zone.id = im.zones.map Zone.id := by
  simp only [modZone, List.map_map]
  refine List.map_congr_left fun z _ => ?_
  simp only [Function.comp_apply]
  split <;> simp [hg]

theorem ImageLawful.mem_modZone {im : Image} (h : ImageLawful im) {z w : Zone} (hz : z ∈ im.zones) (g : Zone → Zone) :
    w ∈ (modZone z.id g im).zones ↔ w = g z ∨ (w ∈ im.zones ∧ w.id ≠ z.id) := by
  simp only [modZone, List.mem_map]
  constructor
  · rintro ⟨v, hv, rfl⟩
    split
    case isTrue hid => exact .inl (by rw [h.eq_of_id hz hv hid])
    case isFalse hid => exact .inr ⟨hv, hid⟩
  · rintro (rfl | ⟨hw, hid⟩)
    · exact ⟨z, hz, if_pos rfl⟩
    · exact ⟨w, hw, if_neg hid⟩

/-- The image with another member list in one of its zones. -/
def Image.withMembers (im : Image) (z : Zone) (members : List Member) : Image :=
  { im with zones := im.zones.map fun w => if w.id = z.id then { w with members := members } else w }

theorem ImageLawful.modZone_members {im : Image} (h : ImageLawful im) {z : Zone} (hz : z ∈ im.zones)
    (g : List Member → List Member) :
    modZone z.id (fun w => { w with members := g w.members }) im = im.withMembers z (g z.members) := by
  simp only [modZone, Image.withMembers, Image.mk.injEq, true_and]
  refine List.map_congr_left fun w hw => ?_
  split
  case isTrue hid => rw [h.eq_of_id hz hw hid]
  case isFalse => rfl

/-! ## Members (R81, R92) -/

theorem hasMember_iff {z : Zone} {d : Designator} : hasMember z d = true ↔ ∃ m ∈ z.members, m.designator = d := by
  simp [hasMember]

theorem hasMember_eq_false {z : Zone} {d : Designator} (h : ∀ m ∈ z.members, m.designator ≠ d) : hasMember z d = false := by
  simpa [hasMember] using h

/-- No designator stands twice, so the first member of a designator is every member of it (R82, R92). -/
theorem eraseP_designator {l : List Member} (h : (l.map Member.designator).Nodup) (d : Designator) :
    (l.eraseP fun m => m.designator == d) = l.filter fun m => m.designator ≠ d := by
  induction l with
  | nil => rfl
  | cons m t ih =>
    obtain ⟨hm, ht⟩ := List.nodup_cons.1 h
    by_cases hd : m.designator = d
    · have hrest : ∀ x ∈ t, x.designator ≠ d := fun x hx hxd =>
        hm (List.mem_map.2 ⟨x, hx, hxd.trans hd.symm⟩)
      have hall : (t.filter fun x => x.designator ≠ d) = t :=
        List.filter_eq_self.2 fun x hx => decide_eq_true (hrest x hx)
      simpa [hd] using hall.symm
    · simp [hd, ih ht]

/-! ## An edit of Working as a command (R83, R84) -/

/-- The command is this edit of Working, sent at the frame's port. -/
def IsEdit (i : Instr) (f : Frame) (edit : Image → Except Status Image) : Prop :=
  ∀ s, exec i s = .next (disarmingCommand f .master (editWorking edit) s)

/-- The state after an accepted edit that leaves this image in Working (R84). -/
def withWorking (im : Image) (s : State) : State :=
  { s with zones := { s.zones with working := im, modified := true } }

theorem isEdit_workingClear (f : Frame) : IsEdit (.workingClear f) f clearEdit := fun _ => rfl

theorem isEdit_setSetName (f : Frame) (field : List Byte) : IsEdit (.setSetName f field) f (setNameEdit field) :=
  fun _ => rfl

theorem isEdit_setDefaultAccess (f : Frame) (access : Byte) :
    IsEdit (.setDefaultAccess f access) f (accessEdit access) := fun _ => rfl

theorem isEdit_zoneCreate (f : Frame) (zone : Half) (field : List Byte) (kind : Byte) :
    IsEdit (.zoneCreate f zone field kind) f (zoneCreateEdit zone field kind) := fun _ => rfl

theorem isEdit_zoneDelete (f : Frame) (zone : Half) : IsEdit (.zoneDelete f zone) f (zoneDeleteEdit zone) := fun _ => rfl

theorem isEdit_zoneRename (f : Frame) (zone : Half) (field : List Byte) :
    IsEdit (.zoneRename f zone field) f (zoneRenameEdit zone field) := fun _ => rfl

theorem isEdit_memberAdd (f : Frame) (zone : Half) (kind : Byte) (value : DevName) (role : Byte) :
    IsEdit (.memberAdd f zone kind value role) f (memberAddEdit zone kind value role) := fun _ => rfl

theorem isEdit_memberRemove (f : Frame) (zone : Half) (kind : Byte) (value : DevName) :
    IsEdit (.memberRemove f zone kind value) f (memberRemoveEdit zone kind value) := fun _ => rfl

namespace IsEdit

variable {i : Instr} {f : Frame} {edit : Image → Except Status Image} {s : State}

/-- LOCKED comes before every check of the edit (R83). -/
theorem exec_of_frozen (hi : IsEdit i f edit) (h : MasterClear s f.port) (hw : s.zones.workingState = .frozen) :
    exec i s = .next (respond f (answer .locked) s) := by
  rw [hi s, disarmingCommand_master h, editWorking, hw]

theorem exec_of_error (hi : IsEdit i f edit) (h : MasterClear s f.port) (hw : s.zones.workingState = .editable)
    {st : Status} (he : edit s.zones.working = .error st) : exec i s = .next (respond f (answer st) s) := by
  rw [hi s, disarmingCommand_master h]
  simp only [editWorking, hw, he]

theorem exec_of_ok (hi : IsEdit i f edit) (h : MasterClear s f.port) (hw : s.zones.workingState = .editable)
    {im : Image} (he : edit s.zones.working = .ok im) :
    exec i s = .next (respond f (answer .done) (withWorking im s)) := by
  rw [hi s, disarmingCommand_master h]
  simp only [editWorking, hw, he]
  rfl

end IsEdit

theorem exec_workingClone {f : Frame} {s : State} (h : MasterClear s f.port) :
    exec (.workingClone f) s = .next (respond f (workingClone s).2 (workingClone s).1) := by
  change Host.Outcome.next (disarmingCommand f .master workingClone s) = _
  rw [disarmingCommand_master h]

theorem workingClone_of_frozen {s : State} (h : s.zones.workingState = .frozen) :
    workingClone s = (s, answer .locked) := by
  simp only [workingClone, h]

theorem workingClone_of_editable {s : State} (h : s.zones.workingState = .editable) :
    workingClone s = ({ s with zones := { s.zones with working := s.zones.live, modified := false } }, answer .done) := by
  simp only [workingClone, State.modZones, h]

/-! ## The set name and the default access (R87) -/

theorem setNameEdit_of_spells {field name : List Byte} (h : spells field name) (im : Image) :
    setNameEdit field im = .ok { im with setName := name } := by
  simp only [setNameEdit, nameOf_of_spells h]

theorem setNameEdit_of_none {field : List Byte} (h : nameOf field = none) (im : Image) :
    setNameEdit field im = .error .invalidField := by
  simp only [setNameEdit, h]

theorem accessEdit_of_none {access : Byte} (h : accessOf access = none) (im : Image) :
    accessEdit access im = .error .invalidField := by
  simp only [accessEdit, h]

/-! ## Zone Create (R88) -/

section ZoneCreate

variable {zone : Half} {field : List Byte} {kind : Byte}

theorem zoneCreateEdit_of_id_none (h : zoneIdOf zone = none) (im : Image) :
    zoneCreateEdit zone field kind im = .error .outOfRange := by
  simp only [zoneCreateEdit, h]

theorem zoneCreateEdit_of_kind_none {id : Nat} (hid : zoneIdOf zone = some id) (h : zoneKindOf kind = none) (im : Image) :
    zoneCreateEdit zone field kind im = .error .invalidField := by
  simp only [zoneCreateEdit, hid, h]

theorem zoneCreateEdit_of_name_none {id : Nat} (hid : zoneIdOf zone = some id) (h : zoneNameOf field = none) (im : Image) :
    zoneCreateEdit zone field kind im = .error .invalidField := by
  cases hk : zoneKindOf kind <;> simp only [zoneCreateEdit, hid, hk, h]

variable {id : Nat} {k : ZoneKind} {name : List Byte} (hid : zoneIdOf zone = some id) (hk : zoneKindOf kind = some k)
  (hname : zoneNameOf field = some name)
include hid hk hname

theorem zoneCreateEdit_of_used {im : Image} (h : ∃ z ∈ im.zones, z.id = id ∨ z.name = name) :
    zoneCreateEdit zone field kind im = .error .duplicate := by
  simp only [zoneCreateEdit, hid, hk, hname]
  obtain ⟨z, hz, hzid | hzname⟩ := h
  · rw [if_pos (Option.isSome_iff_ne_none.2 (zone?_ne_none ⟨z, hz, hzid⟩))]
  · have hany : (im.zones.any fun z => z.name == name) = true := List.any_eq_true.2 ⟨z, hz, beq_iff_eq.2 hzname⟩
    rw [if_pos hany, ite_self]

theorem zoneCreateEdit_of_new {im : Image} (h : ∀ z ∈ im.zones, z.id ≠ id ∧ z.name ≠ name) :
    zoneCreateEdit zone field kind im =
      .ok { im with zones := insertZone { id := id, name := name, kind := k, members := [] } im.zones } := by
  have hfree : im.zone? id = none := zone?_eq_none fun z hz => (h z hz).1
  have hunused : (im.zones.any fun z => z.name == name) = false := by simpa using fun z hz => (h z hz).2
  simp [zoneCreateEdit, hid, hk, hname, hfree, hunused]

end ZoneCreate

/-! ## Zone Delete (R89) -/

theorem zoneDeleteEdit_of_id_none {zone : Half} (h : zoneIdOf zone = none) (im : Image) :
    zoneDeleteEdit zone im = .error .outOfRange := by
  simp only [zoneDeleteEdit, h]

theorem zoneDeleteEdit_of_absent {zone : Half} {id : Nat} (hid : zoneIdOf zone = some id) {im : Image}
    (h : ∀ z ∈ im.zones, z.id ≠ id) : zoneDeleteEdit zone im = .error .notFound := by
  simp [zoneDeleteEdit, hid, zone?_eq_none h]

theorem zoneDeleteEdit_of_present {zone : Half} {id : Nat} (hid : zoneIdOf zone = some id) {im : Image}
    (h : ∃ z ∈ im.zones, z.id = id) :
    zoneDeleteEdit zone im = .ok { im with zones := im.zones.filter fun z => z.id ≠ id } := by
  simp [zoneDeleteEdit, hid, zone?_ne_none h]

/-! ## Zone Rename (R90) -/

section ZoneRename

variable {zone : Half} {field : List Byte}

theorem zoneRenameEdit_of_id_none (h : zoneIdOf zone = none) (im : Image) :
    zoneRenameEdit zone field im = .error .outOfRange := by
  simp only [zoneRenameEdit, h]

variable {id : Nat} (hid : zoneIdOf zone = some id) {im : Image}
include hid

theorem zoneRenameEdit_of_absent (h : ∀ z ∈ im.zones, z.id ≠ id) : zoneRenameEdit zone field im = .error .notFound := by
  simp [zoneRenameEdit, hid, zone?_eq_none h]

variable (hzone : ∃ z ∈ im.zones, z.id = id)
include hzone

theorem zoneRenameEdit_of_name_none (h : zoneNameOf field = none) :
    zoneRenameEdit zone field im = .error .invalidField := by
  simp [zoneRenameEdit, hid, zone?_ne_none hzone, h]

theorem zoneRenameEdit_of_used {name : List Byte} (hname : zoneNameOf field = some name)
    (h : ∃ w ∈ im.zones, w.name = name ∧ w.id ≠ id) : zoneRenameEdit zone field im = .error .duplicate := by
  have hused : (im.zones.any fun z => z.name == name && z.id != id) = true := by simpa using h
  simp [zoneRenameEdit, hid, zone?_ne_none hzone, hname, hused]

/-- A name that no other zone holds is recorded; the zone's own passes (R90). -/
theorem zoneRenameEdit_of_unused {name : List Byte} (hname : zoneNameOf field = some name)
    (h : ∀ w ∈ im.zones, w.name = name → w.id = id) :
    zoneRenameEdit zone field im = .ok (modZone id (fun z => { z with name := name }) im) := by
  have hunused : (im.zones.any fun z => z.name == name && z.id != id) = false := by simpa using h
  simp [zoneRenameEdit, hid, zone?_ne_none hzone, hname, hunused]

end ZoneRename

/-! ## Member Add and Member Remove (R91, R92) -/

section Members

variable {zone : Half} {kind role : Byte} {value : DevName}

theorem memberAddEdit_of_id_none (h : zoneIdOf zone = none) (im : Image) :
    memberAddEdit zone kind value role im = .error .outOfRange := by
  simp only [memberAddEdit, h]

theorem memberRemoveEdit_of_id_none (h : zoneIdOf zone = none) (im : Image) :
    memberRemoveEdit zone kind value im = .error .outOfRange := by
  simp only [memberRemoveEdit, h]

variable {id : Nat} (hid : zoneIdOf zone = some id) {im : Image}
include hid

theorem memberAddEdit_of_absent (h : ∀ z ∈ im.zones, z.id ≠ id) :
    memberAddEdit zone kind value role im = .error .notFound := by
  simp only [memberAddEdit, hid, zone?_eq_none h]

theorem memberRemoveEdit_of_absent (h : ∀ z ∈ im.zones, z.id ≠ id) :
    memberRemoveEdit zone kind value im = .error .notFound := by
  simp only [memberRemoveEdit, hid, zone?_eq_none h]

variable {z : Zone} (hz : im.zone? id = some z)
include hz

theorem memberAddEdit_of_designator_none (h : designatorOf kind value = none) :
    memberAddEdit zone kind value role im = .error .invalidField := by
  simp only [memberAddEdit, hid, hz, h]

theorem memberRemoveEdit_of_designator_none (h : designatorOf kind value = none) :
    memberRemoveEdit zone kind value im = .error .invalidField := by
  simp only [memberRemoveEdit, hid, hz, h]

variable {d : Designator} (hd : designatorOf kind value = some d)
include hd

theorem memberRemoveEdit_of_not_member (h : hasMember z d = false) :
    memberRemoveEdit zone kind value im = .error .notFound := by
  simp [memberRemoveEdit, hid, hz, hd, h]

theorem memberRemoveEdit_of_member (h : hasMember z d = true) : memberRemoveEdit zone kind value im =
    .ok (modZone id (fun w => { w with members := w.members.eraseP fun m => m.designator == d }) im) := by
  simp [memberRemoveEdit, hid, hz, hd, h]

theorem memberAddEdit_of_role_none (h : roleOf z.kind role = none) :
    memberAddEdit zone kind value role im = .error .invalidField := by
  simp only [memberAddEdit, hid, hz, hd, h]

variable {r : Role} (hr : roleOf z.kind role = some r)
include hr

theorem memberAddEdit_of_member (h : hasMember z d = true) :
    memberAddEdit zone kind value role im = .error .duplicate := by
  simp [memberAddEdit, hid, hz, hd, hr, h]

theorem memberAddEdit_of_full (h : hasMember z d = false) (hfull : 64 ≤ z.members.length ∨ 4096 ≤ im.memberTotal) :
    memberAddEdit zone kind value role im = .error .capacity := by
  simp [memberAddEdit, hid, hz, hd, hr, h, hfull]

theorem memberAddEdit_of_room (h : hasMember z d = false) (hzone : z.members.length < 64) (himage : im.memberTotal < 4096) :
    memberAddEdit zone kind value role im =
      .ok (modZone id (fun w => { w with members := w.members ++ [{ designator := d, role := r }] }) im) := by
  simp [memberAddEdit, hid, hz, hd, hr, h, hzone, himage]

end Members

/-! ## The zoning evaluation (R93, R94) -/

theorem memberMatches_iff {s : State} {x : DevName} {m : Member} : memberMatches s x m = true ↔ matchesMember s x m := by
  unfold memberMatches matchesMember
  cases hd : m.designator with
  | name d => simp
  | port slot pos =>
    cases he : entryFor s x with
    | none => simp
    | some entry => simp [Prod.ext_iff]

theorem zoneMatches_iff {s : State} {x : DevName} {z : Zone} : zoneMatches s x z = true ↔ matchesZone s x z := by
  simp [zoneMatches, matchesZone, memberMatches_iff]

theorem matchedPrincipal_iff {s : State} {x : DevName} {z : Zone} :
    matchedPrincipal s x z = true ↔ principalOf s x z := by
  simp [matchedPrincipal, principalOf, memberMatches_iff]

theorem zoneAdmits_iff {s : State} {x y : DevName} {z : Zone} : zoneAdmits s x y z = true ↔ admitsPair s x y z := by
  simp [zoneAdmits, admitsPair, zoneMatches_iff, matchedPrincipal_iff, and_assoc, or_assoc]

/-- Where a zone matches either endpoint, the first zone that admits the pair decides (R94, step 2). -/
theorem evaluate_of_matched {s : State} {im : Image} {x y : DevName}
    (h : ∃ z ∈ im.zones, matchesZone s x z ∨ matchesZone s y z) : evaluate s im x y =
      ((im.zones.find? (zoneAdmits s x y)).map fun z => ZoneVerdict.permitZone z.id).getD .denyZoning := by
  have hany : (im.zones.any fun z => zoneMatches s x z || zoneMatches s y z) = true := by
    simpa [zoneMatches_iff] using h
  rw [evaluate, if_pos hany]
  cases im.zones.find? (zoneAdmits s x y) <;> rfl

/-- The zones stand in ascending id, so the first zone that admits the pair is the admitting zone of lowest id (R94). -/
theorem ImageLawful.find?_admits {s : State} {im : Image} {x y : DevName} (him : ImageLawful im) {z : Zone}
    (hz : z ∈ im.zones) (hadmits : admitsPair s x y z)
    (hleast : ∀ w ∈ im.zones, admitsPair s x y w → z.id ≤ w.id) : im.zones.find? (zoneAdmits s x y) = some z := by
  have hsorted := List.pairwise_map.1 him.1
  obtain ⟨before, after, hzones⟩ := List.append_of_mem hz
  refine List.find?_eq_some_iff_append.2 ⟨zoneAdmits_iff.2 hadmits, before, after, hzones, fun w hw => ?_⟩
  rw [hzones] at hsorted
  have hlt : w.id < z.id := (List.pairwise_append.1 hsorted).2.2 w hw z (by simp)
  have hmem : w ∈ im.zones := hzones ▸ List.mem_append_left _ hw
  have hnot : ¬ admitsPair s x y w := fun hwa => absurd (hleast w hmem hwa) (Nat.not_le.2 hlt)
  simpa [← zoneAdmits_iff] using hnot

theorem evaluate_of_admits {s : State} {im : Image} {x y : DevName} (him : ImageLawful im) {z : Zone}
    (hz : z ∈ im.zones) (hadmits : admitsPair s x y z)
    (hleast : ∀ w ∈ im.zones, admitsPair s x y w → z.id ≤ w.id) : evaluate s im x y = .permitZone z.id := by
  rw [evaluate_of_matched ⟨z, hz, .inl hadmits.1⟩, him.find?_admits hz hadmits hleast]
  rfl

theorem evaluate_of_not_admitted {s : State} {im : Image} {x y : DevName}
    (hnone : ∀ z ∈ im.zones, ¬ admitsPair s x y z) (h : ∃ z ∈ im.zones, matchesZone s x z ∨ matchesZone s y z) :
    evaluate s im x y = .denyZoning := by
  have hfind : im.zones.find? (zoneAdmits s x y) = none :=
    List.find?_eq_none.2 fun z hz => mt zoneAdmits_iff.1 (hnone z hz)
  rw [evaluate_of_matched h, hfind]
  rfl

/-- Where no zone matches either endpoint, the default access decides (R94, step 1). -/
theorem evaluate_of_unmatched {s : State} {im : Image} {x y : DevName}
    (h : ∀ z ∈ im.zones, ¬ matchesZone s x z ∧ ¬ matchesZone s y z) :
    evaluate s im x y = if im.access = .permit then .permitDefault else .denyDefault := by
  have hany : (im.zones.any fun z => zoneMatches s x z || zoneMatches s y z) ≠ true := by
    simpa [zoneMatches_iff, not_or] using h
  rw [evaluate, if_neg hany]
  cases im.access <;> rfl

/-! ## Zone Check and Image Summary (R95, R96) -/

theorem exec_zoneCheck {f : Frame} {s : State} (h : PortClear s f.port) (x y : DevName) (image : Byte) :
    exec (.zoneCheck f x y image) s = .next (respond f (zoneCheck x y image s).2 (zoneCheck x y image s).1) := by
  change Host.Outcome.next (disarmingCommand f .any (zoneCheck x y image) s) = _
  rw [disarmingCommand_any h]

theorem zoneCheck_of_wrong {x y : DevName} {image : Byte} (h : x = 0 ∨ y = 0 ∨ 1 < image.toNat) (s : State) :
    zoneCheck x y image s = (s, answer .invalidField) := by
  unfold zoneCheck
  split
  case isTrue => rfl
  case isFalse hnames =>
    have hgt : 1 < image.toNat := (or_assoc.2 h).resolve_left hnames
    split
    case h_3 => rfl
    all_goals omega

theorem zoneCheck_of_right {x y : DevName} {image : Byte} (hx : x ≠ 0) (hy : y ≠ 0) (h : image.toNat ≤ 1) (s : State) :
    zoneCheck x y image s = (s, doneWith
      (verdictFields (evaluate s (if image = 0 then s.zones.live else s.zones.working) x y) ++
        split4 s.zones.generation)) := by
  rw [zoneCheck, if_neg (not_or.2 ⟨hx, hy⟩)]
  obtain rfl | rfl := byte_le_one h <;> rfl

theorem exec_imageSummary {f : Frame} {s : State} (h : MasterClear s f.port) (image : Byte) :
    exec (.imageSummary f image) s = .next (respond f (imageSummary image s).2 (imageSummary image s).1) := by
  change Host.Outcome.next (disarmingCommand f .master (imageSummary image) s) = _
  rw [disarmingCommand_master h]

theorem imageSummary_of_gt {image : Byte} (h : 2 < image.toNat) (s : State) :
    imageSummary image s = (s, answer .invalidField) := by
  unfold imageSummary
  split
  case h_4 => rfl
  all_goals omega

/-- The fields of every image, and then those that Live and Working alone have (R96, R171). -/
theorem imageSummary_of_le {image : Byte} (h : image.toNat ≤ 2) (s : State) : imageSummary image s = (s, doneWith
    (summaryFields (if image = 0 then s.zones.live else if image = 1 then s.zones.working else s.zones.pending) ++
      (if image = 0 then split4 s.zones.generation else [0, 0, 0, 0]) ++
      (if image = 1 then flagByte s.zones.modified ++ num1 s.zones.workingState.code else [0, 0]))) := by
  obtain rfl | rfl | rfl := byte_le_two h
  · rfl
  · exact congrArg (fun fields => (s, doneWith fields)) (List.append_assoc _ _ _)
  · rfl

end Sys2Proof.Machine

section
open Sys2Proof Sys2Proof.Machine

/-- Settles O42: LOCKED by the state of Working alone; then the clone, the clear, and the two edits by what their field
decodes to. -/
theorem workingImageRule : Obligations.WorkingImageRule := by
  intro f s hclear
  refine ⟨fun hfrozen => ?_, fun hfrozen field zone kind access role value => ?_, fun hed => ?_⟩
  · simp only [List.forall_mem_cons, List.not_mem_nil, false_implies, implies_true, and_true]
    refine ⟨?_, (isEdit_workingClear f).exec_of_frozen hclear hfrozen⟩
    rw [exec_workingClone hclear, workingClone_of_frozen hfrozen]
  · simp only [List.forall_mem_cons, List.not_mem_nil, false_implies, implies_true, and_true]
    exact ⟨(isEdit_setSetName f field).exec_of_frozen hclear hfrozen,
      (isEdit_setDefaultAccess f access).exec_of_frozen hclear hfrozen,
      (isEdit_zoneCreate f zone field kind).exec_of_frozen hclear hfrozen,
      (isEdit_zoneDelete f zone).exec_of_frozen hclear hfrozen,
      (isEdit_zoneRename f zone field).exec_of_frozen hclear hfrozen,
      (isEdit_memberAdd f zone kind value role).exec_of_frozen hclear hfrozen,
      (isEdit_memberRemove f zone kind value).exec_of_frozen hclear hfrozen⟩
  · refine ⟨?_, (isEdit_workingClear f).exec_of_ok hclear hed rfl, fun field name hname => ?_, fun field hlen hnone => ?_,
      (isEdit_setDefaultAccess f 0).exec_of_ok hclear hed rfl, (isEdit_setDefaultAccess f 1).exec_of_ok hclear hed rfl,
      fun access hgt => ?_⟩
    · rw [exec_workingClone hclear, workingClone_of_editable hed]
    · exact (isEdit_setSetName f field).exec_of_ok hclear hed (setNameEdit_of_spells hname _)
    · exact (isEdit_setSetName f field).exec_of_error hclear hed (setNameEdit_of_none (nameOf_eq_none hlen hnone) _)
    · exact (isEdit_setDefaultAccess f access).exec_of_error hclear hed (accessEdit_of_none (accessOf_of_gt hgt) _)

/-- Settles O43: each check of R88 to R90 in its order, and the zones after the insertion, the filter or the renaming. -/
theorem zoneRecordsRule : Obligations.ZoneRecordsRule := by
  intro f zone s hclear hed hlaw im inRange edited
  have him : ImageLawful im := hlaw.1
  refine ⟨fun field kind hlen => ?_, ?_, fun field hlen => ?_⟩
  · have hedit := isEdit_zoneCreate f zone field kind
    refine ⟨fun hout => ?_, fun hin hbad => ?_, fun name hin hkind hname hne => ⟨fun hused => ?_, fun hnew => ?_⟩⟩
    · exact hedit.exec_of_error hclear hed (zoneCreateEdit_of_id_none (zoneIdOf_of_not_range hout) _)
    · have hid := zoneIdOf_of_range hin
      obtain hgt | hnone := hbad
      · exact hedit.exec_of_error hclear hed (zoneCreateEdit_of_kind_none hid (zoneKindOf_of_gt hgt) _)
      · exact hedit.exec_of_error hclear hed (zoneCreateEdit_of_name_none hid (zoneNameOf_eq_none hlen hnone) _)
    · exact hedit.exec_of_error hclear hed (zoneCreateEdit_of_used (zoneIdOf_of_range hin) (zoneKindOf_of_le hkind)
        (zoneNameOf_of_spells hname hne) hused)
    · refine ⟨_, hedit.exec_of_ok hclear hed (zoneCreateEdit_of_new (zoneIdOf_of_range hin) (zoneKindOf_of_le hkind)
        (zoneNameOf_of_spells hname hne) hnew), ⟨rfl, rfl, rfl, ?_⟩, fun z => mem_insertZone.trans or_comm⟩
      exact insertZone_sorted him.1 fun z hz => (hnew z hz).1
  · have hedit := isEdit_zoneDelete f zone
    refine ⟨fun hout => ?_, fun hin habsent => ?_, fun hin hpresent => ?_⟩
    · exact hedit.exec_of_error hclear hed (zoneDeleteEdit_of_id_none (zoneIdOf_of_not_range hout) _)
    · exact hedit.exec_of_error hclear hed (zoneDeleteEdit_of_absent (zoneIdOf_of_range hin) habsent)
    · refine ⟨_, hedit.exec_of_ok hclear hed (zoneDeleteEdit_of_present (zoneIdOf_of_range hin) hpresent),
        ⟨rfl, rfl, rfl, ?_⟩, fun z => ?_⟩
      · exact him.1.sublist (List.filter_sublist.map Zone.id)
      · simp [withWorking, im]
  · have hedit := isEdit_zoneRename f zone field
    refine ⟨fun hout => ?_, fun hin habsent => ?_, fun z hz hzid => ?_⟩
    · exact hedit.exec_of_error hclear hed (zoneRenameEdit_of_id_none (zoneIdOf_of_not_range hout) _)
    · exact hedit.exec_of_error hclear hed (zoneRenameEdit_of_absent (zoneIdOf_of_range hin) habsent)
    · have hid := him.zoneIdOf_of_mem hz hzid
      have hpresent : ∃ w ∈ im.zones, w.id = zone.toNat := ⟨z, hz, hzid⟩
      refine ⟨fun hnone => ?_, fun name hname hne => ⟨fun hused => ?_, fun hunused => ?_⟩⟩
      · exact hedit.exec_of_error hclear hed (zoneRenameEdit_of_name_none hid hpresent (zoneNameOf_eq_none hlen hnone))
      · exact hedit.exec_of_error hclear hed
          (zoneRenameEdit_of_used hid hpresent (zoneNameOf_of_spells hname hne) hused)
      · refine ⟨_, hedit.exec_of_ok hclear hed
          (zoneRenameEdit_of_unused hid hpresent (zoneNameOf_of_spells hname hne) hunused), ⟨rfl, rfl, rfl, ?_⟩,
          fun w => ?_⟩
        · have hids := modZone_ids (id := zone.toNat) (g := fun z => { z with name := name }) (fun _ => rfl) im
          exact hids ▸ him.1
        · rw [← hzid]
          exact him.mem_modZone hz _

/-- Settles O44: each check of R91 and R92 in its order, and the member list of the one zone of that id. -/
theorem membersRule : Obligations.MembersRule := by
  intro f zone kind role value s hclear hed hlaw im inRange slotByte posByte names roleIs total after add remove
  have him : ImageLawful im := hlaw.1
  have hadd := isEdit_memberAdd f zone kind value role
  have hremove := isEdit_memberRemove f zone kind value
  refine ⟨fun hout => ?_, fun hin habsent => ?_, fun z hz hzid => ⟨fun hnone => ?_, fun d hnames => ?_⟩⟩
  · have hid := zoneIdOf_of_not_range hout
    exact ⟨hadd.exec_of_error hclear hed (memberAddEdit_of_id_none hid _),
      hremove.exec_of_error hclear hed (memberRemoveEdit_of_id_none hid _)⟩
  · have hid := zoneIdOf_of_range hin
    exact ⟨hadd.exec_of_error hclear hed (memberAddEdit_of_absent hid habsent),
      hremove.exec_of_error hclear hed (memberRemoveEdit_of_absent hid habsent)⟩
  · have hid := him.zoneIdOf_of_mem hz hzid
    have hzone : im.zone? zone.toNat = some z := hzid ▸ him.zone?_of_mem hz
    have hd : designatorOf kind value = none :=
      Option.eq_none_iff_forall_ne_some.2 fun d => mt designatorOf_eq_some_iff.1 (hnone d)
    exact ⟨hadd.exec_of_error hclear hed (memberAddEdit_of_designator_none hid hzone hd),
      hremove.exec_of_error hclear hed (memberRemoveEdit_of_designator_none hid hzone hd)⟩
  · have hid := him.zoneIdOf_of_mem hz hzid
    have hzone : im.zone? zone.toNat = some z := hzid ▸ him.zone?_of_mem hz
    have hd : designatorOf kind value = some d := designatorOf_eq_some_iff.2 hnames
    refine ⟨fun hnone => ?_, fun r hrole => ?_, fun hnot => ?_, fun hin => ?_⟩
    · have hr : roleOf z.kind role = none :=
        Option.eq_none_iff_forall_ne_some.2 fun r => mt roleOf_eq_some_iff.1 (hnone r)
      exact hadd.exec_of_error hclear hed (memberAddEdit_of_role_none hid hzone hd hr)
    · have hr : roleOf z.kind role = some r := roleOf_eq_some_iff.2 hrole
      refine ⟨fun hin => ?_, fun hnot hfull => ?_, fun hnot hroom htotal => ?_⟩
      · exact hadd.exec_of_error hclear hed (memberAddEdit_of_member hid hzone hd hr (hasMember_iff.2 hin))
      · exact hadd.exec_of_error hclear hed (memberAddEdit_of_full hid hzone hd hr (hasMember_eq_false hnot) hfull)
      · refine ⟨_, hadd.exec_of_ok hclear hed
          (memberAddEdit_of_room hid hzone hd hr (hasMember_eq_false hnot) hroom htotal), ?_⟩
        rw [← hzid, him.modZone_members hz (· ++ [_])]
        rfl
    · exact hremove.exec_of_error hclear hed (memberRemoveEdit_of_not_member hid hzone hd (hasMember_eq_false hnot))
    · refine ⟨_, hremove.exec_of_ok hclear hed (memberRemoveEdit_of_member hid hzone hd (hasMember_iff.2 hin)), ?_⟩
      rw [← hzid, him.modZone_members hz (·.eraseP _),
        eraseP_designator (him.designators_nodup hz)]
      rfl

/-- Settles O45: the evaluation from the first zone that admits the pair, and the bytes of the two reads. -/
theorem zoneReadsRule : Obligations.ZoneReadsRule := by
  refine ⟨fun s im x y him => ⟨fun z hz hadmits hleast => ?_, fun hnone hmatch => ?_, fun hnone => ?_⟩,
    fun f x y image s hclear => ⟨fun hwrong => ?_, fun hx hy himage => ?_⟩,
    fun f image s hclear => ⟨fun hgt => ?_, fun hle => ?_⟩⟩
  · exact evaluate_of_admits him hz hadmits hleast
  · exact evaluate_of_not_admitted hnone hmatch
  · rw [evaluate_of_unmatched hnone]
    cases im.access <;> rfl
  · rw [exec_zoneCheck hclear, zoneCheck_of_wrong hwrong]
  · rw [exec_zoneCheck hclear, zoneCheck_of_right hx hy himage]
    refine ⟨_, rfl, ?_⟩
    cases evaluate s (if image = 0 then s.zones.live else s.zones.working) x y <;> rfl
  · rw [exec_imageSummary hclear, imageSummary_of_gt hgt]
  · rw [exec_imageSummary hclear, imageSummary_of_le hle]
    refine ⟨_, rfl, ?_⟩
    intro im
    change summaryFields im ++ _ ++ _ = _
    clear_value im
    obtain ⟨setName, access, zones⟩ := im
    cases access <;> cases s.zones.workingState <;> rfl

end

/-! PROOFS. The lowest free position of a table of positions (R117, R147), the entry that the Name Map holds for a device name
(R118), and from these the commands Name Pin, Name Unpin and Name Lookup (R124 to R126). -/

namespace Sys2Proof.Machine

/-! ## The lowest free position (R117, R147) -/

theorem tableGet_eq_none {α : Type} {t : List (Nat × α)} {i : Nat} (h : ∀ x ∈ t, x.1 ≠ i) : tableGet t i = none := by
  by_contra hsome
  obtain ⟨a, ha⟩ := Option.ne_none_iff_exists'.1 hsome
  exact h (i, a) (mem_of_tableGet ha) rfl

theorem tableGet_ne_none_of_lt_firstFree {α : Type} {t : List (Nat × α)} {i j : Nat} (hi : i ≤ j)
    (hj : j < firstFree i t) : tableGet t j ≠ none := by
  induction t generalizing i with
  | nil => exact absurd hj (Nat.not_lt.2 hi)
  | cons y t ih =>
    obtain ⟨k, a⟩ := y
    simp only [firstFree] at hj
    split at hj
    next hk =>
      by_cases hkj : k = j
      · simp [tableGet, hkj]
      · rw [tableGet, if_neg hkj]
        exact ih (by omega) hj
    next => exact absurd hj (Nat.not_lt.2 hi)

theorem firstFree_le {α : Type} (t : List (Nat × α)) (i : Nat) : firstFree i t ≤ i + t.length := by
  induction t generalizing i with
  | nil => exact le_rfl
  | cons y t ih =>
    obtain ⟨k, a⟩ := y
    simp only [firstFree, List.length_cons]
    split
    · exact (ih (i + 1)).trans (by omega)
    · omega

/-- A lawful table with a free position holds fewer entries than it has positions. -/
theorem TableLawful.length_lt {α : Type} {bound i : Nat} {t : List (Nat × α)} (h : TableLawful bound t) (hi : i < bound)
    (hfree : ∀ x ∈ t, x.1 ≠ i) : t.length < bound := by
  have hnodup : (i :: t.map Prod.fst).Nodup := by
    refine List.nodup_cons.2 ⟨fun hmem => ?_, h.1.imp Nat.ne_of_lt⟩
    obtain ⟨x, hx, hxi⟩ := List.mem_map.1 hmem
    exact hfree x hx hxi
  have hbelow : (i :: t.map Prod.fst) ⊆ List.range bound := by
    intro j hj
    rcases List.mem_cons.1 hj with rfl | hj
    · exact List.mem_range.2 hi
    · obtain ⟨x, hx, rfl⟩ := List.mem_map.1 hj
      exact List.mem_range.2 (h.2 x hx)
  simpa using (hnodup.subperm hbelow).length_le

theorem freePosition_of_full {α : Type} {bound : Nat} {t : List (Nat × α)} (h : TableLawful bound t)
    (hfull : t.length = bound) : freePosition bound t = none := by
  refine Option.eq_none_iff_forall_ne_some.2 fun i hi => ?_
  obtain ⟨hlt, hfree⟩ := freePosition_free h hi
  exact absurd hfull (h.length_lt hlt hfree).ne

theorem freePosition_of_room {α : Type} {bound : Nat} {t : List (Nat × α)} (h : t.length < bound) :
    freePosition bound t = some (firstFree 0 t) :=
  if_pos ((firstFree_le t 0).trans_lt (by omega))

theorem freePosition_of_lowest {α : Type} {bound k : Nat} {t : List (Nat × α)} (h : TableLawful bound t) (hk : k < bound)
    (hfree : tableGet t k = none) (hlow : ∀ j, j < k → tableGet t j ≠ none) : freePosition bound t = some k := by
  have hle : firstFree 0 t ≤ k := by
    by_contra hlt
    exact tableGet_ne_none_of_lt_firstFree (Nat.zero_le k) (Nat.not_le.1 hlt) hfree
  have hfirst : freePosition bound t = some (firstFree 0 t) := if_pos (hle.trans_lt hk)
  have hempty : tableGet t (firstFree 0 t) = none := tableGet_eq_none (freePosition_free h hfirst).2
  have hge : k ≤ firstFree 0 t := Nat.not_lt.1 fun hlt => hlow _ hlt hempty
  rw [hfirst, hle.antisymm hge]

/-! ## The entry for a device name (R118) -/

/-- Names are unique in the Name Map, so an entry of a name is the entry found for it. -/
theorem NamesLawful.entryFor_eq {s : State} (h : NamesLawful s) {k : Nat} {e : NameEntry} {name : DevName}
    (hmem : (k, e) ∈ s.names) (hname : e.name = name) : entryFor s name = some (k, e) := by
  obtain ⟨-, hunique, -⟩ := h
  obtain ⟨before, after, hnames⟩ := List.append_of_mem hmem
  refine List.find?_eq_some_iff_append.2 ⟨by simpa using hname, before, after, hnames, fun x hx => ?_⟩
  rw [hnames] at hunique
  have hne : x.2.name ≠ e.name := (List.pairwise_append.1 hunique).2.2 x hx (k, e) List.mem_cons_self
  simpa [← hname] using hne

theorem entryFor_eq_none_iff {s : State} {name : DevName} : entryFor s name = none ↔ ∀ x ∈ s.names, x.2.name ≠ name := by
  simp [entryFor]

theorem of_entryFor {s : State} {name : DevName} {k : Nat} {e : NameEntry} (h : entryFor s name = some (k, e)) :
    (k, e) ∈ s.names ∧ e.name = name := by
  have htest := List.find?_some h
  exact ⟨List.mem_of_find?_eq_some h, by simpa using htest⟩

/-! ## Name Pin (R124) -/

theorem exec_namePin {f : Frame} {s : State} (h : MasterClear s f.port) (name : DevName) (port : Half) :
    exec (.namePin f name port) s = .next (respond f (namePin name port s).2 (namePin name port s).1) := by
  change Host.Outcome.next (disarmingCommand f .master (namePin name port) s) = _
  rw [disarmingCommand_master h]

theorem namePin_zero (port : Half) (s : State) : namePin 0 port s = (s, answer .invalidField) := if_pos rfl

section Pin
variable {name : DevName} {port : Half} {n : PortIx} {k : Nat} {e : NameEntry} {s : State}

theorem namePin_of_port_out_of_range (hname : name ≠ 0) (hport : 671 < port.toNat) :
    namePin name port s = (s, answer .outOfRange) := by
  have hnone : index? 672 port.toNat = none := dif_neg (by omega)
  rw [namePin, if_neg hname, hnone]

/-- What a Pin makes of the entry it finds, by the entry's status (R124). -/
theorem namePin_of_entry (hname : name ≠ 0) (hport : port.toNat = n.val) (he : entryFor s name = some (k, e)) :
    (e.status = .learned → namePin name port s =
      if e.port = n then (putName k { e with status := .pinnedPresent } s, answer .done) else (s, answer .conflict)) ∧
    (e.status = .pinned → namePin name port s =
      if e.port = n then (s, answer .noChange) else (putName k { e with port := n } s, answer .done)) ∧
    (e.status = .pinnedPresent → namePin name port s =
      if e.port = n then (s, answer .noChange) else (s, answer .conflict)) := by
  refine ⟨fun hst => ?_, fun hst => ?_, fun hst => ?_⟩ <;>
    simp only [namePin, if_neg hname, index?_eq_some_iff.2 hport, he, hst]

theorem namePin_of_no_position (hname : name ≠ 0) (hport : port.toNat = n.val) (he : entryFor s name = none)
    (hfull : freePosition Config.namePositions s.names = none) :
    namePin name port s = (s, answer .capacity) := by
  simp only [namePin, if_neg hname, index?_eq_some_iff.2 hport, he, hfull]

theorem namePin_of_new (hname : name ≠ 0) (hport : port.toNat = n.val) (he : entryFor s name = none)
    (hfree : freePosition Config.namePositions s.names = some k) : namePin name port s =
      (putName k { name := name, port := n, status := .pinned } s, answer .done) := by
  simp only [namePin, if_neg hname, index?_eq_some_iff.2 hport, he, hfree]

end Pin

/-! ## Name Unpin (R125) -/

theorem exec_nameUnpin {f : Frame} {s : State} (h : MasterClear s f.port) (name : DevName) :
    exec (.nameUnpin f name) s = .next (respond f (nameUnpin name s).2 (nameUnpin name s).1) := by
  change Host.Outcome.next (disarmingCommand f .master (nameUnpin name) s) = _
  rw [disarmingCommand_master h]

theorem nameUnpin_zero (s : State) : nameUnpin 0 s = (s, answer .invalidField) := if_pos rfl

theorem nameUnpin_of_absent {name : DevName} {s : State} (hname : name ≠ 0) (he : entryFor s name = none) :
    nameUnpin name s = (s, answer .notFound) := by
  simp only [nameUnpin, if_neg hname, he]

/-- What an Unpin leaves of the entry it finds, by the entry's status (R125). -/
theorem nameUnpin_of_entry {name : DevName} {k : Nat} {e : NameEntry} {s : State} (hname : name ≠ 0)
    (he : entryFor s name = some (k, e)) :
    (e.status = .learned → nameUnpin name s = (s, answer .noChange)) ∧
    (e.status = .pinned → nameUnpin name s = (freeName k s, answer .done)) ∧
    (e.status = .pinnedPresent → nameUnpin name s = (putName k { e with status := .learned } s, answer .done)) := by
  refine ⟨fun hst => ?_, fun hst => ?_, fun hst => ?_⟩ <;> simp only [nameUnpin, if_neg hname, he, hst]

/-! ## Name Lookup (R126) -/

theorem exec_nameLookup {f : Frame} {s : State} (h : PortClear s f.port) (name : DevName) :
    exec (.nameLookup f name) s = .next (respond f (nameLookup name s).2 (nameLookup name s).1) := by
  change Host.Outcome.next (disarmingCommand f .any (nameLookup name) s) = _
  rw [disarmingCommand_any h]

theorem nameLookup_zero (s : State) : nameLookup 0 s = (s, answer .invalidField) := if_pos rfl

theorem nameLookup_of_absent {name : DevName} {s : State} (hname : name ≠ 0) (he : entryFor s name = none) :
    nameLookup name s = (s, answer .notFound) := by
  simp only [nameLookup, if_neg hname, he]

theorem nameLookup_of_entry {name : DevName} {k : Nat} {e : NameEntry} {s : State} (hname : name ≠ 0)
    (he : entryFor s name = some (k, e)) : nameLookup name s = (s, doneWith (num2 k ++ nameFields e)) := by
  simp only [nameLookup, if_neg hname, he]

end Sys2Proof.Machine

section
open Sys2Proof Sys2Proof.Machine

/-- Settles O52: the checks in their order, then the status of the entry found for the name. -/
theorem nameCommandsRule : Obligations.NameCommandsRule := by
  intro f name s hlaw
  refine ⟨fun hclear port => ?_, fun hclear => ?_, fun hclear => ?_⟩
  · simp only [exec_namePin hclear]
    refine ⟨?_, fun hname hport => ?_, fun n hname hport => ⟨fun k e hmem he => ?_, fun habsent => ?_⟩⟩
    · rintro rfl
      rw [namePin_zero]
    · rw [namePin_of_port_out_of_range hname hport]
    · obtain ⟨hlearned, hpinned, hpresent⟩ := namePin_of_entry hname hport (hlaw.entryFor_eq hmem he)
      refine ⟨fun hst => ?_, fun hst => ?_, fun hst => ?_⟩
      · rw [hlearned hst]
        split <;> rfl
      · rw [hpinned hst]
        split <;> rfl
      · rw [hpresent hst]
        split <;> rfl
    · have hentry := entryFor_eq_none_iff.2 habsent
      refine ⟨fun hfull => ?_, fun k hk hfree hlow => ?_⟩
      · rw [namePin_of_no_position hname hport hentry (freePosition_of_full hlaw.1 hfull)]
      · rw [namePin_of_new hname hport hentry (freePosition_of_lowest hlaw.1 hk hfree hlow)]
        rfl
  · simp only [exec_nameUnpin hclear]
    refine ⟨?_, fun hname habsent => ?_, fun k e hname hmem he => ?_⟩
    · rintro rfl
      rw [nameUnpin_zero]
    · rw [nameUnpin_of_absent hname (entryFor_eq_none_iff.2 habsent)]
    · obtain ⟨hlearned, hpinned, hpresent⟩ := nameUnpin_of_entry hname (hlaw.entryFor_eq hmem he)
      refine ⟨fun hst => ?_, fun hst => ?_, fun hst => ?_⟩
      · rw [hlearned hst]
      · rw [hpinned hst]
        rfl
      · rw [hpresent hst]
        rfl
  · simp only [exec_nameLookup hclear]
    refine ⟨?_, fun hname habsent => ?_, fun k e hname hmem he => ?_⟩
    · rintro rfl
      rw [nameLookup_zero]
    · rw [nameLookup_of_absent hname (entryFor_eq_none_iff.2 habsent)]
    · rw [nameLookup_of_entry hname (hlaw.entryFor_eq hmem he), ← he]
      obtain ⟨_, _, status⟩ := e
      cases status <;> rfl

end

/-! PROOFS. Messages taken in Joined, and the port that a position byte names (R1, R40); the steps of a Query, one equation each
(R127, R128). -/

namespace Sys2Proof.Machine

/-! ## Messages from a Joined card (R40) -/

theorem takeMessage_of_joined {slot : Slot} {s : State} (h : (s.card slot).state = .joined) (act : State → State) :
    takeMessage slot CardState.isJoined act s = act s :=
  if_pos ((isJoined_iff _).2 h)

/-- No port stands at a position of 48 or above (R1). -/
theorem portAt_of_ge {slot : Slot} {pos : Nat} (h : 48 ≤ pos) : portAt slot pos = none := dif_neg (Nat.not_lt.2 h)

theorem portAt_of_place {slot : Slot} {pos : Nat} {n : PortIx} (hslot : slotOf n = slot) (hpos : posOf n = pos) :
    portAt slot pos = some n := by
  rw [← hslot, ← hpos, portAt_slotOf_posOf]

/-! ## The login of a device (R118) -/

/-- The device is logged in on the port: an entry of its name and of the port that is not merely Pinned. -/
def LoggedInOn (s : State) (d : DevName) (n : PortIx) : Prop :=
  ∃ k e, (k, e) ∈ s.names ∧ e.name = d ∧ e.port = n ∧ e.status ≠ .pinned

theorem NameStatus.loggedIn_iff (st : NameStatus) : st.loggedIn = true ↔ st ≠ .pinned := by
  cases st <;> simp [NameStatus.loggedIn]

/-- A device is logged in on a port exactly if the entry found for its name is of that port and logged in. -/
theorem NamesLawful.loggedInOn_iff {s : State} (h : NamesLawful s) {d : DevName} {n : PortIx} :
    LoggedInOn s d n ↔ ∃ k e, entryFor s d = some (k, e) ∧ e.port = n ∧ e.status.loggedIn = true := by
  simp only [LoggedInOn, NameStatus.loggedIn_iff]
  constructor
  · rintro ⟨k, e, hmem, hname, hlogin⟩
    exact ⟨k, e, h.entryFor_eq hmem hname, hlogin⟩
  · rintro ⟨k, e, he, hlogin⟩
    obtain ⟨hmem, hname⟩ := of_entryFor he
    exact ⟨k, e, hmem, hname, hlogin⟩

/-! ## The steps of a Query (R127) -/

theorem exec_query {slot : Slot} {s : State} (h : (s.card slot).state = .joined) (tag : Half) (position : Byte)
    (x y : DevName) : exec (.query slot tag position x y) s = .next (query slot tag position x y s) := by
  change Host.Outcome.next (takeMessage slot CardState.isJoined (query slot tag position x y) s) = _
  rw [takeMessage_of_joined h]

section Verdict
variable {slot : Slot} {position : Byte} {x y : DevName} {n m : PortIx} {s : State}

theorem queryVerdict_same (slot : Slot) (position : Byte) (x : DevName) (s : State) :
    queryVerdict slot position x x s = denied 1 := if_pos rfl

theorem queryVerdict_of_no_port (hne : x ≠ y) (hport : portAt slot position.toNat = none) :
    queryVerdict slot position x y s = denied 2 := by
  simp only [queryVerdict, if_neg hne, hport]

theorem queryVerdict_of_not_live (hne : x ≠ y) (hport : portAt slot position.toNat = some n)
    (hlive : live s n = false) : queryVerdict slot position x y s = denied 2 := by
  simp [queryVerdict, hne, hport, hlive]

theorem queryVerdict_of_live (hne : x ≠ y) (hport : portAt slot position.toNat = some n) (hlive : live s n = true) :
    queryVerdict slot position x y s = queryFromLive n x y s := by
  simp only [queryVerdict, if_neg hne, hport, if_pos hlive]

theorem queryFromLive_of_source_out (h : NamesLawful s) (hx : ¬ LoggedInOn s x n) :
    queryFromLive n x y s = denied 3 := by
  unfold queryFromLive
  cases he : entryFor s x with
  | none => rfl
  | some found =>
    obtain ⟨k, e⟩ := found
    exact if_pos fun hlogin => hx (h.loggedInOn_iff.2 ⟨k, e, he, hlogin⟩)

theorem queryFromLive_of_destination_out (h : NamesLawful s) (hx : LoggedInOn s x n) (hy : ∀ m, ¬ LoggedInOn s y m) :
    queryFromLive n x y s = denied 4 := by
  obtain ⟨_, _, hsource, hlogin⟩ := h.loggedInOn_iff.1 hx
  cases he : entryFor s y with
  | none => simp only [queryFromLive, hsource, if_neg (not_not.2 hlogin), he]
  | some found =>
    obtain ⟨k, d⟩ := found
    have hout : d.status.loggedIn = false := by
      by_contra hin
      exact hy d.port (h.loggedInOn_iff.2 ⟨k, d, he, rfl, by simpa using hin⟩)
    simp [queryFromLive, hsource, hlogin, he, hout]

theorem queryFromLive_of_both_in (h : NamesLawful s) (hx : LoggedInOn s x n) (hy : LoggedInOn s y m) :
    queryFromLive n x y s = if live s m then zoningVerdict (evaluate s s.zones.live x y) else denied 5 := by
  obtain ⟨_, _, hsource, hlogin⟩ := h.loggedInOn_iff.1 hx
  obtain ⟨_, d, hdest, rfl, hin⟩ := h.loggedInOn_iff.1 hy
  cases hlive : live s d.port <;> simp [queryFromLive, hsource, hlogin, hdest, hin, hlive]

end Verdict

end Sys2Proof.Machine

section
open Sys2Proof Sys2Proof.Machine

/-- Settles O51, one step of R127 after another. -/
theorem queryRule : Obligations.QueryRule := by
  intro slot tag position x y s hjoined hlaw
  simp only [exec_query hjoined, query]
  refine ⟨?_, fun hne hpos => ?_, fun n hslot hpos hne => ?_⟩
  · rintro rfl
    rw [queryVerdict_same]
    rfl
  · rw [queryVerdict_of_no_port hne (portAt_of_ge hpos)]
    rfl
  · have hport := portAt_of_place hslot hpos
    refine ⟨fun hdead => ?_, fun hlive hx => ?_, fun hlive hx hy => ?_,
      fun m hlive hx hy => ⟨fun hdead => ?_, fun hlive' => ?_⟩⟩
    · rw [queryVerdict_of_not_live hne hport hdead]
      rfl
    · rw [queryVerdict_of_live hne hport hlive, queryFromLive_of_source_out hlaw hx]
      rfl
    · rw [queryVerdict_of_live hne hport hlive, queryFromLive_of_destination_out hlaw hx hy]
      rfl
    · rw [queryVerdict_of_live hne hport hlive, queryFromLive_of_both_in hlaw hx hy, hdead]
      rfl
    · rw [queryVerdict_of_live hne hport hlive, queryFromLive_of_both_in hlaw hx hy, if_pos hlive']
      cases evaluate s s.zones.live x y <;> rfl

end

/-! PROOFS. What a raise claim leaves standing in the Alarm Table (R147, R148), the answer of a Login by the entry found for its
name (R119, R120), and what a Logout leaves (R121). -/

namespace Sys2Proof.Machine

/-! ## The alarm that a raise leaves (R147, R148) -/

theorem alarmStands_of_write {s : State} {pos : Nat} {e : AlarmEntry} {l : List (Nat × AlarmEntry)}
    (hs : s.alarms = tableSet pos e l) (hst : e.state ≠ .clearedUnacked) :
    AlarmStands s e.cause e.subject e.severity e.detail := by
  refine ⟨pos, e, ?_, rfl, rfl, hst, rfl, rfl⟩
  rw [hs]
  exact mem_of_tableGet (by rw [tableGet_tableSet, if_pos rfl])

/-- A raise on a standing entry keeps its pair and its state and gives it the claim's severity and detail (R148). -/
theorem updatedAlarm_eq (r : Raise) (uptime : Word) (e : AlarmEntry) : updatedAlarm r uptime e =
    { e with severity := r.severity, detail := r.detail, last := (updatedAlarm r uptime e).last } := by
  unfold updatedAlarm
  split
  next hsame => rw [← hsame.1, ← hsame.2]
  next => rfl

/-- After a raise claim its alarm stands with the severity and detail of the claim, unless the table is full (R147, R148). -/
theorem alarmStands_raiseAlarm (r : Raise) {s : State} (hroom : s.alarms.length < Config.alarmPositions) :
    AlarmStands (raiseAlarm r s) r.cause r.subject r.severity r.detail := by
  unfold raiseAlarm
  split
  next pos e hfound =>
    obtain ⟨-, hcause, hsubject⟩ := alarmFor_mem hfound
    have hupdated (hst : e.state ≠ .clearedUnacked) : AlarmStands (putAlarm pos (updatedAlarm r s.uptime e) s)
        r.cause r.subject r.severity r.detail := by
      rw [updatedAlarm_eq, ← hcause, ← hsubject]
      exact alarmStands_of_write (e := { e with severity := r.severity, detail := r.detail, last := _ }) rfl hst
    split
    next hst => exact hupdated (by simp [hst])
    next hst => exact hupdated (by simp [hst])
    next =>
      rw [← hcause, ← hsubject]
      exact alarmStands_of_write (e := reraisedAlarm r s.uptime e) (alarmChanged_alarms _ _) nofun
  next =>
    rw [freePosition_of_room hroom]
    exact alarmStands_of_write (e := newAlarm r s.uptime) (alarmChanged_alarms _ _) nofun

/-! ## Logins (R119, R120) -/

/-- A Login is answered with the reason that its checks give, on the state that they leave (R120). -/
theorem exec_login {slot : Slot} {position : Byte} {name : DevName} {s t : State} {reason : LoginReason}
    (hjoined : (s.card slot).state = .joined) (h : takeLogin slot position name s = (t, reason)) :
    exec (.login slot position name) s =
      .next (send slot (.loginAnswer position name (reason == .accept) reason.code) t) := by
  change Host.Outcome.next (takeMessage slot CardState.isJoined (login slot position name) s) = _
  rw [takeMessage_of_joined hjoined, login, h]

section Checks
variable {slot : Slot} {position : Byte} {name : DevName} {n : PortIx} {s : State}

theorem takeLogin_zero (slot : Slot) (position : Byte) (s : State) : takeLogin slot position 0 s = (s, .invalidName) :=
  if_pos rfl

theorem takeLogin_of_no_port (hname : name ≠ 0) (hport : portAt slot position.toNat = none) :
    takeLogin slot position name s = (s, .notServiceable) := by
  simp only [takeLogin, if_neg hname, hport]

theorem takeLogin_of_not_serviceable (hname : name ≠ 0) (hport : portAt slot position.toNat = some n)
    (hserv : serviceable s n = false) : takeLogin slot position name s = (s, .notServiceable) := by
  simp only [takeLogin, if_neg hname, hport, hserv, Bool.false_eq_true, if_false]

theorem takeLogin_of_serviceable (hname : name ≠ 0) (hport : portAt slot position.toNat = some n)
    (hserv : serviceable s n = true) : takeLogin slot position name s = loginOnPort n name s := by
  simp only [takeLogin, if_neg hname, hport, if_pos hserv]

end Checks

section Entries
variable {name : DevName} {n : PortIx} {k : Nat} {e : NameEntry} {s : State}

/-- A login of a name that has an entry: accepted again where the device is logged in, taken up where it is Pinned (R119). -/
theorem loginOnPort_of_entry (he : entryFor s name = some (k, e)) :
    (e.status = .learned → loginOnPort n name s = if e.port = n then (s, .accept) else (s, .duplicateName)) ∧
    (e.status = .pinnedPresent → loginOnPort n name s = if e.port = n then (s, .accept) else (s, .pinnedElsewhere)) ∧
    (e.status = .pinned → loginOnPort n name s =
      if e.port ≠ n then (s, .pinnedElsewhere)
      else if (s.port n).logins < 4 then (raiseLogins n (putName k { e with status := .pinnedPresent } s), .accept)
      else (s, .portLimit)) := by
  refine ⟨fun hst => ?_, fun hst => ?_, fun hst => ?_⟩ <;> simp only [loginOnPort, he, hst]

theorem loginOnPort_new_of_limit (he : entryFor s name = none) (hlimit : 4 ≤ (s.port n).logins) :
    loginOnPort n name s = (s, .portLimit) := by
  simp only [loginOnPort, he, if_pos hlimit]

theorem loginOnPort_new_of_full (he : entryFor s name = none) (hroom : (s.port n).logins < 4)
    (hfull : freePosition Config.namePositions s.names = none) :
    loginOnPort n name s = (raiseAlarm (plainRaise .nameMapFull 0 .minor 0) s, .tableFull) := by
  simp only [loginOnPort, he, if_neg (Nat.not_le.2 hroom), hfull]

theorem loginOnPort_new (he : entryFor s name = none) (hroom : (s.port n).logins < 4)
    (hfree : freePosition Config.namePositions s.names = some k) : loginOnPort n name s =
      (raiseLogins n (putName k { name := name, port := n, status := .learned } s), .accept) := by
  simp only [loginOnPort, he, if_neg (Nat.not_le.2 hroom), hfree]

end Entries

/-! ## Logouts (R121) -/

theorem exec_logout {slot : Slot} {s : State} (h : (s.card slot).state = .joined) (position : Byte) (name : DevName) :
    exec (.logout slot position name) s = .next (logout slot position name s) := by
  change Host.Outcome.next (takeMessage slot CardState.isJoined (logout slot position name) s) = _
  rw [takeMessage_of_joined h]

theorem logout_of_entry {slot : Slot} {position : Byte} {name : DevName} {k : Nat} {e : NameEntry} {s : State}
    (hport : portAt slot position.toNat = some e.port) (he : entryFor s name = some (k, e)) :
    logout slot position name s = if e.status.loggedIn then endLogin k e s else s := by
  simp [logout, hport, he]

/-- A Logout of a name that has no entry on the port is ignored (R121). -/
theorem logout_of_elsewhere {slot : Slot} {position : Byte} {name : DevName} {s : State}
    (h : ∀ k e, (k, e) ∈ s.names → e.name = name → ¬ (slotOf e.port = slot ∧ posOf e.port = position.toNat)) :
    logout slot position name s = s := by
  unfold logout
  split
  next n k e hport he =>
    obtain ⟨hmem, hname⟩ := of_entryFor he
    refine if_neg fun hlogin => h k e hmem hname ?_
    rw [hlogin.1]
    exact of_portAt hport
  next => rfl

theorem endLogin_names (pos : Nat) (e : NameEntry) (s : State) : (endLogin pos e s).names = (writeLogout pos e s).names := by
  rw [endLogin_eq, sendJoined_names, lowerLogins, modPort_names]

/-- The login count of the entry's port, and no other port record, is written when a login ends (R121). -/
theorem endLogin_ports (pos : Nat) (e : NameEntry) (s : State) : (endLogin pos e s).ports =
    s.ports.set e.port { s.port e.port with logins := (s.port e.port).logins - 1 } := by
  rw [endLogin_eq, sendJoined_eq, writeLogout_eq]
  rfl

theorem endLogin_card (pos : Nat) (e : NameEntry) (s : State) (c : Slot) :
    (endLogin pos e s).card c = (s.card c).told [.purge e.name] := by
  rw [endLogin_eq, sendJoined_card, lowerLogins, modPort_card, writeLogout_card]

end Sys2Proof.Machine

section
open Sys2Proof Sys2Proof.Machine

/-- Settles O50: the checks of a Login, then the entry found for its name; the end of the login that a Logout names. -/
theorem loginLogoutRule : Obligations.LoginLogoutRule := by
  intro slot position name s hjoined hlaw
  refine ⟨?_, fun hname hpos => ?_, fun n hslot hpos hname => ⟨fun hserv => ?_, fun hserv => ⟨fun k e hmem he => ?_,
    fun habsent => ?_⟩⟩, fun k e hmem he hslot hpos => ?_, fun helsewhere => ?_⟩
  · rintro rfl
    exact exec_login hjoined (takeLogin_zero slot position s)
  · exact exec_login hjoined (takeLogin_of_no_port hname (portAt_of_ge hpos))
  · exact exec_login hjoined (takeLogin_of_not_serviceable hname (portAt_of_place hslot hpos) hserv)
  · have htake := takeLogin_of_serviceable hname (portAt_of_place hslot hpos) hserv
    obtain ⟨hlearned, hpresent, hpinned⟩ := loginOnPort_of_entry (n := n) (hlaw.entryFor_eq hmem he)
    refine ⟨fun hst => ?_, fun hst => ?_, fun hst hne => ?_, fun hst hport hlimit => ?_, fun hst hport hroom => ?_⟩
    · rw [hlearned hst] at htake
      split
      next hport => exact exec_login hjoined (htake.trans (if_pos hport))
      next hport => exact exec_login hjoined (htake.trans (if_neg hport))
    · rw [hpresent hst] at htake
      split
      next hport => exact exec_login hjoined (htake.trans (if_pos hport))
      next hport => exact exec_login hjoined (htake.trans (if_neg hport))
    · rw [hpinned hst, if_pos hne] at htake
      exact exec_login hjoined htake
    · rw [hpinned hst, if_neg (not_not.2 hport), if_neg (Nat.not_lt.2 hlimit)] at htake
      exact exec_login hjoined htake
    · rw [hpinned hst, if_neg (not_not.2 hport), if_pos hroom] at htake
      exact exec_login hjoined htake
  · have htake := takeLogin_of_serviceable hname (portAt_of_place hslot hpos) hserv
    have hentry := entryFor_eq_none_iff.2 habsent
    refine ⟨fun hlimit => ?_, fun hroom hfull _ halarms => ⟨_, ?_, raiseAlarm_eq _ s,
      alarmStands_raiseAlarm (plainRaise .nameMapFull 0 .minor 0) halarms⟩,
      fun k hroom hk hfree hlow => ?_⟩
    · rw [loginOnPort_new_of_limit hentry hlimit] at htake
      exact exec_login hjoined htake
    · rw [loginOnPort_new_of_full hentry hroom (freePosition_of_full hlaw.1 hfull)] at htake
      exact exec_login hjoined htake
    · rw [loginOnPort_new hentry hroom (freePosition_of_lowest hlaw.1 hk hfree hlow)] at htake
      exact exec_login hjoined htake
  · rw [exec_logout hjoined, logout_of_entry (portAt_of_place hslot hpos) (hlaw.entryFor_eq hmem he)]
    refine ⟨fun hst => by rw [hst]; rfl, fun hst => ?_⟩
    rw [if_pos ((NameStatus.loggedIn_iff _).2 hst)]
    refine ⟨_, rfl, ?_, endLogin_ports k e s, fun c => ?_, endLogin_frame k e s⟩
    · rw [endLogin_names, writeLogout]
      cases hcase : e.status with
      | learned => rfl
      | pinnedPresent => rfl
      | pinned => exact absurd hcase hst
    · rw [endLogin_card, he, CardRec.told]
  · rw [exec_logout hjoined, logout_of_elsewhere helsewhere]

end

/-! PROOFS. The entry that the Alarm Table holds for a pair of cause and subject (R146), what a raise and an end claim write there
(R147 to R149), and the commands Alarm Acknowledge and Alarm Acknowledge All (R151, R152). -/

namespace Sys2Proof.Machine

/-! ## The entry of a pair (R146) -/

/-- A pair has one entry in the Alarm Table at most, so an entry of a pair is the entry found for it. -/
theorem AlarmsLawful.alarmFor_eq {s : State} (h : AlarmsLawful s) {k : Nat} {e : AlarmEntry} {cause : Cause} {subject : Nat}
    (hmem : (k, e) ∈ s.alarms) (hcause : e.cause = cause) (hsubject : e.subject = subject) :
    alarmFor s cause subject = some (k, e) := by
  cases hfound : alarmFor s cause subject with
  | none => exact absurd ⟨hcause, hsubject⟩ (alarmFor_none hfound _ hmem)
  | some x =>
    obtain ⟨hx, hxcause, hxsubject⟩ := alarmFor_mem hfound
    by_contra hne
    exact pairwise_mem (fun x y hxy hyx => hxy ⟨hyx.1.symm, hyx.2.symm⟩) h.2 hx hmem (fun heq => hne (congrArg some heq))
      ⟨hxcause.trans hcause.symm, hxsubject.trans hsubject.symm⟩

theorem alarmFor_of_absent {s : State} {cause : Cause} {subject : Nat}
    (h : ∀ x ∈ s.alarms, ¬ (x.2.cause = cause ∧ x.2.subject = subject)) : alarmFor s cause subject = none := by
  refine List.find?_eq_none.2 fun x hx => ?_
  simpa using h x hx

/-! ## Raises (R147, R148) -/

section Raises
variable {r : Raise} {k : Nat} {e : AlarmEntry} {s : State}

theorem raiseAlarm_of_standing (he : alarmFor s r.cause r.subject = some (k, e)) (hst : e.state ≠ .clearedUnacked) :
    raiseAlarm r s = putAlarm k (updatedAlarm r s.uptime e) s := by
  cases hcase : e.state with
  | raised => simp only [raiseAlarm, he, hcase]
  | acknowledged => simp only [raiseAlarm, he, hcase]
  | clearedUnacked => exact absurd hcase hst

theorem raiseAlarm_of_cleared (he : alarmFor s r.cause r.subject = some (k, e)) (hst : e.state = .clearedUnacked) :
    raiseAlarm r s = alarmChanged r.silent (putAlarm k (reraisedAlarm r s.uptime e) s) := by
  simp only [raiseAlarm, he, hst]

theorem raiseAlarm_of_new (he : alarmFor s r.cause r.subject = none)
    (hfree : freePosition Config.alarmPositions s.alarms = some k) :
    raiseAlarm r s = alarmChanged r.silent (putAlarm k (newAlarm r s.uptime) s) := by
  simp only [raiseAlarm, he, hfree]

end Raises

/-! ## Ends (R149) -/

/-- What an end claim makes of the entry it finds, by the entry's state (R149). -/
theorem endAlarm_of_entry {cause : Cause} {subject k : Nat} {e : AlarmEntry} {s : State}
    (he : alarmFor s cause subject = some (k, e)) :
    (e.state = .raised → endAlarm cause subject s =
      alarmChanged e.silent (putAlarm k { e with state := .clearedUnacked, last := s.uptime } s)) ∧
    (e.state = .acknowledged → endAlarm cause subject s = retireAlarm k e s) ∧
    (e.state = .clearedUnacked → endAlarm cause subject s = s) := by
  refine ⟨fun hst => ?_, fun hst => ?_, fun hst => ?_⟩ <;> simp only [endAlarm, he, hst]

theorem endAlarm_of_absent {cause : Cause} {subject : Nat} {s : State} (he : alarmFor s cause subject = none) :
    endAlarm cause subject s = s := by
  simp only [endAlarm, he]

/-! ## Alarm Acknowledge (R151) -/

theorem Cause.isEvent_iff (c : Cause) : c.isEvent = true ↔ c = .nameMapFull ∨ c = .commitDegraded := by
  cases c <;> simp [Cause.isEvent]

/-- A byte spells a cause exactly where it is the cause's code (R146). -/
theorem causeOf_eq_some_iff {b : Byte} {c : Cause} : causeOf b = some c ↔ b.toNat = c.code := by
  constructor
  · unfold causeOf
    split <;> intro h <;> cases h <;> assumption
  · intro h
    rw [causeOf, h]
    cases c <;> rfl

/-- The entry that an acknowledgement leaves of an entry, none where it retires it (R151). -/
def AlarmEntry.afterAcknowledge (uptime : Word) (e : AlarmEntry) : Option AlarmEntry :=
  match e.state with
  | .raised => if e.cause.isEvent then none else some { e with state := .acknowledged, last := uptime }
  | .clearedUnacked => none
  | .acknowledged => some e

/-- An acknowledgement of the entry adds no reason: it leaves the entry as it is, or the entry is silent (R151, R153). -/
def AlarmEntry.quiet (e : AlarmEntry) : Bool := e.state = .acknowledged || e.silent

theorem AlarmEntry.quiet_eq_false_iff {e : AlarmEntry} : e.quiet = false ↔ e.state ≠ .acknowledged ∧ e.silent = false := by
  simp [AlarmEntry.quiet]

theorem AlarmEntry.quiet_of_changing {e : AlarmEntry} (h : e.state ≠ .acknowledged) : e.quiet = e.silent := by
  simp [AlarmEntry.quiet, h]

section Acknowledge
variable {pos : Nat} {e : AlarmEntry} {s : State}

theorem acknowledgeEntry_of_acknowledged (hst : e.state = .acknowledged) : acknowledgeEntry pos e s = s := by
  simp only [acknowledgeEntry, hst]

theorem acknowledgeEntry_of_condition (hst : e.state = .raised) (hevent : ¬ e.cause.isEvent = true) :
    acknowledgeEntry pos e s =
      alarmChanged e.silent (putAlarm pos { e with state := .acknowledged, last := s.uptime } s) := by
  simp only [acknowledgeEntry, hst, if_neg hevent]

theorem acknowledgeEntry_of_event (hst : e.state = .raised) (hevent : e.cause.isEvent = true) :
    acknowledgeEntry pos e s = retireAlarm pos e s := by
  simp only [acknowledgeEntry, hst, if_pos hevent]

theorem acknowledgeEntry_of_cleared (hst : e.state = .clearedUnacked) :
    acknowledgeEntry pos e s = retireAlarm pos e s := by
  simp only [acknowledgeEntry, hst]

end Acknowledge

theorem exec_alarmAcknowledge {f : Frame} {s : State} (h : MasterClear s f.port) (position cause subject : Byte) :
    exec (.alarmAcknowledge f position cause subject) s = .next (respond f
      (alarmAcknowledge position cause subject s).2 (alarmAcknowledge position cause subject s).1) := by
  change Host.Outcome.next (disarmingCommand f .master (alarmAcknowledge position cause subject) s) = _
  rw [disarmingCommand_master h]

section Checks
variable {position cause subject : Byte} {e : AlarmEntry} {s : State}

theorem alarmAcknowledge_of_gt (hpos : 127 < position.toNat) :
    alarmAcknowledge position cause subject s = (s, answer .outOfRange) := if_pos hpos

theorem alarmAcknowledge_of_free (hpos : position.toNat ≤ 127) (he : tableGet s.alarms position.toNat = none) :
    alarmAcknowledge position cause subject s = (s, answer .notFound) := by
  simp only [alarmAcknowledge, if_neg (Nat.not_lt.2 hpos), he]

/-- The check of the pair, then the entry's state (R151). -/
theorem alarmAcknowledge_of_entry (hpos : position.toNat ≤ 127) (he : tableGet s.alarms position.toNat = some e) :
    alarmAcknowledge position cause subject s =
      if cause.toNat ≠ e.cause.code ∨ subject.toNat ≠ e.subject then (s, answer .notFound)
      else if e.state = .acknowledged then (s, answer .noChange)
      else (acknowledgeEntry position.toNat e s, answer .done) := by
  simp only [alarmAcknowledge, if_neg (Nat.not_lt.2 hpos), he, ne_eq, causeOf_eq_some_iff]

theorem alarmAcknowledge_of_pair (hpos : position.toNat ≤ 127) (he : tableGet s.alarms position.toNat = some e)
    (hcause : cause.toNat = e.cause.code) (hsubject : subject.toNat = e.subject) :
    alarmAcknowledge position cause subject s =
      if e.state = .acknowledged then (s, answer .noChange)
      else (acknowledgeEntry position.toNat e s, answer .done) := by
  rw [alarmAcknowledge_of_entry hpos he, if_neg (by simp [hcause, hsubject])]

end Checks

/-! ## Two changes of the table tell Alarm once (R153, R161) -/

theorem PortAttention.add_add (r : Reason) (p : PortAttention) : (p.add r).add r = p.add r := by
  cases r <;> rfl

/-- A reason that both sets hold is not added again (R161). -/
theorem addReason_addReason (r : Reason) (s : State) : addReason r (addReason r s) = addReason r s := by
  simp only [addReason, PortAttention.add_add]

theorem alarmChanged_alarmChanged (b b' : Bool) (s : State) :
    alarmChanged b' (alarmChanged b s) = alarmChanged (b && b') s := by
  cases b
  · cases b'
    · exact addReason_addReason .alarm s
    · rfl
  · rfl

theorem alarmChanged_setAlarms (b : Bool) (l : List (Nat × AlarmEntry)) (s : State) :
    alarmChanged b (s.setAlarms l) = (alarmChanged b s).setAlarms l := by
  cases b <;> rfl

/-! ## Alarm Acknowledge All (R152) -/

/-- From s to t these entries have been acknowledged: each is as its acknowledgement leaves it, every other position is as it
was, and both attention sets have Alarm where an entry that is not silent was changed or retired (R151 to R153). -/
structure EntriesAcknowledged (l : List (Nat × AlarmEntry)) (s t : State) : Prop where
  frame : t = (alarmChanged (l.all fun x => x.2.quiet) s).setAlarms t.alarms
  done : ∀ x ∈ l, tableGet t.alarms x.1 = x.2.afterAcknowledge s.uptime
  kept : ∀ pos, pos ∉ l.map Prod.fst → tableGet t.alarms pos = tableGet s.alarms pos

/-- An acknowledgement leaves the state as it is, writes the entry that is left, or frees the position (R151, R153). -/
theorem acknowledgeEntry_cases (pos : Nat) (e : AlarmEntry) (s : State) :
    (e.quiet = true ∧ e.afterAcknowledge s.uptime = some e ∧ acknowledgeEntry pos e s = s) ∨
    (∃ e', e.afterAcknowledge s.uptime = some e' ∧
      acknowledgeEntry pos e s = alarmChanged e.quiet (putAlarm pos e' s)) ∨
    (e.afterAcknowledge s.uptime = none ∧
      acknowledgeEntry pos e s = alarmChanged e.quiet (s.setAlarms (tableErase pos s.alarms))) := by
  cases hst : e.state with
  | acknowledged =>
    exact .inl ⟨by simp [AlarmEntry.quiet, hst], by simp only [AlarmEntry.afterAcknowledge, hst],
      acknowledgeEntry_of_acknowledged hst⟩
  | clearedUnacked =>
    rw [AlarmEntry.quiet_of_changing (by simp [hst])]
    exact .inr (.inr ⟨by simp only [AlarmEntry.afterAcknowledge, hst], acknowledgeEntry_of_cleared hst⟩)
  | raised =>
    rw [AlarmEntry.quiet_of_changing (by simp [hst])]
    by_cases hevent : e.cause.isEvent = true
    · exact .inr (.inr ⟨by simp only [AlarmEntry.afterAcknowledge, hst, if_pos hevent],
        acknowledgeEntry_of_event hst hevent⟩)
    · exact .inr (.inl ⟨_, by simp only [AlarmEntry.afterAcknowledge, hst, if_neg hevent],
        acknowledgeEntry_of_condition hst hevent⟩)

theorem acknowledgeEntry_frame (pos : Nat) (e : AlarmEntry) (s : State) :
    acknowledgeEntry pos e s = (alarmChanged e.quiet s).setAlarms (acknowledgeEntry pos e s).alarms := by
  obtain ⟨hquiet, -, hrun⟩ | ⟨e', -, hrun⟩ | ⟨-, hrun⟩ := acknowledgeEntry_cases pos e s
  · rw [hrun, hquiet]
    rfl
  · rw [hrun, alarmChanged_alarms, putAlarm, alarmChanged_setAlarms, setAlarms_alarms]
  · rw [hrun, alarmChanged_alarms, alarmChanged_setAlarms, setAlarms_alarms]

theorem tableGet_acknowledgeEntry {pos : Nat} {e : AlarmEntry} {s : State} (he : tableGet s.alarms pos = some e) (p : Nat) :
    tableGet (acknowledgeEntry pos e s).alarms p =
      if p = pos then e.afterAcknowledge s.uptime else tableGet s.alarms p := by
  obtain ⟨-, hleft, hrun⟩ | ⟨e', hleft, hrun⟩ | ⟨hleft, hrun⟩ := acknowledgeEntry_cases pos e s
  · rw [hrun, hleft]
    split
    next hp => rw [hp, he]
    next => rfl
  · rw [hrun, hleft, alarmChanged_alarms, putAlarm, setAlarms_alarms, tableGet_tableSet]
  · rw [hrun, hleft, alarmChanged_alarms, setAlarms_alarms, tableGet_tableErase]

theorem acknowledgeEntry_acknowledged {pos : Nat} {e : AlarmEntry} {s : State} (he : tableGet s.alarms pos = some e) :
    EntriesAcknowledged [(pos, e)] s (acknowledgeEntry pos e s) := by
  refine ⟨?_, ?_, fun p hp => ?_⟩
  · simpa using acknowledgeEntry_frame pos e s
  · simp [tableGet_acknowledgeEntry he]
  · have hp : p ≠ pos := by simpa using hp
    rw [tableGet_acknowledgeEntry he, if_neg hp]

namespace EntriesAcknowledged
variable {x : Nat × AlarmEntry} {l : List (Nat × AlarmEntry)} {s u t : State}

theorem refl (s : State) : EntriesAcknowledged [] s s := ⟨rfl, by simp, fun _ _ => rfl⟩

theorem uptime (h : EntriesAcknowledged l s t) : t.uptime = s.uptime := by
  rw [h.frame, setAlarms_uptime, alarmChanged_eq]

theorem cons (h : EntriesAcknowledged [x] s u) (h' : EntriesAcknowledged l u t) (hx : x.1 ∉ l.map Prod.fst) :
    EntriesAcknowledged (x :: l) s t := by
  refine ⟨?_, fun y hy => ?_, fun pos hpos => ?_⟩
  · calc t = (alarmChanged (l.all fun x => x.2.quiet) u).setAlarms t.alarms := h'.frame
      _ = (alarmChanged (l.all fun x => x.2.quiet) (alarmChanged x.2.quiet s)).setAlarms t.alarms := by
        rw [h.frame, alarmChanged_setAlarms, List.all_cons, List.all_nil, Bool.and_true]
        rfl
      _ = (alarmChanged ((x :: l).all fun x => x.2.quiet) s).setAlarms t.alarms := by
        rw [alarmChanged_alarmChanged, List.all_cons]
  · rcases List.mem_cons.1 hy with rfl | hy
    · rw [h'.kept _ hx, h.done _ List.mem_cons_self]
    · rw [h'.done y hy, h.uptime]
  · obtain ⟨hne, hl⟩ : pos ≠ x.1 ∧ pos ∉ l.map Prod.fst := by simpa using hpos
    rw [h'.kept pos hl, h.kept pos (by simpa using hne)]

/-- Beside the table only the attention sets may differ. -/
theorem eq_with (h : EntriesAcknowledged l s t) : t = { s with alarms := t.alarms, attn := t.attn } := by
  rw [h.frame, alarmChanged_eq]
  rfl

theorem attn_of_noted (h : EntriesAcknowledged l s t) (hl : ∃ x ∈ l, x.2.state ≠ .acknowledged ∧ x.2.silent = false) :
    t.attn = (addReason .alarm s).attn := by
  have hnoted : (l.all fun x => x.2.quiet) = false := by
    obtain ⟨x, hx, hchanged⟩ := hl
    exact List.all_eq_false.2 ⟨x, hx, by simp [AlarmEntry.quiet_eq_false_iff.2 hchanged]⟩
  rw [h.frame, setAlarms_attn, hnoted]
  rfl

theorem attn_of_silent (h : EntriesAcknowledged l s t) (hl : ∀ x ∈ l, x.2.state ≠ .acknowledged → x.2.silent = true) :
    t.attn = s.attn := by
  have hquiet : (l.all fun x => x.2.quiet) = true := by
    refine List.all_eq_true.2 fun x hx => ?_
    by_cases hst : x.2.state = .acknowledged
    · simp [AlarmEntry.quiet, hst]
    · rw [AlarmEntry.quiet_of_changing hst, hl x hx hst]
  rw [h.frame, setAlarms_attn, hquiet]
  rfl

end EntriesAcknowledged

/-- The walk over distinct positions acknowledges the entries that stand there (R152). -/
theorem forEach_acknowledgeAt {l : List (Nat × AlarmEntry)} {s : State} (hd : (l.map Prod.fst).Nodup)
    (hl : ∀ x ∈ l, tableGet s.alarms x.1 = some x.2) :
    EntriesAcknowledged l s (forEach (l.map Prod.fst) acknowledgeAt s) := by
  induction l generalizing s with
  | nil => exact .refl s
  | cons x l ih =>
    obtain ⟨hx, hd⟩ := List.nodup_cons.1 hd
    have he := hl x List.mem_cons_self
    have hfirst : EntriesAcknowledged [x] s (acknowledgeEntry x.1 x.2 s) := acknowledgeEntry_acknowledged he
    have hat : acknowledgeAt x.1 s = acknowledgeEntry x.1 x.2 s := by simp only [acknowledgeAt, he]
    rw [List.map_cons, forEach_cons, hat]
    refine hfirst.cons (ih hd fun y hy => ?_) hx
    have hne : y.1 ≠ x.1 := fun h => hx (h ▸ List.mem_map_of_mem hy)
    rw [hfirst.kept y.1 (by simpa using hne), hl y (List.mem_cons_of_mem _ hy)]

theorem alarmAcknowledgeAll_acknowledged {s : State} (h : AlarmsLawful s) :
    EntriesAcknowledged s.alarms s (alarmAcknowledgeAll s).1 := by
  obtain ⟨htable, -⟩ := h
  exact forEach_acknowledgeAt (htable.1.imp Nat.ne_of_lt) fun _ hx => htable.get_of_mem hx

/-- The walk leaves each position as the acknowledgement of its entry leaves it, and a free one free (R152). -/
theorem tableGet_alarmAcknowledgeAll {s : State} (h : AlarmsLawful s) (k : Nat) :
    tableGet (alarmAcknowledgeAll s).1.alarms k =
      (tableGet s.alarms k).bind fun e => e.afterAcknowledge s.uptime := by
  have hwalk := alarmAcknowledgeAll_acknowledged h
  cases hk : tableGet s.alarms k with
  | some e => exact hwalk.done (k, e) (mem_of_tableGet hk)
  | none =>
    rw [hwalk.kept k, hk]
    · rfl
    · intro hmem
      obtain ⟨x, hx, rfl⟩ := List.mem_map.1 hmem
      rw [h.1.get_of_mem hx] at hk
      cases hk

theorem alarmAcknowledgeAll_answer (s : State) : (alarmAcknowledgeAll s).2 =
    answer (if ∃ x ∈ s.alarms, x.2.state ≠ .acknowledged then .done else .noChange) := by
  have hany : (s.alarms.any fun x => x.2.state ≠ .acknowledged) = true ↔ ∃ x ∈ s.alarms, x.2.state ≠ .acknowledged := by
    simp
  exact congrArg answer (if_congr hany rfl rfl)

theorem exec_alarmAcknowledgeAll {f : Frame} {s : State} (h : MasterClear s f.port) : exec (.alarmAcknowledgeAll f) s =
    .next (respond f (alarmAcknowledgeAll s).2 (alarmAcknowledgeAll s).1) := by
  change Host.Outcome.next (disarmingCommand f .master alarmAcknowledgeAll s) = _
  rw [disarmingCommand_master h]

end Sys2Proof.Machine

section
open Sys2Proof Sys2Proof.Machine

/-- Settles O53: the entry found for the pair and its state, for a raise and an end; the checks of Alarm Acknowledge and the
entry's state; the walk of Alarm Acknowledge All by induction on the entries that it acknowledges. -/
theorem alarmsRule : Obligations.AlarmsRule := by
  refine ⟨fun c s hlaw => ⟨fun k e hmem hcause hsubject => ?_, fun habsent k hk hfree hlow => ?_⟩,
    fun cause subject s hlaw => ⟨fun k e hmem hcause hsubject => ?_, fun habsent => ?_⟩,
    fun f position cause subject s hclear => ?_, fun f s hclear hlaw => ?_⟩
  · have hentry := hlaw.alarmFor_eq hmem hcause hsubject
    exact ⟨raiseAlarm_of_standing hentry, raiseAlarm_of_cleared hentry⟩
  · exact raiseAlarm_of_new (alarmFor_of_absent habsent) (freePosition_of_lowest hlaw.1 hk hfree hlow)
  · exact endAlarm_of_entry (hlaw.alarmFor_eq hmem hcause hsubject)
  · exact endAlarm_of_absent (alarmFor_of_absent habsent)
  · simp only [exec_alarmAcknowledge hclear]
    refine ⟨fun hpos => ?_, fun hpos hfree => ?_, fun e hpos he => ⟨fun hother => ?_, fun hcause hsubject => ?_⟩⟩
    · rw [alarmAcknowledge_of_gt hpos]
    · rw [alarmAcknowledge_of_free hpos hfree]
    · rw [alarmAcknowledge_of_entry hpos he, if_pos hother]
    · rw [alarmAcknowledge_of_pair hpos he hcause hsubject]
      refine ⟨fun hst => ?_, fun hst hcondition => ?_, ?_⟩
      · rw [if_pos hst]
      · rw [if_neg (by simp [hst]), acknowledgeEntry_of_condition hst (mt e.cause.isEvent_iff.1 hcondition)]
        rfl
      · rintro (hst | ⟨hst, hevent⟩)
        · rw [if_neg (by simp [hst]), acknowledgeEntry_of_cleared hst]
          rfl
        · rw [if_neg (by simp [hst]), acknowledgeEntry_of_event hst (e.cause.isEvent_iff.2 hevent)]
          rfl
  · have hwalk := alarmAcknowledgeAll_acknowledged hlaw
    refine ⟨(alarmAcknowledgeAll s).1, ?_, hwalk.eq_with, hwalk.attn_of_noted, hwalk.attn_of_silent, fun k => ?_⟩
    · rw [exec_alarmAcknowledgeAll hclear, alarmAcknowledgeAll_answer]
    · rw [tableGet_alarmAcknowledgeAll hlaw]
      cases tableGet s.alarms k with
      | none => rfl
      | some e =>
        simp only [Option.bind_some, AlarmEntry.afterAcknowledge, e.cause.isEvent_iff]
        cases e.state <;> rfl

end

/-! PROOFS. What every command frame is (R157, R158): its right, by its code, and a body that answers PRIVILEGE nowhere but in a
Master Claim and writes a cursor nowhere but in Port Restart, Set Cursor and Fetch; what every other row leaves of the cursors
(R162). From these the rights and the cursors. -/

namespace Sys2Proof.Machine

/-! ## Cursors kept (R162) -/

/-- The cursors of both ports are as they were. -/
structure CursorsKept (s t : State) : Prop where
  port : ∀ p, (t.cmdPort p).cursors = (s.cmdPort p).cursors

namespace CursorsKept

variable {s t u : State}

theorem refl (s : State) : CursorsKept s s := ⟨fun _ => rfl⟩

theorem trans (h : CursorsKept s t) (h' : CursorsKept t u) : CursorsKept s u :=
  ⟨fun p => (h'.port p).trans (h.port p)⟩

theorem of_cmd (h : t.cmd = s.cmd) : CursorsKept s t := ⟨fun p => by rw [cmdPort_of_cmd h]⟩

theorem of_moves {k : Scope} (h : Moves k s t) : CursorsKept s t := of_cmd h.cmd_eq

theorem modCmd (p : PortId) (f : CmdPort → CmdPort) (s : State)
    (hf : ∀ x, (f x).cursors = x.cursors := by exact fun _ => rfl) : CursorsKept s (s.modCmd p f) := by
  refine ⟨fun q => ?_⟩
  rw [modCmd_cmdPort]
  split
  · rename_i he
    rw [hf, he]
  · rfl

theorem respond (f : Frame) (a : Answer) (s : State) : CursorsKept s (respond f a s) := modCmd _ _ s

theorem refuseBusy (p : PortId) (tag : Byte) (s : State) : CursorsKept s (refuseBusy p tag s) :=
  modCmd _ _ s

theorem disarm (p : PortId) (s : State) : CursorsKept s (disarm p s) := by
  refine ⟨fun q => ?_⟩
  by_cases hq : q = p
  · rw [hq, disarm_cmdPort]
  · rw [disarm_cmdPort_other hq]

theorem disarmMaster (p : PortId) (s : State) : CursorsKept s (disarmMaster p s) := by
  unfold Machine.disarmMaster
  split
  · exact disarm p s
  · exact refl s

theorem setMastership (m : Option PortId) (s : State) : CursorsKept s (s.setMastership m) :=
  ⟨fun p => by rw [setMastership_cmdPort]⟩

theorem changeMastership (m : Option PortId) (s : State) : CursorsKept s (changeMastership m s) := by
  unfold Machine.changeMastership
  split
  · exact (disarm _ s).trans (setMastership m _)
  · exact setMastership m s

theorem supervisorFall (p : PortId) (s : State) : CursorsKept s (supervisorFall p s) := by
  have hlow : CursorsKept s (s.modCmd p fun x => { x with supervisor := false }) := modCmd p _ s
  unfold Machine.supervisorFall
  dsimp only
  split
  · split
    · exact hlow.trans (changeMastership none _)
    · exact hlow
  · exact refl s

theorem readTransaction (p : PortId) (s : State) : CursorsKept s (s.modCmd p afterRead) :=
  modCmd p _ s fun x => by unfold afterRead; split <;> rfl

theorem settleDeficit (s : State) : CursorsKept s (settleDeficit s) :=
  of_moves (k := .every) Moves.refl.settleDeficit

end CursorsKept

/-! ## Ordinary bodies: no PRIVILEGE, no cursor (R158, R162) -/

/-- A body's result from s: it answers another status than PRIVILEGE and leaves the cursors. -/
structure OrdinaryAt (s : State) (r : State × Answer) : Prop where
  cursors : CursorsKept s r.1
  status : r.2.status ≠ .privilege

/-- A body that is ordinary on every state. -/
def Ordinary (body : State → State × Answer) : Prop := ∀ s, OrdinaryAt s (body s)

namespace OrdinaryAt

variable {s t : State}

/-- An answer that leaves the command ports. -/
theorem of_cmd {a : Answer} (h : t.cmd = s.cmd) (ha : a.status ≠ .privilege := by nofun) : OrdinaryAt s (t, a) :=
  ⟨.of_cmd h, ha⟩

/-- An answer that leaves the state. -/
theorem same {a : Answer} (ha : a.status ≠ .privilege := by nofun) : OrdinaryAt s (s, a) := of_cmd rfl ha

theorem of_moves {k : Scope} {a : Answer} (h : Moves k s t) (ha : a.status ≠ .privilege := by nofun) :
    OrdinaryAt s (t, a) := of_cmd h.cmd_eq ha

/-- An answer after an update of one command port that leaves its cursors. -/
theorem modCmd (p : PortId) (f : CmdPort → CmdPort) {a : Answer}
    (hf : ∀ x, (f x).cursors = x.cursors := by exact fun _ => rfl) (ha : a.status ≠ .privilege := by nofun) :
    OrdinaryAt s (s.modCmd p f, a) :=
  ⟨.modCmd p f s hf, ha⟩

theorem after {r : State × Answer} (h : CursorsKept s t) (hr : OrdinaryAt t r) : OrdinaryAt s r :=
  ⟨h.trans hr.cursors, hr.status⟩

end OrdinaryAt

theorem Ordinary.settled {body : State → State × Answer} (h : Ordinary body) : Ordinary (settled body) := fun s =>
  ⟨(h s).cursors.trans (.settleDeficit _), (h s).status⟩

/-! ### Alarms -/

theorem acknowledgeEntry_cmd (pos : Nat) (e : AlarmEntry) (s : State) : (acknowledgeEntry pos e s).cmd = s.cmd := by
  rw [acknowledgeEntry_frame, alarmChanged_eq]
  rfl

theorem acknowledgeAt_cmd (pos : Nat) (s : State) : (acknowledgeAt pos s).cmd = s.cmd := by
  unfold acknowledgeAt
  split
  · exact acknowledgeEntry_cmd ..
  · rfl

theorem forEach_acknowledgeAt_cmd (l : List Nat) (s : State) : (forEach l acknowledgeAt s).cmd = s.cmd := by
  induction l generalizing s with
  | nil => rfl
  | cons pos l ih => rw [forEach_cons, ih, acknowledgeAt_cmd]

theorem alarmAcknowledge_ordinary (position cause subject : Byte) : Ordinary (alarmAcknowledge position cause subject) := by
  intro s
  unfold alarmAcknowledge
  split
  · exact .same
  · split
    · exact .same
    · split
      · exact .same
      · split
        · exact .same
        · exact .of_cmd (acknowledgeEntry_cmd ..)

theorem alarmAcknowledgeAll_ordinary : Ordinary alarmAcknowledgeAll := by
  intro s
  refine .of_cmd (forEach_acknowledgeAt_cmd _ s) ?_
  split <;> nofun

/-! ### Zone images -/

theorem workingClone_ordinary : Ordinary workingClone := by
  intro s
  unfold workingClone
  split
  · exact .same
  · exact .same
  · exact .of_cmd rfl

theorem editWorking_ordinary {edit : Image → Except Status Image} (h : ∀ im, edit im ≠ .error .privilege) :
    Ordinary (editWorking edit) := by
  intro s
  unfold editWorking
  split
  · exact .same
  · exact .same
  · split
    · rename_i st he
      exact .same fun hst : st = .privilege => h _ (hst ▸ he)
    · exact .of_cmd rfl

theorem setNameEdit_ne_privilege (field : List Byte) (im : Image) : setNameEdit field im ≠ .error .privilege := by
  unfold setNameEdit
  split <;> nofun

theorem accessEdit_ne_privilege (field : Byte) (im : Image) : accessEdit field im ≠ .error .privilege := by
  unfold accessEdit
  split <;> nofun

theorem zoneCreateEdit_ne_privilege (zone : Half) (field : List Byte) (kind : Byte) (im : Image) :
    zoneCreateEdit zone field kind im ≠ .error .privilege := by
  unfold zoneCreateEdit
  split
  · nofun
  · nofun
  · nofun
  · split
    · nofun
    · split <;> nofun

theorem zoneDeleteEdit_ne_privilege (zone : Half) (im : Image) : zoneDeleteEdit zone im ≠ .error .privilege := by
  unfold zoneDeleteEdit
  split
  · nofun
  · split <;> nofun

theorem zoneRenameEdit_ne_privilege (zone : Half) (field : List Byte) (im : Image) :
    zoneRenameEdit zone field im ≠ .error .privilege := by
  unfold zoneRenameEdit
  split
  · nofun
  · split
    · nofun
    · split
      · nofun
      · split <;> nofun

theorem memberAddEdit_ne_privilege (zone : Half) (kind : Byte) (value : DevName) (role : Byte) (im : Image) :
    memberAddEdit zone kind value role im ≠ .error .privilege := by
  unfold memberAddEdit
  split
  · nofun
  · split
    · nofun
    · split
      · nofun
      · nofun
      · split
        · nofun
        · split <;> nofun

theorem memberRemoveEdit_ne_privilege (zone : Half) (kind : Byte) (value : DevName) (im : Image) :
    memberRemoveEdit zone kind value im ≠ .error .privilege := by
  unfold memberRemoveEdit
  split
  · nofun
  · split
    · nofun
    · split
      · nofun
      · split <;> nofun

theorem zoneCheck_ordinary (x y : DevName) (image : Byte) : Ordinary (zoneCheck x y image) := by
  intro s
  unfold zoneCheck
  split
  · exact .same
  · split <;> exact .same

theorem imageSummary_ordinary (image : Byte) : Ordinary (imageSummary image) := by
  intro s
  unfold imageSummary
  split <;> exact .same

/-! ### The Name Map -/

theorem namePin_ordinary (name : DevName) (port : Half) : Ordinary (namePin name port) := by
  intro s
  unfold namePin
  split
  · exact .same
  · split
    · exact .same
    · split
      · split
        · exact .of_cmd rfl
        · exact .same
      · split <;> split
        · exact .of_cmd rfl
        · exact .same
        · exact .same
        · exact .of_cmd rfl
        · exact .same
        · exact .same

theorem nameUnpin_ordinary (name : DevName) : Ordinary (nameUnpin name) := by
  intro s
  unfold nameUnpin
  split
  · exact .same
  · split
    · exact .same
    · split
      · exact .same
      · exact .of_cmd rfl
      · exact .of_cmd rfl

theorem nameLookup_ordinary (name : DevName) : Ordinary (nameLookup name) := by
  intro s
  unfold nameLookup
  split
  · exact .same
  · split <;> exact .same

/-! ### The Commit Engine -/

theorem commitSetup_ordinary (p : PortId) : Ordinary (commitSetup p) := by
  intro s
  unfold commitSetup
  split
  · exact .after (.of_cmd (modZones_cmd ..)) (.modCmd p _)
  · exact .same
  · exact .same

theorem acceptCommit_ordinary : Ordinary acceptCommit := by
  intro s
  have hnumber : Moves .every s (addReason .commit (s.modCommit (CommitEngine.takeNumber s.zones.generation))) :=
    (Moves.refl.commit _).reason _
  unfold acceptCommit
  dsimp only
  split
  · exact .of_moves (hnumber.beginCommit _).switchIfDue.endIfDue
  · exact .of_cmd rfl
  · exact .of_cmd rfl

theorem confirmedCommit_ordinary : Ordinary confirmedCommit := by
  intro s
  unfold confirmedCommit
  split
  · exact .same
  · exact .same
  · exact acceptCommit_ordinary s

theorem commitAbort_ordinary : Ordinary commitAbort := by
  intro s
  unfold commitAbort
  split
  · exact .same
  · exact .same
  · have hreleasing : Moves .every s ((emptyPending s).modCommit fun e =>
        { e with direction := .abort, releaseGen := s.zones.generation, engine := .releasing }) :=
      Moves.refl.dropPending.commit _
    have htold := hreleasing.forEach sendResume (fun slot _ ht => ht.sendResume slot)
      (cardsIn s fun p => p == .held || p == .awaitHold)
    have hout := htold.forEach (fun slot => setPhase slot .outside) (fun slot _ ht => ht.setPhase slot _)
      (cardsIn s (· == .late))
    exact .of_moves (hout.reason _).commitFollows

theorem commitWithdraw_ordinary : Ordinary commitWithdraw := by
  intro s
  unfold commitWithdraw
  split
  · exact .same
  · exact .same
  · exact .of_cmd (Moves.refl.noteRecord (k := .every) _ _).cmd_eq

/-! ### Power and licences -/

theorem setPowerMode_ordinary (mode : Byte) : Ordinary (setPowerMode mode) := by
  intro s
  refine ⟨.of_moves (Moves.refl.setPowerMode (k := .every) mode), ?_⟩
  unfold setPowerMode
  split
  · nofun
  · split <;> nofun

theorem setChassisNumber_ordinary (number : Word) : Ordinary (setChassisNumber number) := by
  intro s
  unfold setChassisNumber
  split
  · exact .same
  · split
    · exact .same
    · exact .of_cmd rfl

theorem poolInstall_ordinary (pool tier kind : Byte) (capacity hours warn : Half) (check : Word) :
    Ordinary (poolInstall pool tier kind capacity hours warn check) := by
  intro s
  unfold poolInstall
  split
  · exact .same
  · split
    · exact .same
    · dsimp only
      split
      · exact .same
      · split
        · exact .same
        · split
          · exact .same
          · exact .of_moves (Moves.refl.applyCredential (k := .every) _ rfl)

theorem poolRevokeSetup_ordinary (p : PortId) (pool : Byte) : Ordinary (poolRevokeSetup p pool) := by
  intro s
  unfold poolRevokeSetup
  split
  · exact .same
  · exact .modCmd p _

theorem confirmedPoolRevoke_ordinary (i : PoolIx) : Ordinary (confirmedPoolRevoke i) := by
  intro s
  refine ⟨.of_moves (Moves.refl.confirmedPoolRevoke (k := .every) i rfl), ?_⟩
  unfold confirmedPoolRevoke
  split <;> nofun

/-! ### Ports and slots -/

theorem enableAnswer_ne_privilege (n : PortIx) (s : State) : (enableAnswer n s).status ≠ .privilege := by
  unfold enableAnswer
  split
  · split <;> nofun
  · split <;> nofun

theorem enableSteps_ordinary (n : PortIx) (named : Option PoolIx) : Ordinary (enableSteps n named) := by
  intro s
  unfold enableSteps
  split
  · exact .same
  · split
    · exact .of_moves (Moves.refl.restorePass (k := .every)) (enableAnswer_ne_privilege _ _)
    · split
      · exact .same
      · exact .of_moves ((Moves.refl.bindPort (k := .every) _ _ rfl).restorePass) (enableAnswer_ne_privilege _ _)

theorem enablePort_ordinary (n : PortIx) (named : Option PoolIx) (prio : Option Priority) :
    Ordinary (enablePort n named prio) := by
  intro s
  unfold enablePort
  split
  · split
    · split
      · exact .same
      · exact .of_moves (Moves.refl.changePriority (k := .every) _ _ rfl)
    · exact .same
  · exact .after (.of_moves (Moves.refl.portChange (k := .every) _ _ nofun nofun)) (enableSteps_ordinary ..)

theorem portEnable_ordinary (port : Half) (pool priority : Byte) : Ordinary (portEnable port pool priority) := by
  intro s
  unfold portEnable
  split
  · exact .same
  · split
    · exact .same
    · exact enablePort_ordinary ..

theorem portDisable_ordinary (port : Half) : Ordinary (portDisable port) := by
  intro s
  refine ⟨.of_moves (Moves.refl.portDisable (k := .every) port rfl), ?_⟩
  unfold portDisable
  split
  · nofun
  · split <;> nofun

theorem portReleaseLicense_ordinary (port : Half) : Ordinary (portReleaseLicense port) := by
  intro s
  refine ⟨.of_moves (Moves.refl.portReleaseLicense (k := .every) port rfl), ?_⟩
  unfold portReleaseLicense
  split
  · nofun
  · split
    · nofun
    · split <;> nofun

theorem portSetPriority_ordinary (port : Half) (priority : Byte) : Ordinary (portSetPriority port priority) := by
  intro s
  refine ⟨.of_moves (Moves.refl.portSetPriority (k := .every) port priority rfl), ?_⟩
  unfold portSetPriority
  split
  · nofun
  · nofun
  · split <;> nofun

theorem slotResetSetup_ordinary (p : PortId) (slot : Byte) : Ordinary (slotResetSetup p slot) := by
  intro s
  unfold slotResetSetup
  split
  · exact .same
  · exact .modCmd p _

theorem confirmedSlotReset_ordinary (slot : Slot) : Ordinary (confirmedSlotReset slot) := fun _ =>
  .of_moves (Moves.refl.slotResetBody (k := .every) slot)

/-! ### Rules -/

theorem ruleWrite_ordinary (rule : Byte) (x : RuleFields) : Ordinary (ruleWrite rule x) := by
  intro s
  refine ⟨.of_moves (Moves.refl.ruleWrite (k := .every) rule x rfl), ?_⟩
  unfold ruleWrite
  split
  · nofun
  · split <;> nofun

theorem ruleEnable_ordinary (rule : Byte) : Ordinary (ruleEnable rule) := by
  intro s
  unfold ruleEnable
  split
  · exact .same
  · split
    · exact .same
    · split
      · exact .same
      · exact .of_cmd rfl

theorem ruleDisable_ordinary (rule : Byte) : Ordinary (ruleDisable rule) := by
  intro s
  refine ⟨.of_moves (Moves.refl.ruleDisable (k := .every) rule rfl), ?_⟩
  unfold ruleDisable
  split
  · nofun
  · split <;> nofun

/-! ### The command ports -/

theorem done_ne_privilege : Status.done ≠ .privilege := nofun

theorem answered_ordinary (a : State → Answer) (ha : ∀ s, (a s).status ≠ .privilege) : Ordinary fun s => (s, a s) :=
  fun s => .same (ha s)

theorem readAttention_ordinary (p : PortId) : Ordinary (readAttention p) := fun _ => .of_cmd (modAttn_cmd ..)

theorem setAlertMask_ordinary (p : PortId) (mask : Byte) : Ordinary (setAlertMask p mask) := by
  intro s
  unfold setAlertMask
  split
  · exact .same
  · exact .of_cmd (modAttn_cmd ..)

theorem masterRelease_ordinary : Ordinary fun s => (changeMastership none s, answer .done) := fun s =>
  ⟨.changeMastership none s, nofun⟩

theorem setParameter_ordinary (number : Byte) (value : Half) : Ordinary (setParameter number value) := by
  intro s
  unfold setParameter
  split
  · exact .same
  · split
    · exact .same
    · exact .of_cmd rfl

theorem carryOut_ordinary (armed : Armed) : Ordinary (carryOut armed) := by
  cases armed with
  | none => exact fun _ => .same
  | commit => exact confirmedCommit_ordinary
  | poolRevoke i => exact confirmedPoolRevoke_ordinary i
  | slotReset slot => exact confirmedSlotReset_ordinary slot

theorem confirm_ordinary (p : PortId) (operation parameter : Byte) : Ordinary (confirm p operation parameter) := by
  intro s
  unfold confirm
  dsimp only
  split
  · exact .after (.disarm p s) (carryOut_ordinary ..)
  · exact .after (.disarm p s) .same

/-! ### The four bodies that are not ordinary -/

theorem masterClaim_cursors (p : PortId) (s : State) : CursorsKept s (masterClaim p s).1 := by
  unfold masterClaim
  split
  · exact .refl s
  · split
    · exact .changeMastership _ s
    · split
      · exact .refl s
      · split
        · exact .refl s
        · exact .changeMastership _ s

/-- A Master Claim answers PRIVILEGE under an absent supervisor only (R159). -/
theorem masterClaim_ne_privilege {p : PortId} {s : State} (h : (s.cmdPort p).supervisor = true) :
    (masterClaim p s).2.status ≠ .privilege := by
  unfold masterClaim
  split
  · rename_i habsent
    rw [h] at habsent
    cases habsent
  · split
    · nofun
    · split
      · nofun
      · split <;> nofun

theorem setCursor_ne_privilege (p : PortId) (cursor : Byte) (value : Half) (s : State) :
    (setCursor p cursor value s).2.status ≠ .privilege := by
  unfold setCursor
  split
  · nofun
  · split <;> nofun

theorem fetch_ne_privilege (p : PortId) (x : FetchFields) (s : State) : (fetch p x s).2.status ≠ .privilege := by
  unfold fetch
  split
  · nofun
  · split
    · nofun
    · dsimp only
      split
      · nofun
      · unfold fetchRow
        split <;> nofun

/-! ## Every command frame (R157, R158) -/

/-- A command frame as its port carries it out: whether it keeps an armed operation (R160), the right it needs (R158), and
its body. -/
structure FrameMeaning where
  keeps : Bool
  right : Right
  body : State → State × Answer

/-- What the frame does on a state. -/
def FrameMeaning.run (m : FrameMeaning) (f : Frame) (s : State) : State :=
  if m.keeps then keepingCommand f m.right m.body s else disarmingCommand f m.right m.body s

/-- The state on which the body acts once the frame is taken (R160). -/
def FrameMeaning.opened (m : FrameMeaning) (f : Frame) (s : State) : State :=
  if m.keeps then s else disarmMaster f.port s

/-- The codes of the commands that write a cursor: Port Restart, Set Cursor and Fetch (R162, R164, R167). -/
def cursorCodes : List Nat := [0x07, 0x08, 0x09]

/-- The command i, with this code in a frame f, has the meaning m: an observer may use it exactly if its code is one of the ten
(R158); PRIVILEGE is no answer of its body but in a Master Claim under an absent supervisor (R159); and its body leaves the
cursors but in the three commands that write them (R162). -/
structure Means (i : Instr) (f : Frame) (code : Nat) (m : FrameMeaning) : Prop where
  exec_eq : ∀ s, exec i s = .next (m.run f s)
  right_any : m.right = .any ↔ code ∈ observerCodes
  status : ∀ s, (code = 0x05 → (s.cmdPort f.port).supervisor = true) → (m.body s).2.status ≠ .privilege
  cursors : code ∉ cursorCodes → ∀ s, CursorsKept s (m.body s).1

section Meanings

variable {i : Instr} {f : Frame} {code : Nat} {body : State → State × Answer}

/-- A master command with an ordinary body. -/
theorem Means.master (hexec : ∀ s, exec i s = .next (disarmingCommand f .master body s)) (hb : Ordinary body)
    (hcode : code ∉ observerCodes := by decide) : ∃ m, Means i f code m :=
  ⟨⟨false, .master, body⟩, hexec, iff_of_false nofun hcode, fun s _ => (hb s).status, fun _ s => (hb s).cursors⟩

/-- A Confirm. -/
theorem Means.masterKeeping (hexec : ∀ s, exec i s = .next (keepingCommand f .master body s)) (hb : Ordinary body)
    (hcode : code ∉ observerCodes := by decide) : ∃ m, Means i f code m :=
  ⟨⟨true, .master, body⟩, hexec, iff_of_false nofun hcode, fun s _ => (hb s).status, fun _ s => (hb s).cursors⟩

/-- A command of either port with an ordinary body. -/
theorem Means.any (hexec : ∀ s, exec i s = .next (disarmingCommand f .any body s)) (hb : Ordinary body)
    (hcode : code ∈ observerCodes := by decide) : ∃ m, Means i f code m :=
  ⟨⟨false, .any, body⟩, hexec, iff_of_true rfl hcode, fun s _ => (hb s).status, fun _ s => (hb s).cursors⟩

/-- A command of either port that keeps an armed operation. -/
theorem Means.anyKeeping (hexec : ∀ s, exec i s = .next (keepingCommand f .any body s)) (hb : Ordinary body)
    (hcode : code ∈ observerCodes := by decide) : ∃ m, Means i f code m :=
  ⟨⟨true, .any, body⟩, hexec, iff_of_true rfl hcode, fun s _ => (hb s).status, fun _ s => (hb s).cursors⟩

/-- A command of either port that writes cursors. -/
theorem Means.writesCursors (hexec : ∀ s, exec i s = .next (disarmingCommand f .any body s))
    (hb : ∀ s, (body s).2.status ≠ .privilege) (hcode : code ∈ cursorCodes := by decide)
    (hright : code ∈ observerCodes := by decide) : ∃ m, Means i f code m :=
  ⟨⟨false, .any, body⟩, hexec, iff_of_true rfl hright, fun s _ => hb s, fun h => absurd hcode h⟩

end Meanings

/-- Every command frame of table 11-3 has a meaning. -/
theorem commandFields_means {i : Instr} {f : Frame} {code : Byte} {payload : List Byte}
    (h : commandFields i = some (f, code, payload)) : ∃ m, Means i f code.toNat m := by
  cases i <;> cases h
  case identify => exact Means.anyKeeping (fun _ => rfl) (answered_ordinary _ fun _ => done_ne_privilege)
  case readStatus => exact Means.anyKeeping (fun _ => rfl) (answered_ordinary _ fun _ => done_ne_privilege)
  case readAttention => exact Means.anyKeeping (fun _ => rfl) (readAttention_ordinary f.port)
  case setAlertMask => exact Means.any (fun _ => rfl) (setAlertMask_ordinary f.port _)
  case masterClaim =>
    exact ⟨⟨false, .any, masterClaim f.port⟩, fun _ => rfl, iff_of_true rfl (by decide),
      fun _ h => masterClaim_ne_privilege (h rfl), fun _ s => masterClaim_cursors f.port s⟩
  case masterRelease => exact Means.master (fun _ => rfl) masterRelease_ordinary
  case portRestart => exact Means.writesCursors (fun _ => rfl) fun _ => done_ne_privilege
  case setCursor => exact Means.writesCursors (fun _ => rfl) (setCursor_ne_privilege f.port _ _)
  case fetch => exact Means.writesCursors (fun _ => rfl) (fetch_ne_privilege f.port _)
  case setParameter => exact Means.master (fun _ => rfl) (setParameter_ordinary _ _)
  case confirmCommit => exact Means.masterKeeping (fun _ => rfl) (confirm_ordinary f.port _ _).settled
  case confirmPoolRevoke => exact Means.masterKeeping (fun _ => rfl) (confirm_ordinary f.port _ _).settled
  case confirmSlotReset => exact Means.masterKeeping (fun _ => rfl) (confirm_ordinary f.port _ _).settled
  case portEnable => exact Means.master (fun _ => rfl) (portEnable_ordinary _ _ _).settled
  case portDisable => exact Means.master (fun _ => rfl) (portDisable_ordinary _).settled
  case portReleaseLicense => exact Means.master (fun _ => rfl) (portReleaseLicense_ordinary _).settled
  case portSetPriority => exact Means.master (fun _ => rfl) (portSetPriority_ordinary _ _).settled
  case slotReset => exact Means.master (fun _ => rfl) (slotResetSetup_ordinary f.port _)
  case setPowerMode => exact Means.master (fun _ => rfl) (setPowerMode_ordinary _).settled
  case setChassisNumber => exact Means.master (fun _ => rfl) (setChassisNumber_ordinary _)
  case poolInstall => exact Means.master (fun _ => rfl) (poolInstall_ordinary _ _ _ _ _ _ _).settled
  case poolRevoke => exact Means.master (fun _ => rfl) (poolRevokeSetup_ordinary f.port _)
  case workingClone => exact Means.master (fun _ => rfl) workingClone_ordinary
  case workingClear => exact Means.master (isEdit_workingClear f) (editWorking_ordinary nofun)
  case setSetName => exact Means.master (isEdit_setSetName f _) (editWorking_ordinary (setNameEdit_ne_privilege _))
  case setDefaultAccess =>
    exact Means.master (isEdit_setDefaultAccess f _) (editWorking_ordinary (accessEdit_ne_privilege _))
  case zoneCreate =>
    exact Means.master (isEdit_zoneCreate f _ _ _) (editWorking_ordinary (zoneCreateEdit_ne_privilege _ _ _))
  case zoneDelete => exact Means.master (isEdit_zoneDelete f _) (editWorking_ordinary (zoneDeleteEdit_ne_privilege _))
  case zoneRename =>
    exact Means.master (isEdit_zoneRename f _ _) (editWorking_ordinary (zoneRenameEdit_ne_privilege _ _))
  case memberAdd =>
    exact Means.master (isEdit_memberAdd f _ _ _ _) (editWorking_ordinary (memberAddEdit_ne_privilege _ _ _ _))
  case memberRemove =>
    exact Means.master (isEdit_memberRemove f _ _ _) (editWorking_ordinary (memberRemoveEdit_ne_privilege _ _ _))
  case commitSetup => exact Means.master (fun _ => rfl) (commitSetup_ordinary f.port)
  case commitAbort => exact Means.master (fun _ => rfl) commitAbort_ordinary
  case commitWithdraw => exact Means.master (fun _ => rfl) commitWithdraw_ordinary
  case zoneCheck => exact Means.any (fun _ => rfl) (zoneCheck_ordinary _ _ _)
  case imageSummary => exact Means.master (fun _ => rfl) (imageSummary_ordinary _)
  case namePin => exact Means.master (fun _ => rfl) (namePin_ordinary _ _)
  case nameUnpin => exact Means.master (fun _ => rfl) (nameUnpin_ordinary _)
  case nameLookup => exact Means.any (fun _ => rfl) (nameLookup_ordinary _)
  case ruleWrite => exact Means.master (fun _ => rfl) (ruleWrite_ordinary _ _).settled
  case ruleEnable => exact Means.master (fun _ => rfl) (ruleEnable_ordinary _)
  case ruleDisable => exact Means.master (fun _ => rfl) (ruleDisable_ordinary _).settled
  case alarmAcknowledge => exact Means.master (fun _ => rfl) (alarmAcknowledge_ordinary _ _ _)
  case alarmAcknowledgeAll => exact Means.master (fun _ => rfl) alarmAcknowledgeAll_ordinary

/-- The meaning of a command frame, by its frame and its code. -/
theorem exists_means {i : Instr} {f : Frame} {code : Nat} (hf : frameOf i = some f) (hcode : codeOf i = some code) :
    ∃ m, Means i f code m := by
  obtain ⟨x, hx, rfl⟩ := Option.map_eq_some_iff.1 hf
  obtain ⟨y, hy, rfl⟩ := Option.map_eq_some_iff.1 hcode
  obtain rfl : x = y := Option.some.inj (hx.symm.trans hy)
  exact commandFields_means hx

/-! ## Rights (R158) -/

namespace FrameMeaning

variable (m : FrameMeaning) {f : Frame} {s : State}

theorem run_takes (h : PortTakes s f.port) : m.run f s = withRight f m.right m.body (m.opened f s) := by
  unfold run opened
  split
  · exact receiveFrame_takes h _
  · exact receiveFrame_takes h _

theorem opened_of_observer (h : s.cmd.mastership ≠ some f.port) : m.opened f s = s := by
  unfold opened
  split
  · rfl
  · exact disarmMaster_of_observer h

theorem opened_mastership : (m.opened f s).cmd.mastership = s.cmd.mastership := by
  unfold opened disarmMaster
  split
  · rfl
  · split
    · exact disarm_mastership f.port s
    · rfl

theorem opened_supervisor : ((m.opened f s).cmdPort f.port).supervisor = (s.cmdPort f.port).supervisor := by
  unfold opened disarmMaster
  split
  · rfl
  · split
    · rw [disarm_cmdPort]
    · rfl

theorem opened_cursors : CursorsKept s (m.opened f s) := by
  unfold opened
  split
  · exact .refl s
  · exact .disarmMaster f.port s

end FrameMeaning

namespace Means

variable {i : Instr} {f : Frame} {code : Nat} {m : FrameMeaning} {s : State}

/-- An observer is refused a command outside the ten (R158). -/
theorem exec_refused (h : Means i f code m) (ht : PortTakes s f.port) (hm : s.cmd.mastership ≠ some f.port)
    (hcode : code ∉ observerCodes) : exec i s = .next (respond f (answer .privilege) s) := by
  have hright : m.right = .master := by
    cases hr : m.right with
    | any => exact absurd (h.right_any.1 hr) hcode
    | master => rfl
  rw [h.exec_eq, m.run_takes ht, m.opened_of_observer hm, hright, withRight_observer hm]

/-- A sender with the right has the body carried out and answered (R158). -/
theorem exec_answered (h : Means i f code m) (ht : PortTakes s f.port)
    (hright : s.cmd.mastership = some f.port ∨ code ∈ observerCodes) :
    exec i s = .next (respond f (m.body (m.opened f s)).2 (m.body (m.opened f s)).1) := by
  rw [h.exec_eq, m.run_takes ht]
  obtain hm | hcode := hright
  · rw [withRight_master (m.opened_mastership.trans hm), answerWith]
  · rw [h.right_any.2 hcode, withRight_any, answerWith]

/-- A command frame that writes no cursor leaves them, taken or not (R156, R162). -/
theorem run_cursors (h : Means i f code m) (hcode : code ∉ cursorCodes) (s : State) : CursorsKept s (m.run f s) := by
  by_cases hlow : (s.cmdPort f.port).prstLow = true
  · have hrun : m.run f s = s := by
      unfold FrameMeaning.run
      split <;> exact receiveFrame_held hlow _
    rw [hrun]
    exact .refl s
  rw [Bool.not_eq_true] at hlow
  by_cases hw : (s.cmdPort f.port).working = true
  · have hrun : m.run f s = refuseBusy f.port f.tag s := by
      unfold FrameMeaning.run
      split <;> exact receiveFrame_busy hlow hw _
    rw [hrun]
    exact .refuseBusy ..
  rw [Bool.not_eq_true] at hw
  rw [m.run_takes ⟨hlow, hw⟩]
  refine (m.opened_cursors (f := f)).trans ?_
  unfold withRight
  split
  · exact .respond ..
  · exact (h.cursors hcode _).trans (.respond ..)

end Means

/-! ## Rows that are no command frame (R162) -/

/-- Whatever the next state is, it has the cursors of s. -/
structure NextKeeps (s : State) (r : Result) : Prop where
  next_eq : ∀ t, r = .next t → CursorsKept s t

theorem NextKeeps.next {s t : State} (h : CursorsKept s t) : NextKeeps s (.next t) := by
  refine ⟨?_⟩
  rintro _ ⟨⟩
  exact h

theorem NextKeeps.moves {s t : State} (h : Moves .every s t) : NextKeeps s (.next t) := .next (.of_moves h)

theorem takeMessage_cursors {slot : Slot} {valid : CardState → Bool} {act : State → State} {s : State}
    (h : CursorsKept s (act s)) : CursorsKept s (takeMessage slot valid act s) := by
  unfold takeMessage
  split
  · exact h
  · exact .refl s

theorem raiseAlarm_cmd (r : Raise) (s : State) : (raiseAlarm r s).cmd = s.cmd :=
  (Moves.refl.raise (k := .every) r).cmd_eq

theorem loginOnPort_cmd (n : PortIx) (name : DevName) (s : State) : (loginOnPort n name s).1.cmd = s.cmd := by
  unfold loginOnPort
  split
  · split
    · split <;> rfl
    · split
      · rfl
      · split <;> rfl
    · split <;> rfl
  · split
    · rfl
    · split
      · exact raiseAlarm_cmd ..
      · rfl

theorem login_cmd (slot : Slot) (position : Byte) (name : DevName) (s : State) :
    (login slot position name s).cmd = s.cmd := by
  unfold login takeLogin
  dsimp only [send, modCard_cmd]
  split
  · rfl
  · split
    · rfl
    · split
      · exact loginOnPort_cmd ..
      · rfl

theorem logout_cmd (slot : Slot) (position : Byte) (name : DevName) (s : State) :
    (logout slot position name s).cmd = s.cmd := by
  unfold logout
  split
  · split
    · rw [endLogin_frame]
    · rfl
  · rfl

/-- A message of a card leaves the cursors. -/
theorem runMessage_cursors (i : Instr) (s : State) : NextKeeps s (runMessage i s) := by
  cases i
  case ident slot cardType portCount tier baseDraw =>
    exact .moves (Moves.refl.takeMessage slot _ _
      (Moves.takeIdent slot cardType portCount tier baseDraw rfl)).settleDeficit
  case ready slot generation =>
    exact .moves (Moves.refl.takeMessage slot _ _ (Moves.takeReady slot generation rfl)).settleDeficit
  case link slot position lit => exact .moves (Moves.refl.takeMessage slot _ _ (Moves.takeLink slot position lit))
  case login => exact .next (takeMessage_cursors (.of_cmd (login_cmd ..)))
  case logout => exact .next (takeMessage_cursors (.of_cmd (logout_cmd ..)))
  case query => exact .next (takeMessage_cursors (.of_cmd rfl))
  case holdAck slot generation => exact .moves (Moves.refl.takeMessage slot _ _ (Moves.holdAck slot generation))
  case resumeAck slot generation => exact .moves (Moves.refl.takeMessage slot _ _ (Moves.resumeAck slot generation))
  case temperature slot value => exact .moves (Moves.refl.takeMessage slot _ _ (Moves.takeTemperature slot value))
  all_goals exact .next (.refl s)

/-- A row that is no command frame leaves the cursors, but for the resets and the rows that carry a frame by its bytes. -/
theorem event_cursors {i : Instr} (hfields : commandFields i = none) (hraw : rawOf i = none)
    (hcold : ∀ lines, i ≠ .coldReset lines) (hreset : ∀ p level, i ≠ .portReset p level) (s : State) :
    NextKeeps s (exec i s) := by
  cases i <;> simp only [commandFields, rawOf, reduceCtorEq] at hfields hraw
  case coldReset lines => exact absurd rfl (hcold lines)
  case portReset p level => exact absurd rfl (hreset p level)
  case supervisorPresenceFall p => exact .next (.supervisorFall p s)
  case supervisorPresenceRise p => exact .next (.modCmd p _ s)
  case presenceRise slot => exact .moves (Moves.refl.presenceRise slot)
  case removal slot => exact .moves (Moves.refl.removal slot).settleDeficit
  case unitPresenceRise u => exact .moves (Moves.refl.unitPresenceRise u rfl).settleDeficit
  case unitPresenceFall u => exact .moves (Moves.refl.unitPresenceFall u rfl).settleDeficit
  case readTransaction p => exact .next (.readTransaction p s)
  case ident => exact runMessage_cursors (.ident ..) s
  case ready => exact runMessage_cursors (.ready ..) s
  case link => exact runMessage_cursors (.link ..) s
  case login => exact runMessage_cursors (.login ..) s
  case logout => exact runMessage_cursors (.logout ..) s
  case query => exact runMessage_cursors (.query ..) s
  case holdAck => exact runMessage_cursors (.holdAck ..) s
  case resumeAck => exact runMessage_cursors (.resumeAck ..) s
  case temperature => exact runMessage_cursors (.temperature ..) s
  case linkCheckDiscard slot bytes => exact runMessage_cursors (decodeMessage slot bytes) s
  case messageLeave slot => exact .moves (Moves.refl.leaveMessage slot)
  case probeTimeout slot => exact .moves (Moves.refl.probeTimeout slot)
  case admittingTimeout slot => exact .moves (Moves.refl.admittingTimeout slot).settleDeficit
  case hourTimerExpiry => exact .moves (Moves.refl.hourTimer rfl).settleDeficit
  case holdTimeout slot => exact .moves (Moves.refl.holdTimeout slot)
  case resumeTimeout slot => exact .moves (Moves.refl.resumeTimeout slot)
  case scanTimerExpiry => exact .moves (Moves.refl.scanTimerExpiry rfl)
  case unitReadComplete u reading => exact .moves (Moves.refl.unitReadComplete u reading rfl).settleDeficit
  case chassisSensorReadComplete sensor value =>
    exact .moves (Moves.refl.chassisSensorReadComplete sensor value rfl).settleDeficit
  case uptimeTick => exact .next (.of_cmd rfl)

/-! ## Which commands change a cursor (R162) -/

/-- The three commands whose code is a cursor code. -/
theorem of_cursorCode {i : Instr} {f : Frame} {code : Byte} {payload : List Byte}
    (h : commandFields i = some (f, code, payload)) (hcode : code.toNat ∈ cursorCodes) :
    (∃ f, i = .portRestart f) ∨ (∃ f cursor value, i = .setCursor f cursor value) ∨
      ∃ f table base mode operand flags load, i = .fetch f table base mode operand flags load := by
  cases i <;> cases h
  case portRestart => exact .inl ⟨f, rfl⟩
  case setCursor cursor value => exact .inr (.inl ⟨f, cursor, value, rfl⟩)
  case fetch table base mode operand flags load => exact .inr (.inr ⟨f, table, base, mode, operand, flags, load, rfl⟩)
  all_goals exact absurd hcode (by decide)

theorem exec_cursors {i : Instr} (hraw : rawOf i = none) (hcold : ∀ lines, i ≠ .coldReset lines)
    (hreset : ∀ p level, i ≠ .portReset p level) (hrestart : ∀ f, i ≠ .portRestart f)
    (hset : ∀ f c v, i ≠ .setCursor f c v)
    (hfetch : ∀ f table base mode operand flags load, i ≠ .fetch f table base mode operand flags load) (s : State) :
    NextKeeps s (exec i s) := by
  cases hx : commandFields i with
  | none => exact event_cursors hx hraw hcold hreset s
  | some x =>
    obtain ⟨f, code, payload⟩ := x
    obtain ⟨m, hm⟩ := commandFields_means hx
    have hcode : code.toNat ∉ cursorCodes := by
      intro hcode
      obtain ⟨f, rfl⟩ | ⟨f, c, v, rfl⟩ | ⟨f, table, base, mode, operand, flags, load, rfl⟩ := of_cursorCode hx hcode
      · exact hrestart f rfl
      · exact hset f c v rfl
      · exact hfetch f table base mode operand flags load rfl
    rw [hm.exec_eq]
    exact .next (hm.run_cursors hcode s)

/-! ## Set Cursor (R162) -/

theorem writeCursor_of_index {c : Nat} {k : Fin 7} (h : c = k.val + 1) (value : Half) (p : CmdPort) :
    writeCursor c value p = { p with cursors := p.cursors.set k value } := by
  unfold writeCursor
  rw [index1?_eq_some_iff.2 h]

theorem onlyPort_modCmd (p : PortId) (f : CmdPort → CmdPort) (s : State) :
    OnlyPort s (s.modCmd p f) p (f (s.cmdPort p)) := by
  refine ⟨?_, modCmd_mastership p f s, modCmd_cmdPort_same p f s, fun q hq => ?_⟩
  · cases p <;> rfl
  · rw [modCmd_cmdPort, if_neg hq.symm]

theorem exec_setCursor {f : Frame} {s : State} (h : PortClear s f.port) (cursor : Byte) (value : Half) :
    exec (.setCursor f cursor value) s =
      .next (respond f (setCursor f.port cursor value s).2 (setCursor f.port cursor value s).1) := by
  change Host.Outcome.next (disarmingCommand f .any (setCursor f.port cursor value) s) = _
  rw [disarmingCommand_any h]

section SetCursor

variable {cursor : Byte} (p : PortId) (value : Half) (s : State)

theorem setCursor_of_gt (h : 7 < cursor.toNat) : setCursor p cursor value s = (s, answer .invalidField) := if_pos h

theorem setCursor_zero : setCursor p 0 value s = (s, answer .invalidForm) := rfl

theorem setCursor_of_index {c : Fin 7} (h : cursor.toNat = c.val + 1) : setCursor p cursor value s =
    (s.modCmd p fun x => { x with cursors := x.cursors.set c value }, answer .done) := by
  have hpos : cursor ≠ 0 := by
    rintro rfl
    cases h
  have hwrite : writeCursor cursor.toNat value = fun x => { x with cursors := x.cursors.set c value } :=
    funext (writeCursor_of_index h value)
  rw [setCursor, if_neg (by omega), if_neg hpos, hwrite]

end SetCursor

end Sys2Proof.Machine

section
open Sys2Proof Sys2Proof.Machine

/-- Settles O8: the meaning of each command frame, an observer's command by its right and an answered one by its body. -/
theorem rightsRule : Obligations.RightsRule := by
  intro i f code s hf hcode ht
  obtain ⟨m, hm⟩ := exists_means hf hcode
  refine ⟨fun hobserver hout => hm.exec_refused ht hobserver hout, fun hright hclaim => ?_⟩
  refine ⟨_, _, hm.exec_answered ht hright, by rw [respond_cmdPort], ?_⟩
  refine hm.status _ fun h => ?_
  rw [m.opened_supervisor]
  exact hclaim h

/-- Settles O16: what every row leaves of the cursors, command frames by their meaning and events by their moves; then the
checks of Set Cursor in their order. -/
theorem cursorRule : Obligations.CursorRule := by
  refine ⟨fun _ => rfl, fun i s t p hexec hraw hcold hreset hrestart hset hfetch =>
    ((exec_cursors hraw hcold hreset hrestart hset hfetch s).next_eq t hexec).port p, fun f cursor value s h => ?_⟩
  simp only [exec_setCursor h]
  refine ⟨fun hgt => ?_, ?_, fun c hc => ?_⟩
  · rw [setCursor_of_gt f.port value s hgt]
  · rintro rfl
    rw [setCursor_zero]
  · rw [setCursor_of_index f.port value s hc]
    exact ⟨_, rfl, onlyPort_modCmd f.port (fun x => { x with cursors := x.cursors.set c value }) s⟩

end

/-! PROOFS. Edits of Working keep the law of an image (R80 to R82). -/

namespace Sys2Proof.Machine

/-- An edit whose image is lawful wherever the image that it edits is (R82). -/
def KeepsImageLaw (e : Image → Except Status Image) : Prop := ∀ im im', ImageLawful im → e im = .ok im' → ImageLawful im'

theorem clearEdit_keepsImageLaw : KeepsImageLaw clearEdit := by
  rintro im _ - ⟨⟩
  exact Moves.imageLawful_empty

theorem form_of_nameOf {field name : List Byte} (h : nameOf field = some name) :
    nameForm name = true ∧ name.length ≤ 32 := by
  unfold nameOf at h
  dsimp only at h
  split at h
  · rename_i hc
    cases h
    simp only [Bool.and_eq_true, decide_eq_true_eq] at hc
    exact ⟨hc.1.2, hc.2⟩
  · cases h

theorem form_of_zoneNameOf {field name : List Byte} (h : zoneNameOf field = some name) :
    name ≠ [] ∧ nameForm name = true ∧ name.length ≤ 32 := by
  unfold zoneNameOf at h
  split at h
  · cases h
  · rename_i hne
    exact ⟨fun he => hne (by rw [h, he]), form_of_nameOf h⟩

theorem range_of_zoneIdOf {zone : Half} {id : Nat} (h : zoneIdOf zone = some id) : 1 ≤ id ∧ id ≤ 512 := by
  unfold zoneIdOf at h
  split at h
  · cases h
    assumption
  · cases h

theorem mem_of_zone? {im : Image} {id : Nat} {z : Zone} (h : im.zone? id = some z) : z ∈ im.zones ∧ z.id = id :=
  ⟨List.mem_of_find?_eq_some h, by simpa using List.find?_some h⟩

theorem setNameEdit_keepsImageLaw (field : List Byte) : KeepsImageLaw (setNameEdit field) := by
  intro im im' ⟨hids, hnames, hzones, htotal, _, _⟩ he
  unfold setNameEdit at he
  split at he
  · cases he
  · rename_i name hname
    cases he
    exact ⟨hids, hnames, hzones, htotal, form_of_nameOf hname⟩

theorem accessEdit_keepsImageLaw (field : Byte) : KeepsImageLaw (accessEdit field) := by
  intro im im' h he
  unfold accessEdit at he
  split at he
  · cases he
  · cases he
    exact h

theorem sum_insertZone (z : Zone) (l : List Zone) :
    ((insertZone z l).map fun w => w.members.length).sum = z.members.length + (l.map fun w => w.members.length).sum := by
  induction l with
  | nil => rfl
  | cons y t ih =>
    simp only [insertZone]
    split
    · simp
    · simp only [List.map_cons, List.sum_cons, ih]
      omega

theorem insertZone_perm (z : Zone) (l : List Zone) : (insertZone z l).Perm (z :: l) := by
  induction l with
  | nil => exact .refl _
  | cons y t ih =>
    simp only [insertZone]
    split
    · exact .refl _
    · exact (ih.cons y).trans (.swap z y t)

theorem zoneCreateEdit_keepsImageLaw (zone : Half) (field : List Byte) (kind : Byte) :
    KeepsImageLaw (zoneCreateEdit zone field kind) := by
  intro im im' ⟨hids, hnames, hzones, htotal, hset⟩ he
  unfold zoneCreateEdit at he
  split at he
  · cases he
  · cases he
  · cases he
  · rename_i id k name hid hk hname
    split at he
    · cases he
    · rename_i hfree
      split at he
      · cases he
      · rename_i hnew
        cases he
        have hid' : ∀ w ∈ im.zones, w.id ≠ id := by
          intro w hw hwid
          exact hfree (Option.isSome_iff_ne_none.2 (zone?_ne_none ⟨w, hw, hwid⟩))
        obtain ⟨hlow, hhigh⟩ := range_of_zoneIdOf hid
        obtain ⟨hne, hform, hlen⟩ := form_of_zoneNameOf hname
        refine ⟨insertZone_sorted hids hid', ?_, ?_, ?_, hset⟩
        · rw [((insertZone_perm _ _).map Zone.name).nodup_iff]
          simp only [List.map_cons, List.nodup_cons]
          refine ⟨fun hm => hnew ?_, hnames⟩
          obtain ⟨w, hw, hwn⟩ := List.mem_map.1 hm
          exact List.any_eq_true.2 ⟨w, hw, by simpa using hwn⟩
        · intro w hw
          rcases mem_insertZone.1 hw with rfl | hw
          · exact ⟨hlow, hhigh, hne, hform, hlen, Nat.zero_le _, List.nodup_nil, nofun⟩
          · exact hzones w hw
        · simpa [Image.memberTotal, sum_insertZone] using htotal

theorem zoneDeleteEdit_keepsImageLaw (zone : Half) : KeepsImageLaw (zoneDeleteEdit zone) := by
  intro im im' ⟨hids, hnames, hzones, htotal, hset⟩ he
  unfold zoneDeleteEdit at he
  split at he
  · cases he
  · split at he
    · cases he
    · cases he
      refine ⟨hids.sublist (List.Sublist.map _ List.filter_sublist),
        hnames.sublist (List.Sublist.map _ List.filter_sublist),
        fun z hz => hzones z (List.mem_of_mem_filter hz), le_trans ?_ htotal, hset⟩
      exact List.Sublist.sum_le_sum (List.Sublist.map _ List.filter_sublist) fun _ _ => Nat.zero_le _

/-- An update of one zone that keeps the zone's own law and the image's bounds keeps the law of the image. -/
theorem ImageLawful.modZone {im : Image} {z : Zone} (h : ImageLawful im) (hz : z ∈ im.zones) (g : Zone → Zone)
    (hid : ∀ w, (g w).id = w.id) (hlaw : ZoneLawful (g z))
    (hname : ∀ w ∈ im.zones, w.id ≠ z.id → w.name ≠ (g z).name)
    (htotal : (Machine.modZone z.id g im).memberTotal ≤ 4096) : ImageLawful (Machine.modZone z.id g im) := by
  obtain ⟨hids, hnames, hzones, _, hset⟩ := id h
  refine ⟨by rw [modZone_ids hid]; exact hids, ?_, fun w hw => ?_, htotal, hset⟩
  · unfold Machine.modZone
    simp only [List.map_map]
    rw [List.Nodup, List.pairwise_map] at hnames ⊢
    rw [List.pairwise_map] at hids
    refine (hnames.and hids).imp_of_mem fun {a b} ha hb hab => ?_
    obtain ⟨hne, hlt⟩ := hab
    simp only [Function.comp]
    by_cases haz : a.id = z.id
    · have hbz : b.id ≠ z.id := fun hb => absurd hlt (by rw [haz, hb]; exact lt_irrefl _)
      obtain rfl := h.eq_of_id hz ha haz
      rw [if_pos rfl, if_neg hbz]
      exact (hname b hb hbz).symm
    · by_cases hbz : b.id = z.id
      · obtain rfl := h.eq_of_id hz hb hbz
        rw [if_pos rfl, if_neg haz]
        exact hname a ha haz
      · rw [if_neg haz, if_neg hbz]
        exact hne
  · rcases (h.mem_modZone hz g).1 hw with rfl | ⟨hw, _⟩
    · exact hlaw
    · exact hzones w hw

theorem memberTotal_modZone_of_members {im : Image} {id : Nat} {g : Zone → Zone} (hg : ∀ z, (g z).members = z.members) :
    (modZone id g im).memberTotal = im.memberTotal := by
  unfold modZone Image.memberTotal
  rw [List.map_map]
  congr 1
  refine List.map_congr_left fun w _ => ?_
  simp only [Function.comp]
  split
  · rw [hg]
  · rfl

theorem zoneRenameEdit_keepsImageLaw (zone : Half) (field : List Byte) : KeepsImageLaw (zoneRenameEdit zone field) := by
  intro im im' h he
  unfold zoneRenameEdit at he
  split at he
  · cases he
  · rename_i id hid
    split at he
    · cases he
    · rename_i hfound
      split at he
      · cases he
      · rename_i name hname
        split at he
        · cases he
        · rename_i hnew
          cases he
          obtain ⟨z, hzone⟩ := Option.ne_none_iff_exists'.1 (by simpa using hfound)
          obtain ⟨hz, rfl⟩ := mem_of_zone? hzone
          obtain ⟨hlow, hhigh, -, -, -, hmembers⟩ := h.2.2.1 z hz
          obtain ⟨hne, hform, hlen⟩ := form_of_zoneNameOf hname
          refine h.modZone hz (fun w => { w with name := name }) (fun _ => rfl)
            ⟨hlow, hhigh, hne, hform, hlen, hmembers⟩ (fun w hw hwz hwn => hnew ?_) ?_
          · exact List.any_eq_true.2 ⟨w, hw, by simp [hwn, hwz]⟩
          · rw [memberTotal_modZone_of_members (by simp)]
            exact h.2.2.2.1

/-- The member total after an update of the members of one zone. -/
theorem ImageLawful.memberTotal_modZone {im : Image} {z : Zone} (h : ImageLawful im) (hz : z ∈ im.zones)
    (g : Zone → Zone) :
    (Machine.modZone z.id g im).memberTotal + z.members.length = im.memberTotal + (g z).members.length := by
  have hids := h.1
  unfold Machine.modZone Image.memberTotal
  dsimp only
  generalize im.zones = l at hz hids
  induction l with
  | nil => cases hz
  | cons y t ih =>
    simp only [List.map_cons, List.pairwise_cons, List.mem_map, forall_exists_index, and_imp] at hids
    simp only [List.map_cons, List.sum_cons]
    rcases List.mem_cons.1 hz with rfl | hz
    · rw [if_pos rfl]
      have hrest : (t.map fun w => if w.id = z.id then g w else w) = t := by
        conv_rhs => rw [← List.map_id t]
        refine List.map_congr_left fun w hw => ?_
        rw [if_neg (Nat.ne_of_gt (hids.1 _ w hw rfl))]
        rfl
      rw [hrest]
      omega
    · have := ih hz hids.2
      rw [if_neg (Nat.ne_of_lt (hids.1 _ z hz rfl))]
      omega

theorem designatorOf_ne_zero {kind : Byte} {value : DevName} {d : Designator} (h : designatorOf kind value = some d) :
    d ≠ .name 0 := by
  rcases designatorOf_eq_some_iff.1 h with ⟨-, hv, rfl⟩ | ⟨-, _, _, -, -, rfl⟩
  · exact fun he => hv (Designator.name.inj he)
  · nofun

theorem role_plain_iff {kind : ZoneKind} {role : Byte} {r : Role} (h : roleOf kind role = some r) :
    r = .none ↔ kind = .plain := by
  rcases roleOf_eq_some_iff.1 h with ⟨rfl, -, rfl⟩ | ⟨rfl, -, rfl⟩ | ⟨rfl, -, rfl⟩ <;> simp

theorem memberAddEdit_keepsImageLaw (zone : Half) (kind : Byte) (value : DevName) (role : Byte) :
    KeepsImageLaw (memberAddEdit zone kind value role) := by
  intro im im' h he
  unfold memberAddEdit at he
  split at he
  · cases he
  · split at he
    · cases he
    · rename_i z hzone
      obtain ⟨hz, rfl⟩ := mem_of_zone? hzone
      split at he
      · cases he
      · cases he
      · rename_i d r hd hr
        split at he
        · cases he
        · rename_i hnew
          split at he
          · cases he
          · rename_i hroom
            cases he
            simp only [not_or, not_le] at hroom
            obtain ⟨hlow, hhigh, hne, hform, hlen, _, hnodup, hroles⟩ := h.2.2.1 z hz
            refine h.modZone hz (fun w => { w with members := w.members ++ [{ designator := d, role := r }] })
              (fun _ => rfl) ⟨hlow, hhigh, hne, hform, hlen, ?_, ?_, ?_⟩
              (fun w hw hwz hwn => hwz ?_) ?_
            · simpa using hroom.1
            · simp only [List.map_append, List.map_cons, List.map_nil]
              refine List.nodup_append.2 ⟨hnodup, List.nodup_singleton _, ?_⟩
              rintro a ha b hb rfl
              obtain ⟨m, hm, hmd⟩ := List.mem_map.1 ha
              exact hnew (hasMember_iff.2 ⟨m, hm, hmd.trans (List.mem_singleton.1 hb)⟩)
            · intro m hm
              rcases List.mem_append.1 hm with hm | hm
              · exact hroles m hm
              · obtain rfl := List.mem_singleton.1 hm
                exact ⟨role_plain_iff hr, designatorOf_ne_zero hd⟩
            · exact congrArg Zone.id (List.inj_on_of_nodup_map h.2.1 hw hz hwn)
            · have := h.memberTotal_modZone hz
                (fun w => { w with members := w.members ++ [{ designator := d, role := r }] })
              simp only [List.length_append, List.length_singleton] at this
              omega

theorem memberRemoveEdit_keepsImageLaw (zone : Half) (kind : Byte) (value : DevName) :
    KeepsImageLaw (memberRemoveEdit zone kind value) := by
  intro im im' h he
  unfold memberRemoveEdit at he
  split at he
  · cases he
  · split at he
    · cases he
    · rename_i z hzone
      obtain ⟨hz, rfl⟩ := mem_of_zone? hzone
      split at he
      · cases he
      · rename_i d hd
        split at he
        · cases he
        · cases he
          obtain ⟨hlow, hhigh, hne, hform, hlen, hcount, hnodup, hroles⟩ := h.2.2.1 z hz
          have hsub : (z.members.eraseP fun m => m.designator == d).Sublist z.members := List.eraseP_sublist
          refine h.modZone hz (fun w => { w with members := w.members.eraseP fun m => m.designator == d })
            (fun _ => rfl) ⟨hlow, hhigh, hne, hform, hlen, le_trans hsub.length_le hcount, hnodup.sublist (hsub.map _),
              fun m hm => hroles m (hsub.subset hm)⟩ (fun w hw hwz hwn => hwz ?_) ?_
          · exact congrArg Zone.id (List.inj_on_of_nodup_map h.2.1 hw hz hwn)
          · have := h.memberTotal_modZone hz (fun w => { w with members := w.members.eraseP fun m => m.designator == d })
            have hle := hsub.length_le
            have htotal := h.2.2.2.1
            dsimp only at this
            omega

end Sys2Proof.Machine

/-! PROOFS. What a step can do, said once: a step is a series of deeds, each an operation of the command ports or a body of the
blocks, so that a law is kept by every step as soon as every deed keeps it (R155 to R160, log 1). -/

namespace Sys2Proof.Machine

/-! ## Operations of the command ports -/

/-- t follows from s by one operation of the command ports: a write of a port that leaves its armed operation, a disarming, a
change of mastership, a port reset, or a write of a port's attention that drives its line (R156, R159 to R161, R167). -/
inductive PortDeed (s : State) : State → Prop
  | port (p : PortId) (f : CmdPort → CmdPort) (hf : ∀ x, (f x).armed = x.armed) : PortDeed s (s.modCmd p f)
  | disarm (p : PortId) : PortDeed s (disarm p s)
  | mastership (m : Option PortId) : PortDeed s (changeMastership m s)
  | reset (p : PortId) : PortDeed s (resetPort p s)
  | attention (p : PortId) (f : PortAttention → PortAttention)
      (hf : ∀ x, (f x).alertLow = (f x).set.meets (f x).mask) : PortDeed s (s.modAttn p f)

/-! ## Bodies of the blocks -/

/-- A body made of the moves of the blocks that leaves the wait list, the thermal holds and the deficit state (R59). -/
inductive QuietDeed (s : State) : State → Prop
  | presenceRise (slot : Slot) : QuietDeed s (presenceRise slot s)
  | probeTimeout (slot : Slot) : QuietDeed s (probeTimeout slot s)
  | link (slot : Slot) (position : Byte) (lit : Bool) : QuietDeed s (takeLink slot position lit s)
  | query (slot : Slot) (tag : Half) (position : Byte) (x y : DevName) : QuietDeed s (query slot tag position x y s)
  | temperature (slot : Slot) (value : Half) : QuietDeed s (takeTemperature slot value s)
  | messageLeave (slot : Slot) : QuietDeed s (s.modCard slot CardRec.leave)
  | holdAck (slot : Slot) (g : Word) (hj : (s.card slot).state = .joined) : QuietDeed s (holdAck slot g s)
  | resumeAck (slot : Slot) (g : Word) (hj : (s.card slot).state = .joined) : QuietDeed s (resumeAck slot g s)
  | holdTimeout (slot : Slot) : QuietDeed s (holdTimeout slot s)
  | resumeTimeout (slot : Slot) : QuietDeed s (resumeTimeout slot s)
  | commitAbort : QuietDeed s (commitAbort s).1
  | ruleEnable (rule : Byte) : QuietDeed s (ruleEnable rule s).1
  | fetched (r : RuleIx) : QuietDeed s (s.modRule r fun x => { x with sticky := false })
  | scanTimer : QuietDeed s (scanTimerExpiry s)

/-- A body that writes what no move of the blocks writes: entries of the Name Map and of the Alarm Table, Working and its state,
an armed operation, the parameters, the chassis number, or the uptime. -/
inductive TableDeed (s : State) : State → Prop
  | login (slot : Slot) (position : Byte) (name : DevName) : TableDeed s (login slot position name s)
  | logout (slot : Slot) (position : Byte) (name : DevName) : TableDeed s (logout slot position name s)
  | commitSetup (p : PortId) (hm : s.cmd.mastership = some p) : TableDeed s (commitSetup p s).1
  | arm (p : PortId) (armed : Armed) (ha : armed ≠ .commit) (hm : s.cmd.mastership = some p)
      (hn : (s.cmdPort p).armed = .none) : TableDeed s (s.modCmd p fun x => { x with armed := armed })
  | commitWithdraw : TableDeed s (commitWithdraw s).1
  | workingClone : TableDeed s (workingClone s).1
  | edit (e : Image → Except Status Image) (he : KeepsImageLaw e) : TableDeed s (editWorking e s).1
  | namePin (name : DevName) (port : Half) : TableDeed s (namePin name port s).1
  | nameUnpin (name : DevName) : TableDeed s (nameUnpin name s).1
  | alarmAcknowledge (position cause subject : Byte) : TableDeed s (alarmAcknowledge position cause subject s).1
  | alarmAcknowledgeAll : TableDeed s (alarmAcknowledgeAll s).1
  | setChassisNumber (number : Word) : TableDeed s (setChassisNumber number s).1
  | setParameter (number : Byte) (value : Half) : TableDeed s (setParameter number value s).1
  | uptime : TableDeed s { s with uptime := s.uptime + 1 }

/-- A body after which the deficit condition is re-evaluated (R59, log 8). -/
inductive LoudDeed (s : State) : State → Prop
  | idle : LoudDeed s s
  | removal (slot : Slot) : LoudDeed s (removal slot s)
  | slotReset (slot : Slot) : LoudDeed s (slotResetBody slot s)
  | unitPresenceRise (u : UnitIx) : LoudDeed s (unitPresenceRise u s)
  | unitPresenceFall (u : UnitIx) : LoudDeed s (unitPresenceFall u s)
  | unitReadComplete (u : UnitIx) (x : UnitReading) : LoudDeed s (unitReadComplete u x s)
  | sensorRead (sensor : ChassisSensor) (v : Option Half) : LoudDeed s (chassisSensorReadComplete sensor v s)
  | setPowerMode (field : Byte) : LoudDeed s (setPowerMode field s).1
  | hourTimer : LoudDeed s (hourTimer s)
  | poolInstall (pool tier kind : Byte) (capacity hours warn : Half) (check : Word) :
      LoudDeed s (poolInstall pool tier kind capacity hours warn check s).1
  | poolRevoke (i : PoolIx) : LoudDeed s (confirmedPoolRevoke i s).1
  | portEnable (port : Half) (pool priority : Byte) : LoudDeed s (portEnable port pool priority s).1
  | portDisable (port : Half) : LoudDeed s (portDisable port s).1
  | portReleaseLicense (port : Half) : LoudDeed s (portReleaseLicense port s).1
  | portSetPriority (port : Half) (priority : Byte) : LoudDeed s (portSetPriority port priority s).1
  | ruleWrite (rule : Byte) (x : RuleFields) : LoudDeed s (ruleWrite rule x s).1
  | ruleDisable (rule : Byte) : LoudDeed s (ruleDisable rule s).1
  | ident (slot : Slot) (cardType : Half) (portCount tier : Byte) (baseDraw : Half)
      (hp : (s.card slot).state = .probing) : LoudDeed s (takeIdent slot cardType portCount tier baseDraw s)
  | ready (slot : Slot) (g : Word) (ha : (s.card slot).state = .admitting) : LoudDeed s (takeReady slot g s)
  | admittingTimeout (slot : Slot) : LoudDeed s (admittingTimeout slot s)

/-- One deed: an operation of the ports, a cold reset, a body that leaves the deficit condition, or a body with the
re-evaluation of the condition after it. -/
inductive Deed (s : State) : State → Prop
  | port {t} (h : PortDeed s t) : Deed s t
  | cold (lines : PresenceLines) : Deed s (coldReset lines s)
  | quiet {t} (h : QuietDeed s t) : Deed s t
  | table {t} (h : TableDeed s t) : Deed s t
  | commit : Deed s (settleDeficit (confirmedCommit s).1)
  | loud {t} (h : LoudDeed s t) : Deed s (settleDeficit t)

/-- A series of deeds. -/
def Deeds : State → State → Prop := Relation.ReflTransGen Deed

namespace Deeds

variable {s t : State}

theorem refl (s : State) : Deeds s s := Relation.ReflTransGen.refl

theorem one (h : Deed s t) : Deeds s t := Relation.ReflTransGen.single h

theorem trans {u : State} (h : Deeds s t) (h' : Deeds t u) : Deeds s u := Relation.ReflTransGen.trans h h'

theorem ofPort (h : PortDeed s t) : Deeds s t := one (.port h)

theorem ofQuiet (h : QuietDeed s t) : Deeds s t := one (.quiet h)

theorem ofTable (h : TableDeed s t) : Deeds s t := one (.table h)

theorem ofLoud (h : LoudDeed s t) : Deeds s (settleDeficit t) := one (.loud h)

/-- What every deed keeps, every series of deeds keeps. -/
theorem keeps {I : State → Prop} (hdeed : ∀ s t, I s → Deed s t → I t) (h : Deeds s t) (hs : I s) : I t := by
  induction h with
  | refl => exact hs
  | tail _ hd ih => exact hdeed _ _ ih hd

/-! ## Frames (R156 to R160) -/

theorem respond (f : Frame) (a : Answer) (s : State) : Deeds s (respond f a s) := ofPort (.port _ _ fun _ => rfl)

theorem disarmMaster (p : PortId) (s : State) : Deeds s (disarmMaster p s) := by
  unfold Machine.disarmMaster
  split
  · exact ofPort (.disarm p)
  · exact refl s

theorem receiveFrame (f : Frame) {take : State → State} (h : Deeds s (take s)) : Deeds s (receiveFrame f take s) := by
  unfold Machine.receiveFrame
  split
  · exact refl s
  · split
    · exact ofPort (.port _ _ fun _ => rfl)
    · exact h

theorem withRight (f : Frame) {right : Right} {body : State → State × Answer}
    (h : (right = .master → s.cmd.mastership = some f.port) → Deeds s (body s).1) :
    Deeds s (withRight f right body s) := by
  unfold Machine.withRight
  split
  · exact respond f _ s
  · rename_i hr
    refine (h fun he => ?_).trans (respond f _ _)
    simpa [he, isMaster] using hr

theorem keepingCommand (f : Frame) {right : Right} {body : State → State × Answer}
    (h : (right = .master → s.cmd.mastership = some f.port) → Deeds s (body s).1) :
    Deeds s (keepingCommand f right body s) :=
  receiveFrame f (withRight f h)

/-- A master who has just disarmed has nothing armed. -/
theorem disarmMaster_armed {p : PortId} (h : (Machine.disarmMaster p s).cmd.mastership = some p) :
    ((Machine.disarmMaster p s).cmdPort p).armed = .none := by
  unfold Machine.disarmMaster at h ⊢
  split at h
  · rename_i hm
    simp [hm]
  · rename_i hm
    simp [isMaster, h] at hm

/-- A command that disarms: its body acts on a master port with nothing armed, or on an observer's. -/
theorem disarmingCommand (f : Frame) {right : Right} {body : State → State × Answer}
    (h : ∀ u, (right = .master → u.cmd.mastership = some f.port ∧ (u.cmdPort f.port).armed = .none) →
      Deeds u (body u).1) : Deeds s (disarmingCommand f right body s) :=
  receiveFrame f ((disarmMaster f.port s).trans
    (withRight f fun hm => h _ fun he => ⟨hm he, disarmMaster_armed (hm he)⟩))

/-- A command that disarms and moves nothing but by its body, whatever the port. -/
theorem disarmingBody (f : Frame) (right : Right) {body : State → State × Answer} (h : ∀ u, Deeds u (body u).1) :
    Deeds s (Machine.disarmingCommand f right body s) :=
  disarmingCommand f fun u _ => h u

theorem refusedFrame (f : Frame) (command : Bool) (st : Status) (s : State) :
    Deeds s (refusedFrame f command st s) := by
  refine receiveFrame f (trans ?_ (respond f _ _))
  split
  · exact disarmMaster f.port s
  · exact refl s

end Deeds

/-! ## Bodies of the command frames -/

theorem writeCursor_armed (c : Nat) (v : Half) (p : CmdPort) : (writeCursor c v p).armed = p.armed := by
  unfold writeCursor
  split <;> rfl

theorem fetchCursors_armed (x : FetchFields) (i link : Nat) (p : CmdPort) :
    (fetchCursors x i link p).armed = p.armed := by
  unfold fetchCursors
  dsimp only
  split <;> split <;> simp [writeCursor_armed]

theorem afterRead_armed (p : CmdPort) : (afterRead p).armed = p.armed := by
  unfold afterRead
  split <;> rfl

namespace Deeds

variable {s : State}

theorem setAlertMask (p : PortId) (mask : Byte) (s : State) : Deeds s (setAlertMask p mask s).1 := by
  unfold Machine.setAlertMask
  split
  · exact refl s
  · exact ofPort (.attention p (fun x => PortAttention.drive { x with mask := _ }) fun _ => rfl)

theorem masterClaim (p : PortId) (s : State) : Deeds s (masterClaim p s).1 := by
  unfold Machine.masterClaim
  split
  · exact refl s
  · split
    · exact ofPort (.mastership _)
    · split
      · exact refl s
      · split
        · exact refl s
        · exact ofPort (.mastership _)

theorem setCursor (p : PortId) (cursor : Byte) (value : Half) (s : State) :
    Deeds s (setCursor p cursor value s).1 := by
  unfold Machine.setCursor
  split
  · exact refl s
  · split
    · exact refl s
    · exact ofPort (.port p _ fun _ => writeCursor_armed _ _ _)

theorem fetchEffect (t : Table) (i : Nat) (s : State) : Deeds s (fetchEffect t i s) := by
  unfold Machine.fetchEffect
  split
  · exact ofQuiet (.fetched _)
  · exact refl s

theorem fetch (p : PortId) (x : FetchFields) (s : State) : Deeds s (fetch p x s).1 := by
  unfold Machine.fetch
  split
  · exact refl s
  · split
    · exact refl s
    · dsimp only
      split
      · exact refl s
      · unfold Machine.fetchRow
        split
        · exact refl s
        · exact (fetchEffect _ _ s).trans (ofPort (.port p _ fun _ => fetchCursors_armed _ _ _ _))

theorem settled {body : State → State × Answer} (h : LoudDeed s (body s).1) : Deeds s (settled body s).1 := ofLoud h

/-- A Confirm disarms, carries out a matching operation and re-evaluates the deficit (R160). -/
theorem confirm (p : PortId) (operation parameter : Byte) (s : State) :
    Deeds s (Machine.settled (confirm p operation parameter) s).1 := by
  refine (ofPort (.disarm p)).trans ?_
  unfold Machine.settled Machine.confirm
  dsimp only
  split
  · unfold carryOut
    split
    · exact ofLoud .idle
    · exact one .commit
    · exact ofLoud (.poolRevoke _)
    · exact ofLoud (.slotReset _)
  · exact ofLoud .idle

theorem poolRevokeSetup {p : PortId} (pool : Byte) (hm : s.cmd.mastership = some p)
    (hn : (s.cmdPort p).armed = .none) : Deeds s (poolRevokeSetup p pool s).1 := by
  unfold Machine.poolRevokeSetup
  split
  · exact refl s
  · exact ofTable (.arm p _ nofun hm hn)

theorem slotResetSetup {p : PortId} (slot : Byte) (hm : s.cmd.mastership = some p)
    (hn : (s.cmdPort p).armed = .none) : Deeds s (slotResetSetup p slot s).1 := by
  unfold Machine.slotResetSetup
  split
  · exact refl s
  · exact ofTable (.arm p _ nofun hm hn)

end Deeds

/-! ## Every command -/

/-- The next state of a command is reached by deeds (R156 to R160). -/
structure ReachesByDeeds (s : State) (r : Result) : Prop where
  deeds : ∃ t, r = .next t ∧ Deeds s t

theorem ReachesByDeeds.next {s t : State} (h : Deeds s t) : ReachesByDeeds s (.next t) := by
  exact ⟨t, rfl, h⟩

theorem Deeds.edit {e : Image → Except Status Image} (he : KeepsImageLaw e) (u : State) : Deeds u (editWorking e u).1 :=
  .ofTable (.edit e he)

theorem zoneCheck_state (x y : DevName) (image : Byte) (s : State) : (zoneCheck x y image s).1 = s := by
  unfold zoneCheck
  split
  · rfl
  · split <;> rfl

theorem imageSummary_state (image : Byte) (s : State) : (imageSummary image s).1 = s := by
  unfold imageSummary
  split <;> rfl

theorem nameLookup_state (name : DevName) (s : State) : (nameLookup name s).1 = s := by
  unfold nameLookup
  split
  · rfl
  · split <;> rfl

/-- Every command frame of table 11-3 is carried out by deeds. -/
theorem commandFields_deeds {i : Instr} {x : Frame × Byte × List Byte} (h : commandFields i = some x) (s : State) :
    ReachesByDeeds s (exec i s) := by
  cases i <;> first | cases h; done | skip
  case identify f => exact .next (.keepingCommand f fun _ => .refl s)
  case readStatus f => exact .next (.keepingCommand f fun _ => .refl s)
  case readAttention f =>
    exact .next (.keepingCommand f fun _ =>
      .ofPort (.attention f.port (fun x => PortAttention.drive { x with set := ReasonSet.empty }) fun _ => rfl))
  case setAlertMask f mask => exact .next (.disarmingBody f _ (Deeds.setAlertMask f.port mask))
  case masterClaim f => exact .next (.disarmingBody f _ (Deeds.masterClaim f.port))
  case masterRelease f => exact .next (.disarmingBody f _ fun _ => .ofPort (.mastership none))
  case portRestart f => exact .next (.disarmingBody f _ fun _ => .ofPort (.reset f.port))
  case setCursor f c v => exact .next (.disarmingBody f _ (Deeds.setCursor f.port c v))
  case fetch f _ _ _ _ _ _ => exact .next (.disarmingBody f _ (Deeds.fetch f.port _))
  case setParameter f n v => exact .next (.disarmingBody f _ fun _ => .ofTable (.setParameter n v))
  case confirmCommit f op par => exact .next (.keepingCommand f fun _ => .confirm f.port op par s)
  case confirmPoolRevoke f par => exact .next (.keepingCommand f fun _ => .confirm f.port _ par s)
  case confirmSlotReset f par => exact .next (.keepingCommand f fun _ => .confirm f.port _ par s)
  case portEnable f p pool prio => exact .next (.disarmingBody f _ fun _ => .settled (.portEnable p pool prio))
  case portDisable f p => exact .next (.disarmingBody f _ fun _ => .settled (.portDisable p))
  case portReleaseLicense f p => exact .next (.disarmingBody f _ fun _ => .settled (.portReleaseLicense p))
  case portSetPriority f p prio => exact .next (.disarmingBody f _ fun _ => .settled (.portSetPriority p prio))
  case slotReset f sl =>
    exact .next (.disarmingCommand f fun _ h => .slotResetSetup sl (h rfl).1 (h rfl).2)
  case setPowerMode f m => exact .next (.disarmingBody f _ fun _ => .settled (.setPowerMode m))
  case setChassisNumber f n => exact .next (.disarmingBody f _ fun _ => .ofTable (.setChassisNumber n))
  case poolInstall f _ _ _ _ _ _ _ =>
    exact .next (.disarmingBody f _ fun _ => .settled (.poolInstall _ _ _ _ _ _ _))
  case poolRevoke f id => exact .next (.disarmingCommand f fun _ h => .poolRevokeSetup id (h rfl).1 (h rfl).2)
  case workingClone f => exact .next (.disarmingBody f _ fun _ => .ofTable .workingClone)
  case workingClear f => exact .next (.disarmingBody f _ (.edit clearEdit_keepsImageLaw))
  case setSetName f name => exact .next (.disarmingBody f _ (.edit (setNameEdit_keepsImageLaw name)))
  case setDefaultAccess f acc => exact .next (.disarmingBody f _ (.edit (accessEdit_keepsImageLaw acc)))
  case zoneCreate f z name kind => exact .next (.disarmingBody f _ (.edit (zoneCreateEdit_keepsImageLaw z name kind)))
  case zoneDelete f z => exact .next (.disarmingBody f _ (.edit (zoneDeleteEdit_keepsImageLaw z)))
  case zoneRename f z name => exact .next (.disarmingBody f _ (.edit (zoneRenameEdit_keepsImageLaw z name)))
  case memberAdd f z k v role => exact .next (.disarmingBody f _ (.edit (memberAddEdit_keepsImageLaw z k v role)))
  case memberRemove f z k v => exact .next (.disarmingBody f _ (.edit (memberRemoveEdit_keepsImageLaw z k v)))
  case commitSetup f => exact .next (.disarmingCommand f fun _ h => .ofTable (.commitSetup f.port (h rfl).1))
  case commitAbort f => exact .next (.disarmingBody f _ fun _ => .ofQuiet .commitAbort)
  case commitWithdraw f => exact .next (.disarmingBody f _ fun _ => .ofTable .commitWithdraw)
  case zoneCheck f x y im =>
    refine .next (.disarmingBody f _ fun u => ?_)
    rw [zoneCheck_state]
    exact .refl u
  case imageSummary f im =>
    refine .next (.disarmingBody f _ fun u => ?_)
    rw [imageSummary_state]
    exact .refl u
  case namePin f nm p => exact .next (.disarmingBody f _ fun _ => .ofTable (.namePin nm p))
  case nameUnpin f nm => exact .next (.disarmingBody f _ fun _ => .ofTable (.nameUnpin nm))
  case nameLookup f nm =>
    refine .next (.disarmingBody f _ fun u => ?_)
    rw [nameLookup_state]
    exact .refl u
  case ruleWrite f r _ _ _ _ _ _ _ _ _ _ _ _ => exact .next (.disarmingBody f _ fun _ => .settled (.ruleWrite r _))
  case ruleEnable f r => exact .next (.disarmingBody f _ fun _ => .ofQuiet (.ruleEnable r))
  case ruleDisable f r => exact .next (.disarmingBody f _ fun _ => .settled (.ruleDisable r))
  case alarmAcknowledge f po ca su => exact .next (.disarmingBody f _ fun _ => .ofTable (.alarmAcknowledge po ca su))
  case alarmAcknowledgeAll f => exact .next (.disarmingBody f _ fun _ => .ofTable .alarmAcknowledgeAll)

theorem takeMessage_deeds {slot : Slot} {valid : CardState → Bool} {act : State → State} {s : State}
    (h : valid (s.card slot).state = true → Deeds s (act s)) : Deeds s (takeMessage slot valid act s) := by
  unfold takeMessage
  split
  · exact h ‹_›
  · exact .refl s

/-- A message whose meaning ends in the re-evaluation of the deficit. -/
theorem takeMessage_loud {slot : Slot} {valid : CardState → Bool} {act : State → State} {s : State}
    (h : valid (s.card slot).state = true → LoudDeed s (act s)) : Deeds s (settleDeficit (takeMessage slot valid act s)) := by
  unfold takeMessage
  split
  · exact .ofLoud (h ‹_›)
  · exact .ofLoud .idle

theorem isProbing_iff (st : CardState) : st.isProbing = true ↔ st = .probing := by cases st <;> simp [CardState.isProbing]

theorem isAdmitting_iff (st : CardState) : st.isAdmitting = true ↔ st = .admitting := by
  cases st <;> simp [CardState.isAdmitting]

theorem runMessage_deeds (i : Instr) (s : State) : ReachesByDeeds s (runMessage i s) := by
  unfold runMessage
  split
  · exact .next (takeMessage_loud fun h => .ident _ _ _ _ _ ((isProbing_iff _).1 h))
  · exact .next (takeMessage_loud fun h => .ready _ _ ((isAdmitting_iff _).1 h))
  · exact .next (takeMessage_deeds fun _ => .ofQuiet (.link _ _ _))
  · exact .next (takeMessage_deeds fun _ => .ofTable (.login _ _ _))
  · exact .next (takeMessage_deeds fun _ => .ofTable (.logout _ _ _))
  · exact .next (takeMessage_deeds fun _ => .ofQuiet (.query _ _ _ _ _))
  · exact .next (takeMessage_deeds fun h => .ofQuiet (.holdAck _ _ ((isJoined_iff _).1 h)))
  · exact .next (takeMessage_deeds fun h => .ofQuiet (.resumeAck _ _ ((isJoined_iff _).1 h)))
  · exact .next (takeMessage_deeds fun _ => .ofQuiet (.temperature _ _))
  · exact .next (.refl s)

/-- What a write transaction does once decoded: a command frame acts as its row, a refusal as a refused frame (R157). -/
theorem runTransaction_of_fields {i : Instr} {x : Frame × Byte × List Byte} (h : commandFields i = some x) (s : State) :
    runTransaction i s = exec i s := by
  cases i <;> first | cases h; done | rfl

theorem runTransaction_deeds (i : Instr) (s : State) : ReachesByDeeds s (runTransaction i s) := by
  cases hx : commandFields i with
  | some x =>
    rw [runTransaction_of_fields hx]
    exact commandFields_deeds hx s
  | none =>
    unfold runTransaction
    split <;> first | exact .next (.refusedFrame _ _ _ s) | exact .next (.refl s) | cases hx

/-- Every command is carried out by deeds. -/
theorem exec_deeds (i : Instr) (s : State) : ReachesByDeeds s (exec i s) := by
  cases hx : commandFields i with
  | some x => exact commandFields_deeds hx s
  | none =>
    cases i <;> first | cases hx; done | skip
    case coldReset lines => exact .next (.one (.cold lines))
    case portReset p level =>
      refine .next ?_
      unfold portResetLine
      split
      · split
        · exact .refl s
        · exact (Deeds.ofPort (.reset p)).trans (.ofPort (.port p _ fun _ => rfl))
      · exact .ofPort (.port p _ fun _ => rfl)
    case supervisorPresenceFall p =>
      refine .next ?_
      unfold supervisorFall
      split
      · have hp : Deeds s (s.modCmd p fun x => { x with supervisor := false }) := .ofPort (.port p _ fun _ => rfl)
        dsimp only
        split
        · exact hp.trans (.ofPort (.mastership none))
        · exact hp
      · exact .refl s
    case supervisorPresenceRise p => exact .next (.ofPort (.port p _ fun _ => rfl))
    case presenceRise slot => exact .next (.ofQuiet (.presenceRise slot))
    case removal slot => exact .next (.ofLoud (.removal slot))
    case unitPresenceRise u => exact .next (.ofLoud (.unitPresenceRise u))
    case unitPresenceFall u => exact .next (.ofLoud (.unitPresenceFall u))
    case writeTransactionBusy p bytes => exact runTransaction_deeds _ s
    case readTransaction p => exact .next (.ofPort (.port p _ afterRead_armed))
    case shortTransaction p bytes => exact runTransaction_deeds _ s
    case badCheck p bytes => exact runTransaction_deeds _ s
    case badLength p bytes => exact runTransaction_deeds _ s
    case illegalCommand p bytes => exact runTransaction_deeds _ s
    case reservedCommand p bytes => exact runTransaction_deeds _ s
    case linkCheckDiscard slot bytes => exact runMessage_deeds _ s
    case ident => exact runMessage_deeds (.ident ..) s
    case ready => exact runMessage_deeds (.ready ..) s
    case link => exact runMessage_deeds (.link ..) s
    case login => exact runMessage_deeds (.login ..) s
    case logout => exact runMessage_deeds (.logout ..) s
    case query => exact runMessage_deeds (.query ..) s
    case holdAck => exact runMessage_deeds (.holdAck ..) s
    case resumeAck => exact runMessage_deeds (.resumeAck ..) s
    case temperature => exact runMessage_deeds (.temperature ..) s
    case messageLeave slot => exact .next (.ofQuiet (.messageLeave slot))
    case probeTimeout slot => exact .next (.ofQuiet (.probeTimeout slot))
    case admittingTimeout slot => exact .next (.ofLoud (.admittingTimeout slot))
    case hourTimerExpiry => exact .next (.ofLoud .hourTimer)
    case holdTimeout slot => exact .next (.ofQuiet (.holdTimeout slot))
    case resumeTimeout slot => exact .next (.ofQuiet (.resumeTimeout slot))
    case scanTimerExpiry => exact .next (.ofQuiet .scanTimer)
    case unitReadComplete u x => exact .next (.ofLoud (.unitReadComplete u x))
    case chassisSensorReadComplete x v => exact .next (.ofLoud (.sensorRead x v))
    case uptimeTick => exact .next (.ofTable .uptime)

/-- A law that every deed keeps, and that does not speak of the queue, is kept by every step. -/
theorem step_keeps {I : State → Prop} (hqueue : ∀ s rest, I s → I { s with pending := rest })
    (hdeed : ∀ s t, I s → Deed s t → I t) {s t : State} (hs : I s) (h : step s = .next t) : I t := by
  unfold step at h
  split at h
  · cases h
    exact hs
  · obtain ⟨u, hu, hd⟩ := (exec_deeds _ _).deeds
    cases hu.symm.trans h
    exact hd.keeps hdeed (hqueue s _ hs)

end Sys2Proof.Machine

/-! PROOFS. The laws that each deed keeps record by record: the queue, the armed operations, the Alarm Table, the Name Map and
the images (R80 to R82, R117, R118, R145, R146, R159, R160). -/

namespace Sys2Proof.Machine

/-! ## What each kind of deed can change -/

namespace Moves

variable {k : Scope} {s t : State}

theorem commitAbort (h : Moves k s t) : Moves k s (Machine.commitAbort t).1 := by
  unfold Machine.commitAbort
  split
  · exact h
  · exact h
  · exact commitFollows (reason _ (forEach _ (fun x _ ht => ht.setPhase x _) _
      (forEach _ (fun x _ ht => ht.sendResume x) _ (h.dropPending.commit _))))

end Moves

/-- A quiet deed is made of moves of the blocks. -/
theorem QuietDeed.moves {s t : State} (h : QuietDeed s t) : Moves .every s t := by
  cases h with
  | presenceRise slot => exact Moves.refl.presenceRise slot
  | probeTimeout slot => exact Moves.refl.probeTimeout slot
  | link slot position lit => exact Moves.refl.takeLink slot position lit
  | query slot tag position x y => exact Moves.refl.send slot _
  | temperature slot value => exact Moves.refl.takeTemperature slot value
  | messageLeave slot => exact Moves.refl.leaveMessage slot
  | holdAck slot g => exact Moves.refl.holdAck slot g
  | resumeAck slot g => exact Moves.refl.resumeAck slot g
  | holdTimeout slot => exact Moves.refl.holdTimeout slot
  | resumeTimeout slot => exact Moves.refl.resumeTimeout slot
  | commitAbort => exact Moves.refl.commitAbort
  | ruleEnable rule => exact Moves.refl.ruleEnable rule rfl
  | fetched r => exact Moves.refl.rule r _ rfl
  | scanTimer => exact Moves.refl.scanTimerExpiry rfl

/-- A body with the deficit settled after it is made of moves of the blocks. -/
theorem LoudDeed.moves {s t : State} (h : LoudDeed s t) : Moves .every s t := by
  cases h with
  | idle => exact .refl
  | removal slot => exact Moves.refl.removal slot
  | slotReset slot => exact Moves.refl.slotResetBody slot
  | unitPresenceRise u => exact Moves.refl.unitPresenceRise u rfl
  | unitPresenceFall u => exact Moves.refl.unitPresenceFall u rfl
  | unitReadComplete u x => exact Moves.refl.unitReadComplete u x rfl
  | sensorRead x v => exact Moves.refl.chassisSensorReadComplete x v rfl
  | setPowerMode field => exact Moves.refl.setPowerMode field
  | hourTimer => exact Moves.refl.hourTimer rfl
  | poolInstall => exact Moves.refl.poolInstall _ _ _ _ _ _ _ rfl
  | poolRevoke i => exact Moves.refl.confirmedPoolRevoke i rfl
  | portEnable port pool priority => exact Moves.refl.portEnable port pool priority rfl rfl
  | portDisable port => exact Moves.refl.portDisable port rfl
  | portReleaseLicense port => exact Moves.refl.portReleaseLicense port rfl
  | portSetPriority port priority => exact Moves.refl.portSetPriority port priority rfl
  | ruleWrite rule x => exact Moves.refl.ruleWrite rule x rfl
  | ruleDisable rule => exact Moves.refl.ruleDisable rule rfl
  | ident slot => exact Moves.refl.takeIdent slot _ _ _ _ rfl
  | ready slot g => exact Moves.refl.takeReady slot g rfl
  | admittingTimeout slot => exact Moves.refl.admittingTimeout slot

/-- A disarming writes the port and the state of Working (R160). -/
theorem disarm_frame (p : PortId) (s : State) : disarm p s =
    { s with cmd := (disarm p s).cmd
             zones := { s.zones with workingState := (disarm p s).zones.workingState } } := by
  unfold disarm unarmWorking
  cases p <;> (dsimp only [State.modCmd]; split <;> rfl)

theorem changeMastership_frame (m : Option PortId) (s : State) : changeMastership m s =
    { s with cmd := (changeMastership m s).cmd
             zones := { s.zones with workingState := (changeMastership m s).zones.workingState } } := by
  unfold changeMastership
  split
  · rename_i p _
    conv_lhs => rw [disarm_frame]
    rfl
  · rfl

/-- A port reset writes the port, its attention, the mastership and the state of Working (R167). -/
theorem resetPort_frame (p : PortId) (s : State) : resetPort p s =
    { s with cmd := (resetPort p s).cmd, attn := (resetPort p s).attn
             zones := { s.zones with workingState := (resetPort p s).zones.workingState } } := by
  have hm := changeMastership_frame none s
  generalize hu : changeMastership none s = u at hm
  unfold resetPort
  rw [hu]
  split
  · rw [hm]
    cases p <;> rfl
  · cases p <;> rfl

/-- An operation of the command ports writes the ports, their attention and the state of Working, and nothing else. -/
theorem PortDeed.frame {s t : State} (h : PortDeed s t) :
    t = { s with cmd := t.cmd, attn := t.attn, zones := { s.zones with workingState := t.zones.workingState } } := by
  cases h with
  | port p f => cases p <;> rfl
  | disarm p =>
    conv_lhs => rw [disarm_frame]
    cases p <;> rfl
  | mastership m =>
    conv_lhs => rw [changeMastership_frame]
    rw [changeMastership_frame]
  | reset p => exact resetPort_frame p s
  | attention p f => cases p <;> rfl

/-- A confirmed Commit is made of moves of the blocks, with Working Frozen after them where it is queued (R101 to R104). -/
theorem confirmedCommit_moves (s : State) (k : Scope := .every) : ∃ u, Moves k s u ∧
    ((confirmedCommit s).1 = u ∨ (confirmedCommit s).1 =
      { u with zones := { u.zones with workingState := .frozen } }) := by
  unfold confirmedCommit
  split
  · exact ⟨s, .refl, .inl rfl⟩
  · exact ⟨s, .refl, .inl rfl⟩
  · have ht : Moves k s (addReason .commit (s.modCommit (CommitEngine.takeNumber s.zones.generation))) :=
      (Moves.refl.commit _).reason _
    unfold acceptCommit
    dsimp only
    split
    · exact ⟨_, (ht.beginCommit _).switchIfDue.endIfDue, .inl rfl⟩
    · exact ⟨_, ht.commit fun e => { e with queued := some e.nextNumber }, .inr rfl⟩
    · exact ⟨_, ht.commit fun e => { e with queued := some e.nextNumber }, .inr rfl⟩

/-! ## A cold reset -/

theorem sampleSlots_moves (lines : PresenceLines) (s : State) : Moves .every s (sampleSlots lines s) := by
  refine Moves.refl.forEach _ (fun slot t ht => ?_) _
  split
  · exact ht.presenceRise slot
  · exact ht

theorem sampleUnits_moves (lines : PresenceLines) (s : State) : Moves .every s (sampleUnits lines s) := by
  refine Moves.refl.forEach _ (fun u t ht => ?_) _
  split
  · exact ht.unitPresenceRise u rfl
  · exact ht

/-- From the cold values on, a cold reset is made of moves of the blocks. -/
theorem coldReset_moves (lines : PresenceLines) (s : State) : Moves .every (coldValues lines s) (coldReset lines s) :=
  (sampleSlots_moves lines _).trans (sampleUnits_moves lines _)

/-! ## The queue (log 1) -/

theorem commitWithdraw_frame (s : State) : (commitWithdraw s).1 =
    { s with attn := (commitWithdraw s).1.attn, commit := (commitWithdraw s).1.commit
             zones := { s.zones with workingState := (commitWithdraw s).1.zones.workingState } } := by
  unfold commitWithdraw
  split
  · rfl
  · rfl
  · unfold noteRecord
    dsimp only
    split
    · rfl
    · split <;> rfl

theorem acknowledgeEntry_writes (pos : Nat) (e : AlarmEntry) (s : State) : acknowledgeEntry pos e s =
    { s with alarms := (acknowledgeEntry pos e s).alarms, attn := (acknowledgeEntry pos e s).attn } := by
  unfold acknowledgeEntry
  split
  · split
    · rw [retireAlarm_eq]
    · rw [changedPut_eq]
  · rw [retireAlarm_eq]
  · rfl

theorem acknowledgeAll_frame (s : State) : (alarmAcknowledgeAll s).1 =
    { s with alarms := (alarmAcknowledgeAll s).1.alarms, attn := (alarmAcknowledgeAll s).1.attn } := by
  unfold alarmAcknowledgeAll forEach
  dsimp only
  generalize s.alarms.map Prod.fst = l
  induction l generalizing s with
  | nil => rfl
  | cons pos l ih =>
    have hone : acknowledgeAt pos s =
        { s with alarms := (acknowledgeAt pos s).alarms, attn := (acknowledgeAt pos s).attn } := by
      unfold acknowledgeAt
      split
      · exact acknowledgeEntry_writes _ _ s
      · rfl
    simp only [List.foldl_cons]
    rw [ih (acknowledgeAt pos s), hone]

theorem alarmAcknowledge_frame (position cause subject : Byte) (s : State) :
    (alarmAcknowledge position cause subject s).1 =
      { s with alarms := (alarmAcknowledge position cause subject s).1.alarms
               attn := (alarmAcknowledge position cause subject s).1.attn } := by
  unfold alarmAcknowledge
  split
  · rfl
  · split
    · rfl
    · split
      · rfl
      · split
        · rfl
        · exact acknowledgeEntry_writes _ _ s

theorem loginOnPort_frame (n : PortIx) (name : DevName) (s : State) : (loginOnPort n name s).1 =
    { s with ports := (loginOnPort n name s).1.ports, names := (loginOnPort n name s).1.names
             alarms := (loginOnPort n name s).1.alarms, attn := (loginOnPort n name s).1.attn } := by
  unfold loginOnPort
  split
  · split
    · split <;> rfl
    · split
      · rfl
      · split <;> rfl
    · split <;> rfl
  · split
    · rfl
    · split
      · dsimp only
        rw [raiseAlarm_eq]
      · rfl

theorem login_frame (slot : Slot) (position : Byte) (name : DevName) (s : State) : login slot position name s =
    { s with ports := (login slot position name s).ports, cards := (login slot position name s).cards
             names := (login slot position name s).names, alarms := (login slot position name s).alarms
             attn := (login slot position name s).attn } := by
  unfold login takeLogin
  dsimp only
  split
  · rfl
  · split
    · rfl
    · split
      · rw [loginOnPort_frame]
        rfl
      · rfl

theorem logout_frame (slot : Slot) (position : Byte) (name : DevName) (s : State) : logout slot position name s =
    { s with ports := (logout slot position name s).ports, cards := (logout slot position name s).cards
             names := (logout slot position name s).names } := by
  unfold logout
  split
  · split
    · exact endLogin_frame _ _ s
    · rfl
  · rfl

theorem namePin_frame (name : DevName) (port : Half) (s : State) :
    (namePin name port s).1 = { s with names := (namePin name port s).1.names } := by
  unfold namePin
  split
  · rfl
  · split
    · rfl
    · split
      · split <;> rfl
      · split <;> split <;> rfl

theorem nameUnpin_frame (name : DevName) (s : State) :
    (nameUnpin name s).1 = { s with names := (nameUnpin name s).1.names } := by
  unfold nameUnpin
  split
  · rfl
  · split
    · rfl
    · split <;> rfl

theorem editWorking_frame (e : Image → Except Status Image) (s : State) : (editWorking e s).1 =
    { s with zones := { s.zones with working := (editWorking e s).1.zones.working
                                     modified := (editWorking e s).1.zones.modified } } := by
  unfold editWorking
  split
  · rfl
  · rfl
  · split <;> rfl

theorem workingClone_frame (s : State) : (workingClone s).1 =
    { s with zones := { s.zones with working := (workingClone s).1.zones.working
                                     modified := (workingClone s).1.zones.modified } } := by
  unfold workingClone
  split <;> rfl

theorem setChassisNumber_frame (number : Word) (s : State) : (setChassisNumber number s).1 =
    { s with license := { s.license with chassis := (setChassisNumber number s).1.license.chassis }
             attn := (setChassisNumber number s).1.attn } := by
  unfold setChassisNumber
  split
  · rfl
  · split <;> rfl

theorem setParameter_frame (number : Byte) (value : Half) (s : State) : (setParameter number value s).1 =
    { s with params := (setParameter number value s).1.params, scanner := (setParameter number value s).1.scanner } := by
  unfold setParameter
  split
  · rfl
  · split <;> rfl

theorem commitSetup_frame (p : PortId) (s : State) : (commitSetup p s).1 =
    { s with cmd := (commitSetup p s).1.cmd
             zones := { s.zones with workingState := (commitSetup p s).1.zones.workingState } } := by
  unfold commitSetup
  split
  · cases p <;> rfl
  · rfl
  · rfl

/-- The records that a table deed leaves as they were: the Power Budget Unit, the pools, the rules and the queue. -/
structure TableKept (s t : State) : Prop where
  power : t.power = s.power
  pools : t.license.pools = s.license.pools
  rules : t.rules = s.rules
  pending : t.pending = s.pending

theorem TableDeed.kept {s t : State} (h : TableDeed s t) : TableKept s t := by
  cases h with
  | login slot position name => rw [login_frame]; exact ⟨rfl, rfl, rfl, rfl⟩
  | logout slot position name => rw [logout_frame]; exact ⟨rfl, rfl, rfl, rfl⟩
  | commitSetup p => rw [commitSetup_frame]; exact ⟨rfl, rfl, rfl, rfl⟩
  | arm p armed => exact ⟨by simp, by simp, by simp, by simp⟩
  | commitWithdraw => rw [commitWithdraw_frame]; exact ⟨rfl, rfl, rfl, rfl⟩
  | workingClone => rw [workingClone_frame]; exact ⟨rfl, rfl, rfl, rfl⟩
  | edit e => rw [editWorking_frame]; exact ⟨rfl, rfl, rfl, rfl⟩
  | namePin name port => rw [namePin_frame]; exact ⟨rfl, rfl, rfl, rfl⟩
  | nameUnpin name => rw [nameUnpin_frame]; exact ⟨rfl, rfl, rfl, rfl⟩
  | alarmAcknowledge => rw [alarmAcknowledge_frame]; exact ⟨rfl, rfl, rfl, rfl⟩
  | alarmAcknowledgeAll => rw [acknowledgeAll_frame]; exact ⟨rfl, rfl, rfl, rfl⟩
  | setChassisNumber number => rw [setChassisNumber_frame]; exact ⟨rfl, rfl, rfl, rfl⟩
  | setParameter number value => rw [setParameter_frame]; exact ⟨rfl, rfl, rfl, rfl⟩
  | uptime => exact ⟨rfl, rfl, rfl, rfl⟩

theorem confirmedCommit_pending (s : State) : (confirmedCommit s).1.pending = s.pending := by
  obtain ⟨u, hu, h | h⟩ := confirmedCommit_moves s <;> rw [h] <;> exact hu.pending_eq

theorem settleDeficit_pending (s : State) : (settleDeficit s).pending = s.pending := (Moves.refl (k := .every)).settleDeficit.pending_eq

theorem Deed.pending {s t : State} (h : Deed s t) : t.pending = s.pending := by
  cases h with
  | port h => rw [h.frame]
  | cold lines => exact (coldReset_moves lines s).pending_eq
  | quiet h => exact h.moves.pending_eq
  | table h => exact h.kept.pending
  | commit => rw [settleDeficit_pending, confirmedCommit_pending]
  | loud h => rw [settleDeficit_pending, h.moves.pending_eq]

theorem exec_completes (i : Instr) (s : State) : ∃ t, exec i s = .next t ∧ t.pending = s.pending := by
  obtain ⟨t, ht, hd⟩ := (exec_deeds i s).deeds
  exact ⟨t, ht, hd.keeps (I := fun u => u.pending = s.pending) (fun _ _ hs h => h.pending.trans hs) rfl⟩

theorem step_of_cons {s : State} {c : Instr} {rest : List Instr} (h : s.pending = c :: rest) :
    step s = exec c { s with pending := rest } := by
  unfold step
  rw [h]

theorem step_of_nil {s : State} (h : s.pending = []) : step s = .next s := by
  unfold step
  rw [h]

/-! ## Armed operations (R83, R159, R160) -/

theorem Moves.workingState {k : Scope} {s t : State} (h : Moves k s t) :
    t.zones.workingState = s.zones.workingState ∨ t.zones.workingState = .editable := by
  induction h with
  | refl => exact .inl rfl
  | toPending _ _ => exact .inr rfl
  | raise r _ ih => rw [raiseAlarm_eq]; exact ih
  | clear c subject _ ih => rw [endAlarm_eq]; exact ih
  | _ => assumption

/-- The law stands where the ports and the mastership stand and Working is not newly Armed. -/
theorem ArmedByMaster.of_cmd {s t : State} (h : ArmedByMaster s) (hc : t.cmd = s.cmd)
    (hw : t.zones.workingState = .armed → s.zones.workingState = .armed) : ArmedByMaster t := by
  refine ⟨fun p hp => ?_, fun ha => ?_⟩
  · rw [hc]
    exact h.1 p (by rwa [cmdPort_of_cmd hc p] at hp)
  · obtain ⟨p, hp⟩ := h.2 (hw ha)
    exact ⟨p, by rwa [cmdPort_of_cmd hc p]⟩

theorem ArmedByMaster.moves {k : Scope} {s t : State} (h : ArmedByMaster s) (hm : Moves k s t) : ArmedByMaster t := by
  refine h.of_cmd hm.cmd_eq fun ha => ?_
  rcases hm.workingState with hw | hw
  · rwa [← hw]
  · rw [hw] at ha
    cases ha

/-- With nothing armed, and Working not Armed, the law holds. -/
theorem armedByMaster_of_none {s : State} (hp : ∀ p, (s.cmdPort p).armed = .none)
    (hw : s.zones.workingState ≠ .armed) : ArmedByMaster s :=
  ⟨fun p h => absurd (hp p) h, fun h => absurd h hw⟩

theorem disarm_workingState (p : PortId) (s : State) : (disarm p s).zones.workingState =
    if (s.cmdPort p).armed = .commit ∧ s.zones.workingState = .armed then .editable else s.zones.workingState := by
  unfold disarm unarmWorking
  cases p <;> cases h : (s.cmdPort _).armed <;> cases h' : s.zones.workingState <;> simp [State.modCmd, h']

/-- A disarming leaves nothing armed but what another port has armed. -/
theorem ArmedByMaster.disarm {s : State} (h : ArmedByMaster s) (p : PortId) : ArmedByMaster (disarm p s) := by
  refine ⟨fun q hq => ?_, fun ha => ?_⟩
  · rw [disarm_mastership]
    by_cases hqp : q = p
    · subst hqp
      simp at hq
    · exact h.1 q (by rwa [disarm_cmdPort_other hqp] at hq)
  · rw [disarm_workingState] at ha
    split at ha
    · cases ha
    · rename_i hn
      obtain ⟨q, hq⟩ := h.2 ha
      have hqp : q ≠ p := fun he => hn ⟨he ▸ hq, ha⟩
      exact ⟨q, by rwa [disarm_cmdPort_other hqp]⟩

/-- The holder disarmed, nothing is armed. -/
theorem ArmedByMaster.disarm_none {s : State} (h : ArmedByMaster s) {p : PortId} (hm : s.cmd.mastership = some p)
    (q : PortId) : ((Machine.disarm p s).cmdPort q).armed = .none := by
  by_contra hq
  have := (h.disarm p).1 q hq
  rw [disarm_mastership, hm] at this
  obtain rfl := Option.some.inj this
  simp at hq

theorem ArmedByMaster.none_of_no_master {s : State} (h : ArmedByMaster s) (hm : s.cmd.mastership = none) (p : PortId) :
    (s.cmdPort p).armed = .none := by
  by_contra hp
  have := h.1 p hp
  rw [hm] at this
  cases this

theorem ArmedByMaster.changeMastership {s : State} (h : ArmedByMaster s) (m : Option PortId) :
    ArmedByMaster (changeMastership m s) ∧ ∀ p, ((Machine.changeMastership m s).cmdPort p).armed = .none := by
  have key : ∀ u : State, ArmedByMaster u → (∀ p, (u.cmdPort p).armed = .none) →
      ArmedByMaster (u.setMastership m) ∧ ∀ p, ((u.setMastership m).cmdPort p).armed = .none := by
    intro u hu hn
    refine ⟨armedByMaster_of_none (by simpa using hn) fun ha => ?_, by simpa using hn⟩
    obtain ⟨p, hp⟩ := hu.2 ha
    rw [hn p] at hp
    cases hp
  unfold Machine.changeMastership
  split
  · rename_i p hp
    exact key _ (h.disarm p) (h.disarm_none hp)
  · rename_i hp
    exact key _ h (h.none_of_no_master hp)

/-- A write of a port keeps the law where the port's armed operation stands or becomes none. -/
theorem ArmedByMaster.modCmd {s : State} (h : ArmedByMaster s) (p : PortId) (f : CmdPort → CmdPort)
    (hf : (f (s.cmdPort p)).armed = (s.cmdPort p).armed) : ArmedByMaster (s.modCmd p f) := by
  have ha : ∀ q, ((s.modCmd p f).cmdPort q).armed = (s.cmdPort q).armed := by
    intro q
    rw [modCmd_cmdPort]
    split
    · rename_i he
      rw [← he, hf]
    · rfl
  refine ⟨fun q hq => ?_, fun hw => ?_⟩
  · rw [modCmd_mastership]
    exact h.1 q (by rwa [ha] at hq)
  · obtain ⟨q, hq⟩ := h.2 (by simpa using hw)
    exact ⟨q, by rwa [ha]⟩

theorem ArmedByMaster.resetPort {s : State} (h : ArmedByMaster s) (p : PortId) : ArmedByMaster (resetPort p s) := by
  have key : ∀ u : State, ArmedByMaster u → (u.cmdPort p).armed = .none → ∀ f : CmdPort → CmdPort,
      (∀ x, (f x).armed = .none) → ArmedByMaster ((u.modCmd p f).modAttn p fun _ => PortAttention.cold) :=
    fun u hu hn f hf => (hu.modCmd p f (by rw [hn, hf])).of_cmd (by simp) (by simp)
  unfold Machine.resetPort
  dsimp only
  split
  · exact key _ (h.changeMastership none).1 ((h.changeMastership none).2 p) _ fun _ => rfl
  · rename_i hm
    refine key s h ?_ _ fun _ => rfl
    by_contra hp
    exact hm (by simp [isMaster, h.1 p hp])

theorem PortDeed.armedByMaster {s t : State} (hd : PortDeed s t) (h : ArmedByMaster s) : ArmedByMaster t := by
  cases hd with
  | port p f hf => exact h.modCmd p f (hf _)
  | disarm p => exact h.disarm p
  | mastership m => exact (h.changeMastership m).1
  | reset p => exact h.resetPort p
  | attention p f => exact h.of_cmd (by simp) (by simp)

theorem commitWithdraw_workingState (s : State) :
    (commitWithdraw s).1.zones.workingState = .armed → s.zones.workingState = .armed := by
  unfold commitWithdraw
  split <;> intro h
  · exact h
  · exact h
  · cases h

/-- Arming an operation on the master port keeps the law; where it is a Commit, Working may be Armed with it. -/
theorem ArmedByMaster.arm {s u : State} (h : ArmedByMaster s) {p : PortId} (hm : s.cmd.mastership = some p)
    {armed : Armed} (hu : u.cmd = (s.modCmd p fun x => { x with armed := armed }).cmd)
    (hw : u.zones.workingState = .armed → armed = .commit) : ArmedByMaster u := by
  have hmast : u.cmd.mastership = some p := by rw [hu, modCmd_mastership, hm]
  have hport : ∀ q, u.cmdPort q = if p = q then { s.cmdPort p with armed := armed } else s.cmdPort q := by
    intro q
    rw [cmdPort_of_cmd hu, modCmd_cmdPort]
  refine ⟨fun q hq => ?_, fun ha => ⟨p, ?_⟩⟩
  · rw [hport] at hq
    split at hq
    · rename_i he
      rw [hmast, he]
    · rw [hmast, ← hm]
      exact h.1 q hq
  · rw [hport, if_pos rfl]
    exact hw ha

theorem TableDeed.armedByMaster {s t : State} (hd : TableDeed s t) (h : ArmedByMaster s) : ArmedByMaster t := by
  cases hd with
  | login slot position name => rw [login_frame]; exact h.of_cmd rfl id
  | logout slot position name => rw [logout_frame]; exact h.of_cmd rfl id
  | commitSetup p hm =>
    unfold Machine.commitSetup
    split
    · exact h.arm hm (by cases p <;> rfl) fun _ => rfl
    · exact h
    · exact h
  | arm p armed ha hm hn =>
    refine h.arm hm rfl fun hw => ?_
    obtain ⟨q, hq⟩ := h.2 (by simpa using hw)
    have hqp := h.1 q (by rw [hq]; nofun)
    rw [hm] at hqp
    obtain rfl := Option.some.inj hqp
    rw [hn] at hq
    cases hq
  | commitWithdraw =>
    refine h.of_cmd ?_ (commitWithdraw_workingState s)
    rw [commitWithdraw_frame]
  | workingClone => rw [workingClone_frame]; exact h.of_cmd rfl id
  | edit e => rw [editWorking_frame]; exact h.of_cmd rfl id
  | namePin name port => rw [namePin_frame]; exact h.of_cmd rfl id
  | nameUnpin name => rw [nameUnpin_frame]; exact h.of_cmd rfl id
  | alarmAcknowledge => rw [alarmAcknowledge_frame]; exact h.of_cmd rfl id
  | alarmAcknowledgeAll => rw [acknowledgeAll_frame]; exact h.of_cmd rfl id
  | setChassisNumber number => rw [setChassisNumber_frame]; exact h.of_cmd rfl id
  | setParameter number value => rw [setParameter_frame]; exact h.of_cmd rfl id
  | uptime => exact h.of_cmd rfl id

theorem armedByMaster_confirmedCommit {s : State} (h : ArmedByMaster s) : ArmedByMaster (confirmedCommit s).1 := by
  obtain ⟨u, hu, he | he⟩ := confirmedCommit_moves s
  · rw [he]
    exact h.moves hu
  · rw [he]
    exact (h.moves hu).of_cmd rfl fun ha => by cases ha

theorem Deed.armedByMaster {s t : State} (hs : ArmedByMaster s) (hd : Deed s t) : ArmedByMaster t := by
  cases hd with
  | port h => exact h.armedByMaster hs
  | cold lines =>
    exact ArmedByMaster.moves (armedByMaster_of_none (by intro p; cases p <;> rfl) fun h => by cases h) (coldReset_moves lines s)
  | quiet h => exact hs.moves h.moves
  | table h => exact h.armedByMaster hs
  | commit => exact (armedByMaster_confirmedCommit hs).moves (Moves.refl (k := .every)).settleDeficit
  | loud h => exact hs.moves h.moves.settleDeficit

/-! ## The Alarm Table, the Name Map and the images (R80 to R82, R117, R118, R145, R146) -/

/-- The three tables are lawful. -/
def TablesLawful (s : State) : Prop := AlarmsLawful s ∧ NamesLawful s ∧ ImagesLawful s

theorem TablesLawful.moves {k : Scope} {s t : State} (h : TablesLawful s) (hm : Moves k s t) : TablesLawful t :=
  ⟨hm.alarmsLawful h.1, hm.namesLawful h.2.1, hm.imagesLawful h.2.2⟩

/-- The laws stand where the two tables and the images stand. -/
theorem TablesLawful.of_records {s t : State} (h : TablesLawful s) (ha : t.alarms = s.alarms) (hn : t.names = s.names)
    (hw : t.zones.working = s.zones.working) (hp : t.zones.pending = s.zones.pending)
    (hl : t.zones.live = s.zones.live) : TablesLawful t := by
  refine ⟨h.1.of_alarms ha, h.2.1.of_names hn, ?_⟩
  unfold ImagesLawful
  rw [hw, hp, hl]
  exact h.2.2

theorem AlarmsLawful.alarmAcknowledgeAll {s : State} (h : AlarmsLawful s) : AlarmsLawful (alarmAcknowledgeAll s).1 := by
  unfold Machine.alarmAcknowledgeAll forEach
  dsimp only
  generalize s.alarms.map Prod.fst = l
  induction l generalizing s with
  | nil => exact h
  | cons pos l ih =>
    refine ih (s := acknowledgeAt pos s) ?_
    unfold acknowledgeAt
    split
    · exact h.acknowledgeEntry (mem_of_tableGet ‹_›)
    · exact h

theorem AlarmsLawful.alarmAcknowledge {s : State} (h : AlarmsLawful s) (position cause subject : Byte) :
    AlarmsLawful (alarmAcknowledge position cause subject s).1 := by
  unfold Machine.alarmAcknowledge
  split
  · exact h
  · split
    · exact h
    · split
      · exact h
      · split
        · exact h
        · exact h.acknowledgeEntry (mem_of_tableGet ‹_›)

theorem entryFor_mem {s : State} {name : DevName} {pos : Nat} {e : NameEntry} (h : entryFor s name = some (pos, e)) :
    (pos, e) ∈ s.names ∧ e.name = name :=
  ⟨List.mem_of_find?_eq_some h, by simpa using List.find?_some h⟩

theorem entryFor_none {s : State} {name : DevName} (h : entryFor s name = none) : ∀ x ∈ s.names, x.2.name ≠ name := by
  intro x hx
  simpa using List.find?_eq_none.1 h x hx

/-- A new entry for a name that no entry has, at the lowest free position, keeps the law (R117). -/
theorem NamesLawful.enter {s : State} (h : NamesLawful s) {e : NameEntry} {pos : Nat} (hn : e.name ≠ 0)
    (hfree : freePosition Config.namePositions s.names = some pos) (hnew : entryFor s e.name = none) :
    NamesLawful (Machine.putName pos e s) :=
  h.putName (freePosition_free h.1 hfree).1 hn fun x hx _ => (entryFor_none hnew x hx).symm

theorem NamesLawful.loginOnPort {s : State} (h : NamesLawful s) (n : PortIx) {name : DevName} (hname : name ≠ 0) :
    NamesLawful (loginOnPort n name s).1 := by
  unfold Machine.loginOnPort
  split
  · rename_i pos e he
    obtain ⟨hm, -⟩ := entryFor_mem he
    split
    · split <;> exact h
    · split
      · exact h
      · split
        · exact (h.rewrite (e' := { e with status := .pinnedPresent }) hm rfl).of_names rfl
        · exact h
    · split <;> exact h
  · rename_i hnone
    split
    · exact h
    · split
      · exact h.of_names (by rw [raiseAlarm_eq])
      · exact (h.enter (e := ⟨name, n, .learned⟩) hname ‹_› hnone).of_names rfl

theorem NamesLawful.login {s : State} (h : NamesLawful s) (slot : Slot) (position : Byte) (name : DevName) :
    NamesLawful (login slot position name s) := by
  unfold Machine.login takeLogin
  refine NamesLawful.of_names (s := _) ?_ (modCard_names _ _ _)
  split
  · exact h
  · split
    · exact h
    · split
      · exact h.loginOnPort _ ‹_›
      · exact h

theorem NamesLawful.endLogin {s : State} (h : NamesLawful s) {pos : Nat} {e : NameEntry} (he : (pos, e) ∈ s.names) :
    NamesLawful (endLogin pos e s) := by
  refine NamesLawful.of_names (s := writeLogout pos e s) ?_ (by rw [endLogin_eq]; simp [lowerLogins])
  unfold writeLogout
  split
  · exact h.freeName pos
  · exact h.rewrite he rfl
  · exact h

theorem NamesLawful.logout {s : State} (h : NamesLawful s) (slot : Slot) (position : Byte) (name : DevName) :
    NamesLawful (logout slot position name s) := by
  unfold Machine.logout
  split
  · rename_i he
    split
    · exact h.endLogin (entryFor_mem he).1
    · exact h
  · exact h

theorem NamesLawful.namePin {s : State} (h : NamesLawful s) (name : DevName) (port : Half) :
    NamesLawful (namePin name port s).1 := by
  unfold Machine.namePin
  split
  · exact h
  · rename_i hname
    split
    · exact h
    · split
      · rename_i hnone
        split
        · exact h.enter (e := ⟨name, _, .pinned⟩) hname ‹_› hnone
        · exact h
      · rename_i he
        have hm := (entryFor_mem he).1
        split
        · split
          · exact h.rewrite hm rfl
          · exact h
        · split
          · exact h
          · exact h.rewrite hm rfl
        · split <;> exact h

theorem NamesLawful.nameUnpin {s : State} (h : NamesLawful s) (name : DevName) : NamesLawful (nameUnpin name s).1 := by
  unfold Machine.nameUnpin
  split
  · exact h
  · split
    · exact h
    · rename_i he
      split
      · exact h
      · exact h.freeName _
      · exact h.rewrite (entryFor_mem he).1 rfl

theorem ImagesLawful.editWorking {s : State} (h : ImagesLawful s) {e : Image → Except Status Image}
    (he : KeepsImageLaw e) : ImagesLawful (editWorking e s).1 := by
  unfold Machine.editWorking
  split
  · exact h
  · exact h
  · split
    · exact h
    · exact ⟨he _ _ h.1 ‹_›, h.2⟩

theorem ImagesLawful.workingClone {s : State} (h : ImagesLawful s) : ImagesLawful (workingClone s).1 := by
  unfold Machine.workingClone
  split
  · exact h
  · exact h
  · exact ⟨h.2.2, h.2⟩

theorem TableDeed.tablesLawful {s t : State} (hd : TableDeed s t) (h : TablesLawful s) : TablesLawful t := by
  obtain ⟨ha, hn, hi⟩ := id h
  cases hd with
  | login slot position name =>
    refine ⟨?_, hn.login slot position name, by rw [login_frame]; exact hi⟩
    refine AlarmsLawful.of_alarms (s := (takeLogin slot position name s).1) ?_ rfl
    unfold takeLogin loginOnPort
    split
    · exact ha
    · split
      · exact ha
      · split
        · split
          · split
            · split <;> exact ha
            · split
              · exact ha
              · split <;> exact ha
            · split <;> exact ha
          · split
            · exact ha
            · split
              · exact ha.raiseAlarm _
              · exact ha
        · exact ha
  | logout slot position name =>
    exact ⟨by rw [logout_frame]; exact ha, hn.logout slot position name, by rw [logout_frame]; exact hi⟩
  | commitSetup p => rw [commitSetup_frame]; exact h.of_records rfl rfl rfl rfl rfl
  | arm p armed => exact h.of_records (by simp) (by simp) (by simp) (by simp) (by simp)
  | commitWithdraw => rw [commitWithdraw_frame]; exact h.of_records rfl rfl rfl rfl rfl
  | workingClone => exact ⟨by rw [workingClone_frame]; exact ha, by rw [workingClone_frame]; exact hn, hi.workingClone⟩
  | edit e he => exact ⟨by rw [editWorking_frame]; exact ha, by rw [editWorking_frame]; exact hn, hi.editWorking he⟩
  | namePin name port => exact ⟨by rw [namePin_frame]; exact ha, hn.namePin name port, by rw [namePin_frame]; exact hi⟩
  | nameUnpin name => exact ⟨by rw [nameUnpin_frame]; exact ha, hn.nameUnpin name, by rw [nameUnpin_frame]; exact hi⟩
  | alarmAcknowledge position cause subject =>
    refine ⟨ha.alarmAcknowledge position cause subject, ?_, ?_⟩ <;> rw [alarmAcknowledge_frame]
    · exact hn
    · exact hi
  | alarmAcknowledgeAll =>
    refine ⟨ha.alarmAcknowledgeAll, ?_, ?_⟩ <;> rw [acknowledgeAll_frame]
    · exact hn
    · exact hi
  | setChassisNumber number => rw [setChassisNumber_frame]; exact h.of_records rfl rfl rfl rfl rfl
  | setParameter number value => rw [setParameter_frame]; exact h.of_records rfl rfl rfl rfl rfl
  | uptime => exact h.of_records rfl rfl rfl rfl rfl

theorem tablesLawful_of_empty {s : State} (ha : s.alarms = []) (hn : s.names = []) (hw : s.zones.working = Image.empty)
    (hp : s.zones.pending = Image.empty) (hl : s.zones.live = Image.empty) : TablesLawful s := by
  refine ⟨?_, ?_, ?_⟩
  · simp [AlarmsLawful, TableLawful, ha]
  · simp [NamesLawful, TableLawful, hn]
  · simp [ImagesLawful, hw, hp, hl, Moves.imageLawful_empty]

theorem Deed.tablesLawful {s t : State} (hs : TablesLawful s) (hd : Deed s t) : TablesLawful t := by
  cases hd with
  | port h => rw [h.frame]; exact hs.of_records rfl rfl rfl rfl rfl
  | cold lines => exact (tablesLawful_of_empty rfl rfl rfl rfl rfl).moves (coldReset_moves lines s)
  | quiet h => exact hs.moves h.moves
  | table h => exact h.tablesLawful hs
  | commit =>
    refine TablesLawful.moves ?_ (Moves.refl (k := .every)).settleDeficit
    obtain ⟨u, hu, he | he⟩ := confirmedCommit_moves s <;> rw [he]
    · exact hs.moves hu
    · exact (hs.moves hu).of_records rfl rfl rfl rfl rfl
  | loud h => exact hs.moves h.moves.settleDeficit

end Sys2Proof.Machine

section
open Sys2Proof Sys2Proof.Machine

/-- Settles O1: the step's two equations. -/
theorem stepTakesTheFrontCommand : Obligations.StepTakesTheFrontCommand := by
  unfold Obligations.StepTakesTheFrontCommand
  exact fun s => ⟨fun _ _ h => step_of_cons h, step_of_nil⟩

/-- Settles O2: every command is carried out by deeds, and none of them writes the queue. -/
theorem everyCommandCompletes : Obligations.EveryCommandCompletes := by
  unfold Obligations.EveryCommandCompletes
  exact exec_completes

/-- Settles O55, deed by deed: moves of the blocks keep the tables, and each table deed keeps its own. -/
theorem tablesLawfulEveryStep : Obligations.TablesLawfulEveryStep := by
  unfold Obligations.TablesLawfulEveryStep
  exact fun s t hs h => step_keeps (I := TablesLawful) (fun _ _ h => h) (fun _ _ => Deed.tablesLawful) hs h

/-- Settles O56, deed by deed: only a setup on the master port arms, and a change of mastership disarms. -/
theorem armedByMasterEveryStep : Obligations.ArmedByMasterEveryStep := by
  unfold Obligations.ArmedByMasterEveryStep
  exact fun s t hs h => step_keeps (I := ArmedByMaster) (fun _ _ h => h) (fun _ _ => Deed.armedByMaster) hs h

end

/-! PROOFS. The wait list and the admitted draw (R46, R49): what messages, logins, claims and the Commit Engine leave of them, and
what each operation of the Port Table and the Power Budget Unit makes of them. -/

namespace Sys2Proof.Machine

/-! ## What messages, names, claims and the Commit Engine leave as it was -/

/-- From s to t the Power Budget Unit and the pools stand, and so does each port but for its link and its logins, and each card's
state and identity: all that eligibility, Serviceable, the draws and the order of the wait list are derived from. -/
structure CoreKept (s t : State) : Prop where
  power : t.power = s.power
  license : t.license = s.license
  port : ∀ n, t.port n = { s.port n with link := (t.port n).link, logins := (t.port n).logins }
  state : ∀ c, (t.card c).state = (s.card c).state
  identity : ∀ c, (t.card c).identity = (s.card c).identity

namespace CoreKept

variable {s t u : State}

theorem refl (s : State) : CoreKept s s := ⟨rfl, rfl, fun _ => rfl, fun _ => rfl, fun _ => rfl⟩

theorem trans (h : CoreKept s t) (h' : CoreKept t u) : CoreKept s u where
  power := h'.power.trans h.power
  license := h'.license.trans h.license
  port n := by rw [h'.port n, h.port n]
  state c := (h'.state c).trans (h.state c)
  identity c := (h'.identity c).trans (h.identity c)

/-- The relation speaks of four records only. -/
theorem of_records (h : CoreKept s t) (hpw : u.power = t.power) (hl : u.license = t.license) (hp : u.ports = t.ports)
    (hc : u.cards = t.cards) : CoreKept s u where
  power := hpw.trans h.power
  license := hl.trans h.license
  port n := by rw [port_of_ports hp]; exact h.port n
  state c := by rw [card_of_cards hc]; exact h.state c
  identity c := by rw [card_of_cards hc]; exact h.identity c

theorem port' (n : PortIx) (f : PortRec → PortRec)
    (hf : ∀ r, f r = { r with link := (f r).link, logins := (f r).logins }) (h : CoreKept s t) :
    CoreKept s (t.modPort n f) := by
  refine h.trans ⟨rfl, rfl, fun m => ?_, fun _ => rfl, fun _ => rfl⟩
  rw [modPort_port]
  split
  · rename_i he
    subst he
    exact hf _
  · rfl

theorem card (slot : Slot) (f : CardRec → CardRec) (hf : ∀ c, (f c).state = c.state ∧ (f c).identity = c.identity)
    (h : CoreKept s t) : CoreKept s (t.modCard slot f) := by
  refine h.trans ⟨rfl, rfl, fun _ => rfl, fun c => ?_, fun c => ?_⟩ <;> rw [modCard_card] <;> split
  · rename_i he
    subst he
    exact (hf _).1
  · rfl
  · rename_i he
    subst he
    exact (hf _).2
  · rfl

theorem reason (r : Reason) (h : CoreKept s t) : CoreKept s (addReason r t) := h.of_records rfl rfl rfl rfl

theorem raise (r : Raise) (h : CoreKept s t) : CoreKept s (raiseAlarm r t) := by
  rw [raiseAlarm_eq]
  exact h.of_records rfl rfl rfl rfl

theorem clear (c : Cause) (subject : Nat) (h : CoreKept s t) : CoreKept s (endAlarm c subject t) := by
  rw [endAlarm_eq]
  exact h.of_records rfl rfl rfl rfl

theorem forEach {α : Type} (act : α → State → State) (ha : ∀ x t, CoreKept s t → CoreKept s (act x t)) (l : List α)
    (h : CoreKept s t) : CoreKept s (Machine.forEach l act t) := by
  induction l generalizing t with
  | nil => exact h
  | cons x l ih => exact ih (ha x t h)

/-! ### Messages and names -/

theorem send (slot : Slot) (m : CardMsg) (h : CoreKept s t) : CoreKept s (Machine.send slot m t) :=
  h.card slot _ fun _ => ⟨rfl, rfl⟩

theorem sendJoined (m : CardMsg) (h : CoreKept s t) : CoreKept s (Machine.sendJoined m t) := by
  refine h.forEach _ (fun slot t ht => ?_) _
  split
  · exact ht.send slot m
  · exact ht

theorem endLogin (pos : Nat) (e : NameEntry) (h : CoreKept s t) : CoreKept s (Machine.endLogin pos e t) := by
  rw [endLogin_eq]
  refine sendJoined _ (port' _ _ (fun _ => rfl) ?_)
  rw [writeLogout_eq]
  exact h.of_records rfl rfl rfl rfl

theorem endLoginAt (pos : Nat) (h : CoreKept s t) : CoreKept s (Machine.endLoginAt pos t) := by
  unfold Machine.endLoginAt
  split
  · exact h.endLogin _ _
  · exact h

theorem removeLogins (n : PortIx) (h : CoreKept s t) : CoreKept s (Machine.removeLogins n t) :=
  (h.forEach _ (fun pos _ ht => ht.endLoginAt pos) _).port' n _ fun _ => rfl

theorem loseServiceable (n : PortIx) (h : CoreKept s t) : CoreKept s (Machine.loseServiceable n t) := by
  unfold Machine.loseServiceable
  have hd : CoreKept s (t.modPort n fun r => { r with link := .dark }) := h.port' n _ fun _ => rfl
  refine removeLogins n ?_
  split
  · exact hd.send _ _
  · exact hd

theorem reviewServiceable (n : PortIx) (was : Bool) (h : CoreKept s t) :
    CoreKept s (Machine.reviewServiceable n was t) := by
  unfold Machine.reviewServiceable
  split
  · exact h.loseServiceable n
  · exact h.send _ _
  · exact h
  · exact h

theorem takeLink (slot : Slot) (position : Byte) (lit : Bool) (h : CoreKept s t) :
    CoreKept s (Machine.takeLink slot position lit t) := by
  unfold Machine.takeLink
  split
  · exact h
  · split
    · unfold Machine.linkReport
      split
      · split
        · exact h.send _ _
        · exact h
      · split
        · exact h.port' _ _ fun _ => rfl
        · exact removeLogins _ (h.port' _ _ fun _ => rfl)
        · exact h
        · exact h
    · exact h

/-! ### Cards -/

theorem startTimer (slot : Slot) (ms : Nat) (h : CoreKept s t) : CoreKept s (Machine.startTimer slot ms t) :=
  h.card slot _ fun _ => ⟨rfl, rfl⟩

theorem stopTimer (slot : Slot) (h : CoreKept s t) : CoreKept s (Machine.stopTimer slot t) :=
  h.card slot _ fun _ => ⟨rfl, rfl⟩

theorem clearTemp (slot : Slot) (h : CoreKept s t) : CoreKept s (Machine.clearTemp slot t) :=
  h.card slot _ fun _ => ⟨rfl, rfl⟩

theorem endCardFault (slot : Slot) (before : State) (h : CoreKept s t) :
    CoreKept s (Machine.endCardFault slot before t) := by
  unfold Machine.endCardFault
  split
  · exact h.clear _ _
  · exact h

/-! ### The Commit Engine -/

theorem commit (f : CommitEngine → CommitEngine) (h : CoreKept s t) : CoreKept s (t.modCommit f) :=
  h.of_records rfl rfl rfl rfl

theorem phase (slot : Slot) (f : CommitCard → CommitCard) (h : CoreKept s t) : CoreKept s (t.modPhase slot f) :=
  h.of_records rfl rfl rfl rfl

theorem zones (f : ZoneStore → ZoneStore) (h : CoreKept s t) : CoreKept s (t.modZones f) :=
  h.of_records rfl rfl rfl rfl

theorem noteRecord (number : Option Half) (g : ResultRec → ResultRec) (h : CoreKept s t) :
    CoreKept s (Machine.noteRecord number g t) := by
  unfold Machine.noteRecord
  split
  · exact h
  · dsimp only
    split
    · exact h.commit _
    · exact (h.commit _).reason _

theorem sendHold (slot : Slot) (h : CoreKept s t) : CoreKept s (Machine.sendHold slot t) := (h.phase _ _).send _ _

theorem sendResume (slot : Slot) (h : CoreKept s t) : CoreKept s (Machine.sendResume slot t) := (h.phase _ _).send _ _

theorem beginCommit (number : Half) (h : CoreKept s t) : CoreKept s (Machine.beginCommit number t) :=
  (((h.zones _).commit _).forEach _ (fun slot _ ht => ht.sendHold slot) _).reason _

theorem switchLive (h : CoreKept s t) : CoreKept s (Machine.switchLive t) :=
  ((((h.zones _).noteRecord _ _).commit _).forEach _ (fun slot _ ht => ht.sendResume slot) _).reason _

theorem closeCommit (h : CoreKept s t) : CoreKept s (Machine.closeCommit t) := by
  have hout := h.forEach (fun slot => Machine.setPhase slot .outside) (fun slot _ ht => ht.phase slot _) allSlots
  unfold Machine.closeCommit
  refine reason _ (commit _ ?_)
  split
  · exact (hout.noteRecord _ _).raise _
  · exact hout.noteRecord _ _

theorem switchIfDue (h : CoreKept s t) : CoreKept s (Machine.switchIfDue t) := by
  unfold Machine.switchIfDue
  split
  · exact h.switchLive
  · exact h

theorem endIfDue (h : CoreKept s t) : CoreKept s (Machine.endIfDue t) := by
  unfold Machine.endIfDue
  split
  · exact h.closeCommit
  · exact h

theorem commitFollows (h : CoreKept s t) : CoreKept s (Machine.commitFollows t) := by
  have he := h.switchIfDue.endIfDue
  unfold Machine.commitFollows Machine.startQueued
  split
  · exact (he.beginCommit _).switchIfDue.endIfDue
  · exact he
  · exact he
  · exact he

theorem cardLeft (slot : Slot) (h : CoreKept s t) : CoreKept s (Machine.cardLeft slot t) := by
  unfold Machine.cardLeft
  split
  · exact h
  · exact (h.phase slot _).commitFollows

theorem cardJoined (slot : Slot) (h : CoreKept s t) : CoreKept s (Machine.cardJoined slot t) := by
  unfold Machine.cardJoined
  split
  · exact h.phase slot _
  · exact h.sendResume slot
  · exact h

theorem holdAck (slot : Slot) (g : Word) (h : CoreKept s t) : CoreKept s (Machine.holdAck slot g t) := by
  unfold Machine.holdAck
  split
  · exact (h.phase slot _).commitFollows
  · exact h

theorem resumeAck (slot : Slot) (g : Word) (h : CoreKept s t) : CoreKept s (Machine.resumeAck slot g t) := by
  unfold Machine.resumeAck
  split
  · exact (h.phase slot _).commitFollows
  · exact h

theorem commitAbort (h : CoreKept s t) : CoreKept s (Machine.commitAbort t).1 := by
  unfold Machine.commitAbort
  split
  · exact h
  · exact h
  · exact ((((h.zones _).commit _).forEach _ (fun slot _ ht => ht.sendResume slot) _).forEach _
      (fun slot _ ht => ht.phase slot _) _).reason _ |>.commitFollows

theorem confirmedCommit (h : CoreKept s t) : CoreKept s (Machine.confirmedCommit t).1 := by
  unfold Machine.confirmedCommit
  split
  · exact h
  · exact h
  · have ht : CoreKept s (addReason .commit (t.modCommit (CommitEngine.takeNumber t.zones.generation))) :=
      (h.commit _).reason _
    unfold acceptCommit
    dsimp only
    split
    · exact (ht.beginCommit _).switchIfDue.endIfDue
    · dsimp only
      exact (ht.zones _).commit _
    · dsimp only
      exact (ht.zones _).commit _

/-! ### What is derived from the records -/

theorem priority (h : CoreKept s t) (n : PortIx) : (t.port n).priority = (s.port n).priority := by rw [h.port]
theorem intent (h : CoreKept s t) (n : PortIx) : (t.port n).intent = (s.port n).intent := by rw [h.port]
theorem portLicense (h : CoreKept s t) (n : PortIx) : (t.port n).license = (s.port n).license := by rw [h.port]
theorem portPower (h : CoreKept s t) (n : PortIx) : (t.port n).power = (s.port n).power := by rw [h.port]
theorem portHold (h : CoreKept s t) (n : PortIx) : (t.port n).hold = (s.port n).hold := by rw [h.port]

theorem withinCount (h : CoreKept s t) (n : PortIx) : withinCount t n = withinCount s n := by
  have hc : (cardOf t n).portCount = (cardOf s n).portCount := by simp only [cardOf, CardRec.portCount, h.identity]
  unfold Machine.withinCount
  rw [hc]

theorem eligible (h : CoreKept s t) (n : PortIx) : eligible t n = eligible s n := by
  simp only [Machine.eligible, h.withinCount, cardOf, h.state, h.intent, h.portLicense]

theorem serviceable (h : CoreKept s t) (n : PortIx) : serviceable t n = serviceable s n := by
  simp only [Machine.serviceable, h.withinCount, cardOf, h.state, h.intent, h.portLicense, h.portPower]

theorem baseDraw (h : CoreKept s t) (c : Slot) : (t.card c).baseDraw = (s.card c).baseDraw := by
  simp only [CardRec.baseDraw, h.identity]

theorem tier (h : CoreKept s t) (c : Slot) : (t.card c).tier = (s.card c).tier := by
  simp only [CardRec.tier, h.identity]

theorem portDraw (h : CoreKept s t) (n : PortIx) : portDraw t n = portDraw s n := by
  simp only [Machine.portDraw, cardOf, h.tier]

theorem poweredDraw (h : CoreKept s t) (c : Slot) : poweredDraw t c = poweredDraw s c := by
  simp only [Machine.poweredDraw, h.state, h.baseDraw]

theorem waitKey (h : CoreKept s t) : waitKey t = waitKey s := by
  funext x
  cases x <;> simp only [Machine.waitKey, h.priority]

theorem fits (h : CoreKept s t) (w : Nat) : fits t w = fits s w := by simp only [Machine.fits, h.power]

theorem overdrawn (h : CoreKept s t) : overdrawn t = overdrawn s := overdrawn_of_power h.power

theorem drawSum (h : CoreKept s t) : drawSum t = drawSum s := by
  simp only [Machine.drawSum, h.state, h.baseDraw, h.portPower, h.portDraw]

end CoreKept

end Sys2Proof.Machine

/-! PROOFS. The order of the wait list (R49) and what each operation on a port makes of the wait list, the port's power and the
admitted draw (R5, R11, R46, R55). -/

namespace Sys2Proof.Machine

/-! ## The order of the wait list (R49) -/

theorem waitsBefore_iff {s : State} {x y : WaitItem} : waitsBefore s x y ↔ waitKey s x < waitKey s y := by
  cases x with
  | card a =>
    cases y with
    | card b => exact Fin.lt_def
    | port n => exact iff_of_true trivial (by simp only [waitKey]; omega)
  | port m =>
    cases y with
    | card b => exact iff_of_false nofun (by simp only [waitKey]; omega)
    | port n =>
      simp only [waitsBefore, waitKey, Fin.lt_def, Fin.ext_iff]
      omega

theorem waitKey_injective (s : State) : Function.Injective (waitKey s) := by
  intro x y h
  cases x <;> cases y <;> simp only [waitKey] at h
  · exact congrArg _ (Fin.ext h)
  · omega
  · omega
  · exact congrArg _ (Fin.ext (by omega))

theorem insertByKey_perm (key : WaitItem → Nat) (x : WaitItem) (l : List WaitItem) :
    (insertByKey key x l).Perm (x :: l) := by
  induction l with
  | nil => exact .refl _
  | cons y t ih =>
    simp only [insertByKey]
    split
    · exact .refl _
    · exact (ih.cons y).trans (.swap x y t)

theorem mem_insertByKey {key : WaitItem → Nat} {x y : WaitItem} {l : List WaitItem} :
    y ∈ insertByKey key x l ↔ y = x ∨ y ∈ l := by
  rw [(insertByKey_perm key x l).mem_iff, List.mem_cons]

/-- Inserting an item whose key no item has keeps the list sorted by the keys. -/
theorem insertByKey_sorted {key : WaitItem → Nat} {x : WaitItem} {l : List WaitItem}
    (h : l.Pairwise fun a b => key a < key b) (hx : ∀ y ∈ l, key y ≠ key x) :
    (insertByKey key x l).Pairwise fun a b => key a < key b := by
  induction l with
  | nil => simp [insertByKey]
  | cons y t ih =>
    obtain ⟨hy, ht⟩ := List.pairwise_cons.1 h
    simp only [insertByKey]
    split
    · rename_i hlt
      refine List.pairwise_cons.2 ⟨fun z hz => ?_, h⟩
      rcases List.mem_cons.1 hz with rfl | hz
      · exact hlt
      · exact lt_trans hlt (hy z hz)
    · rename_i hle
      refine List.pairwise_cons.2 ⟨fun z hz => ?_, ih ht fun z hz => hx z (List.mem_cons_of_mem _ hz)⟩
      rcases mem_insertByKey.1 hz with rfl | hz
      · exact lt_of_le_of_ne (not_lt.1 hle) (hx y List.mem_cons_self)
      · exact hy z hz

theorem waitListOrdered_iff {s : State} :
    WaitListOrdered s ↔ s.power.waitList.Pairwise fun a b => waitKey s a < waitKey s b := by
  unfold WaitListOrdered
  exact ⟨fun h => h.imp waitsBefore_iff.1, fun h => h.imp waitsBefore_iff.2⟩

/-- An ordered wait list holds no item twice. -/
theorem WaitListOrdered.nodup {s : State} (h : WaitListOrdered s) : s.power.waitList.Nodup :=
  (waitListOrdered_iff.1 h).imp fun hlt he => absurd (congrArg (waitKey s) he) (Nat.ne_of_lt hlt)

/-- The order depends on the list and on the priorities of the ports that it holds. -/
theorem WaitListOrdered.of_keys {s t : State} (h : WaitListOrdered s) {l : List WaitItem} (hl : t.power.waitList = l)
    (hsub : l.Sublist s.power.waitList) (hk : ∀ x ∈ l, waitKey t x = waitKey s x) : WaitListOrdered t := by
  rw [waitListOrdered_iff] at h ⊢
  rw [hl]
  refine (h.sublist hsub).imp_of_mem fun {a b} ha hb hlt => ?_
  rwa [hk a ha, hk b hb]

/-! ## Sums over the ports and the cards -/

/-- Two sums whose terms differ at one place differ by it. -/
theorem sum_map_update {α : Type} {l : List α} (hl : l.Nodup) {n : α} (hn : n ∈ l) {f g : α → Nat}
    (h : ∀ m, m ≠ n → f m = g m) : (l.map f).sum + g n = (l.map g).sum + f n := by
  induction l with
  | nil => cases hn
  | cons x l ih =>
    obtain ⟨hx, hl⟩ := List.nodup_cons.1 hl
    simp only [List.map_cons, List.sum_cons]
    by_cases hxn : x = n
    · subst hxn
      have : l.map f = l.map g := List.map_congr_left fun m hm => h m fun he => hx (he ▸ hm)
      rw [this]
      omega
    · have := ih hl (List.mem_of_ne_of_mem (Ne.symm hxn) hn)
      rw [h x hxn]
      omega

/-- A port's part in the admitted draw: its draw while it is Admitted (R46). -/
def admittedPart (D : PortIx → Nat) (s : State) (n : PortIx) : Nat := if (s.port n).power = .admitted then D n else 0

/-- The admitted draw as a sum: the base draws that are admitted and the draws of the Admitted ports (R46). -/
def drawsWith (B : Slot → Nat) (D : PortIx → Nat) (s : State) : Nat :=
  (allSlots.map B).sum + ((List.finRange 672).map (admittedPart D s)).sum

theorem drawSum_eq_drawsWith (s : State) : drawSum s = drawsWith (poweredDraw s) (portDraw s) s := rfl

theorem drawsWith_congr {B B' : Slot → Nat} {D D' : PortIx → Nat} {s t : State} (hB : ∀ c, B c = B' c)
    (hp : ∀ n, (t.port n).power = (s.port n).power) (hD : ∀ n, (s.port n).power = .admitted → D n = D' n) :
    drawsWith B D t = drawsWith B' D' s := by
  have hcards : allSlots.map B = allSlots.map B' := List.map_congr_left fun c _ => hB c
  have hports : (List.finRange 672).map (admittedPart D t) = (List.finRange 672).map (admittedPart D' s) := by
    refine List.map_congr_left fun n _ => ?_
    unfold admittedPart
    rw [hp]
    split
    · exact hD n ‹_›
    · rfl
  unfold drawsWith
  rw [hcards, hports]

/-- A port's power moves the sum by its draw. -/
theorem drawsWith_port {B : Slot → Nat} {D : PortIx → Nat} {s t : State} {n : PortIx}
    (h : ∀ m, m ≠ n → (t.port m).power = (s.port m).power) :
    drawsWith B D t + admittedPart D s n = drawsWith B D s + admittedPart D t n := by
  have := sum_map_update (List.nodup_finRange 672) (List.mem_finRange n) (f := admittedPart D t) (g := admittedPart D s)
    fun m hm => by unfold admittedPart; rw [h m hm]
  unfold drawsWith
  omega

/-- A card's admitted base draw moves the sum. -/
theorem drawsWith_card (B : Slot → Nat) (D : PortIx → Nat) (s : State) (c : Slot) (w : Nat) :
    drawsWith (Function.update B c w) D s + B c = drawsWith B D s + w := by
  have := sum_map_update (List.nodup_finRange 14) (List.mem_finRange c) (f := Function.update B c w) (g := B)
    fun m hm => Function.update_of_ne hm _ _
  simp only [Function.update_self] at this
  unfold drawsWith allSlots
  omega

/-! ## The facts that the operations on the wait list leave -/

/-- From s to t every port's settings and license stand, and every card's state and identity. -/
structure FactsKept (s t : State) : Prop where
  intent : ∀ n, (t.port n).intent = (s.port n).intent
  priority : ∀ n, (t.port n).priority = (s.port n).priority
  license : ∀ n, (t.port n).license = (s.port n).license
  state : ∀ c, (t.card c).state = (s.card c).state
  identity : ∀ c, (t.card c).identity = (s.card c).identity

theorem CoreKept.facts {s t : State} (h : CoreKept s t) : FactsKept s t :=
  ⟨h.intent, h.priority, h.portLicense, h.state, h.identity⟩

namespace FactsKept

variable {s t u : State}

theorem refl (s : State) : FactsKept s s := (CoreKept.refl s).facts

theorem trans (h : FactsKept s t) (h' : FactsKept t u) : FactsKept s u where
  intent n := (h'.intent n).trans (h.intent n)
  priority n := (h'.priority n).trans (h.priority n)
  license n := (h'.license n).trans (h.license n)
  state c := (h'.state c).trans (h.state c)
  identity c := (h'.identity c).trans (h.identity c)

theorem withinCount (h : FactsKept s t) (n : PortIx) : withinCount t n = withinCount s n := by
  have hc : (cardOf t n).portCount = (cardOf s n).portCount := by simp only [cardOf, CardRec.portCount, h.identity]
  unfold Machine.withinCount
  rw [hc]

theorem eligible (h : FactsKept s t) (n : PortIx) : eligible t n = eligible s n := by
  simp only [Machine.eligible, h.withinCount, cardOf, h.state, h.intent, h.license]

theorem baseDraw (h : FactsKept s t) (c : Slot) : (t.card c).baseDraw = (s.card c).baseDraw := by
  simp only [CardRec.baseDraw, h.identity]

theorem tier (h : FactsKept s t) (c : Slot) : (t.card c).tier = (s.card c).tier := by
  simp only [CardRec.tier, h.identity]

theorem portDraw (h : FactsKept s t) (n : PortIx) : portDraw t n = portDraw s n := by
  simp only [Machine.portDraw, cardOf, h.tier]

theorem poweredDraw (h : FactsKept s t) (c : Slot) : poweredDraw t c = poweredDraw s c := by
  simp only [Machine.poweredDraw, h.state, h.baseDraw]

theorem waitKey (h : FactsKept s t) : waitKey t = waitKey s := by
  funext x
  cases x <;> simp only [Machine.waitKey, h.priority]

theorem power (f : PowerBudget → PowerBudget) (h : FactsKept s t) : FactsKept s (t.modPower f) :=
  h.trans ⟨fun _ => rfl, fun _ => rfl, fun _ => rfl, fun _ => rfl, fun _ => rfl⟩

theorem port (n : PortIx) (f : PortRec → PortRec)
    (hf : ∀ r, (f r).intent = r.intent ∧ (f r).priority = r.priority ∧ (f r).license = r.license)
    (h : FactsKept s t) : FactsKept s (t.modPort n f) := by
  refine h.trans ⟨fun m => ?_, fun m => ?_, fun m => ?_, fun _ => rfl, fun _ => rfl⟩ <;> rw [modPort_port] <;> split
  · subst_vars
    exact (hf _).1
  · rfl
  · subst_vars
    exact (hf _).2.1
  · rfl
  · subst_vars
    exact (hf _).2.2
  · rfl

theorem enterWait (x : WaitItem) (h : FactsKept s t) : FactsKept s (Machine.enterWait x t) := h.power _

theorem leaveWait (x : WaitItem) (h : FactsKept s t) : FactsKept s (Machine.leaveWait x t) := h.power _

theorem chargeDraw (w : Nat) (h : FactsKept s t) : FactsKept s (Machine.chargeDraw w t) := h.power _

theorem releaseDraw (w : Nat) (h : FactsKept s t) : FactsKept s (Machine.releaseDraw w t) := h.power _

theorem setPower (n : PortIx) (x : PortPower) (b : Bool) (h : FactsKept s t) : FactsKept s (Machine.setPower n x b t) :=
  h.port n _ fun _ => ⟨rfl, rfl, rfl⟩

theorem reviewEligible (n : PortIx) (was : Bool) (draw : Nat) (h : FactsKept s t) :
    FactsKept s (Machine.reviewEligible n was draw t) := by
  unfold Machine.reviewEligible
  split
  · unfold loseEligibility
    refine setPower _ _ _ ?_
    split
    · exact h.leaveWait _
    · exact h.releaseDraw _
    · exact h
  · exact (h.setPower _ _ _).enterWait _
  · exact h
  · exact h

theorem core (h : FactsKept s t) (h' : CoreKept t u) : FactsKept s u := h.trans h'.facts

theorem displacePort (n : PortIx) (b : Bool) (h : FactsKept s t) : FactsKept s (Machine.displacePort n b t) := by
  unfold Machine.displacePort
  exact core (enterWait _ (setPower _ _ _ (releaseDraw _ h))) ((CoreKept.refl _).reviewServiceable _ _)

theorem admitPort (n : PortIx) (h : FactsKept s t) : FactsKept s (Machine.admitPort n t) := by
  have hadmitted := port n (fun r => { r with power := .admitted }) (fun _ => ⟨rfl, rfl, rfl⟩)
    (chargeDraw (Machine.portDraw t n) (leaveWait (.port n) h))
  unfold Machine.admitPort portChange
  exact core (reviewEligible _ _ _ hadmitted) ((CoreKept.refl _).reviewServiceable _ _)

theorem portsFollowCard (slot : Slot) (before : State) (h : FactsKept s t) :
    FactsKept s (Machine.portsFollowCard slot before t) := by
  unfold Machine.portsFollowCard
  generalize slotPorts slot = l
  induction l generalizing t with
  | nil => exact h
  | cons n l ih =>
    rw [forEach_cons]
    exact ih (core (reviewEligible _ _ _ h) ((CoreKept.refl _).reviewServiceable _ _))

end FactsKept

/-! ## The wait list, the powers and the admitted draw -/

/-- The wait list holds the cards of `W` and the waiting ports; a port's power is Off where `E` denies it; the list stands in its
order, and the admitted draw is the sum of the base draws `B` and the draws `D` of the Admitted ports (R5, R46, R49). While a change
of a card or a port is carried through, the four are what the records gave before it. -/
structure Waits (o d : Prop) (W : Slot → Bool) (B : Slot → Nat) (E : PortIx → Bool) (D : PortIx → Nat) (s : State) :
    Prop where
  cards : ∀ c, WaitItem.card c ∈ s.power.waitList ↔ W c = true
  ports : ∀ n, WaitItem.port n ∈ s.power.waitList ↔ (s.port n).power = .waiting
  power : ∀ n, (s.port n).power = .off ↔ E n = false
  ordered : o → WaitListOrdered s
  nodup : d → s.power.waitList.Nodup
  sum : d → s.power.admitted = drawsWith B D s

/-- The cards that wait, by their state. -/
def waitsNow (s : State) (c : Slot) : Bool := (s.card c).state == .waiting

/-- The law with all four as the records give them. -/
def WaitsNow (o d : Prop) (s : State) : Prop := Waits o d (waitsNow s) (poweredDraw s) (eligible s) (portDraw s) s

/-- A port's thermal hold is set exactly while it waits at or above the cap, and none at or above the cap is Admitted (R1, R56). -/
def HoldAt (s : State) (n : PortIx) : Prop :=
  ((s.port n).hold = true ↔ (s.port n).power = .waiting ∧ s.power.cap ≤ (s.port n).priority.val) ∧
    ((s.port n).power = .admitted → (s.port n).priority.val < s.power.cap)

/-- Every port's hold is as the cap gives it. -/
def Holds (s : State) : Prop := ∀ n, HoldAt s n

theorem waitListFollows_iff {s : State} : WaitListFollows s ↔ WaitsNow False False s ∧ Holds s := by
  constructor
  · rintro ⟨hcards, hports, hpower, hhold, hcap⟩
    exact ⟨⟨fun c => (hcards c).trans (by simp [waitsNow]), hports, hpower, nofun, nofun, nofun⟩,
      fun n => ⟨hhold n, hcap n⟩⟩
  · rintro ⟨h, hh⟩
    exact ⟨fun c => (h.cards c).trans (by simp [waitsNow]), h.ports, h.power, fun n => (hh n).1, fun n => (hh n).2⟩

theorem Waits.weaken {o d : Prop} {W : Slot → Bool} {B : Slot → Nat} {E : PortIx → Bool} {D : PortIx → Nat} {s : State}
    (h : Waits o d W B E D s) : Waits False False W B E D s :=
  ⟨h.cards, h.ports, h.power, nofun, nofun, nofun⟩

theorem Holds.of_core {s t : State} (h : Holds s) (hc : CoreKept s t) : Holds t := by
  intro n
  unfold HoldAt
  rw [hc.portHold, hc.portPower, hc.priority, hc.power]
  exact h n

/-- A hold is right again where it is given anew, and stands where port and cap stand. -/
theorem Holds.of_port {s t : State} (h : Holds s) (n : PortIx) (hn : HoldAt t n) (hcap : t.power.cap = s.power.cap)
    (hp : ∀ m, m ≠ n → t.port m = s.port m) : Holds t := by
  intro m
  by_cases hm : m = n
  · exact hm ▸ hn
  · unfold HoldAt
    rw [hp m hm, hcap]
    exact h m

namespace Waits

variable {o d : Prop} {W : Slot → Bool} {B : Slot → Nat} {E : PortIx → Bool} {D : PortIx → Nat} {s t : State}

theorem of_core (h : Waits o d W B E D s) (hc : CoreKept s t) : Waits o d W B E D t where
  cards c := by rw [hc.power]; exact h.cards c
  ports n := by rw [hc.power, hc.portPower]; exact h.ports n
  power n := by rw [hc.portPower]; exact h.power n
  ordered ho := by
    have := h.ordered ho
    rw [waitListOrdered_iff] at this ⊢
    rw [hc.power, hc.waitKey]
    exact this
  nodup hd := by rw [hc.power]; exact h.nodup hd
  sum hd := by
    rw [hc.power, h.sum hd]
    exact (drawsWith_congr (fun _ => rfl) hc.portPower fun _ _ => rfl).symm

/-- The law speaks of the Power Budget Unit's list and draw and of the ports only. -/
theorem of_records (h : Waits o d W B E D s) (hw : t.power.waitList = s.power.waitList)
    (ha : t.power.admitted = s.power.admitted) (hp : t.ports = s.ports) : Waits o d W B E D t where
  cards c := by rw [hw]; exact h.cards c
  ports n := by rw [hw, port_of_ports hp]; exact h.ports n
  power n := by rw [port_of_ports hp]; exact h.power n
  ordered ho := by
    refine (h.ordered ho).of_keys hw (.refl _) fun x _ => ?_
    cases x <;> simp only [waitKey, port_of_ports hp]
  nodup hd := by rw [hw]; exact h.nodup hd
  sum hd := by
    rw [ha, h.sum hd]
    exact (drawsWith_congr (fun _ => rfl) (fun n => by rw [port_of_ports hp]) fun _ _ => rfl).symm

/-- The four parameters count only where the law reads them. -/
theorem congr {W' : Slot → Bool} {B' : Slot → Nat} {E' : PortIx → Bool} {D' : PortIx → Nat} (h : Waits o d W B E D s)
    (hW : ∀ c, W c = W' c) (hB : d → ∀ c, B c = B' c) (hE : ∀ n, E n = E' n)
    (hD : d → ∀ n, (s.port n).power = .admitted → D n = D' n) : Waits o d W' B' E' D' s where
  cards c := by rw [← hW]; exact h.cards c
  ports := h.ports
  power n := by rw [← hE]; exact h.power n
  ordered := h.ordered
  nodup := h.nodup
  sum hd := by
    rw [h.sum hd]
    exact drawsWith_congr (hB hd) (fun _ => rfl) (hD hd)

/-! ### Cards on the wait list -/

theorem enterCardWait (h : Waits o d W B E D s) {c : Slot} (hc : W c = false) :
    Waits o d (Function.update W c true) B E D (enterWait (.card c) s) := by
  have hnew : WaitItem.card c ∉ s.power.waitList := fun hm => by simp [(h.cards c).1 hm] at hc
  refine ⟨fun x => ?_, fun n => ?_, h.power, fun ho => ?_, fun hd => ?_, h.sum⟩
  · simp only [enterWait, modPower_power, mem_insertByKey, WaitItem.card.injEq, Function.update_apply, h.cards]
    split <;> simp_all
  · simp only [enterWait, modPower_power, mem_insertByKey, reduceCtorEq, false_or]
    exact h.ports n
  · rw [waitListOrdered_iff]
    exact insertByKey_sorted (key := waitKey s) (waitListOrdered_iff.1 (h.ordered ho)) fun y hy he =>
      hnew (waitKey_injective s he ▸ hy)
  · exact ((insertByKey_perm _ _ _).nodup_iff).2 (List.nodup_cons.2 ⟨hnew, h.nodup hd⟩)

theorem leaveCardWait (h : Waits o d W B E D s) (c : Slot) :
    Waits o d (Function.update W c false) B E D (leaveWait (.card c) s) := by
  refine ⟨fun x => ?_, fun n => ?_, h.power, fun ho => ?_, fun hd => (h.nodup hd).filter _, h.sum⟩
  · simp only [leaveWait, modPower_power, List.mem_filter, h.cards, Function.update_apply, decide_eq_true_eq,
      ne_eq, WaitItem.card.injEq]
    split <;> simp_all
  · simp only [leaveWait, modPower_power, List.mem_filter, h.ports, decide_eq_true_eq, ne_eq, reduceCtorEq,
      not_false_eq_true, and_true]
    rfl
  · exact (h.ordered ho).of_keys (l := s.power.waitList.filter _) rfl List.filter_sublist fun _ _ => rfl

theorem chargeCard (h : Waits o d W B E D s) {c : Slot} (hc : d → B c = 0) (w : Nat) :
    Waits o d W (Function.update B c w) E D (chargeDraw w s) := by
  refine ⟨h.cards, h.ports, h.power, h.ordered, h.nodup, fun hd => ?_⟩
  have hsum := h.sum hd
  have hcard := drawsWith_card B D s c w
  have hzero := hc hd
  show s.power.admitted + w = drawsWith (Function.update B c w) D s
  omega

theorem releaseCard (h : Waits o d W B E D s) {c : Slot} {w : Nat} (hw : d → w = B c) :
    Waits o d W (Function.update B c 0) E D (releaseDraw w s) := by
  refine ⟨h.cards, h.ports, h.power, h.ordered, h.nodup, fun hd => ?_⟩
  have hsum := h.sum hd
  have hcard := drawsWith_card B D s c 0
  have hwc := hw hd
  show s.power.admitted - w = drawsWith (Function.update B c 0) D s
  omega

/-! ### Ports -/

/-- A waiting port is on the list under no other item's place. -/
theorem port_notMem (h : Waits o d W B E D s) {n : PortIx} (hn : (s.port n).power ≠ .waiting) :
    WaitItem.port n ∉ s.power.waitList := fun hm => hn ((h.ports n).1 hm)

/-- A port that is not on the list joins it, Waiting. -/
theorem enterPort (h : Waits o d W B E D s) {n : PortIx} (hn : (s.port n).power ≠ .waiting) (hold : Bool)
    (hD : (s.port n).power = .off ∨ (d → D n = 0)) :
    Waits o d W B (Function.update E n true) D (enterWait (.port n) (setPower n .waiting hold s)) := by
  have hnew := h.port_notMem hn
  have hpower : ∀ m, m ≠ n → ((setPower n .waiting hold s).port m).power = (s.port m).power := fun m hm => by
    rw [setPower, modPort_port, if_neg hm.symm]
  have hself : ((setPower n .waiting hold s).port n).power = .waiting := by simp [setPower]
  refine ⟨fun c => ?_, fun m => ?_, fun m => ?_, fun ho => ?_, fun hd => ?_, fun hd => ?_⟩
  · simp only [enterWait, modPower_power, mem_insertByKey, reduceCtorEq, false_or]
    exact h.cards c
  · simp only [enterWait, modPower_power, mem_insertByKey, WaitItem.port.injEq, modPower_port]
    by_cases hm : m = n
    · subst hm
      simp [hself]
    · rw [hpower m hm, ← h.ports m]
      simp [hm, setPower]
  · simp only [enterWait, modPower_port]
    by_cases hm : m = n
    · subst hm
      simp [hself]
    · rw [hpower m hm, Function.update_of_ne hm]
      exact h.power m
  · have hkey : waitKey (setPower n .waiting hold s) = waitKey s := ((FactsKept.refl s).setPower n _ _).waitKey
    rw [waitListOrdered_iff]
    have := insertByKey_sorted (key := waitKey s) (x := .port n) (waitListOrdered_iff.1 (h.ordered ho)) fun y hy he =>
      hnew (waitKey_injective s he ▸ hy)
    rw [← hkey] at this
    exact this
  · exact ((insertByKey_perm _ _ _).nodup_iff).2 (List.nodup_cons.2 ⟨hnew, h.nodup hd⟩)
  · have hsum := drawsWith_port (B := B) (D := D) (s := s) (t := setPower n .waiting hold s) hpower
    have hbefore : admittedPart D s n = 0 := by
      unfold admittedPart
      rcases hD with hoff | hz
      · simp [hoff]
      · split
        · exact hz hd
        · rfl
    have hafter : admittedPart D (setPower n .waiting hold s) n = 0 := by simp [admittedPart, hself]
    have := h.sum hd
    show s.power.admitted = drawsWith B D (setPower n .waiting hold s)
    omega

end Waits

end Sys2Proof.Machine

/-! PROOFS. What the operations on a port make of the wait list, the ports' power and the admitted draw (R5, R9, R11, R46). -/

namespace Sys2Proof.Machine

namespace Waits

variable {o d : Prop} {W : Slot → Bool} {B : Slot → Nat} {E : PortIx → Bool} {D : PortIx → Nat} {s t : State}

/-- The records of one port but its power and its hold may be anything: the law reads the power, and of the priority only what the
order of the list needs. -/
theorem of_ports (h : Waits o d W B E D s) (hw : t.power = s.power)
    (hp : ∀ n, (t.port n).power = (s.port n).power)
    (hk : ∀ n, (s.port n).power = .waiting → (t.port n).priority = (s.port n).priority) : Waits o d W B E D t where
  cards c := by rw [hw]; exact h.cards c
  ports n := by rw [hw, hp]; exact h.ports n
  power n := by rw [hp]; exact h.power n
  ordered ho := by
    refine (h.ordered ho).of_keys (by rw [hw]) (.refl _) fun x hx => ?_
    cases x with
    | card c => rfl
    | port n => simp only [waitKey, hk n ((h.ports n).1 hx)]
  nodup hd := by rw [hw]; exact h.nodup hd
  sum hd := by
    rw [hw, h.sum hd]
    exact (drawsWith_congr (fun _ => rfl) hp fun _ _ => rfl).symm

/-- The law after a change of a port's record that leaves its power and its hold, and its priority unless it is Off. -/
theorem modPort (h : Waits o d W B E D s) (n : PortIx) (f : PortRec → PortRec)
    (hp : (f (s.port n)).power = (s.port n).power)
    (hk : (s.port n).power = .waiting → (f (s.port n)).priority = (s.port n).priority) :
    Waits o d W B E D (s.modPort n f) := by
  refine h.of_ports rfl (fun m => ?_) fun m hm => ?_ <;> rw [modPort_port] <;> split
  · subst_vars
    exact hp
  · rfl
  · subst_vars
    exact hk hm
  · rfl

theorem setHold (h : Waits o d W B E D s) (n : PortIx) (hold : Bool) (hn : (s.port n).power = .waiting) :
    Waits o d W B E D (setPower n .waiting hold s) :=
  h.modPort n _ hn.symm fun _ => rfl

/-- A port that is not on the list and draws nothing takes a power in which it is not on the list either. -/
theorem setPower (h : Waits o d W B E D s) {n : PortIx} {x : PortPower} (hold : Bool) (hn : (s.port n).power ≠ .waiting)
    (hx : x ≠ .waiting) (hbefore : d → admittedPart D s n = 0) (hafter : d → x = .admitted → D n = 0) :
    Waits o d W B (Function.update E n (x != .off)) D (setPower n x hold s) := by
  have hpower : ∀ m, m ≠ n → ((Machine.setPower n x hold s).port m).power = (s.port m).power := fun m hm => by
    rw [Machine.setPower, modPort_port, if_neg hm.symm]
  have hself : ((Machine.setPower n x hold s).port n).power = x := by simp [Machine.setPower]
  refine ⟨h.cards, fun m => (h.ports m).trans ?_, fun m => ?_, fun ho => ?_, h.nodup, fun hd => ?_⟩
  · by_cases hm : m = n
    · subst hm
      simp [hself, hx, hn]
    · rw [hpower m hm]
  · by_cases hm : m = n
    · subst hm
      simp [hself]
    · rw [hpower m hm, Function.update_of_ne hm]
      exact h.power m
  · refine (h.ordered ho).of_keys rfl (.refl _) fun y _ => ?_
    rw [((FactsKept.refl s).setPower n x hold).waitKey]
  · have hsum := drawsWith_port (B := B) (D := D) (s := s) (t := Machine.setPower n x hold s) hpower
    have hpart : admittedPart D (Machine.setPower n x hold s) n = 0 := by
      unfold admittedPart
      rw [hself]
      split
      · exact hafter hd ‹_›
      · rfl
    have hzero := hbefore hd
    have := h.sum hd
    show s.power.admitted = drawsWith B D (Machine.setPower n x hold s)
    omega

/-- A waiting port leaves the list for another power in which it draws nothing. -/
theorem leavePort (h : Waits o d W B E D s) {n : PortIx} {x : PortPower} (hold : Bool) (hn : (s.port n).power = .waiting)
    (hx : x ≠ .waiting) (hafter : d → x = .admitted → D n = 0) :
    Waits o d W B (Function.update E n (x != .off)) D (Machine.setPower n x hold (leaveWait (.port n) s)) := by
  have hpower : ∀ m, m ≠ n → ((Machine.setPower n x hold s).port m).power = (s.port m).power := fun m hm => by
    rw [Machine.setPower, modPort_port, if_neg hm.symm]
  have hself : ((Machine.setPower n x hold s).port n).power = x := by simp [Machine.setPower]
  refine ⟨fun c => ?_, fun m => ?_, fun m => ?_, fun ho => ?_, fun hd => (h.nodup hd).filter _, fun hd => ?_⟩
  · refine Iff.trans ?_ (h.cards c)
    simp [Machine.setPower, leaveWait]
  · show WaitItem.port m ∈ s.power.waitList.filter _ ↔ ((Machine.setPower n x hold s).port m).power = .waiting
    simp only [List.mem_filter, h.ports, decide_eq_true_eq, ne_eq, WaitItem.port.injEq]
    by_cases hm : m = n
    · subst hm
      simp [hself, hx]
    · simp [hpower m hm, hm]
  · show ((Machine.setPower n x hold s).port m).power = .off ↔ _
    by_cases hm : m = n
    · subst hm
      simp [hself]
    · rw [hpower m hm, Function.update_of_ne hm]
      exact h.power m
  · refine (h.ordered ho).of_keys (l := s.power.waitList.filter _) rfl List.filter_sublist fun y _ => ?_
    rw [(((FactsKept.refl s).leaveWait (.port n)).setPower n x hold).waitKey]
  · have hsum := drawsWith_port (B := B) (D := D) (s := s) (t := Machine.setPower n x hold s) hpower
    have hbefore : admittedPart D s n = 0 := by simp [admittedPart, hn]
    have hpart : admittedPart D (Machine.setPower n x hold s) n = 0 := by
      unfold admittedPart
      rw [hself]
      split
      · exact hafter hd ‹_›
      · rfl
    have := h.sum hd
    show s.power.admitted = drawsWith B D (Machine.setPower n x hold s)
    omega

/-- The admitted draw falls by what a port draws, which then counts for nothing. -/
theorem releasePort (h : Waits o d W B E D s) {n : PortIx} (hn : (s.port n).power = .admitted) {w : Nat}
    (hw : d → w = D n) : Waits o d W B E (Function.update D n 0) (releaseDraw w s) := by
  refine ⟨h.cards, h.ports, h.power, h.ordered, h.nodup, fun hd => ?_⟩
  have hsum := sum_map_update (List.nodup_finRange 672) (List.mem_finRange n) (f := admittedPart (Function.update D n 0) s)
    (g := admittedPart D s) fun m hm => by unfold admittedPart; rw [Function.update_of_ne hm]
  have hpart : admittedPart (Function.update D n 0) s n = 0 := by simp [admittedPart]
  have hfull : admittedPart D s n = D n := if_pos hn
  have hadmitted := h.sum hd
  have hdraw := hw hd
  show s.power.admitted - w = drawsWith B (Function.update D n 0) s
  unfold drawsWith at hadmitted ⊢
  omega

/-- The admitted draw rises by what an Admitted port draws, which counted for nothing before. -/
theorem chargePort (h : Waits o d W B E D s) {n : PortIx} (hn : (s.port n).power = .admitted) (hz : d → D n = 0)
    (w : Nat) : Waits o d W B E (Function.update D n w) (chargeDraw w s) := by
  refine ⟨h.cards, h.ports, h.power, h.ordered, h.nodup, fun hd => ?_⟩
  have hsum := sum_map_update (List.nodup_finRange 672) (List.mem_finRange n) (f := admittedPart (Function.update D n w) s)
    (g := admittedPart D s) fun m hm => by unfold admittedPart; rw [Function.update_of_ne hm]
  have hpart : admittedPart (Function.update D n w) s n = w := by simp [admittedPart, hn]
  have hfull : admittedPart D s n = 0 := (if_pos hn).trans (hz hd)
  have hadmitted := h.sum hd
  show s.power.admitted + w = drawsWith B (Function.update D n w) s
  unfold drawsWith at hadmitted ⊢
  omega

/-- A draw that no Admitted port has does not count. -/
theorem forgetDraw {n : PortIx} {w : Nat} (h : Waits o d W B E (Function.update D n w) s)
    (hn : (s.port n).power ≠ .admitted) : Waits o d W B E D s := by
  refine h.congr (fun _ => rfl) (fun _ _ => rfl) (fun _ => rfl) fun _ m hm => ?_
  refine Function.update_of_ne (fun he => ?_) _ _
  subst he
  exact hn hm

theorem idleDraw (h : Waits o d W B E D s) {n : PortIx} (w : Nat) (hn : (s.port n).power ≠ .admitted) :
    Waits o d W B E (Function.update D n w) s := by
  refine h.congr (fun _ => rfl) (fun _ _ => rfl) (fun _ => rfl) fun _ m hm => ?_
  refine (Function.update_of_ne (fun he => ?_) _ _).symm
  subst he
  exact hn hm

/-! ### Eligibility -/

/-- A believed eligibility that is what is believed already. -/
theorem updateEligible {n : PortIx} {b : Bool} (h : Waits o d W B (Function.update E n b) D s) (hb : E n = b) :
    Waits o d W B E D s := by
  rwa [← hb, Function.update_eq_self] at h

theorem eligible_of_power (h : Waits o d W B E D s) {n : PortIx} (hn : (s.port n).power ≠ .off) : E n = true := by
  simpa using mt (h.power n).2 hn

theorem joinWait (h : Waits o d W B E D s) {n : PortIx} (hn : E n = false) :
    Waits o d W B (Function.update E n true) D (joinWait n s) := by
  have hoff := (h.power n).2 hn
  exact h.enterPort (by simp [hoff]) _ (.inl hoff)

theorem loseEligibility (h : Waits o d W B E D s) {n : PortIx} {draw : Nat} (hdraw : d → draw = D n) :
    Waits o d W B (Function.update E n false) D (loseEligibility n draw s) := by
  unfold Machine.loseEligibility
  split
  · rename_i hn
    exact h.leavePort (x := .off) false hn nofun nofun
  · rename_i hn
    have hfree := h.releasePort hn hdraw
    refine (hfree.setPower (n := n) (x := .off) false (by simp [releaseDraw, hn]) nofun (fun _ => ?_) nofun).forgetDraw ?_
    · simp [admittedPart]
    · simp [Machine.setPower]
  · rename_i hn
    exact h.setPower (n := n) (x := .off) false (by simp [hn]) nofun (fun _ => by simp [admittedPart, hn]) nofun

/-- Re-evaluating a port's eligibility makes what is believed of it what is so (R5). -/
theorem reviewEligible (h : Waits o d W B E D s) {n : PortIx} {was : Bool} {draw : Nat} (hwas : was = E n)
    (hdraw : d → draw = D n) :
    Waits o d W B (Function.update E n (eligible s n)) D (reviewEligible n was draw s) := by
  unfold Machine.reviewEligible
  split
  · rename_i he
    rw [he]
    exact h.loseEligibility hdraw
  · rename_i he
    rw [he]
    exact h.joinWait hwas.symm
  · rename_i he
    rw [he, hwas, Function.update_eq_self]
    exact h
  · rename_i he
    rw [he, hwas, Function.update_eq_self]
    exact h

/-- The ports of a card follow it: what is believed of those that are gone through becomes what is so (R9). -/
theorem followCard (before : State) (was : PortIx → Bool) {l : List PortIx} (hl : l.Nodup)
    (hdraw : d → ∀ n ∈ l, portDraw before n = D n) (hwas : ∀ n ∈ l, eligible before n = E n)
    (h : Waits o d W B E D s) :
    Waits o d W B (fun n => if n ∈ l then eligible s n else E n) D
      (forEach l (fun n s => reviewServiceable n (was n)
        (Machine.reviewEligible n (eligible before n) (portDraw before n) s)) s) := by
  induction l generalizing s E with
  | nil => exact h.congr (fun _ => rfl) (fun _ _ => rfl) (fun _ => by simp) fun _ _ _ => rfl
  | cons n l ih =>
    obtain ⟨hn, hl⟩ := List.nodup_cons.1 hl
    rw [forEach_cons]
    have hstep := (h.reviewEligible (hwas n List.mem_cons_self) fun hd => hdraw hd n List.mem_cons_self).of_core
      ((CoreKept.refl _).reviewServiceable n (was n))
    have hfacts : FactsKept s (reviewServiceable n (was n)
        (Machine.reviewEligible n (eligible before n) (portDraw before n) s)) :=
      ((FactsKept.refl s).reviewEligible _ _ _).core ((CoreKept.refl _).reviewServiceable _ _)
    refine (ih hl (fun hd m hm => hdraw hd m (List.mem_cons_of_mem _ hm)) (fun m hm => ?_) hstep).congr (fun _ => rfl)
      (fun _ _ => rfl) (fun m => ?_) fun _ _ _ => rfl
    · rw [Function.update_of_ne fun he : m = n => hn (he ▸ hm)]
      exact hwas m (List.mem_cons_of_mem _ hm)
    · by_cases hm : m = n
      · subst hm
        simp [hn]
      · simp [hm, hfacts.eligible]

end Waits

/-! ## The law with all as the records give it -/

/-- The wait list, the powers, the draw and the holds are as the records give them. -/
structure WaitsLaw (o d : Prop) (s : State) : Prop where
  waits : WaitsNow o d s
  holds : Holds s

theorem waitsLaw_iff {s : State} : WaitsLaw False False s ↔ WaitListFollows s :=
  ⟨fun h => waitListFollows_iff.2 ⟨h.waits, h.holds⟩, fun h => ⟨(waitListFollows_iff.1 h).1, (waitListFollows_iff.1 h).2⟩⟩

theorem waitsLaw_ordered_iff {s : State} : WaitsLaw True False s ↔ WaitListFollows s ∧ WaitListOrdered s := by
  rw [← waitsLaw_iff]
  refine ⟨fun h => ⟨⟨h.waits.weaken, h.holds⟩, h.waits.ordered trivial⟩, fun ⟨h, ho⟩ => ⟨?_, h.holds⟩⟩
  exact ⟨h.waits.cards, h.waits.ports, h.waits.power, fun _ => ho, nofun, nofun⟩

theorem drawLawful_iff {s : State} : DrawLawful s ↔ WaitsLaw False True s ∧ s.power.admitted ≤ allowanceOf s.power := by
  unfold DrawLawful
  rw [← waitsLaw_iff]
  refine ⟨fun ⟨h, hn, hs, hw⟩ => ⟨⟨?_, h.holds⟩, hw⟩, fun ⟨h, hw⟩ =>
    ⟨⟨h.waits.weaken, h.holds⟩, h.waits.nodup trivial, h.waits.sum trivial, hw⟩⟩
  exact ⟨h.waits.cards, h.waits.ports, h.waits.power, nofun, fun _ => hn, fun _ => hs⟩

theorem WaitsNow.of_core {o d : Prop} {s t : State} (h : WaitsNow o d s) (hc : CoreKept s t) : WaitsNow o d t := by
  refine (Waits.of_core h hc).congr (fun c => ?_) (fun _ c => (hc.poweredDraw c).symm) (fun n => (hc.eligible n).symm)
    fun _ n _ => (hc.portDraw n).symm
  simp only [waitsNow, hc.state]

/-- Changes that leave cards' states and ports' settings leave what the law compares with. -/
theorem WaitsNow.of_facts {o d : Prop} {s t : State} (hf : FactsKept s t)
    (h : Waits o d (waitsNow s) (poweredDraw s) (eligible s) (portDraw s) t) : WaitsNow o d t := by
  refine h.congr (fun c => ?_) (fun _ c => (hf.poweredDraw c).symm) (fun n => (hf.eligible n).symm)
    fun _ n _ => (hf.portDraw n).symm
  simp only [waitsNow, hf.state]

namespace WaitsLaw

variable {o d : Prop} {s t : State}

theorem of_core (h : WaitsLaw o d s) (hc : CoreKept s t) : WaitsLaw o d t := ⟨h.waits.of_core hc, h.holds.of_core hc⟩

theorem reason (h : WaitsLaw o d s) (r : Reason) : WaitsLaw o d (addReason r s) :=
  h.of_core ((CoreKept.refl s).reason r)

/-- A waiting port below the cap is not held, and the other way round. -/
theorem hold_eq (h : WaitsLaw o d s) {n : PortIx} (hn : (s.port n).power = .waiting) : (s.port n).hold = atCap s n := by
  have := (h.holds n).1
  rw [Bool.eq_iff_iff, this]
  simp [atCap, hn]

end WaitsLaw

end Sys2Proof.Machine

/-! PROOFS. The law of the wait list under the operations on one port: a change of its record, admission, displacement, a new
priority (R5, R11, R19, R53, R57). -/

namespace Sys2Proof.Machine

theorem modPort_port_other {n m : PortIx} (h : m ≠ n) (f : PortRec → PortRec) (s : State) :
    (s.modPort n f).port m = s.port m := by
  rw [modPort_port, if_neg h.symm]

theorem setPower_port_other {n m : PortIx} (h : m ≠ n) (x : PortPower) (hold : Bool) (s : State) :
    (setPower n x hold s).port m = s.port m := modPort_port_other h _ s

theorem enterWait_port (x : WaitItem) (s : State) (n : PortIx) : (enterWait x s).port n = s.port n := rfl

/-- The eligibility of a port is its own record's and its card's. -/
theorem eligible_congr {s t : State} {n : PortIx} (hi : (t.port n).intent = (s.port n).intent)
    (hl : (t.port n).license = (s.port n).license) (hs : (cardOf t n).state = (cardOf s n).state)
    (hc : (cardOf t n).identity = (cardOf s n).identity) : eligible t n = eligible s n := by
  have hcount : withinCount t n = withinCount s n := by
    have : (cardOf t n).portCount = (cardOf s n).portCount := by simp only [CardRec.portCount, hc]
    unfold withinCount
    rw [this]
  simp only [eligible, hcount, hi, hl, hs]

theorem eligible_modPort {f : PortRec → PortRec} (hf : ∀ r, (f r).intent = r.intent ∧ (f r).license = r.license)
    (n m : PortIx) (s : State) : eligible (s.modPort n f) m = eligible s m := by
  have hport : ((s.modPort n f).port m).intent = (s.port m).intent ∧ ((s.modPort n f).port m).license = (s.port m).license := by
    rw [modPort_port]
    split
    · subst_vars
      exact hf _
    · exact ⟨rfl, rfl⟩
  exact eligible_congr hport.1 hport.2 rfl rfl

theorem portDraw_congr {s t : State} {n : PortIx} (hc : (cardOf t n).identity = (cardOf s n).identity) :
    portDraw t n = portDraw s n := by
  simp only [portDraw, CardRec.tier, hc]

/-- A re-evaluation that finds what it believed changes nothing. -/
theorem reviewEligible_self {n : PortIx} {was : Bool} (draw : Nat) {s : State} (h : was = eligible s n) :
    reviewEligible n was draw s = s := by
  unfold reviewEligible
  rw [h]
  cases eligible s n <;> rfl

/-- The state in which an admitted port stands before its Serviceable is looked at (R11, R50). -/
def admitted (n : PortIx) (s : State) : State :=
  chargeDraw (portDraw s n) (setPower n .admitted (s.port n).hold (leaveWait (.port n) s))

/-- Admission moves no eligibility: it charges the draw, and the port takes its power (R11, R50). -/
theorem admitPort_eq (n : PortIx) (s : State) :
    admitPort n s = reviewServiceable n (serviceable (chargeDraw (portDraw s n) (leaveWait (.port n) s)) n)
      (admitted n s) := by
  have hsame := eligible_modPort (f := fun r => { r with power := .admitted }) (fun _ => ⟨rfl, rfl⟩) n n
    (chargeDraw (portDraw s n) (leaveWait (.port n) s))
  unfold admitPort portChange
  rw [reviewEligible_self _ hsame.symm]
  rfl

/-! ## Holds -/

/-- A port that is Off and not held is right at any cap. -/
theorem holdAt_off {s : State} {n : PortIx} (hp : (s.port n).power = .off) (hh : (s.port n).hold = false) : HoldAt s n := by
  simp [HoldAt, hp, hh]

theorem holdAt_waiting {s : State} {n : PortIx} (hp : (s.port n).power = .waiting)
    (hh : (s.port n).hold = atCap s n) : HoldAt s n := by
  simp [HoldAt, hp, hh, atCap]

/-- The hold of a port is its own record's and the cap's. -/
theorem HoldAt.congr {s t : State} {n : PortIx} (h : HoldAt s n) (hp : (t.port n).power = (s.port n).power)
    (hh : (t.port n).hold = (s.port n).hold) (hk : (t.port n).priority = (s.port n).priority)
    (hc : t.power.cap = s.power.cap) : HoldAt t n := by
  unfold HoldAt
  rwa [hp, hh, hk, hc]

theorem HoldAt.of_core {s t : State} {n : PortIx} (h : HoldAt s n) (hc : CoreKept s t) : HoldAt t n :=
  h.congr (hc.portPower n) (hc.portHold n) (hc.priority n) (by rw [hc.power])

theorem HoldAt.off_hold {s : State} {n : PortIx} (h : HoldAt s n) (hp : (s.port n).power = .off) :
    (s.port n).hold = false := by
  have := h.1
  simpa [hp] using this

/-- What eligibility's re-evaluation leaves of the other ports, and of the cap. -/
theorem reviewEligible_others {n m : PortIx} (hm : m ≠ n) (was : Bool) (draw : Nat) (s : State) :
    (reviewEligible n was draw s).port m = s.port m := by
  unfold reviewEligible
  split
  · unfold loseEligibility setPower
    rw [modPort_port_other hm]
    split <;> rfl
  · exact setPower_port_other hm _ _ s
  · rfl
  · rfl

theorem reviewEligible_cap (n : PortIx) (was : Bool) (draw : Nat) (s : State) :
    (reviewEligible n was draw s).power.cap = s.power.cap := by
  unfold reviewEligible
  split
  · unfold loseEligibility setPower
    split <;> rfl
  · rfl
  · rfl
  · rfl

/-- A port that gains or loses eligibility is right again; one that does neither is as it was. -/
theorem reviewEligible_holdAt {n : PortIx} {was : Bool} {draw : Nat} {s : State} (h : HoldAt s n) :
    HoldAt (reviewEligible n was draw s) n := by
  unfold reviewEligible
  split
  · unfold loseEligibility
    exact holdAt_off (by simp [setPower]) (by simp [setPower])
  · exact holdAt_waiting (by simp [joinWait, enterWait, setPower]) (by simp [joinWait, enterWait, setPower, atCap])
  · exact h
  · exact h

theorem Holds.reviewEligible {s : State} (h : Holds s) (n : PortIx) (was : Bool) (draw : Nat) :
    Holds (reviewEligible n was draw s) :=
  h.of_port n (reviewEligible_holdAt (h n)) (reviewEligible_cap n was draw s) fun _ hm => reviewEligible_others hm was draw s

theorem Holds.reviewServiceable {s : State} (h : Holds s) (n : PortIx) (was : Bool) : Holds (reviewServiceable n was s) :=
  h.of_core ((CoreKept.refl s).reviewServiceable n was)

theorem Holds.portsFollowCard {s : State} (slot : Slot) (before : State) (h : Holds s) :
    Holds (portsFollowCard slot before s) := by
  unfold Machine.portsFollowCard
  generalize slotPorts slot = l
  induction l generalizing s with
  | nil => exact h
  | cons n l ih => exact ih ((h.reviewEligible n _ _).reviewServiceable n _)

namespace WaitsLaw

variable {o d : Prop} {s : State}

/-! ## A change of a port's record (R5) -/

/-- A change of a port's record that leaves its power and hold, and its priority unless the port is Off. -/
theorem portChange (h : WaitsLaw o d s) (n : PortIx) (f : PortRec → PortRec)
    (hp : ∀ r, (f r).power = r.power ∧ (f r).hold = r.hold)
    (hk : (s.port n).power ≠ .off → (f (s.port n)).priority = (s.port n).priority) :
    WaitsLaw o d (portChange n f s) := by
  obtain ⟨hpower, hhold⟩ := hp (s.port n)
  have hmod := h.waits.modPort n f hpower fun hn => hk (by simp [hn])
  have hheld : Holds (s.modPort n f) := by
    refine h.holds.of_port n ?_ rfl fun m hm => modPort_port_other hm f s
    by_cases hoff : (s.port n).power = .off
    · exact holdAt_off (by simp [hpower, hoff]) (by simp [hhold, (h.holds n).off_hold hoff])
    · exact (h.holds n).congr (by simp [hpower]) (by simp [hhold]) (by simp [hk hoff]) rfl
  have hreview := hmod.reviewEligible (n := n) (was := eligible s n) (draw := portDraw s n) rfl fun _ => rfl
  refine of_core ⟨?_, hheld.reviewEligible n _ _⟩ ((CoreKept.refl _).reviewServiceable n _)
  have hfacts := (FactsKept.refl (s.modPort n f)).reviewEligible n (eligible s n) (portDraw s n)
  refine hreview.congr (fun c => ?_) (fun _ c => (hfacts.poweredDraw c).symm) (fun m => ?_)
    fun _ m _ => (hfacts.portDraw m).symm
  · simp only [waitsNow, hfacts.state, modPort_card]
  · rw [hfacts.eligible]
    by_cases hm : m = n
    · subst hm
      simp
    · rw [Function.update_of_ne hm]
      have hport := modPort_port_other hm f s
      exact (eligible_congr (s := s) (t := s.modPort n f) (by rw [hport]) (by rw [hport]) rfl rfl).symm

/-! ## Admission and displacement (R11) -/

theorem eligible_of_power (h : WaitsLaw o d s) {n : PortIx} (hn : (s.port n).power ≠ .off) : eligible s n = true :=
  h.waits.eligible_of_power hn

/-- A waiting port that is not held is admitted (R50). -/
theorem admitPort (h : WaitsLaw o d s) {n : PortIx} (hn : (s.port n).power = .waiting)
    (hhold : (s.port n).hold = false) : WaitsLaw o d (admitPort n s) := by
  have hleft := (h.waits.idleDraw (n := n) 0 (by simp [hn])).leavePort (x := .admitted) (s.port n).hold hn nofun
    fun _ _ => Function.update_self _ _ _
  have hcharged := (hleft.chargePort (n := n) (by simp [setPower, leaveWait]) (fun _ => by simp) (portDraw s n)).updateEligible
    (h.eligible_of_power (by simp [hn]))
  rw [admitPort_eq]
  refine of_core ⟨?_, ?_⟩ ((CoreKept.refl _).reviewServiceable n _)
  · refine WaitsNow.of_facts (((FactsKept.refl s).leaveWait (.port n)).setPower n _ _ |>.chargeDraw _) ?_
    rw [Function.update_idem, Function.update_eq_self] at hcharged
    exact hcharged
  · refine h.holds.of_port n ?_ rfl fun m hm => setPower_port_other hm _ _ s
    have hcap : (s.port n).priority.val < s.power.cap := by
      have := h.hold_eq hn
      rw [hhold] at this
      simpa [atCap] using this.symm
    simp [HoldAt, admitted, setPower, hhold, chargeDraw, leaveWait, hcap]

/-- Admitting a port that is Admitted already moves the admitted draw only. -/
theorem admitPort_again (h : WaitsLaw o d s) (hd : ¬d) {n : PortIx} (hn : (s.port n).power = .admitted) :
    WaitsLaw o d (Machine.admitPort n s) := by
  have hstand : (s.power.waitList.filter fun y => y ≠ WaitItem.port n) = s.power.waitList := by
    refine List.filter_eq_self.2 fun y hy => ?_
    have : y ≠ .port n := fun he => by simp [(h.waits.ports n).1 (he ▸ hy)] at hn
    simpa using this
  have hport : ∀ m, (admitted n s).port m = s.port m := fun m => by
    by_cases hm : m = n
    · subst hm
      simp [admitted, setPower, chargeDraw, leaveWait, ← hn]
    · exact setPower_port_other hm .admitted (s.port n).hold (leaveWait (.port n) s)
  have hlist : (admitted n s).power.waitList = s.power.waitList := hstand
  rw [admitPort_eq]
  refine of_core ⟨?_, ?_⟩ ((CoreKept.refl _).reviewServiceable n _)
  · refine WaitsNow.of_facts (((FactsKept.refl s).leaveWait (.port n)).setPower n _ _ |>.chargeDraw _)
      ⟨fun c => ?_, fun m => ?_, fun m => ?_, fun ho => ?_, fun hd' => absurd hd' hd, fun hd' => absurd hd' hd⟩
    · exact hlist ▸ h.waits.cards c
    · rw [hport]
      exact hlist ▸ h.waits.ports m
    · rw [hport]
      exact h.waits.power m
    · refine (h.waits.ordered ho).of_keys hlist (.refl _) fun y _ => ?_
      rw [(((FactsKept.refl s).leaveWait (.port n)).setPower n .admitted (s.port n).hold).waitKey.symm]
      rfl
  · intro m
    exact (h.holds m).congr (by rw [hport]) (by rw [hport]) (by rw [hport]) rfl

/-- An Admitted port goes back to Waiting, with its hold as the cap wants it (R11, R53, R57). -/
theorem displacePort_waits (h : WaitsNow o d s) {n : PortIx} (hn : (s.port n).power = .admitted) (hold : Bool) :
    WaitsNow o d (displacePort n hold s) := by
  have hreleased := h.releasePort hn (w := portDraw s n) fun _ => rfl
  have hentered := (hreleased.enterPort (n := n) (by simp [releaseDraw, hn]) hold (.inr fun _ => by simp)).updateEligible
    (h.eligible_of_power (by simp [hn]))
  unfold displacePort
  refine WaitsNow.of_core ?_ ((CoreKept.refl _).reviewServiceable n _)
  refine WaitsNow.of_facts (((FactsKept.refl s).releaseDraw _).setPower n _ _ |>.enterWait _)
    (hentered.forgetDraw ?_)
  simp [enterWait, setPower]

end WaitsLaw

theorem displacePort_others {n m : PortIx} (hm : m ≠ n) (hold : Bool) (s : State) :
    ((displacePort n hold s).port m).power = (s.port m).power ∧ ((displacePort n hold s).port m).hold = (s.port m).hold ∧
      ((displacePort n hold s).port m).priority = (s.port m).priority := by
  have hc := (CoreKept.refl (enterWait (.port n) (setPower n .waiting hold (releaseDraw (portDraw s n) s)))).reviewServiceable
    n (serviceable s n)
  have hport : (enterWait (.port n) (setPower n .waiting hold (releaseDraw (portDraw s n) s))).port m = s.port m :=
    setPower_port_other hm .waiting hold (releaseDraw (portDraw s n) s)
  unfold displacePort
  rw [hc.portPower, hc.portHold, hc.priority, hport]
  exact ⟨rfl, rfl, rfl⟩

theorem displacePort_self (n : PortIx) (hold : Bool) (s : State) :
    ((displacePort n hold s).port n).power = .waiting ∧ ((displacePort n hold s).port n).hold = hold ∧
      ((displacePort n hold s).port n).priority = (s.port n).priority := by
  have hc := (CoreKept.refl (enterWait (.port n) (setPower n .waiting hold (releaseDraw (portDraw s n) s)))).reviewServiceable
    n (serviceable s n)
  unfold displacePort
  rw [hc.portPower, hc.portHold, hc.priority]
  simp [enterWait, setPower, releaseDraw]

theorem displacePort_cap (n : PortIx) (hold : Bool) (s : State) : (displacePort n hold s).power.cap = s.power.cap := by
  have hc := (CoreKept.refl (enterWait (.port n) (setPower n .waiting hold (releaseDraw (portDraw s n) s)))).reviewServiceable
    n (serviceable s n)
  unfold displacePort
  rw [hc.power]
  rfl

/-- Displacing a port leaves the holds of the others. -/
theorem displacePort_holds {s : State} {n : PortIx} (hold : Bool) (h : ∀ m, m ≠ n → HoldAt s m)
    (hn : hold = atCap s n) : Holds (displacePort n hold s) := by
  intro m
  by_cases hm : m = n
  · subst hm
    obtain ⟨hp, hh, hk⟩ := displacePort_self m hold s
    refine holdAt_waiting hp (hh.trans (hn.trans ?_))
    simp only [atCap, hk, displacePort_cap]
  · obtain ⟨hp, hh, hk⟩ := displacePort_others hm hold s
    exact (h m hm).congr hp hh hk (displacePort_cap n hold s)

namespace WaitsLaw

variable {o d : Prop} {s : State}

theorem displacePort (h : WaitsLaw o d s) {n : PortIx} (hn : (s.port n).power = .admitted) :
    WaitsLaw o d (displacePort n false s) := by
  refine ⟨displacePort_waits h.waits hn false, displacePort_holds false (fun m _ => h.holds m) ?_⟩
  simpa [atCap] using (h.holds n).2 hn

end WaitsLaw

/-! ## The ports of a card (R9) -/

/-- From s to t every port's settings and license stand, and every card's state and identity but those of one. -/
structure FactsElsewhere (slot : Slot) (s t : State) : Prop where
  intent : ∀ n, (t.port n).intent = (s.port n).intent
  license : ∀ n, (t.port n).license = (s.port n).license
  state : ∀ c, c ≠ slot → (t.card c).state = (s.card c).state
  identity : ∀ c, c ≠ slot → (t.card c).identity = (s.card c).identity

namespace FactsElsewhere

variable {slot : Slot} {s t u : State}

theorem trans_facts (h : FactsElsewhere slot s t) (h' : FactsKept t u) : FactsElsewhere slot s u where
  intent n := (h'.intent n).trans (h.intent n)
  license n := (h'.license n).trans (h.license n)
  state c hc := (h'.state c).trans (h.state c hc)
  identity c hc := (h'.identity c).trans (h.identity c hc)

theorem eligible (h : FactsElsewhere slot s t) {n : PortIx} (hn : slotOf n ≠ slot) : eligible t n = eligible s n :=
  eligible_congr (h.intent n) (h.license n) (h.state _ hn) (h.identity _ hn)

theorem portDraw (h : FactsElsewhere slot s t) {n : PortIx} (hn : slotOf n ≠ slot) : portDraw t n = portDraw s n :=
  portDraw_congr (h.identity _ hn)

theorem waitsNow (h : FactsElsewhere slot s t) : Function.update (waitsNow s) slot (waitsNow t slot) = waitsNow t := by
  funext c
  by_cases hc : c = slot
  · subst hc
    simp
  · rw [Function.update_of_ne hc]
    simp only [Machine.waitsNow, h.state c hc]

theorem poweredDraw (h : FactsElsewhere slot s t) :
    Function.update (poweredDraw s) slot (poweredDraw t slot) = poweredDraw t := by
  funext c
  by_cases hc : c = slot
  · subst hc
    simp
  · rw [Function.update_of_ne hc]
    simp only [Machine.poweredDraw, CardRec.baseDraw, h.state c hc, h.identity c hc]

end FactsElsewhere

/-- The law as the records give it, where only one card has changed: its own place on the list and its base draw are taken into
account, and its ports are as eligible as they are believed to be. -/
theorem WaitsNow.of_elsewhere {o d : Prop} {slot : Slot} {s t : State} (hk : FactsElsewhere slot s t)
    {W : Slot → Bool} {B : Slot → Nat} {E : PortIx → Bool} (h : Waits o d W B E (portDraw s) t)
    (hW : W = Function.update (waitsNow s) slot (waitsNow t slot))
    (hB : d → B = Function.update (poweredDraw s) slot (poweredDraw t slot))
    (hE : ∀ n, E n = eligible t n)
    (hD : d → ∀ n, slotOf n = slot → eligible t n = true → portDraw s n = portDraw t n) : WaitsNow o d t := by
  refine h.congr (fun c => by rw [hW, hk.waitsNow]) (fun hd c => by rw [hB hd, hk.poweredDraw]) hE fun hd n hn => ?_
  by_cases hs : slotOf n = slot
  · refine hD hd n hs ?_
    rw [← hE]
    exact h.eligible_of_power (by simp [hn])
  · exact (hk.portDraw hs).symm

theorem mem_slotPorts {slot : Slot} {n : PortIx} : n ∈ slotPorts slot ↔ slotOf n = slot := by
  simp only [slotPorts, List.mem_map, List.mem_finRange, true_and]
  constructor
  · rintro ⟨p, rfl⟩
    exact Fin.ext (by simp only [slotOf, portOf]; omega)
  · rintro rfl
    exact ⟨⟨posOf n, Nat.mod_lt _ (by decide)⟩, Fin.ext (by simp only [slotOf, portOf, posOf]; omega)⟩

theorem slotPorts_nodup (slot : Slot) : (slotPorts slot).Nodup := by
  refine (List.nodup_finRange 48).map fun p q h => Fin.ext ?_
  have := congrArg Fin.val h
  simp only [portOf] at this
  omega

/-- The ports of a card whose state has changed follow it (R9). -/
theorem Waits.portsFollowCard {o d : Prop} {slot : Slot} {before s : State} {W : Slot → Bool} {B : Slot → Nat}
    (h : Waits o d W B (eligible before) (portDraw before) s) (hk : FactsElsewhere slot before s) :
    Waits o d W B (eligible (portsFollowCard slot before s)) (portDraw before) (portsFollowCard slot before s) := by
  have hfacts := (FactsKept.refl s).portsFollowCard slot before
  refine (h.followCard before (serviceable before) (slotPorts_nodup slot) (fun _ _ _ => rfl) fun _ _ => rfl).congr
    (fun _ => rfl) (fun _ _ => rfl) (fun n => ?_) fun _ _ _ => rfl
  rw [hfacts.eligible]
  split
  · rfl
  · rename_i hn
    exact (hk.eligible fun he => hn (mem_slotPorts.2 he)).symm

end Sys2Proof.Machine

/-! PROOFS. The law of the wait list where a card changes its state: the handshake, admission, joining, fencing and departure (R24 to
R35), and what the restore and the shed pass make of it (R50, R52). -/

namespace Sys2Proof.Machine

/-! ## A card enters a state -/

/-- From s to t one card has entered a state; the Power Budget Unit, the ports and the other cards' states and identities stand. -/
structure CardEnters (slot : Slot) (st : CardState) (s t : State) : Prop where
  power : t.power = s.power
  ports : t.ports = s.ports
  state : (t.card slot).state = st
  identity : (t.card slot).identity = (CardRec.enter st (s.card slot)).identity
  others : ∀ c, c ≠ slot → (t.card c).state = (s.card c).state ∧ (t.card c).identity = (s.card c).identity

theorem enterCard_enters (slot : Slot) (st : CardState) (s : State) : CardEnters slot st s (enterCard slot st s) where
  power := rfl
  ports := rfl
  state := by simp [enterCard, CardRec.enter]
  identity := by simp [enterCard]
  others c hc := by rw [enterCard_card_other hc]; exact ⟨rfl, rfl⟩

namespace CardEnters

variable {slot : Slot} {st : CardState} {s t u : State}

theorem then_core (h : CardEnters slot st s t) (h' : CoreKept t u) (hp : u.ports = t.ports) : CardEnters slot st s u where
  power := h'.power.trans h.power
  ports := hp.trans h.ports
  state := (h'.state slot).trans h.state
  identity := (h'.identity slot).trans h.identity
  others c hc := ⟨(h'.state c).trans (h.others c hc).1, (h'.identity c).trans (h.others c hc).2⟩

theorem after_core (h : CardEnters slot st t u) (h' : CoreKept s t) (hp : t.ports = s.ports) : CardEnters slot st s u where
  power := h.power.trans h'.power
  ports := h.ports.trans hp
  state := h.state
  identity := h.identity.trans (by simp only [CardRec.enter, h'.identity])
  others c hc := ⟨(h.others c hc).1.trans (h'.state c), (h.others c hc).2.trans (h'.identity c)⟩

/-- In the states in which it is kept, the identity is what it was. -/
theorem identity_kept (h : CardEnters slot st s t) (hst : st = .waiting ∨ st = .admitting ∨ st = .joined ∨ st = .fenced ∨ st = .parked) :
    (t.card slot).identity = (s.card slot).identity := by
  rw [h.identity]
  rcases hst with rfl | rfl | rfl | rfl | rfl <;> rfl

theorem elsewhere (h : CardEnters slot st s t) : FactsElsewhere slot s t where
  intent n := by rw [port_of_ports h.ports]
  license n := by rw [port_of_ports h.ports]
  state c hc := (h.others c hc).1
  identity c hc := (h.others c hc).2

theorem elsewhere_of_facts (h : CardEnters slot st s t) (hu : FactsKept u s) : FactsElsewhere slot u t where
  intent n := (h.elsewhere.intent n).trans (hu.intent n)
  license n := (h.elsewhere.license n).trans (hu.license n)
  state c hc := (h.elsewhere.state c hc).trans (hu.state c)
  identity c hc := (h.elsewhere.identity c hc).trans (hu.identity c)

theorem waits {o d : Prop} {W : Slot → Bool} {B : Slot → Nat} {E : PortIx → Bool} {D : PortIx → Nat}
    (h : CardEnters slot st s t) (hw : Waits o d W B E D s) : Waits o d W B E D t :=
  hw.of_records (by rw [h.power]) (by rw [h.power]) h.ports

theorem holds (h : CardEnters slot st s t) (hh : Holds s) : Holds t := fun n =>
  (hh n).congr (by rw [port_of_ports h.ports]) (by rw [port_of_ports h.ports]) (by rw [port_of_ports h.ports]) (by rw [h.power])

end CardEnters

theorem startProbe_enters (slot : Slot) (attempts : Nat) (s : State) :
    CardEnters slot .probing s (startProbe slot attempts s) :=
  ((enterCard_enters slot .probing (clearTemp slot s)).after_core ((CoreKept.refl s).clearTemp slot) rfl).then_core
    ((((CoreKept.refl _).card slot (fun c => { c with attempts := attempts }) fun _ => ⟨rfl, rfl⟩).send slot _).startTimer
      slot _) rfl

theorem startAdmitting_enters (slot : Slot) (s : State) : CardEnters slot .admitting s (startAdmitting slot s) :=
  (enterCard_enters slot .admitting s).then_core ((((CoreKept.refl _).clearTemp slot).send slot _).startTimer slot _) rfl

theorem failCard_enters (slot : Slot) (r : FailureReason) (s : State) :
    CardEnters slot .failed s (failCard slot r s) := by
  have hcold := ((CoreKept.refl s).stopTimer slot).clearTemp slot
  have hwhy := (CoreKept.refl (enterCard slot .failed (clearTemp slot (stopTimer slot s)))).card slot
    (fun c => { c with failure := r }) fun _ => ⟨rfl, rfl⟩
  refine ((enterCard_enters slot .failed _).after_core hcold rfl).then_core (hwhy.raise _) ?_
  rw [failCard, raiseAlarm_eq]
  rfl

/-! ## Cards out of service -/

theorem eligible_of_out {s : State} {n : PortIx} (h : (cardOf s n).state.inService = false) : eligible s n = false := by
  simp [eligible, h]

theorem inService_powered {st : CardState} (h : st.powered = false) : st.inService = false := by
  cases st <;> first | rfl | cases h

/-- A card that is out of service and enters a state out of service: its place on the list and its draw, once right, make the law
right (R24 to R34). -/
theorem WaitsLaw.of_enters {o d : Prop} {slot : Slot} {st : CardState} {s u t : State} {w : Nat} (hu : FactsKept s u)
    (hk : CardEnters slot st u t) (hout : (s.card slot).state.inService = false) (hst : st.inService = false)
    (hw : Waits o d (Function.update (waitsNow s) slot (st == .waiting)) (Function.update (poweredDraw s) slot w) (eligible s)
      (portDraw s) u) (hdraw : d → w = poweredDraw t slot) (hh : Holds u) : WaitsLaw o d t := by
  have helse := hk.elsewhere_of_facts hu
  have hnone : ∀ n, slotOf n = slot → eligible s n = false ∧ eligible t n = false := fun n hn =>
    ⟨eligible_of_out (by rw [cardOf, hn]; exact hout), eligible_of_out (by rw [cardOf, hn, hk.state]; exact hst)⟩
  refine ⟨WaitsNow.of_elsewhere helse (hk.waits hw) ?_ (fun hd => by rw [hdraw hd]) (fun n => ?_) fun _ n hn he => ?_, hk.holds hh⟩
  · simp only [waitsNow, hk.state]
  · by_cases hn : slotOf n = slot
    · rw [(hnone n hn).1, (hnone n hn).2]
    · exact (helse.eligible hn).symm
  · rw [(hnone n hn).2] at he
    cases he

/-- What a card draws in a state: its base draw while it is Admitting, Joined or Fenced. -/
theorem poweredDraw_of_state {s : State} {slot : Slot} (h : (s.card slot).state.powered = false) : poweredDraw s slot = 0 := by
  simp [poweredDraw, h]

namespace WaitsLaw

variable {o d : Prop} {s : State} {slot : Slot}

/-- A card that neither waits nor draws enters another such state. -/
theorem enters_idle {st : CardState} {t : State} (h : WaitsLaw o d s) (hk : CardEnters slot st s t)
    (hs : (s.card slot).state.powered = false) (hw : (s.card slot).state ≠ .waiting) (hst : st.powered = false)
    (hsw : st ≠ .waiting) : WaitsLaw o d t := by
  refine of_enters (w := 0) (FactsKept.refl s) hk (inService_powered hs) (inService_powered hst) ?_ (fun _ => ?_) h.holds
  · refine h.waits.congr (fun c => ?_) (fun _ c => ?_) (fun _ => rfl) fun _ _ _ => rfl
    · by_cases hc : c = slot
      · subst hc
        simp [waitsNow, hw, hsw]
      · rw [Function.update_of_ne hc]
    · by_cases hc : c = slot
      · subst hc
        simp [poweredDraw_of_state hs]
      · rw [Function.update_of_ne hc]
  · rw [poweredDraw_of_state (by rw [hk.state]; exact hst)]

/-- The draw of an Admitting card is released, and it enters a state in which it neither waits nor draws (R30). -/
theorem enters_released {st : CardState} {t : State} (h : WaitsLaw o d s)
    (hk : CardEnters slot st (releaseDraw (s.card slot).baseDraw s) t) (hs : (s.card slot).state = .admitting)
    (hst : st.powered = false) (hsw : st ≠ .waiting) : WaitsLaw o d t := by
  have hbase : (s.card slot).baseDraw = poweredDraw s slot := by simp [poweredDraw, hs, CardState.powered]
  refine of_enters (w := 0) ((FactsKept.refl s).releaseDraw _) hk (by simp [hs, CardState.inService]) (inService_powered hst) ?_
    (fun _ => ?_) h.holds
  · refine (h.waits.releaseCard fun _ => hbase).congr (fun c => ?_) (fun _ _ => rfl) (fun _ => rfl) fun _ _ _ => rfl
    by_cases hc : c = slot
    · subst hc
      simp [waitsNow, hs, hsw]
    · rw [Function.update_of_ne hc]
  · rw [poweredDraw_of_state (by rw [hk.state]; exact hst)]

/-- A card that neither waits nor draws is placed on the wait list (R27, R34). -/
theorem placeCard (h : WaitsLaw o d s) (hs : (s.card slot).state.powered = false)
    (hw : (s.card slot).state ≠ .waiting) : WaitsLaw o d (placeCard slot s) := by
  have hk : CardEnters slot .waiting (enterWait (.card slot) s) (Machine.placeCard slot s) :=
    { power := rfl
      ports := rfl
      state := (enterCard_enters slot .waiting s).state
      identity := (enterCard_enters slot .waiting s).identity
      others := (enterCard_enters slot .waiting s).others }
  refine of_enters (w := 0) ((FactsKept.refl s).enterWait _) hk (inService_powered hs) rfl ?_ (fun _ => ?_) h.holds
  · refine (h.waits.enterCardWait (by simp [waitsNow, hw])).congr (fun _ => rfl) (fun _ c => ?_) (fun _ => rfl) fun _ _ _ => rfl
    by_cases hc : c = slot
    · subst hc
      simp [poweredDraw_of_state hs]
    · rw [Function.update_of_ne hc]
  · rw [poweredDraw_of_state (by rw [hk.state]; rfl)]

/-- The restore pass admits a card that waits, or one that it has admitted already (R50). -/
theorem admitCard (h : WaitsLaw o d s) (hs : (s.card slot).state = .waiting ∨ ¬d ∧ (s.card slot).state = .admitting) :
    WaitsLaw o d (admitCard slot s) := by
  have hk := startAdmitting_enters slot (chargeDraw (s.card slot).baseDraw (leaveWait (.card slot) s))
  have hzero : d → poweredDraw s slot = 0 := fun hd => by
    rcases hs with hs | ⟨hnd, -⟩
    · exact poweredDraw_of_state (by rw [hs]; rfl)
    · exact absurd hd hnd
  have hout : (s.card slot).state.inService = false := by rcases hs with hs | ⟨-, hs⟩ <;> rw [hs] <;> rfl
  refine of_enters (((FactsKept.refl s).leaveWait _).chargeDraw _) hk hout rfl
    ((h.waits.leaveCardWait slot).chargeCard hzero _) (fun _ => ?_) h.holds
  have hid : ((Machine.admitCard slot s).card slot).identity = (s.card slot).identity := hk.identity_kept (.inr (.inl rfl))
  have hstate : ((Machine.admitCard slot s).card slot).state = .admitting := hk.state
  simp only [poweredDraw, hstate, CardState.powered, if_true, CardRec.baseDraw, hid]

end WaitsLaw

/-! ## Cards in service (R9, R29, R32) -/

/-- A card that is in service, or comes into it, keeps its draw and its identity; its ports follow it (R9). -/
theorem WaitsLaw.follows {o d : Prop} {slot : Slot} {s u v : State} {st : CardState} (h : WaitsLaw o d s)
    (hk : CardEnters slot st s u) (hv : CoreKept u v) (hs : (s.card slot).state.powered = true) (hst : st.powered = true) :
    WaitsLaw o d (portsFollowCard slot s v) := by
  have hcase : st = .admitting ∨ st = .joined ∨ st = .fenced := by cases st <;> first | cases hst; done | simp
  have hid := hk.identity_kept (by rcases hcase with rfl | rfl | rfl <;> simp)
  have helse : FactsElsewhere slot s v := hk.elsewhere.trans_facts hv.facts
  have hfollow := ((hk.waits h.waits).of_core hv).portsFollowCard helse
  have hfacts := (FactsKept.refl v).portsFollowCard slot s
  have helse' := helse.trans_facts hfacts
  have hstate : ((portsFollowCard slot s v).card slot).state = st := by rw [hfacts.state, hv.state, hk.state]
  have hidentity : ((portsFollowCard slot s v).card slot).identity = (s.card slot).identity := by
    rw [hfacts.identity, hv.identity, hid]
  refine ⟨WaitsNow.of_elsewhere helse' hfollow ?_ (fun _ => ?_) (fun _ => rfl) fun _ n hn _ => ?_,
    ((hk.holds h.holds).of_core hv).portsFollowCard slot s⟩
  · have hnot : waitsNow (portsFollowCard slot s v) slot = waitsNow s slot := by
      have : (s.card slot).state ≠ .waiting := fun he => by rw [he] at hs; cases hs
      rcases hcase with rfl | rfl | rfl <;> simp [waitsNow, hstate, this]
    rw [hnot, Function.update_eq_self]
  · have hsame : poweredDraw (portsFollowCard slot s v) slot = poweredDraw s slot := by
      simp only [poweredDraw, hstate, hst, hs, CardRec.baseDraw, hidentity]
    rw [hsame, Function.update_eq_self]
  · exact (portDraw_congr (by rw [cardOf, cardOf, hn, hidentity])).symm

namespace WaitsLaw

variable {o d : Prop} {s : State} {slot : Slot}

theorem fenceClaim (h : WaitsLaw o d s) : WaitsLaw o d (fenceClaim slot s) := by
  unfold Machine.fenceClaim
  split
  · rename_i hs
    exact h.follows (enterCard_enters slot .fenced s) ((CoreKept.refl _).raise _) (by rw [hs]; rfl) rfl
  · exact h

/-- What a departure leaves: the law of a card that neither waits nor draws, in the state it has entered (R31, R33, R35, R37). -/
structure Departed (o d : Prop) (slot : Slot) (st : CardState) (s t : State) : Prop where
  elsewhere : FactsElsewhere slot s t
  state : (t.card slot).state = st
  waits : Waits o d (Function.update (waitsNow s) slot false) (Function.update (poweredDraw s) slot 0) (eligible t) (portDraw t) t
  holds : Holds t

theorem releaseCard (h : WaitsLaw o d s) (slot : Slot) :
    Waits o d (Function.update (waitsNow s) slot false) (Function.update (poweredDraw s) slot 0) (eligible s) (portDraw s)
      (releaseCard slot s) := by
  have hnoDraw : (s.card slot).state.powered = false →
      ∀ c, poweredDraw s c = Function.update (poweredDraw s) slot 0 c := fun hp c => by
    by_cases hc : c = slot
    · subst hc
      simp [poweredDraw_of_state hp]
    · rw [Function.update_of_ne hc]
  have hnoWait : (s.card slot).state ≠ .waiting → ∀ c, waitsNow s c = Function.update (waitsNow s) slot false c := fun hp c => by
    by_cases hc : c = slot
    · subst hc
      simp [waitsNow, hp]
    · rw [Function.update_of_ne hc]
  unfold Machine.releaseCard
  split
  · rename_i hp
    have hwait : (s.card slot).state ≠ .waiting := fun he => by rw [he] at hp; cases hp
    refine (h.waits.releaseCard fun _ => ?_).congr (hnoWait hwait) (fun _ _ => rfl) (fun _ => rfl) fun _ _ _ => rfl
    simp [poweredDraw, hp]
  · rename_i hp
    have hp : (s.card slot).state.powered = false := by simpa using hp
    split
    · exact (h.waits.leaveCardWait slot).congr (fun _ => rfl) (fun _ => hnoDraw hp) (fun _ => rfl) fun _ _ _ => rfl
    · rename_i hw
      exact h.waits.congr (hnoWait hw) (fun _ => hnoDraw hp) (fun _ => rfl) fun _ _ _ => rfl

theorem releaseCard_facts (slot : Slot) (s : State) : FactsKept s (Machine.releaseCard slot s) := by
  unfold Machine.releaseCard
  split
  · exact (FactsKept.refl s).releaseDraw _
  · split
    · exact (FactsKept.refl s).leaveWait _
    · exact FactsKept.refl s

theorem releaseCard_holds (h : Holds s) (slot : Slot) : Holds (Machine.releaseCard slot s) := by
  unfold Machine.releaseCard
  split
  · exact h
  · split
    · exact h
    · exact h

/-- The draws of a card's ports, where the card is out of service, count for nothing. -/
theorem settleDraws {W : Slot → Bool} {B : Slot → Nat} {t : State} (h : Waits o d W B (eligible t) (portDraw s) t)
    (hk : FactsElsewhere slot s t) (hout : (t.card slot).state.inService = false) :
    Waits o d W B (eligible t) (portDraw t) t := by
  refine h.congr (fun _ => rfl) (fun _ _ => rfl) (fun _ => rfl) fun _ n hn => ?_
  by_cases hs : slotOf n = slot
  · have he := h.eligible_of_power (n := n) (by simp [hn])
    rw [eligible_of_out (by rw [cardOf, hs]; exact hout)] at he
    cases he
  · exact (hk.portDraw hs).symm

theorem leaveCard (h : WaitsLaw o d s) {st : CardState} (hst : st.inService = false) :
    Departed o d slot st s (leaveCard slot st s) := by
  have hu := releaseCard_facts slot s
  have hk : CardEnters slot st (Machine.releaseCard slot s)
      (clearTemp slot (stopTimer slot (enterCard slot st (Machine.releaseCard slot s)))) :=
    (enterCard_enters slot st _).then_core (((CoreKept.refl _).stopTimer slot).clearTemp slot) rfl
  have helse := hk.elsewhere_of_facts hu
  have hwaits := hk.waits (h.releaseCard slot)
  have hholds := hk.holds (releaseCard_holds h.holds slot)
  unfold Machine.leaveCard
  generalize clearTemp slot (stopTimer slot (enterCard slot st (Machine.releaseCard slot s))) = v at hk helse hwaits hholds ⊢
  have hfault : ∀ w, CoreKept w (endCardFault slot s w) := fun w => (CoreKept.refl w).endCardFault slot s
  have htold : Departed o d slot st s (tellDeparture slot s v) := by
    unfold tellDeparture
    split
    · have hleft : CoreKept v (cardLeft slot v) := (CoreKept.refl v).cardLeft slot
      have hfacts := (FactsKept.refl (cardLeft slot v)).portsFollowCard slot s
      have helse' := (helse.trans_facts hleft.facts).trans_facts hfacts
      have hstate : ((portsFollowCard slot s (cardLeft slot v)).card slot).state = st := by
        rw [hfacts.state, hleft.state, hk.state]
      refine ⟨helse', hstate, settleDraws ((hwaits.of_core hleft).portsFollowCard (helse.trans_facts hleft.facts)) helse' ?_,
        (hholds.of_core hleft).portsFollowCard slot s⟩
      rw [hstate]
      exact hst
    · rename_i hout
      refine ⟨helse, hk.state, settleDraws (hwaits.congr (fun _ => rfl) (fun _ _ => rfl) (fun n => ?_) fun _ _ _ => rfl) helse ?_, hholds⟩
      · by_cases hn : slotOf n = slot
        · rw [eligible_of_out (by rw [cardOf, hn]; simpa using hout), eligible_of_out (by rw [cardOf, hn, hk.state]; exact hst)]
        · exact (helse.eligible hn).symm
      · rw [hk.state]
        exact hst
  have hfacts := (hfault (tellDeparture slot s v)).facts
  refine ⟨htold.elsewhere.trans_facts hfacts, (hfacts.state slot).trans htold.state, ?_, htold.holds.of_core (hfault _)⟩
  exact (htold.waits.of_core (hfault _)).congr (fun _ => rfl) (fun _ _ => rfl) (fun n => (hfacts.eligible n).symm)
    fun _ n _ => (hfacts.portDraw n).symm

/-- The law once a departed card is on the list or off it as its new state wants. -/
theorem Departed.law {st : CardState} {t u : State} (h : Departed o d slot st s t) (hst : st.powered = false)
    (hu : FactsKept t u) (hh : Holds u)
    (hw : Waits o d (Function.update (waitsNow s) slot (st == .waiting)) (Function.update (poweredDraw s) slot 0) (eligible t)
      (portDraw t) u) : WaitsLaw o d u := by
  have helse := h.elsewhere.trans_facts hu
  have hstate : (u.card slot).state = st := (hu.state slot).trans h.state
  have hnone : ∀ n, slotOf n = slot → eligible u n = false := fun n hn =>
    eligible_of_out (by rw [cardOf, hn, hstate]; exact inService_powered hst)
  refine ⟨WaitsNow.of_elsewhere helse (hw.congr (fun _ => rfl) (fun _ _ => rfl) (fun n => (hu.eligible n).symm)
    fun _ n hn => ?_) ?_ (fun _ => ?_) (fun _ => rfl) fun _ n hn he => ?_, hh⟩
  · by_cases hs : slotOf n = slot
    · have he := hw.eligible_of_power (n := n) (by simp [hn])
      rw [← hu.eligible, hnone n hs] at he
      cases he
    · exact h.elsewhere.portDraw hs
  · simp only [waitsNow, hstate]
  · rw [poweredDraw_of_state (by rw [hstate]; exact hst)]
  · rw [hnone n hn] at he
    cases he

theorem Departed.law_of_ne {st : CardState} {t : State} (h : Departed o d slot st s t) (hst : st.powered = false)
    (hw : st ≠ .waiting) : WaitsLaw o d t := by
  refine h.law hst (FactsKept.refl t) h.holds ?_
  rw [beq_eq_false_iff_ne.2 hw]
  exact h.waits

theorem shedCard (h : WaitsLaw o d s) : WaitsLaw o d (shedCard slot s) := by
  have hleft := h.leaveCard (slot := slot) (st := .waiting) rfl
  have hentered := hleft.waits.enterCardWait (c := slot) (by simp)
  rw [Function.update_idem] at hentered
  exact hleft.law rfl ((FactsKept.refl _).enterWait _) hleft.holds hentered

end WaitsLaw

end Sys2Proof.Machine

/-! PROOFS. The law of the wait list under the passes of the Power Budget Unit, its budget changes and the thermal cap (R47, R50, R52,
R56 to R58), and under a new priority (R19). -/

namespace Sys2Proof.Machine

/-! ## The restore pass (R50) -/

/-- An item of a restore pass still waits, or, where items may stand twice, the pass has admitted it already. -/
def Restorable (d : Prop) (s : State) : WaitItem → Prop
  | .card c => (s.card c).state = .waiting ∨ ¬d ∧ (s.card c).state = .admitting
  | .port n => (s.port n).power = .waiting ∨ ¬d ∧ (s.port n).power = .admitted

theorem Restorable.congr {d : Prop} {s t : State} {x : WaitItem} (h : Restorable d s x)
    (hc : ∀ c, x = .card c → (t.card c).state = (s.card c).state)
    (hp : ∀ n, x = .port n → (t.port n).power = (s.port n).power) : Restorable d t x := by
  cases x with
  | card c => simpa only [Restorable, hc c rfl] using h
  | port n => simpa only [Restorable, hp n rfl] using h

theorem admitCard_enters (c : Slot) (s : State) :
    CardEnters c .admitting (chargeDraw (s.card c).baseDraw (leaveWait (.card c) s)) (admitCard c s) :=
  startAdmitting_enters c _

theorem admitPort_core (n : PortIx) (s : State) : CoreKept (admitted n s) (admitPort n s) := by
  rw [admitPort_eq]
  exact (CoreKept.refl _).reviewServiceable n _

theorem admitted_port_other {n m : PortIx} (h : m ≠ n) (s : State) : (admitted n s).port m = s.port m :=
  setPower_port_other h .admitted (s.port n).hold (leaveWait (.port n) s)

theorem admitted_port_self (n : PortIx) (s : State) : ((admitted n s).port n) = { s.port n with power := .admitted } := by
  simp [admitted, setPower, chargeDraw, leaveWait]

namespace WaitsLaw

variable {o d : Prop} {s : State}

/-- One item of a restore pass keeps the law, and leaves every other item restorable. -/
theorem restoreItem (h : WaitsLaw o d s) {x : WaitItem} (hx : Restorable d s x) :
    WaitsLaw o d (restoreItem x s) ∧
      ∀ y, Restorable d s y → (y ≠ x ∨ ¬d) → Restorable d (Machine.restoreItem x s) y := by
  cases x with
  | card c =>
    rw [restoreItem_card]
    split
    · have hk := admitCard_enters c s
      refine ⟨h.admitCard hx, fun y hy hne => ?_⟩
      by_cases hyc : y = .card c
      · subst hyc
        exact .inr ⟨hne.resolve_left fun h => h rfl, hk.state⟩
      · exact hy.congr (fun e he => (hk.others e fun hec => hyc (he ▸ hec ▸ rfl)).1)
          fun n _ => by rw [port_of_ports hk.ports]; rfl
    · exact ⟨h, fun y hy _ => hy⟩
  | port n =>
    rw [restoreItem_port]
    split
    · rename_i hfit
      have hhold : (s.port n).hold = false := by simpa using (Bool.and_eq_true_iff.1 hfit).1
      have hlaw : WaitsLaw o d (Machine.admitPort n s) := by
        rcases hx with hx | ⟨hd, hx⟩
        · exact h.admitPort hx hhold
        · exact h.admitPort_again hd hx
      have hcore := admitPort_core n s
      refine ⟨hlaw, fun y hy hne => ?_⟩
      by_cases hyn : y = .port n
      · subst hyn
        refine .inr ⟨hne.resolve_left fun h => h rfl, ?_⟩
        rw [hcore.portPower, admitted_port_self]
      · refine hy.congr (fun c _ => hcore.state c) fun m hm => ?_
        rw [hcore.portPower, admitted_port_other fun he : m = n => hyn (hm ▸ he ▸ rfl)]
    · exact ⟨h, fun y hy _ => hy⟩

theorem forEach_restoreItem {l : List WaitItem} (hl : d → l.Nodup) (h : WaitsLaw o d s)
    (hx : ∀ x ∈ l, Restorable d s x) : WaitsLaw o d (forEach l Machine.restoreItem s) := by
  induction l generalizing s with
  | nil => exact h
  | cons x l ih =>
    obtain ⟨hlaw, hrest⟩ := h.restoreItem (hx x List.mem_cons_self)
    rw [forEach_cons]
    refine ih (fun hd => (List.nodup_cons.1 (hl hd)).2) hlaw fun y hy => hrest y (hx y (List.mem_cons_of_mem _ hy)) ?_
    by_cases hd : d
    · exact .inl fun he => (List.nodup_cons.1 (hl hd)).1 (he ▸ hy)
    · exact .inr hd

theorem restorable (h : WaitsLaw o d s) {x : WaitItem} (hx : x ∈ s.power.waitList) : Restorable d s x := by
  cases x with
  | card c => exact .inl (by simpa [waitsNow] using (h.waits.cards c).1 hx)
  | port n => exact .inl ((h.waits.ports n).1 hx)

theorem restorePass (h : WaitsLaw o d s) : WaitsLaw o d (restorePass s) := by
  have hloop := h.forEach_restoreItem h.waits.nodup fun x hx => h.restorable hx
  unfold Machine.restorePass
  dsimp only
  split
  · exact hloop.reason _
  · exact hloop

/-! ## The shed pass (R52) -/

theorem forEach_shedPortStep {l : List PortIx} (hl : l.Nodup) (h : WaitsLaw o d s)
    (hx : ∀ n ∈ l, (s.port n).power = .admitted) : WaitsLaw o d (forEach l shedPortStep s) := by
  induction l generalizing s with
  | nil => exact h
  | cons n l ih =>
    obtain ⟨hn, hl⟩ := List.nodup_cons.1 hl
    rw [forEach_cons]
    cases ho : overdrawn s with
    | false =>
      rw [shedPortStep_of_within ho]
      exact ih hl h fun m hm => hx m (List.mem_cons_of_mem _ hm)
    | true =>
      rw [shedPortStep_of_overdrawn ho]
      refine ih hl (h.displacePort (hx n List.mem_cons_self)) fun m hm => ?_
      rw [(displacePort_others (fun he : m = n => hn (he ▸ hm)) false s).1]
      exact hx m (List.mem_cons_of_mem _ hm)

theorem shedCardStep (h : WaitsLaw o d s) (c : Slot) : WaitsLaw o d (shedCardStep c s) := by
  unfold Machine.shedCardStep
  split
  · exact h.shedCard
  · exact h

end WaitsLaw

theorem portsWhere_eq_filter (s : State) (test : PortIx → PortRec → Bool) :
    portsWhere s test = (List.finRange 672).filter fun n => test n (s.port n) := by
  have hzip : (List.finRange 672).zip s.ports.toList = (List.finRange 672).map fun n => (n, s.port n) := by
    refine List.ext_getElem (by simp) fun i _ _ => ?_
    simp [State.port]
  rw [portsWhere, hzip, List.filterMap_map, ← List.filterMap_eq_filter]
  rfl

theorem portsWhere_nodup (s : State) (test : PortIx → PortRec → Bool) : (portsWhere s test).Nodup := by
  rw [portsWhere_eq_filter]
  exact (List.nodup_finRange 672).filter _

theorem shedPorts_power {s : State} {n : PortIx} (h : n ∈ shedPorts s) : (s.port n).power = .admitted := by
  obtain ⟨k, -, hn⟩ := List.mem_flatMap.1 h
  rw [List.mem_reverse, mem_portsWhere] at hn
  exact of_decide_eq_true (Bool.and_eq_true_iff.1 hn).1

theorem shedPorts_nodup (s : State) : (shedPorts s).Nodup := by
  refine List.nodup_flatMap.2 ⟨fun k _ => List.nodup_reverse.2 (portsWhere_nodup s _), ?_⟩
  refine (List.nodup_reverse.2 (List.nodup_finRange 8)).imp fun {j k} hne n hj hk => hne ?_
  have hj := mem_portsWhere.1 (List.mem_reverse.1 hj)
  have hk := mem_portsWhere.1 (List.mem_reverse.1 hk)
  have hj := of_decide_eq_true (Bool.and_eq_true_iff.1 hj).2
  have hk := of_decide_eq_true (Bool.and_eq_true_iff.1 hk).2
  exact hj.symm.trans hk

namespace WaitsLaw

variable {o d : Prop} {s : State}

/-- Whatever a loop's every turn keeps, the loop keeps. -/
theorem forEach {α : Type} {act : α → State → State} (ha : ∀ x t, WaitsLaw o d t → WaitsLaw o d (act x t)) (l : List α)
    (h : WaitsLaw o d s) : WaitsLaw o d (Machine.forEach l act s) := by
  induction l generalizing s with
  | nil => exact h
  | cons x l ih => exact ih (ha x s h)

theorem shedPass (h : WaitsLaw o d s) : WaitsLaw o d (shedPass s) := by
  have hports := h.forEach_shedPortStep (shedPorts_nodup s) fun n hn => shedPorts_power hn
  exact (forEach (fun c _ ht => ht.shedCardStep c) _ hports).reason _

/-! ## Budget changes (R47, R48) -/

/-- A change of the Power Budget Unit's record that leaves the wait list, the admitted draw and the cap. -/
theorem setSupply (h : WaitsLaw o d s) {g : PowerBudget → PowerBudget} {t : State}
    (hg : (g s.power).waitList = s.power.waitList ∧ (g s.power).admitted = s.power.admitted ∧ (g s.power).cap = s.power.cap)
    (ht : t = { s with power := g s.power, attn := t.attn }) : WaitsLaw o d t := by
  obtain ⟨hlist, hadmitted, hcap⟩ := hg
  have hp : t.power = g s.power := by rw [ht]
  have hports : t.ports = s.ports := by rw [ht]
  have hcards : t.cards = s.cards := by rw [ht]
  have hfacts : FactsKept s t := ⟨fun n => by rw [port_of_ports hports], fun n => by rw [port_of_ports hports],
    fun n => by rw [port_of_ports hports], fun c => by rw [card_of_cards hcards], fun c => by rw [card_of_cards hcards]⟩
  refine ⟨WaitsNow.of_facts hfacts (h.waits.of_records (by rw [hp, hlist]) (by rw [hp, hadmitted]) hports), fun n => ?_⟩
  exact (h.holds n).congr (by rw [port_of_ports hports]) (by rw [port_of_ports hports]) (by rw [port_of_ports hports])
    (by rw [hp, hcap])

theorem budgetFollows (before : State) (h : WaitsLaw o d s) : WaitsLaw o d (budgetFollows before s) := by
  unfold Machine.budgetFollows
  split
  · split
    · exact h.shedPass
    · exact h
  · split
    · exact h.restorePass
    · exact h

theorem budgetChange (h : WaitsLaw o d s) (g : PowerBudget → PowerBudget)
    (hg : (g s.power).waitList = s.power.waitList ∧ (g s.power).admitted = s.power.admitted ∧ (g s.power).cap = s.power.cap) :
    WaitsLaw o d (budgetChange g s) := by
  rw [budgetChange_eq]
  exact (h.setSupply hg (budgetSet_eq g s)).budgetFollows s

/-! ## The thermal cap (R56 to R58) -/

/-- The law at a new cap, once every port's hold is as the new cap wants it. -/
theorem withClaims (h : WaitsNow o d s) (l : List ThermalClaim) (c : Nat) :
    WaitsNow o d (s.modPower fun p => { p with claims := l, cap := c }) :=
  WaitsNow.of_facts ((FactsKept.refl s).power _) (h.of_records rfl rfl rfl)

end WaitsLaw

/-- From s to t the ports of a list have taken a power and a hold; the other ports' stand, and every priority and the cap. -/
structure PortsSet (l : List PortIx) (x : PortPower) (hold : Bool) (s t : State) : Prop where
  cap : t.power.cap = s.power.cap
  priority : ∀ n, (t.port n).priority = (s.port n).priority
  power : ∀ n, (t.port n).power = if n ∈ l then x else (s.port n).power
  hold : ∀ n, (t.port n).hold = if n ∈ l then hold else (s.port n).hold

theorem PortsSet.forEach {act : PortIx → State → State} {x : PortPower} {hold : Bool}
    (ha : ∀ n s, PortsSet [n] x hold s (act n s)) (l : List PortIx) (s : State) :
    PortsSet l x hold s (Machine.forEach l act s) := by
  induction l generalizing s with
  | nil => exact ⟨rfl, fun _ => rfl, fun _ => by simp [Machine.forEach], fun _ => by simp [Machine.forEach]⟩
  | cons n l ih =>
    have hn := ha n s
    have hl := ih (act n s)
    rw [forEach_cons]
    refine ⟨hl.cap.trans hn.cap, fun m => (hl.priority m).trans (hn.priority m), fun m => ?_, fun m => ?_⟩
    · rw [hl.power, hn.power]
      by_cases hm : m = n <;> simp [hm]
    · rw [hl.hold, hn.hold]
      by_cases hm : m = n <;> simp [hm]

theorem displacePort_sets (n : PortIx) (hold : Bool) (s : State) : PortsSet [n] .waiting hold s (displacePort n hold s) := by
  obtain ⟨hp, hh, hk⟩ := displacePort_self n hold s
  refine ⟨displacePort_cap n hold s, fun m => ?_, fun m => ?_, fun m => ?_⟩ <;> by_cases hm : m = n
  · rw [hm, hk]
  · exact (displacePort_others hm hold s).2.2
  · simp [hm, hp]
  · simp [hm, (displacePort_others hm hold s).1]
  · simp [hm, hh]
  · simp [hm, (displacePort_others hm hold s).2.1]

theorem setPower_sets (n : PortIx) (x : PortPower) (hold : Bool) (s : State) :
    PortsSet [n] x hold s (setPower n x hold s) := by
  refine ⟨rfl, ((FactsKept.refl s).setPower n x hold).priority, fun m => ?_, fun m => ?_⟩ <;> by_cases hm : m = n
  · simp [hm, setPower]
  · simp [hm, setPower_port_other hm]
  · simp [hm, setPower]
  · simp [hm, setPower_port_other hm]

/-- A port's hold and power are as a cap wants them (R1, R56). -/
def HeldBy (c : Nat) (r : PortRec) : Prop :=
  (r.hold = true ↔ r.power = .waiting ∧ c ≤ r.priority.val) ∧ (r.power = .admitted → r.priority.val < c)

theorem holdAt_iff {s : State} {n : PortIx} : HoldAt s n ↔ HeldBy s.power.cap (s.port n) := Iff.rfl

theorem mem_portsAtCap {s : State} {c : Nat} {x : PortPower} {n : PortIx} :
    n ∈ portsAtCap s c x ↔ (s.port n).power = x ∧ c ≤ (s.port n).priority.val := by
  simp [portsAtCap, mem_portsWhere]

/-- The Admitted ports at or above a cap are displaced (R57). -/
def capDisplaced (c : Nat) (s : State) : State := forEach (portsAtCap s c .admitted) (fun n => displacePort n true) s

/-- The Waiting ports at or above a cap take the thermal hold (R57). -/
def capHeld (c : Nat) (s : State) : State := forEach (portsAtCap s c .waiting) (fun n s => setPower n .waiting true s) s

/-- The Waiting ports below a cap lose the thermal hold (R58). -/
def capFreed (c : Nat) (s : State) : State :=
  forEach (portsWhere s fun _ r => r.power == .waiting && r.priority.val < c) (fun n s => setPower n .waiting false s) s

theorem capFell_eq (c : Nat) (s : State) : capFell c s =
    if (portsAtCap s c .admitted).isEmpty then capHeld c (capDisplaced c s) else restorePass (capHeld c (capDisplaced c s)) := rfl

theorem capRose_eq (c : Nat) (s : State) : capRose c s = restorePass (capFreed c s) := rfl

namespace WaitsLaw

variable {o d : Prop} {s : State}

theorem forEach_displacePort_waits {l : List PortIx} (hl : l.Nodup) (hold : Bool) (h : WaitsNow o d s)
    (hx : ∀ n ∈ l, (s.port n).power = .admitted) :
    WaitsNow o d (Machine.forEach l (fun n => Machine.displacePort n hold) s) := by
  induction l generalizing s with
  | nil => exact h
  | cons n l ih =>
    obtain ⟨hn, hl⟩ := List.nodup_cons.1 hl
    rw [forEach_cons]
    refine ih hl (displacePort_waits h (hx n List.mem_cons_self) hold) fun m hm => ?_
    rw [(displacePort_others (fun he : m = n => hn (he ▸ hm)) hold s).1]
    exact hx m (List.mem_cons_of_mem _ hm)

theorem forEach_setHold_waits {l : List PortIx} (hold : Bool) (h : WaitsNow o d s)
    (hx : ∀ n ∈ l, (s.port n).power = .waiting) :
    WaitsNow o d (Machine.forEach l (fun n s => setPower n .waiting hold s) s) := by
  induction l generalizing s with
  | nil => exact h
  | cons n l ih =>
    rw [forEach_cons]
    refine ih (WaitsNow.of_facts ((FactsKept.refl s).setPower n _ _) (h.setHold n hold (hx n List.mem_cons_self))) fun m hm => ?_
    by_cases hmn : m = n
    · subst hmn
      simp [setPower]
    · rw [setPower_port_other hmn]
      exact hx m (List.mem_cons_of_mem _ hm)

/-- A fall of the cap makes every hold right that was right at the higher cap (R57). -/
theorem capHeld {c c₀ : Nat} (h : WaitsNow o d s) (hcap : s.power.cap = c) (hc : c ≤ c₀)
    (hold : ∀ n, HeldBy c₀ (s.port n)) : WaitsLaw o d (capHeld c (capDisplaced c s)) := by
  have hwaits := forEach_displacePort_waits (l := portsAtCap s c .admitted) (portsWhere_nodup s _) true h
    fun n hn => (mem_portsAtCap.1 hn).1
  have hout := PortsSet.forEach (fun n s => displacePort_sets n true s) (portsAtCap s c .admitted) s
  unfold Machine.capHeld capDisplaced
  generalize Machine.forEach (portsAtCap s c .admitted) (fun n => Machine.displacePort n true) s = u at hwaits hout ⊢
  have hwaits' := forEach_setHold_waits (l := portsAtCap u c .waiting) true hwaits fun n hn => (mem_portsAtCap.1 hn).1
  have hheld := PortsSet.forEach (fun n s => setPower_sets n .waiting true s) (portsAtCap u c .waiting) u
  generalize Machine.forEach (portsAtCap u c .waiting) (fun n s => setPower n .waiting true s) u = v at hwaits' hheld ⊢
  refine ⟨hwaits', fun n => ?_⟩
  have hn := hold n
  have hcapv : v.power.cap = c := hheld.cap.trans (hout.cap.trans hcap)
  have hprio : (v.port n).priority = (s.port n).priority := (hheld.priority n).trans (hout.priority n)
  have hpower := hheld.power n
  have hholdn := hheld.hold n
  have hpoweru := hout.power n
  have hholdu := hout.hold n
  simp only [mem_portsAtCap, hout.priority] at hpower hholdn hpoweru hholdu
  rw [holdAt_iff, hcapv]
  unfold HeldBy at hn ⊢
  rw [hprio]
  cases hp : (s.port n).power <;> by_cases hle : c ≤ (s.port n).priority.val <;> simp_all
  omega

theorem capFell {c c₀ : Nat} (h : WaitsNow o d s) (hcap : s.power.cap = c) (hc : c ≤ c₀)
    (hold : ∀ n, HeldBy c₀ (s.port n)) : WaitsLaw o d (capFell c s) := by
  rw [capFell_eq]
  split
  · exact capHeld h hcap hc hold
  · exact (capHeld h hcap hc hold).restorePass

/-- A rise of the cap makes every hold right that was right at the lower cap (R58). -/
theorem capFreed {c c₀ : Nat} (h : WaitsNow o d s) (hcap : s.power.cap = c) (hc : c₀ ≤ c)
    (hold : ∀ n, HeldBy c₀ (s.port n)) : WaitsLaw o d (capFreed c s) := by
  have hmem : ∀ n, n ∈ (portsWhere s fun _ r => r.power == .waiting && r.priority.val < c) ↔
      (s.port n).power = .waiting ∧ (s.port n).priority.val < c := fun n => by simp [mem_portsWhere]
  have hwaits := forEach_setHold_waits (l := portsWhere s fun _ r => r.power == .waiting && r.priority.val < c) false h
    fun n hn => ((hmem n).1 hn).1
  have hfree := PortsSet.forEach (fun n s => setPower_sets n .waiting false s)
    (portsWhere s fun _ r => r.power == .waiting && r.priority.val < c) s
  unfold Machine.capFreed
  generalize Machine.forEach (portsWhere s fun _ r => r.power == .waiting && r.priority.val < c)
    (fun n s => setPower n .waiting false s) s = v at hwaits hfree ⊢
  refine ⟨hwaits, fun n => ?_⟩
  have hn := hold n
  have hcapv : v.power.cap = c := hfree.cap.trans hcap
  have hpower := hfree.power n
  have hholdn := hfree.hold n
  simp only [hmem] at hpower hholdn
  rw [holdAt_iff, hcapv]
  unfold HeldBy at hn ⊢
  rw [hfree.priority]
  cases hp : (s.port n).power <;> by_cases hlt : (s.port n).priority.val < c <;> simp_all <;> omega

theorem capRose {c c₀ : Nat} (h : WaitsNow o d s) (hcap : s.power.cap = c) (hc : c₀ ≤ c)
    (hold : ∀ n, HeldBy c₀ (s.port n)) : WaitsLaw o d (capRose c s) :=
  (capFreed h hcap hc hold).restorePass

/-- A change of the thermal claims (R56 to R58). -/
theorem setClaims (h : WaitsLaw o d s) (l : List ThermalClaim) : WaitsLaw o d (setClaims l s) := by
  have hset := withClaims h.waits l (capOf l)
  unfold Machine.setClaims
  dsimp only
  split
  · rename_i hlt
    exact (capFell hset rfl (le_of_lt hlt) h.holds).reason _
  · split
    · rename_i hlt
      exact (capRose hset rfl (le_of_lt hlt) h.holds).reason _
    · rename_i hle hge
      have : capOf l = s.power.cap := by omega
      exact ⟨hset, fun n => (h.holds n).congr rfl rfl rfl this⟩

/-! ## A new priority (R19) -/

/-- The record of a port changes in nothing that eligibility, or the order of a list that holds it, reads. -/
theorem setPort (h : WaitsNow o d s) (n : PortIx) {f : PortRec → PortRec}
    (hf : ∀ r, (f r).intent = r.intent ∧ (f r).license = r.license) (hp : (f (s.port n)).power = (s.port n).power)
    (hk : (s.port n).power = .waiting → (f (s.port n)).priority = (s.port n).priority) : WaitsNow o d (s.modPort n f) :=
  (Waits.modPort h n f hp hk).congr (fun _ => rfl) (fun _ _ => rfl) (fun m => (eligible_modPort hf n m s).symm)
    fun _ _ _ => rfl

end WaitsLaw

theorem modPort_modPort (n : PortIx) (f g : PortRec → PortRec) (s : State) :
    (s.modPort n f).modPort n g = s.modPort n fun r => g (f r) := by
  have hrec : (s.modPort n f).port n = f (s.port n) := modPort_port_same n f s
  unfold State.modPort at hrec ⊢
  rw [hrec, Vector.set_set]

/-- A waiting port takes its new place in the list: it leaves the list, and joins it with its new priority (R19). -/
def replaced (n : PortIx) (prio : Priority) (held : Bool) (s : State) : State :=
  enterWait (.port n) (setPower n .waiting held (leaveWait (.port n) (s.modPort n fun r => { r with priority := prio })))

theorem replaced_eq (n : PortIx) (prio : Priority) (held : Bool) (s : State) : replaced n prio held s =
    enterWait (.port n) (setPower n .waiting held
      ((setPower n .off false (leaveWait (.port n) s)).modPort n fun r => { r with priority := prio })) := by
  have hleft : leaveWait (.port n) (s.modPort n fun r => { r with priority := prio }) =
      (leaveWait (.port n) s).modPort n fun r => { r with priority := prio } := rfl
  unfold replaced setPower
  rw [hleft, modPort_modPort, modPort_modPort, modPort_modPort]

theorem replaced_port (n : PortIx) (prio : Priority) (held : Bool) (s : State) :
    (replaced n prio held s).port n = { s.port n with priority := prio, power := .waiting, hold := held } := by
  simp [replaced, enterWait, setPower, leaveWait]

theorem replaced_port_other {n m : PortIx} (hm : m ≠ n) (prio : Priority) (held : Bool) (s : State) :
    (replaced n prio held s).port m = s.port m := by
  have hset := setPower_port_other hm .waiting held (leaveWait (.port n) (s.modPort n fun r => { r with priority := prio }))
  exact hset.trans (modPort_port_other hm (fun r => { r with priority := prio }) s)

namespace WaitsLaw

variable {o d : Prop} {s : State}

theorem replaced (h : WaitsLaw o d s) {n : PortIx} (hn : (s.port n).power = .waiting) (prio : Priority) {held : Bool}
    (hheld : held = decide (s.power.cap ≤ prio.val)) : WaitsLaw o d (replaced n prio held s) := by
  have hoff := h.waits.leavePort (x := .off) false hn nofun nofun
  have hprio := hoff.modPort n (fun r => { r with priority := prio }) rfl (by simp [setPower])
  have hjoined := hprio.enterPort (n := n) (by simp [setPower]) held (.inl (by simp [setPower]))
  rw [Function.update_idem] at hjoined
  have hjoined := hjoined.updateEligible (h.eligible_of_power (by simp [hn]))
  rw [← replaced_eq] at hjoined
  refine ⟨hjoined.congr (fun _ => rfl) (fun _ _ => rfl) (fun m => (eligible_congr (s := s) (t := Machine.replaced n prio held s) ?_ ?_
      rfl rfl).symm) fun _ _ _ => rfl,
    h.holds.of_port n (holdAt_waiting ?_ ?_) rfl fun m hm => replaced_port_other hm prio held s⟩
  · by_cases hm : m = n
    · rw [hm, replaced_port]
    · rw [replaced_port_other hm]
  · by_cases hm : m = n
    · rw [hm, replaced_port]
    · rw [replaced_port_other hm]
  · rw [replaced_port]
  · rw [atCap, replaced_port]
    exact hheld

/-- An Admitted port whose new priority is at or above the cap is displaced (R19). -/
theorem displaceAtCap (h : WaitsLaw o d s) {n : PortIx} (hn : (s.port n).power = .admitted) {prio : Priority}
    (hcap : s.power.cap ≤ prio.val) :
    WaitsLaw o d (Machine.displacePort n true (s.modPort n fun r => { r with priority := prio })) := by
  have hset := setPort h.waits n (f := fun r => { r with priority := prio }) (fun _ => ⟨rfl, rfl⟩) rfl (by simp [hn])
  refine ⟨displacePort_waits hset (by simp [hn]) true, displacePort_holds true (fun m hm => ?_) (by simpa [atCap] using hcap)⟩
  have hport := modPort_port_other hm (fun r => { r with priority := prio }) s
  exact (h.holds m).congr (by rw [hport]) (by rw [hport]) (by rw [hport]) rfl

theorem changePriority (h : WaitsLaw o d s) (n : PortIx) (prio : Priority) : WaitsLaw o d (changePriority n prio s) := by
  have hset := setPort h.waits n (f := fun r => { r with priority := prio }) (fun _ => ⟨rfl, rfl⟩) rfl
  unfold Machine.changePriority
  dsimp only
  split
  · rename_i hoff
    refine ⟨hset (by simp [hoff]), h.holds.of_port n ?_ rfl fun m hm => modPort_port_other hm _ s⟩
    exact holdAt_off (by simp [hoff]) (by simp [(h.holds n).off_hold hoff])
  · rename_i hn
    have hmoved := h.replaced hn prio rfl
    split
    · exact hmoved
    · exact hmoved.restorePass
  · rename_i hn
    have hset := hset (by simp [hn])
    split
    · rename_i hheld
      exact (h.displaceAtCap hn (by simpa [atCap] using hheld)).restorePass
    · rename_i hheld
      refine ⟨hset, h.holds.of_port n ?_ rfl fun m hm => modPort_port_other hm _ s⟩
      have hfree : (s.port n).hold = false := by
        have := (h.holds n).1
        simpa [hn] using this
      simpa [HoldAt, hn, hfree] using hheld

end WaitsLaw

end Sys2Proof.Machine

/-! PROOFS. The law of the wait list under the bodies of the events: licences, cards, rules, units and the port commands; and the
settling of WaitListFollowsEveryStep (R5, R46, R49). -/

namespace Sys2Proof.Machine

/-! ## Records beside the wait list -/

namespace CoreKept

variable {s t : State}

theorem scanner (f : SensorScanner → SensorScanner) (h : CoreKept s t) : CoreKept s (t.modScanner f) :=
  h.of_records rfl rfl rfl rfl

theorem rule (r : RuleIx) (f : RuleRec → RuleRec) (h : CoreKept s t) : CoreKept s (t.modRule r f) :=
  h.of_records rfl rfl rfl rfl

theorem unit (u : UnitIx) (f : UnitRec → UnitRec) (h : CoreKept s t) : CoreKept s (t.modUnit u f) :=
  h.of_records rfl rfl rfl rfl

theorem recomputeDuty (h : CoreKept s t) : CoreKept s (Machine.recomputeDuty t) := by
  unfold Machine.recomputeDuty
  exact h.scanner _

theorem setBoosts (l : List RuleIx) (h : CoreKept s t) : CoreKept s (Machine.setBoosts l t) :=
  (h.scanner _).recomputeDuty

theorem passTurn (u : UnitIx) (h : CoreKept s t) : CoreKept s (Machine.passTurn u t) := h.scanner _

theorem departUnit (u : UnitIx) (h : CoreKept s t) : CoreKept s (Machine.departUnit u t) := by
  unfold Machine.departUnit
  dsimp only
  split
  · exact (h.unit u _).passTurn u
  · exact h.unit u _

theorem raiseFanFault (u : UnitIx) (detail : Nat) (h : CoreKept s t) : CoreKept s (Machine.raiseFanFault u detail t) :=
  (h.unit u _).raise _

theorem endFanFault (u : UnitIx) (h : CoreKept s t) : CoreKept s (Machine.endFanFault u t) := by
  unfold Machine.endFanFault
  split
  · exact (h.unit u _).clear _ _
  · exact h

theorem fenceCard_before (slot : Slot) (h : CoreKept s t) :
    CoreKept s (Machine.noteRecord ((Machine.setPhase slot .outside t).modCommit fun e =>
      { e with tally := min (e.tally + 1) 255 }).commit.active (fun r => { r with fenced :=
        ((Machine.setPhase slot .outside t).modCommit fun e => { e with tally := min (e.tally + 1) 255 }).commit.tally })
      ((Machine.setPhase slot .outside t).modCommit fun e => { e with tally := min (e.tally + 1) 255 })) :=
  ((h.phase slot _).commit _).noteRecord _ _

end CoreKept

/-- The law does not speak of the pools. -/
theorem WaitsLaw.of_records {o d : Prop} {s t : State} (h : WaitsLaw o d s) (hpw : t.power = s.power) (hp : t.ports = s.ports)
    (hc : t.cards = s.cards) : WaitsLaw o d t := by
  have hfacts : FactsKept s t := ⟨fun n => by rw [port_of_ports hp], fun n => by rw [port_of_ports hp],
    fun n => by rw [port_of_ports hp], fun c => by rw [card_of_cards hc], fun c => by rw [card_of_cards hc]⟩
  exact ⟨WaitsNow.of_facts hfacts (h.waits.of_records (by rw [hpw]) (by rw [hpw]) hp), fun n => (h.holds n).congr
    (by rw [port_of_ports hp]) (by rw [port_of_ports hp]) (by rw [port_of_ports hp]) (by rw [hpw])⟩

namespace WaitsLaw

variable {o d : Prop} {s : State}

/-! ## Licences (R62 to R78) -/

theorem pool (h : WaitsLaw o d s) (i : PoolIx) (f : PoolRec → PoolRec) : WaitsLaw o d (s.modPool i f) :=
  h.of_records rfl rfl rfl

theorem changeBound (h : WaitsLaw o d s) (i : PoolIx) (g : Nat → Nat) : WaitsLaw o d (changeBound i g s) :=
  (h.pool i _).reason _

theorem poolTermClaim (h : WaitsLaw o d s) (i : PoolIx) (x y : PoolState) : WaitsLaw o d (poolTermClaim i x y s) := by
  unfold Machine.poolTermClaim
  split
  · exact h.of_core ((CoreKept.refl s).raise _)
  · exact h.of_core ((CoreKept.refl s).raise _)
  all_goals
    split
    all_goals first | exact h.of_core ((CoreKept.refl s).clear _ _) | exact h

theorem writePool (h : WaitsLaw o d s) (i : PoolIx) (r : PoolRec) : WaitsLaw o d (writePool i r s) := by
  unfold Machine.writePool
  dsimp only
  split
  · exact h.pool i _
  · exact ((h.pool i _).poolTermClaim i _ _).reason _

/-- A change of a port's license. -/
theorem setLicense (h : WaitsLaw o d s) (n : PortIx) (x : License) :
    WaitsLaw o d (Machine.portChange n (fun r => { r with license := x }) s) :=
  h.portChange n _ (fun _ => ⟨rfl, rfl⟩) fun _ => rfl

theorem bindPort (h : WaitsLaw o d s) (n : PortIx) (i : PoolIx) : WaitsLaw o d (bindPort n i s) := by
  unfold Machine.bindPort
  dsimp only
  split
  · exact ((h.changeBound _ _).changeBound i _).setLicense n _
  · exact (h.changeBound i _).setLicense n _

theorem unbindPort (h : WaitsLaw o d s) (n : PortIx) : WaitsLaw o d (unbindPort n s) := by
  unfold Machine.unbindPort
  dsimp only
  split
  · exact (h.changeBound _ _).setLicense n _
  · exact h.setLicense n _

theorem rebindingPass (h : WaitsLaw o d s) : WaitsLaw o d (rebindingPass s) := by
  refine h.forEach (fun n t ht => ?_) _
  unfold autoBind
  split
  · exact ht.bindPort n _
  · exact ht

theorem rebindThenRestore (before : Nat) (h : WaitsLaw o d s) : WaitsLaw o d (rebindThenRestore before s) := by
  unfold Machine.rebindThenRestore
  dsimp only
  split
  · exact h.rebindingPass.restorePass
  · exact h.rebindingPass

theorem applyCredential (c : Credential) (h : WaitsLaw o d s) : WaitsLaw o d (applyCredential c s) := by
  unfold Machine.applyCredential
  dsimp only
  refine rebindThenRestore _ (reason ?_ _)
  split
  · exact forEach (act := fun n => Machine.portChange n fun r => { r with license := .bound c.pool })
      (fun n t ht => ht.setLicense n _) _ (h.writePool _ _)
  · exact h.writePool _ _

theorem poolInstall (pool tier kind : Byte) (capacity hours warn : Half) (check : Word) (h : WaitsLaw o d s) :
    WaitsLaw o d (poolInstall pool tier kind capacity hours warn check s).1 := by
  unfold Machine.poolInstall
  split
  · exact h
  · split
    · exact h
    · dsimp only
      split
      · exact h
      · split
        · exact h
        · split
          · exact h
          · dsimp only
            exact h.applyCredential _

theorem confirmedPoolRevoke (i : PoolIx) (h : WaitsLaw o d s) : WaitsLaw o d (confirmedPoolRevoke i s).1 := by
  unfold Machine.confirmedPoolRevoke
  split
  · exact h
  · have hunbound := forEach (act := Machine.unbindPort) (fun n t ht => ht.unbindPort n) (portsOfPool s i) h
    dsimp only
    exact rebindThenRestore _ ((hunbound.writePool i _).reason _)

theorem countPool (i : PoolIx) (h : WaitsLaw o d s) : WaitsLaw o d (countPool i s) := by
  unfold Machine.countPool
  dsimp only
  split
  · split
    · refine forEach (act := enterGrace i) (fun n t ht => ?_) _ (h.writePool i _)
      unfold enterGrace
      split
      · exact ht.unbindPort n
      · exact ht.setLicense n _
    · exact h.writePool i _
  · exact h

theorem countGrace (n : PortIx) (h : WaitsLaw o d s) : WaitsLaw o d (countGrace n s) := by
  unfold Machine.countGrace
  split
  · split
    · exact h.unbindPort n
    · exact h.setLicense n _
  · exact h
  · exact h

theorem hourTimer (h : WaitsLaw o d s) : WaitsLaw o d (hourTimer s) := by
  have hgrace := forEach (fun n t ht => ht.countGrace n) (portsInGrace s)
    (h.forEach (fun i t ht => ht.countPool i) allPools)
  unfold Machine.hourTimer
  dsimp only
  split
  · exact hgrace.rebindThenRestore _
  · exact hgrace

/-! ## The port commands (R13 to R19) -/

theorem portSetPriority (port : Half) (priority : Byte) (h : WaitsLaw o d s) :
    WaitsLaw o d (portSetPriority port priority s).1 := by
  unfold Machine.portSetPriority
  split
  · exact h
  · exact h
  · split
    · exact h
    · exact h.changePriority _ _

theorem enableSteps (n : PortIx) (named : Option PoolIx) (h : WaitsLaw o d s) : WaitsLaw o d (enableSteps n named s).1 := by
  unfold Machine.enableSteps
  split
  · exact h
  · split
    · exact h.restorePass
    · split
      · exact h
      · exact (h.bindPort n _).restorePass

/-- An enabling sets the priority of a port that is Off, as its intent was Disabled (R14). -/
theorem enablePort (n : PortIx) (named : Option PoolIx) (prio : Option Priority) (h : WaitsLaw o d s) :
    WaitsLaw o d (enablePort n named prio s).1 := by
  unfold Machine.enablePort
  split
  · split
    · split
      · exact h
      · exact h.changePriority n _
    · exact h
  · rename_i hi
    refine enableSteps n named (h.portChange n _ (fun _ => ⟨rfl, rfl⟩) fun hn => absurd (h.eligible_of_power hn) ?_)
    simp [eligible, hi]

theorem portEnable (port : Half) (pool priority : Byte) (h : WaitsLaw o d s) :
    WaitsLaw o d (portEnable port pool priority s).1 := by
  unfold Machine.portEnable
  split
  · exact h
  · split
    · exact h
    · exact h.enablePort _ _ _

theorem portDisable (port : Half) (h : WaitsLaw o d s) : WaitsLaw o d (portDisable port s).1 := by
  have hoff : ∀ n, WaitsLaw o d (Machine.portChange n (fun r => { r with intent := .disabled }) s) := fun n =>
    h.portChange n _ (fun _ => ⟨rfl, rfl⟩) fun _ => rfl
  unfold Machine.portDisable
  split
  · exact h
  · split
    · exact h
    · dsimp only [disablePort]
      split
      · exact (hoff _).restorePass
      · exact hoff _

theorem portReleaseLicense (port : Half) (h : WaitsLaw o d s) : WaitsLaw o d (portReleaseLicense port s).1 := by
  unfold Machine.portReleaseLicense
  split
  · exact h
  · split
    · exact h
    · split
      · exact h
      · dsimp only
        exact (h.unbindPort _).rebindThenRestore _

/-! ## Cards (R24 to R37) -/

theorem card (h : WaitsLaw o d s) (slot : Slot) (f : CardRec → CardRec)
    (hf : ∀ c, (f c).state = c.state ∧ (f c).identity = c.identity) : WaitsLaw o d (s.modCard slot f) :=
  h.of_core ((CoreKept.refl s).card slot f hf)

theorem failCard {slot : Slot} (r : FailureReason) (h : WaitsLaw o d s) (hs : (s.card slot).state = .probing) :
    WaitsLaw o d (failCard slot r s) :=
  h.enters_idle (failCard_enters slot r s) (by rw [hs]; rfl) (by simp [hs]) rfl nofun

/-- A slot that is Empty begins to probe (R24). -/
theorem startProbe {slot : Slot} (attempts : Nat) (h : WaitsLaw o d s) (hs : (s.card slot).state = .empty) :
    WaitsLaw o d (startProbe slot attempts s) :=
  h.enters_idle (startProbe_enters slot attempts s) (by rw [hs]; rfl) (by simp [hs]) rfl nofun

theorem presenceRise (slot : Slot) (h : WaitsLaw o d s) : WaitsLaw o d (presenceRise slot s) := by
  have ht := h.card slot (fun c => { c with presence := true }) fun _ => ⟨rfl, rfl⟩
  unfold Machine.presenceRise
  split
  · exact h
  · dsimp only
    split
    · exact ht.startProbe 0 (by simpa)
    · exact ht

theorem probeTimeout (slot : Slot) (h : WaitsLaw o d s) : WaitsLaw o d (probeTimeout slot s) := by
  unfold Machine.probeTimeout
  split
  · rename_i hp
    split
    · have hcount := (CoreKept.refl s).card slot (fun c => { c with attempts := (s.card slot).attempts + 1 }) fun _ => ⟨rfl, rfl⟩
      exact h.of_core ((hcount.send slot .probe).startTimer slot _)
    · exact h.failCard _ hp.1
  · exact h

end WaitsLaw

/-! ## Operations that raise no draw (R46) -/

namespace DrawFalls

variable {s t : State}

theorem changeBound (i : PoolIx) (g : Nat → Nat) (h : DrawFalls s t) : DrawFalls s (Machine.changeBound i g t) :=
  h.of_power_cards rfl rfl

theorem bindPort (n : PortIx) (i : PoolIx) (h : DrawFalls s t) : DrawFalls s (Machine.bindPort n i t) := by
  unfold Machine.bindPort
  dsimp only
  split
  · exact ((h.changeBound _ _).changeBound i _).portChange n _
  · exact (h.changeBound i _).portChange n _

theorem unbindPort (n : PortIx) (h : DrawFalls s t) : DrawFalls s (Machine.unbindPort n t) := by
  unfold Machine.unbindPort
  dsimp only
  split
  · exact (h.changeBound _ _).portChange n _
  · exact h.portChange n _

theorem autoBind (n : PortIx) (h : DrawFalls s t) : DrawFalls s (Machine.autoBind n t) := by
  unfold Machine.autoBind
  split
  · exact h.bindPort n _
  · exact h

theorem rebindingPass (h : DrawFalls s t) : DrawFalls s (Machine.rebindingPass t) := by
  unfold Machine.rebindingPass
  exact forEach Machine.autoBind (fun n t ht => ht.autoBind n) _ h

theorem tierCheck (slot : Slot) (tier : Nat) (h : DrawFalls s t) : DrawFalls s (Machine.tierCheck slot tier t) := by
  unfold Machine.tierCheck
  dsimp only
  split
  · exact h
  · exact rebindingPass (forEach Machine.unbindPort (fun n t ht => ht.unbindPort n) _ h)

end DrawFalls

namespace WaitsLaw

variable {o d : Prop} {s : State}

theorem tierCheck (slot : Slot) (tier : Nat) (h : WaitsLaw o d s) : WaitsLaw o d (tierCheck slot tier s) := by
  unfold Machine.tierCheck
  dsimp only
  split
  · exact h
  · exact rebindingPass (forEach (act := Machine.unbindPort) (fun n t ht => ht.unbindPort n) _ h)

/-- A card out of service takes an identity. -/
theorem setIdentity {slot : Slot} (x : Option Identity) (h : WaitsLaw o d s) (hs : (s.card slot).state.powered = false) :
    WaitsLaw o d (s.modCard slot fun c => { c with identity := x }) := by
  have hstate : ((s.modCard slot fun c => { c with identity := x }).card slot).state = (s.card slot).state := by simp
  have hother : ∀ c, c ≠ slot → (s.modCard slot fun c => { c with identity := x }).card c = s.card c := fun c hc => by
    rw [modCard_card, if_neg hc.symm]
  have helse : FactsElsewhere slot s (s.modCard slot fun c => { c with identity := x }) :=
    ⟨fun _ => rfl, fun _ => rfl, fun c hc => by rw [hother c hc], fun c hc => by rw [hother c hc]⟩
  have hnone : ∀ t : State, (t.card slot).state = (s.card slot).state → ∀ n, slotOf n = slot → eligible t n = false :=
    fun t ht n hn => eligible_of_out (by rw [cardOf, hn, ht]; exact inService_powered hs)
  refine ⟨WaitsNow.of_elsewhere helse (h.waits.of_records rfl rfl rfl) ?_ (fun _ => ?_) (fun n => ?_) fun _ n hn he => ?_,
    fun n => h.holds n⟩
  · simp only [waitsNow, hstate]
    exact (Function.update_eq_self _ _).symm
  · rw [poweredDraw_of_state (by rw [hstate]; exact hs), ← poweredDraw_of_state hs, Function.update_eq_self]
  · by_cases hn : slotOf n = slot
    · rw [hnone s rfl n hn, hnone _ hstate n hn]
    · exact (helse.eligible hn).symm
  · rw [hnone _ hstate n hn] at he
    cases he

theorem acceptIdent {slot : Slot} (id : Identity) (h : WaitsLaw o d s) (hs : (s.card slot).state = .probing) :
    WaitsLaw o d (acceptIdent slot id s) := by
  have hstop : ((stopTimer slot s).card slot).state = .probing := (((CoreKept.refl s).stopTimer slot).state slot).trans hs
  have hnamed := (h.of_core ((CoreKept.refl s).stopTimer slot)).setIdentity (slot := slot) (some id) (by rw [hstop]; rfl)
  have hchecked := hnamed.tierCheck slot id.tier
  have hstate : ((Machine.tierCheck slot id.tier ((stopTimer slot s).modCard slot fun c => { c with identity := some id })).card
      slot).state = .probing := by
    rw [((DrawFalls.refl _).tierCheck slot id.tier).state]
    simpa using hstop
  unfold Machine.acceptIdent
  dsimp only
  generalize Machine.tierCheck slot id.tier ((stopTimer slot s).modCard slot fun c => { c with identity := some id }) = u
    at hchecked hstate ⊢
  have hplaced : WaitsLaw o d (if (u.card slot).parkClaims.isEmpty then Machine.placeCard slot u else enterCard slot .parked u) := by
    split
    · exact hchecked.placeCard (by rw [hstate]; rfl) (by simp [hstate])
    · exact hchecked.enters_idle (enterCard_enters slot .parked u) (by rw [hstate]; rfl) (by simp [hstate]) rfl nofun
  generalize (if (u.card slot).parkClaims.isEmpty then Machine.placeCard slot u else enterCard slot .parked u) = v
    at hplaced ⊢
  split
  · exact hplaced.restorePass
  · exact hplaced

/-- An Ident in Probing (R26, R27). -/
theorem takeIdent {slot : Slot} (cardType : Half) (portCount tier : Byte) (baseDraw : Half) (h : WaitsLaw o d s)
    (hs : (s.card slot).state = .probing) : WaitsLaw o d (takeIdent slot cardType portCount tier baseDraw s) := by
  unfold Machine.takeIdent
  split
  · exact h.failCard _ hs
  · exact h.acceptIdent _ hs

theorem joinCard {slot : Slot} (h : WaitsLaw o d s) (hs : (s.card slot).state = .admitting) : WaitsLaw o d (joinCard slot s) := by
  have hstop := (CoreKept.refl s).stopTimer slot
  have hcount := (CoreKept.refl (enterCard slot .joined (stopTimer slot s))).card slot (fun c => { c with attempts := 0 })
    fun _ => ⟨rfl, rfl⟩
  have hk := ((enterCard_enters slot .joined (stopTimer slot s)).after_core hstop rfl).then_core hcount rfl
  unfold Machine.joinCard
  exact (h.follows hk ((CoreKept.refl _).cardJoined slot) (by rw [hs]; rfl) rfl).rebindingPass.restorePass

theorem takeReady {slot : Slot} (g : Word) (h : WaitsLaw o d s) (hs : (s.card slot).state = .admitting) :
    WaitsLaw o d (takeReady slot g s) := by
  unfold Machine.takeReady
  split
  · exact h.joinCard hs
  · exact h.of_core ((CoreKept.refl s).send slot _)

theorem admittingTimeout (slot : Slot) (h : WaitsLaw o d s) : WaitsLaw o d (admittingTimeout slot s) := by
  unfold Machine.admittingTimeout
  split
  · rename_i hs
    dsimp only
    split
    · exact (h.enters_released (startProbe_enters slot _ _) hs.1 rfl nofun).restorePass
    · exact (h.enters_released (failCard_enters slot .noReady _) hs.1 rfl nofun).restorePass
  · exact h

theorem restoreIfReleased (slot : Slot) (before : State) (h : WaitsLaw o d s) :
    WaitsLaw o d (restoreIfReleased slot before s) := by
  unfold Machine.restoreIfReleased
  split
  · exact h.restorePass
  · exact h

theorem removal (slot : Slot) (h : WaitsLaw o d s) : WaitsLaw o d (removal slot s) := by
  have hleft := (h.leaveCard (slot := slot) (st := .empty) rfl).law_of_ne rfl nofun
  unfold Machine.removal
  split
  · exact (hleft.card slot (fun c => { c with presence := false, attempts := 0 }) fun _ => ⟨rfl, rfl⟩).restoreIfReleased
      slot s
  · exact h

theorem slotResetBody (slot : Slot) (h : WaitsLaw o d s) : WaitsLaw o d (slotResetBody slot s) := by
  have hdeparted := h.leaveCard (slot := slot) (st := .empty) rfl
  have hleft := hdeparted.law_of_ne rfl nofun
  unfold Machine.slotResetBody
  split
  · exact (hleft.startProbe 0 hdeparted.state).restoreIfReleased slot s
  · split
    · exact h
    · exact (hleft.card slot (fun c => { c with attempts := 0 }) fun _ => ⟨rfl, rfl⟩).restoreIfReleased slot s

/-! ## Rules (R138 to R143) -/

theorem parkClaim (slot : Slot) (rule : RuleIx) (h : WaitsLaw o d s) : WaitsLaw o d (parkClaim slot rule s) := by
  have hclaimed := h.card slot (fun c => { c with parkClaims := addRule rule c.parkClaims }) fun _ => ⟨rfl, rfl⟩
  unfold Machine.parkClaim
  dsimp only
  split
  · exact ((hclaimed.leaveCard (slot := slot) (st := .parked) rfl).law_of_ne rfl nofun).restorePass
  · exact hclaimed

theorem parkWithdraw (slot : Slot) (rule : RuleIx) (h : WaitsLaw o d s) : WaitsLaw o d (parkWithdraw slot rule s) := by
  have hleft := h.card slot (fun c => { c with parkClaims := dropRule rule c.parkClaims }) fun _ => ⟨rfl, rfl⟩
  unfold Machine.parkWithdraw
  dsimp only
  split
  · rename_i hp
    have hp := of_decide_eq_true (Bool.and_eq_true_iff.1 hp).2
    exact (hleft.placeCard (slot := slot) (by rw [hp]; rfl) (by rw [hp]; nofun)).restorePass
  · exact hleft

theorem applyAction (r : RuleIx) (rule : RuleRec) (h : WaitsLaw o d s) : WaitsLaw o d (applyAction r rule s) := by
  unfold Machine.applyAction
  split
  · exact h
  · exact h.of_core ((CoreKept.refl s).setBoosts _)
  · exact h.setClaims _
  · split
    · exact h.parkClaim _ r
    · exact h

theorem withdrawAction (r : RuleIx) (rule : RuleRec) (h : WaitsLaw o d s) : WaitsLaw o d (withdrawAction r rule s) := by
  unfold Machine.withdrawAction
  split
  · exact h
  · exact h.of_core ((CoreKept.refl s).setBoosts _)
  · exact h.setClaims _
  · split
    · exact h.parkWithdraw _ r
    · exact h

theorem beginCondition (r : RuleIx) (rule : RuleRec) (h : WaitsLaw o d s) : WaitsLaw o d (beginCondition r rule s) :=
  (h.of_core ((CoreKept.refl s).raise _)).applyAction r rule

theorem endCondition (r : RuleIx) (rule : RuleRec) (h : WaitsLaw o d s) : WaitsLaw o d (endCondition r rule s) :=
  (h.of_core ((CoreKept.refl s).clear _ _)).withdrawAction r rule

theorem modRule (r : RuleIx) (f : RuleRec → RuleRec) (h : WaitsLaw o d s) : WaitsLaw o d (s.modRule r f) :=
  h.of_records rfl rfl rfl

theorem evaluateRule (r : RuleIx) (h : WaitsLaw o d s) : WaitsLaw o d (evaluateRule r s) := by
  unfold Machine.evaluateRule
  dsimp only
  split
  · unfold ruleClaims
    split
    · exact (h.modRule r _).beginCondition r _
    · exact (h.modRule r _).endCondition r _
    · exact h.modRule r _
    · exact h.modRule r _
  · exact h

theorem endIfHolds (r : RuleIx) (h : WaitsLaw o d s) : WaitsLaw o d (endIfHolds r s) := by
  unfold Machine.endIfHolds
  split
  · exact h.endCondition r _
  · exact h

theorem ruleWrite (rule : Byte) (x : RuleFields) (h : WaitsLaw o d s) : WaitsLaw o d (ruleWrite rule x s).1 := by
  unfold Machine.ruleWrite
  split
  · exact h
  · split
    · exact h
    · dsimp only
      exact (h.endIfHolds _).modRule _ _

theorem ruleDisable (rule : Byte) (h : WaitsLaw o d s) : WaitsLaw o d (ruleDisable rule s).1 := by
  unfold Machine.ruleDisable
  split
  · exact h
  · split
    · exact h
    · dsimp only
      exact (h.endIfHolds _).modRule _ _

/-! ## Units and sensors (R131 to R137) -/

theorem setCounted (i : Fin 6) (rating : Option Nat) (h : WaitsLaw o d s) : WaitsLaw o d (setCounted i rating s) :=
  h.budgetChange _ ⟨rfl, rfl, rfl⟩

theorem reportPsu (u : UnitIx) (rating : Option Nat) (h : WaitsLaw o d s) : WaitsLaw o d (reportPsu u rating s) := by
  unfold Machine.reportPsu
  split
  · exact h.setCounted _ _
  · exact h

theorem reportRating (u : UnitIx) (h : WaitsLaw o d s) : WaitsLaw o d (reportRating u s) := by
  unfold Machine.reportRating
  split
  · split
    · exact h
    · exact h.setCounted _ _
  · exact h

theorem setPowerMode (field : Byte) (h : WaitsLaw o d s) : WaitsLaw o d (setPowerMode field s).1 := by
  unfold Machine.setPowerMode
  split
  · exact h
  · split
    · exact h
    · exact (h.budgetChange _ ⟨rfl, rfl, rfl⟩).reason _

theorem unitPresenceRise (u : UnitIx) (h : WaitsLaw o d s) : WaitsLaw o d (unitPresenceRise u s) := by
  have hstart := h.of_core ((CoreKept.refl s).unit u UnitRec.start)
  unfold Machine.unitPresenceRise
  split
  · exact h
  · dsimp only
    split
    · exact hstart
    · exact (hstart.budgetChange _ ⟨rfl, rfl, rfl⟩).of_core ((CoreKept.refl _).recomputeDuty)

theorem unitPresenceFall (u : UnitIx) (h : WaitsLaw o d s) : WaitsLaw o d (unitPresenceFall u s) := by
  have hgone := h.of_core ((CoreKept.refl s).departUnit u)
  unfold Machine.unitPresenceFall
  split
  · exact h
  · split
    · unfold psuDeparts
      split
      · exact hgone.reportPsu u none
      · exact hgone.of_core ((CoreKept.refl _).clear _ _)
      · exact hgone
      · exact hgone
    · have htrays : WaitsLaw o d (trayLeaves (departUnit u s)) := hgone.budgetChange _ ⟨rfl, rfl, rfl⟩
      exact htrays.of_core (((CoreKept.refl _).raiseFanFault u 2).recomputeDuty)

theorem psuFollows (u : UnitIx) (before : UnitState) (c : ReadClass) (h : WaitsLaw o d s) :
    WaitsLaw o d (psuFollows u before c s) := by
  unfold Machine.psuFollows
  split
  · exact h.reportRating u
  · exact (h.of_core ((CoreKept.refl s).clear _ _)).reportRating u
  · exact (h.of_core ((CoreKept.refl s).raise _)).reportPsu u none
  · exact h.of_core ((CoreKept.refl s).raise _)
  · split
    · exact h.reportRating u
    · exact h
  · exact h

theorem trayFollows_core (u : UnitIx) (before : UnitState) (s : State) : CoreKept s (trayFollows u before s) := by
  unfold trayFollows
  split
  · exact .refl s
  · split
    · exact ((CoreKept.refl s).raiseFanFault u 1).recomputeDuty
    · exact ((CoreKept.refl s).endFanFault u).recomputeDuty
    · exact (CoreKept.refl s).recomputeDuty
    · exact (CoreKept.refl s).recomputeDuty

theorem unitReadComplete (u : UnitIx) (x : UnitReading) (h : WaitsLaw o d s) : WaitsLaw o d (unitReadComplete u x s) := by
  have hread := fun f => h.of_core (((CoreKept.refl s).passTurn u).unit u f)
  unfold Machine.unitReadComplete
  split
  · dsimp only
    split
    · exact (hread _).psuFollows u _ _
    · exact (hread _).of_core (trayFollows_core u _ _)
  · exact h

theorem endRound (h : WaitsLaw o d s) : WaitsLaw o d (endRound s) := by
  unfold Machine.endRound evaluateRules
  refine forEach (act := Machine.evaluateRule) (fun r t ht => ht.evaluateRule r) _ ?_
  exact h.of_core (CoreKept.scanner _ (CoreKept.recomputeDuty (CoreKept.scanner _ (CoreKept.refl s))))

theorem chassisSensorReadComplete (sensor : ChassisSensor) (v : Option Half) (h : WaitsLaw o d s) :
    WaitsLaw o d (chassisSensorReadComplete sensor v s) := by
  unfold Machine.chassisSensorReadComplete
  split
  · unfold recordSensor
    split
    · exact h.of_core ((CoreKept.refl s).scanner _)
    · exact (h.of_core ((CoreKept.refl s).scanner _)).endRound
  · exact h

/-! ## Deeds -/

theorem fenceCard (slot : Slot) (h : WaitsLaw o d s) : WaitsLaw o d (fenceCard slot s) := by
  unfold Machine.fenceCard
  dsimp only
  exact ((h.of_core ((CoreKept.refl s).fenceCard_before slot)).fenceClaim).of_core (CoreKept.refl _).commitFollows

theorem commitTimeout (slot : Slot) (m : CardMsg) (h : WaitsLaw o d s) : WaitsLaw o d (commitTimeout slot m s) := by
  unfold Machine.commitTimeout
  dsimp only
  split
  · exact h.of_core (((CoreKept.refl s).phase slot _).send slot m)
  · exact h.fenceCard slot

theorem settleDeficit (h : WaitsLaw o d s) : WaitsLaw o d (settleDeficit s) := by
  have hset : ∀ b, WaitsLaw o d (s.modPower fun p => { p with deficit := b }) := fun b =>
    h.setSupply (g := fun p => { p with deficit := b }) ⟨rfl, rfl, rfl⟩ rfl
  unfold Machine.settleDeficit
  split
  · exact (hset true).of_core ((CoreKept.refl _).raise _)
  · exact (hset false).of_core ((CoreKept.refl _).clear _ _)
  · exact h
  · exact h

end WaitsLaw

namespace CoreKept

variable {s t : State}

theorem names (l : List (Nat × NameEntry)) (h : CoreKept s t) : CoreKept s (t.setNames l) := h.of_records rfl rfl rfl rfl

theorem loginOnPort (n : PortIx) (name : DevName) (h : CoreKept s t) : CoreKept s (Machine.loginOnPort n name t).1 := by
  have hraise : ∀ l, CoreKept s (raiseLogins n (t.setNames l)) := fun l => (h.names l).port' n _ fun _ => rfl
  unfold Machine.loginOnPort
  split
  · split
    · split <;> exact h
    · split
      · exact h
      · split
        · exact hraise _
        · exact h
    · split <;> exact h
  · split
    · exact h
    · split
      · exact h.raise _
      · exact hraise _

theorem login (slot : Slot) (position : Byte) (name : DevName) (h : CoreKept s t) :
    CoreKept s (Machine.login slot position name t) := by
  unfold Machine.login
  refine send slot _ ?_
  unfold takeLogin
  split
  · exact h
  · split
    · exact h
    · split
      · exact h.loginOnPort _ name
      · exact h

theorem logout (slot : Slot) (position : Byte) (name : DevName) (h : CoreKept s t) :
    CoreKept s (Machine.logout slot position name t) := by
  unfold Machine.logout
  split
  · split
    · exact h.endLogin _ _
    · exact h
  · exact h

theorem query (slot : Slot) (tag : Half) (position : Byte) (x y : DevName) (h : CoreKept s t) :
    CoreKept s (Machine.query slot tag position x y t) := by
  unfold Machine.query
  exact h.send slot _

end CoreKept

namespace WaitsLaw

variable {o d : Prop} {s t : State}

theorem portDeed (h : WaitsLaw o d s) (hd : PortDeed s t) : WaitsLaw o d t := by
  rw [hd.frame]
  exact h.of_records rfl rfl rfl

theorem tableDeed (h : WaitsLaw o d s) (hd : TableDeed s t) : WaitsLaw o d t := by
  cases hd with
  | login slot position name => exact h.of_core ((CoreKept.refl s).login slot position name)
  | logout slot position name => exact h.of_core ((CoreKept.refl s).logout slot position name)
  | commitSetup p => rw [commitSetup_frame]; exact h.of_records rfl rfl rfl
  | arm p armed => cases p <;> exact h.of_records rfl rfl rfl
  | commitWithdraw => rw [commitWithdraw_frame]; exact h.of_records rfl rfl rfl
  | workingClone => rw [workingClone_frame]; exact h.of_records rfl rfl rfl
  | edit e => rw [editWorking_frame]; exact h.of_records rfl rfl rfl
  | namePin name port => rw [namePin_frame]; exact h.of_records rfl rfl rfl
  | nameUnpin name => rw [nameUnpin_frame]; exact h.of_records rfl rfl rfl
  | alarmAcknowledge => rw [alarmAcknowledge_frame]; exact h.of_records rfl rfl rfl
  | alarmAcknowledgeAll => rw [acknowledgeAll_frame]; exact h.of_records rfl rfl rfl
  | setChassisNumber number => rw [setChassisNumber_frame]; exact h.of_records rfl rfl rfl
  | setParameter number value => rw [setParameter_frame]; exact h.of_records rfl rfl rfl
  | uptime => exact h.of_records rfl rfl rfl

theorem ruleEnable (rule : Byte) (h : WaitsLaw o d s) : WaitsLaw o d (ruleEnable rule s).1 := by
  unfold Machine.ruleEnable
  split
  · exact h
  · split
    · exact h
    · split
      · exact h
      · dsimp only
        exact h.modRule _ _

theorem holdTimeout (slot : Slot) (h : WaitsLaw o d s) : WaitsLaw o d (holdTimeout slot s) := by
  unfold Machine.holdTimeout
  split
  · exact h.commitTimeout slot _
  · exact h

theorem resumeTimeout (slot : Slot) (h : WaitsLaw o d s) : WaitsLaw o d (resumeTimeout slot s) := by
  unfold Machine.resumeTimeout
  split
  · exact h.commitTimeout slot _
  · exact h

theorem quietDeed (h : WaitsLaw o d s) (hd : QuietDeed s t) : WaitsLaw o d t := by
  cases hd with
  | presenceRise slot => exact h.presenceRise slot
  | probeTimeout slot => exact h.probeTimeout slot
  | link slot position lit => exact h.of_core ((CoreKept.refl s).takeLink slot position lit)
  | query slot tag position x y => exact h.of_core ((CoreKept.refl s).query slot tag position x y)
  | temperature slot value => exact h.card slot _ fun _ => ⟨rfl, rfl⟩
  | messageLeave slot => exact h.card slot _ fun c => by unfold CardRec.leave; split <;> exact ⟨rfl, rfl⟩
  | holdAck slot g => exact h.of_core ((CoreKept.refl s).holdAck slot g)
  | resumeAck slot g => exact h.of_core ((CoreKept.refl s).resumeAck slot g)
  | holdTimeout slot => exact h.holdTimeout slot
  | resumeTimeout slot => exact h.resumeTimeout slot
  | commitAbort => exact h.of_core (CoreKept.refl s).commitAbort
  | ruleEnable rule => exact h.ruleEnable rule
  | fetched r => exact h.modRule r _
  | scanTimer => exact h.of_core ((CoreKept.refl s).scanner _)

theorem loudDeed (h : WaitsLaw o d s) (hd : LoudDeed s t) : WaitsLaw o d t := by
  cases hd with
  | idle => exact h
  | removal slot => exact h.removal slot
  | slotReset slot => exact h.slotResetBody slot
  | unitPresenceRise u => exact h.unitPresenceRise u
  | unitPresenceFall u => exact h.unitPresenceFall u
  | unitReadComplete u x => exact h.unitReadComplete u x
  | sensorRead sensor v => exact h.chassisSensorReadComplete sensor v
  | setPowerMode field => exact h.setPowerMode field
  | hourTimer => exact h.hourTimer
  | poolInstall => exact h.poolInstall _ _ _ _ _ _ _
  | poolRevoke i => exact h.confirmedPoolRevoke i
  | portEnable port pool priority => exact h.portEnable port pool priority
  | portDisable port => exact h.portDisable port
  | portReleaseLicense port => exact h.portReleaseLicense port
  | portSetPriority port priority => exact h.portSetPriority port priority
  | ruleWrite rule x => exact h.ruleWrite rule x
  | ruleDisable rule => exact h.ruleDisable rule
  | ident slot _ _ _ _ hp => exact h.takeIdent _ _ _ _ hp
  | ready slot g ha => exact h.takeReady g ha
  | admittingTimeout slot => exact h.admittingTimeout slot

/-- Nothing waits and nothing is drawn where every card is Empty and every port Off. -/
theorem cold (hlist : s.power.waitList = []) (hdrawn : s.power.admitted = 0)
    (hports : ∀ n, (s.port n).power = .off ∧ (s.port n).hold = false) (hcards : ∀ c, (s.card c).state = .empty) :
    WaitsLaw o d s := by
  have hnone : ∀ c, poweredDraw s c = 0 := fun c => poweredDraw_of_state (by rw [hcards]; rfl)
  refine ⟨⟨fun c => ?_, fun n => ?_, fun n => ?_, fun _ => ?_, fun _ => ?_, fun _ => ?_⟩, fun n =>
    holdAt_off (hports n).1 (hports n).2⟩
  · simp [hlist, waitsNow, hcards]
  · simp [hlist, (hports n).1]
  · exact iff_of_true (hports n).1 (eligible_of_out (by rw [cardOf, hcards]; rfl))
  · rw [waitListOrdered_iff, hlist]
    exact .nil
  · rw [hlist]
    exact .nil
  · have hparts : ∀ n, admittedPart (portDraw s) s n = 0 := fun n => by simp [admittedPart, (hports n).1]
    rw [drawsWith, hdrawn, funext hnone, funext hparts]
    simp only [List.map_const', List.sum_replicate, smul_zero, add_zero]

theorem coldValues (lines : PresenceLines) (s : State) : WaitsLaw o d (coldValues lines s) := by
  refine cold rfl rfl (fun n => ?_) fun c => ?_
  · simp [Machine.coldValues, State.port, State.reset, PortRec.cold]
  · simp [Machine.coldValues, State.card, State.reset, CardRec.cold]

theorem coldReset (lines : PresenceLines) (s : State) : WaitsLaw o d (coldReset lines s) := by
  unfold Machine.coldReset sampleUnits sampleSlots
  refine forEach (fun u t ht => ?_) _ (forEach (fun slot t ht => ?_) _ (coldValues lines s))
  · split
    · exact ht.unitPresenceRise u
    · exact ht
  · split
    · exact ht.presenceRise slot
    · exact ht

theorem deed (h : WaitsLaw o d s) (hd : Deed s t) : WaitsLaw o d t := by
  cases hd with
  | port hd => exact h.portDeed hd
  | cold lines => exact coldReset lines s
  | quiet hd => exact h.quietDeed hd
  | table hd => exact h.tableDeed hd
  | commit => exact (h.of_core (CoreKept.refl s).confirmedCommit).settleDeficit
  | loud hd => exact (h.loudDeed hd).settleDeficit

end WaitsLaw

end Sys2Proof.Machine

section
open Sys2Proof Sys2Proof.Machine

/-- Settles O58, deed by deed: the law of the wait list, without its order and with it. -/
theorem waitListFollowsEveryStep : Obligations.WaitListFollowsEveryStep := by
  unfold Obligations.WaitListFollowsEveryStep
  refine ⟨fun s t hs h => ?_, fun s t hs h => ?_⟩
  · exact waitsLaw_iff.1 (step_keeps (fun _ _ h => h.of_records rfl rfl rfl) (fun _ _ => WaitsLaw.deed)
      (waitsLaw_iff.2 hs) h)
  · exact (waitsLaw_ordered_iff.1 (step_keeps (fun _ _ h => h.of_records rfl rfl rfl) (fun _ _ => WaitsLaw.deed)
      (waitsLaw_ordered_iff.2 hs) h)).2

end

/-! PROOFS. No event leaves the admitted draw above the allowance (R46): what raises it is admission only, and what lowers the allowance
is followed by a shed pass; and the settling of DrawLawfulEveryStep. -/

namespace Sys2Proof.Machine

/-- Whatever a loop's every turn keeps, the loop keeps. -/
theorem forEach_keeps {P : State → Prop} {α : Type} {act : α → State → State} (ha : ∀ x t, P t → P (act x t)) (l : List α)
    {s : State} (h : P s) : P (forEach l act s) := by
  induction l generalizing s with
  | nil => exact h
  | cons x l ih => exact ih (ha x s h)

/-- From s to t the allowance stands, and a draw within it is still within it. -/
structure KeepsWithin (s t : State) : Prop where
  allowance : allowanceOf t.power = allowanceOf s.power
  within : s.power.admitted ≤ allowanceOf s.power → t.power.admitted ≤ allowanceOf t.power

namespace KeepsWithin

variable {s t u : State}

theorem refl (s : State) : KeepsWithin s s := ⟨rfl, id⟩

theorem trans (h : KeepsWithin s t) (h' : KeepsWithin t u) : KeepsWithin s u :=
  ⟨h'.allowance.trans h.allowance, fun hs => h'.within (h.within hs)⟩

theorem of_power (h : KeepsWithin s t) (hp : u.power = t.power) : KeepsWithin s u :=
  h.trans ⟨by rw [hp], fun ht => by rwa [hp]⟩

theorem falls (h : KeepsWithin s t) (hf : DrawFalls t u) : KeepsWithin s u := by
  have ha := allowanceOf_of_supply hf.supply
  exact h.trans ⟨ha, fun ht => ha ▸ hf.admitted.trans ht⟩

theorem core (h : KeepsWithin s t) (hc : CoreKept t u) : KeepsWithin s u := h.of_power hc.power

theorem stays (h : KeepsWithin s t) (hs : StaysWithin t u) : KeepsWithin s u :=
  h.trans ⟨allowanceOf_of_supply hs.supply, hs.within⟩

theorem power (f : PowerBudget → PowerBudget)
    (hf : ∀ p, allowanceOf (f p) = allowanceOf p ∧ (f p).admitted ≤ p.admitted) (h : KeepsWithin s t) :
    KeepsWithin s (t.modPower f) := by
  obtain ⟨ha, hle⟩ := hf t.power
  exact h.trans ⟨ha, fun ht => (hle.trans ht).trans_eq ha.symm⟩

theorem forEach {α : Type} (act : α → State → State) (ha : ∀ x t, KeepsWithin s t → KeepsWithin s (act x t)) (l : List α)
    (h : KeepsWithin s t) : KeepsWithin s (Machine.forEach l act t) := by
  induction l generalizing t with
  | nil => exact h
  | cons x l ih => exact ih (ha x t h)

theorem reason (r : Reason) (h : KeepsWithin s t) : KeepsWithin s (addReason r t) := h.of_power rfl

theorem restorePass (h : KeepsWithin s t) : KeepsWithin s (Machine.restorePass t) := h.stays (restorePass_staysWithin t)

/-! ### Licences -/

theorem setLicense (n : PortIx) (x : License) (h : KeepsWithin s t) :
    KeepsWithin s (portChange n (fun r => { r with license := x }) t) := h.falls ((DrawFalls.refl t).portChange n _)

theorem unbindPort (n : PortIx) (h : KeepsWithin s t) : KeepsWithin s (Machine.unbindPort n t) :=
  h.falls ((DrawFalls.refl t).unbindPort n)

theorem writePool (i : PoolIx) (r : PoolRec) (h : KeepsWithin s t) : KeepsWithin s (Machine.writePool i r t) :=
  h.of_power (by
    unfold Machine.writePool
    dsimp only
    split
    · rfl
    · unfold poolTermClaim
      split
      · rw [raiseAlarm_eq]; rfl
      · rw [raiseAlarm_eq]; rfl
      all_goals
        split
        all_goals first | rw [endAlarm_eq]; rfl | rfl)

theorem rebindThenRestore (before : Nat) (h : KeepsWithin s t) : KeepsWithin s (Machine.rebindThenRestore before t) := by
  have hpass := h.falls (DrawFalls.refl t).rebindingPass
  unfold Machine.rebindThenRestore
  dsimp only
  split
  · exact hpass.restorePass
  · exact hpass

theorem poolInstall (pool tier kind : Byte) (capacity hours warn : Half) (check : Word) (h : KeepsWithin s t) :
    KeepsWithin s (Machine.poolInstall pool tier kind capacity hours warn check t).1 := by
  unfold Machine.poolInstall
  split
  · exact h
  · split
    · exact h
    · dsimp only
      split
      · exact h
      · split
        · exact h
        · split
          · exact h
          · rename_i c _ _ _ _
            dsimp only [applyCredential]
            refine rebindThenRestore _ (reason _ ?_)
            split
            · exact forEach (fun n => portChange n fun r => { r with license := .bound c.pool }) (fun n u hu => hu.setLicense n _) _
                (h.writePool _ _)
            · exact h.writePool _ _

theorem confirmedPoolRevoke (i : PoolIx) (h : KeepsWithin s t) : KeepsWithin s (Machine.confirmedPoolRevoke i t).1 := by
  unfold Machine.confirmedPoolRevoke
  split
  · exact h
  · have hunbound := forEach Machine.unbindPort (fun n u hu => hu.unbindPort n) (portsOfPool t i) h
    dsimp only
    exact rebindThenRestore _ (reason _ (hunbound.writePool i _))

theorem countPool (i : PoolIx) (h : KeepsWithin s t) : KeepsWithin s (Machine.countPool i t) := by
  unfold Machine.countPool
  dsimp only
  split
  · split
    · refine forEach (enterGrace i) (fun n u hu => ?_) _ (h.writePool i _)
      unfold enterGrace
      split
      · exact hu.unbindPort n
      · exact hu.setLicense n _
    · exact h.writePool i _
  · exact h

theorem countGrace (n : PortIx) (h : KeepsWithin s t) : KeepsWithin s (Machine.countGrace n t) := by
  unfold Machine.countGrace
  split
  · split
    · exact h.unbindPort n
    · exact h.setLicense n _
  · exact h
  · exact h

theorem hourTimer (h : KeepsWithin s t) : KeepsWithin s (Machine.hourTimer t) := by
  have hgrace := forEach Machine.countGrace (fun n u hu => hu.countGrace n) (portsInGrace t)
    (forEach Machine.countPool (fun i u hu => hu.countPool i) allPools h)
  unfold Machine.hourTimer
  dsimp only
  split
  · exact hgrace.rebindThenRestore _
  · exact hgrace

/-! ### The port commands -/

theorem displacePort (n : PortIx) (hold : Bool) (h : KeepsWithin s t) : KeepsWithin s (Machine.displacePort n hold t) :=
  (h.falls ((DrawFalls.refl t).releaseDraw _)).falls (displacePort_drawFalls n hold t)

theorem changePriority (n : PortIx) (prio : Priority) (h : KeepsWithin s t) : KeepsWithin s (Machine.changePriority n prio t) := by
  have hset : KeepsWithin s (t.modPort n fun r => { r with priority := prio }) := h.of_power rfl
  unfold Machine.changePriority
  dsimp only
  split
  · exact hset
  · have hmoved := hset.falls ((((DrawFalls.refl _).leaveWait (.port n)).port n fun r =>
      { r with power := .waiting, hold := decide (t.power.cap ≤ prio.val) }).enterWait (.port n))
    split
    · exact hmoved
    · exact hmoved.restorePass
  · split
    · exact (hset.displacePort n true).restorePass
    · exact hset

theorem portSetPriority (port : Half) (priority : Byte) (h : KeepsWithin s t) :
    KeepsWithin s (Machine.portSetPriority port priority t).1 := by
  unfold Machine.portSetPriority
  split
  · exact h
  · exact h
  · split
    · exact h
    · exact h.changePriority _ _

theorem enablePort (n : PortIx) (named : Option PoolIx) (prio : Option Priority) (h : KeepsWithin s t) :
    KeepsWithin s (Machine.enablePort n named prio t).1 := by
  unfold Machine.enablePort
  split
  · split
    · split
      · exact h
      · exact h.changePriority n _
    · exact h
  · have henabled := h.falls ((DrawFalls.refl t).portChange n fun r =>
      { r with intent := .enabled, priority := prio.getD r.priority })
    unfold enableSteps
    split
    · exact henabled
    · split
      · exact henabled.restorePass
      · split
        · exact henabled
        · exact (henabled.falls ((DrawFalls.refl _).bindPort n _)).restorePass

theorem portEnable (port : Half) (pool priority : Byte) (h : KeepsWithin s t) :
    KeepsWithin s (Machine.portEnable port pool priority t).1 := by
  unfold Machine.portEnable
  split
  · exact h
  · split
    · exact h
    · exact h.enablePort _ _ _

theorem portDisable (port : Half) (h : KeepsWithin s t) : KeepsWithin s (Machine.portDisable port t).1 := by
  have hoff : ∀ n, KeepsWithin s (portChange n (fun r => { r with intent := .disabled }) t) := fun n =>
    h.falls ((DrawFalls.refl t).portChange n _)
  unfold Machine.portDisable
  split
  · exact h
  · split
    · exact h
    · dsimp only [disablePort]
      split
      · exact (hoff _).restorePass
      · exact hoff _

theorem portReleaseLicense (port : Half) (h : KeepsWithin s t) : KeepsWithin s (Machine.portReleaseLicense port t).1 := by
  unfold Machine.portReleaseLicense
  split
  · exact h
  · split
    · exact h
    · split
      · exact h
      · dsimp only
        exact (h.unbindPort _).rebindThenRestore _

/-! ### Cards -/

theorem leaveCard (slot : Slot) (st : CardState) (h : KeepsWithin s t) : KeepsWithin s (Machine.leaveCard slot st t) := by
  have hrelease : KeepsWithin s (releaseCard slot t) := by
    unfold releaseCard
    split
    · exact h.falls ((DrawFalls.refl t).releaseDraw _)
    · split
      · exact h.falls ((DrawFalls.refl t).leaveWait _)
      · exact h
  have hentered : KeepsWithin s (enterCard slot st (releaseCard slot t)) := hrelease.of_power rfl
  exact hentered.falls (DrawFalls.leaveCard slot st t)

theorem restoreIfReleased (slot : Slot) (before : State) (h : KeepsWithin s t) :
    KeepsWithin s (Machine.restoreIfReleased slot before t) := by
  unfold Machine.restoreIfReleased
  split
  · exact h.restorePass
  · exact h

theorem removal (slot : Slot) (h : KeepsWithin s t) : KeepsWithin s (Machine.removal slot t) := by
  have hleft : KeepsWithin s ((Machine.leaveCard slot .empty t).modCard slot fun c => { c with presence := false, attempts := 0 }) :=
    (h.leaveCard slot .empty).of_power rfl
  unfold Machine.removal
  split
  · exact hleft.restoreIfReleased slot t
  · exact h

theorem slotResetBody (slot : Slot) (h : KeepsWithin s t) : KeepsWithin s (Machine.slotResetBody slot t) := by
  have hleft := h.leaveCard slot .empty
  have hprobe : KeepsWithin s (startProbe slot 0 (Machine.leaveCard slot .empty t)) := hleft.of_power rfl
  have hcount : KeepsWithin s ((Machine.leaveCard slot .empty t).modCard slot fun c => { c with attempts := 0 }) :=
    hleft.of_power rfl
  unfold Machine.slotResetBody
  split
  · exact hprobe.restoreIfReleased slot t
  · split
    · exact h
    · exact hcount.restoreIfReleased slot t

theorem failCard (slot : Slot) (r : FailureReason) (h : KeepsWithin s t) : KeepsWithin s (Machine.failCard slot r t) :=
  h.of_power (failCard_enters slot r t).power

theorem startProbe (slot : Slot) (attempts : Nat) (h : KeepsWithin s t) : KeepsWithin s (Machine.startProbe slot attempts t) :=
  h.of_power (startProbe_enters slot attempts t).power

theorem placeCard (slot : Slot) (h : KeepsWithin s t) : KeepsWithin s (Machine.placeCard slot t) := by
  have hentered : KeepsWithin s (enterCard slot .waiting t) := h.of_power rfl
  exact hentered.falls ((DrawFalls.refl _).enterWait _)

theorem takeIdent (slot : Slot) (cardType : Half) (portCount tier : Byte) (baseDraw : Half) (h : KeepsWithin s t) :
    KeepsWithin s (Machine.takeIdent slot cardType portCount tier baseDraw t) := by
  unfold Machine.takeIdent
  split
  · exact h.failCard slot _
  · rename_i id _
    have hnamed : KeepsWithin s ((stopTimer slot t).modCard slot fun c => { c with identity := some id }) := h.of_power rfl
    have hchecked := hnamed.falls ((DrawFalls.refl _).tierCheck slot id.tier)
    have hparked : ∀ u, KeepsWithin s u → KeepsWithin s (enterCard slot .parked u) := fun u hu => hu.of_power rfl
    unfold acceptIdent
    dsimp only
    generalize tierCheck slot id.tier ((stopTimer slot t).modCard slot fun c => { c with identity := some id }) = u
      at hchecked ⊢
    have hplaced : KeepsWithin s (if (u.card slot).parkClaims.isEmpty then Machine.placeCard slot u else enterCard slot .parked u) := by
      split
      · exact hchecked.placeCard slot
      · exact hparked u hchecked
    generalize (if (u.card slot).parkClaims.isEmpty then Machine.placeCard slot u else enterCard slot .parked u) = v
      at hplaced ⊢
    split
    · exact hplaced.restorePass
    · exact hplaced

theorem takeReady (slot : Slot) (g : Word) (h : KeepsWithin s t) : KeepsWithin s (Machine.takeReady slot g t) := by
  unfold Machine.takeReady
  split
  · have hjoined : KeepsWithin s ((enterCard slot .joined (stopTimer slot t)).modCard slot fun c => { c with attempts := 0 }) :=
      h.of_power rfl
    have htold := hjoined.core ((CoreKept.refl _).cardJoined slot)
    unfold joinCard
    exact (htold.falls ((DrawFalls.refl _).portsFollowCard slot t).rebindingPass).restorePass
  · exact h.core ((CoreKept.refl t).send slot _)

theorem admittingTimeout (slot : Slot) (h : KeepsWithin s t) : KeepsWithin s (Machine.admittingTimeout slot t) := by
  have hfree := h.falls ((DrawFalls.refl t).releaseDraw (t.card slot).baseDraw)
  unfold Machine.admittingTimeout
  split
  · dsimp only
    split
    · exact (hfree.startProbe slot _).restorePass
    · exact (hfree.failCard slot _).restorePass
  · exact h

theorem fenceClaim (slot : Slot) (h : KeepsWithin s t) : KeepsWithin s (Machine.fenceClaim slot t) := by
  have hentered : KeepsWithin s (enterCard slot .fenced t) := h.of_power rfl
  unfold Machine.fenceClaim
  split
  · exact (hentered.core ((CoreKept.refl _).raise _)).falls ((DrawFalls.refl _).portsFollowCard slot t)
  · exact h

theorem commitTimeout (slot : Slot) (m : CardMsg) (h : KeepsWithin s t) : KeepsWithin s (Machine.commitTimeout slot m t) := by
  unfold Machine.commitTimeout
  dsimp only
  split
  · exact h.core (((CoreKept.refl t).phase slot _).send slot m)
  · unfold fenceCard
    dsimp only
    exact core (fenceClaim slot (h.core ((CoreKept.refl t).fenceCard_before slot))) (CoreKept.refl _).commitFollows

/-! ### Rules and their claims -/

theorem setClaims (l : List ThermalClaim) (h : KeepsWithin s t) : KeepsWithin s (Machine.setClaims l t) := by
  have hset : KeepsWithin s (t.modPower fun p => { p with claims := l, cap := capOf l }) := h.power _ fun _ => ⟨rfl, le_rfl⟩
  have hhold : ∀ l b u, KeepsWithin s u → KeepsWithin s (Machine.forEach l (fun n s => setPower n .waiting b s) u) := fun l b u hu =>
    forEach (fun n s => setPower n .waiting b s) (fun n v hv => hv.of_power rfl) l hu
  unfold Machine.setClaims
  dsimp only
  split
  · refine reason _ ?_
    unfold capFell
    dsimp only
    have hout := forEach (fun n => Machine.displacePort n true) (fun n u hu => hu.displacePort n true)
      (portsAtCap (t.modPower fun p => { p with claims := l, cap := capOf l }) (capOf l) .admitted) hset
    split
    · exact hhold _ _ _ hout
    · exact (hhold _ _ _ hout).restorePass
  · split
    · refine reason _ ?_
      unfold capRose
      exact (hhold _ _ _ hset).restorePass
    · exact hset

theorem modRule (r : RuleIx) (f : RuleRec → RuleRec) (h : KeepsWithin s t) : KeepsWithin s (t.modRule r f) := h.of_power rfl

theorem applyAction (r : RuleIx) (rule : RuleRec) (h : KeepsWithin s t) : KeepsWithin s (Machine.applyAction r rule t) := by
  unfold Machine.applyAction
  split
  · exact h
  · exact h.core ((CoreKept.refl t).setBoosts _)
  · exact h.setClaims _
  · split
    · rename_i slot _
      have hclaimed : KeepsWithin s (t.modCard slot fun c => { c with parkClaims := addRule r c.parkClaims }) := h.of_power rfl
      unfold parkClaim
      dsimp only
      split
      · exact (hclaimed.leaveCard slot _).restorePass
      · exact hclaimed
    · exact h

theorem withdrawAction (r : RuleIx) (rule : RuleRec) (h : KeepsWithin s t) : KeepsWithin s (Machine.withdrawAction r rule t) := by
  unfold Machine.withdrawAction
  split
  · exact h
  · exact h.core ((CoreKept.refl t).setBoosts _)
  · exact h.setClaims _
  · split
    · rename_i slot _
      have hleft : KeepsWithin s (t.modCard slot fun c => { c with parkClaims := dropRule r c.parkClaims }) := h.of_power rfl
      unfold parkWithdraw
      dsimp only
      split
      · exact (hleft.placeCard slot).restorePass
      · exact hleft
    · exact h

theorem beginCondition (r : RuleIx) (rule : RuleRec) (h : KeepsWithin s t) : KeepsWithin s (Machine.beginCondition r rule t) :=
  (h.core ((CoreKept.refl t).raise _)).applyAction r rule

theorem endCondition (r : RuleIx) (rule : RuleRec) (h : KeepsWithin s t) : KeepsWithin s (Machine.endCondition r rule t) :=
  (h.core ((CoreKept.refl t).clear _ _)).withdrawAction r rule

theorem evaluateRule (r : RuleIx) (h : KeepsWithin s t) : KeepsWithin s (Machine.evaluateRule r t) := by
  unfold Machine.evaluateRule
  dsimp only
  split
  · unfold ruleClaims
    split
    · exact (h.modRule r _).beginCondition r _
    · exact (h.modRule r _).endCondition r _
    · exact h.modRule r _
    · exact h.modRule r _
  · exact h

theorem endIfHolds (r : RuleIx) (h : KeepsWithin s t) : KeepsWithin s (Machine.endIfHolds r t) := by
  unfold Machine.endIfHolds
  split
  · exact h.endCondition r _
  · exact h

theorem ruleWrite (rule : Byte) (x : RuleFields) (h : KeepsWithin s t) : KeepsWithin s (Machine.ruleWrite rule x t).1 := by
  unfold Machine.ruleWrite
  split
  · exact h
  · split
    · exact h
    · dsimp only
      exact (h.endIfHolds _).modRule _ _

theorem ruleDisable (rule : Byte) (h : KeepsWithin s t) : KeepsWithin s (Machine.ruleDisable rule t).1 := by
  unfold Machine.ruleDisable
  split
  · exact h
  · split
    · exact h
    · dsimp only
      exact (h.endIfHolds _).modRule _ _

theorem chassisSensorReadComplete (sensor : ChassisSensor) (v : Option Half) (h : KeepsWithin s t) :
    KeepsWithin s (Machine.chassisSensorReadComplete sensor v t) := by
  unfold Machine.chassisSensorReadComplete
  split
  · unfold recordSensor
    split
    · exact h.core ((CoreKept.refl t).scanner _)
    · have hread := h.core ((CoreKept.refl t).scanner fun x => { x with outlet := x.outlet.record v })
      unfold endRound evaluateRules
      refine forEach Machine.evaluateRule (fun r u hu => hu.evaluateRule r) _ ?_
      exact hread.core (CoreKept.scanner _ (CoreKept.recomputeDuty (CoreKept.scanner _ (CoreKept.refl _))))
  · exact h

end KeepsWithin

/-! ## Budget changes (R47) -/

/-- The draw is within the allowance (R46). -/
def Within (s : State) : Prop := s.power.admitted ≤ allowanceOf s.power

theorem Within.of_power {s t : State} (h : Within s) (hp : t.power = s.power) : Within t := by
  unfold Within
  rwa [hp]

theorem drawLawful_of_core {s t : State} (h : DrawLawful s) (hc : CoreKept s t) : DrawLawful t := by
  rw [drawLawful_iff] at h ⊢
  exact ⟨h.1.of_core hc, Within.of_power h.2 hc.power⟩

theorem DrawLawful.budgetChange_within {s : State} (h : DrawLawful s) {g : PowerBudget → PowerBudget}
    (hg : ∀ p, (g p).admitted = p.admitted) : Within (budgetChange g s) :=
  Machine.budgetChange_within g hg h

theorem setCounted_within {s : State} (h : DrawLawful s) (i : Fin 6) (rating : Option Nat) : Within (setCounted i rating s) := by
  unfold setCounted
  exact h.budgetChange_within fun _ => rfl

theorem trayArrives_within {s : State} (h : DrawLawful s) : Within (trayArrives s) := by
  unfold trayArrives
  exact h.budgetChange_within fun _ => rfl

theorem trayLeaves_within {s : State} (h : DrawLawful s) : Within (trayLeaves s) := by
  unfold trayLeaves
  exact h.budgetChange_within fun _ => rfl

theorem reportPsu_within {s : State} (h : DrawLawful s) (u : UnitIx) (rating : Option Nat) : Within (reportPsu u rating s) := by
  unfold reportPsu
  split
  · exact setCounted_within h _ _
  · exact (drawLawful_iff.1 h).2

theorem reportRating_within {s : State} (h : DrawLawful s) (u : UnitIx) : Within (reportRating u s) := by
  unfold reportRating
  split
  · split
    · exact (drawLawful_iff.1 h).2
    · exact setCounted_within h _ _
  · exact (drawLawful_iff.1 h).2

theorem setPowerMode_within {s : State} (h : DrawLawful s) (field : Byte) : Within (setPowerMode field s).1 := by
  have hs : Within s := (drawLawful_iff.1 h).2
  unfold setPowerMode
  split
  · exact hs
  · split
    · exact hs
    · rename_i mode _ _
      have hset := h.budgetChange_within (g := fun p => { p with mode := mode }) fun _ => rfl
      exact hset.of_power rfl

theorem unitPresenceRise_within {s : State} (h : DrawLawful s) (u : UnitIx) : Within (unitPresenceRise u s) := by
  have hstart := drawLawful_of_core h ((CoreKept.refl s).unit u UnitRec.start)
  unfold unitPresenceRise
  split
  · exact (drawLawful_iff.1 h).2
  · dsimp only
    split
    · exact (drawLawful_iff.1 hstart).2
    · exact (trayArrives_within hstart).of_power ((CoreKept.refl _).recomputeDuty).power

theorem unitPresenceFall_within {s : State} (h : DrawLawful s) (u : UnitIx) : Within (unitPresenceFall u s) := by
  have hgone := drawLawful_of_core h ((CoreKept.refl s).departUnit u)
  have hwithin : Within (departUnit u s) := (drawLawful_iff.1 hgone).2
  unfold unitPresenceFall
  split
  · exact (drawLawful_iff.1 h).2
  · split
    · unfold psuDeparts
      split
      · exact reportPsu_within hgone u none
      · exact hwithin.of_power ((CoreKept.refl _).clear _ _).power
      · exact hwithin
      · exact hwithin
    · exact (trayLeaves_within hgone).of_power (((CoreKept.refl _).raiseFanFault u 2).recomputeDuty).power

theorem unitReadComplete_within {s : State} (h : DrawLawful s) (u : UnitIx) (x : UnitReading) :
    Within (unitReadComplete u x s) := by
  have hread := fun f => drawLawful_of_core h (((CoreKept.refl s).passTurn u).unit u f)
  unfold unitReadComplete
  split
  · dsimp only
    have hread := hread fun r => (r.record x (readClass u s.params.fanFloor x)).move (readClass u s.params.fanFloor x)
    have hwithin := (drawLawful_iff.1 hread).2
    split
    · unfold psuFollows
      split
      · exact reportRating_within hread u
      · exact reportRating_within (drawLawful_of_core hread ((CoreKept.refl _).clear _ _)) u
      · exact reportPsu_within (drawLawful_of_core hread ((CoreKept.refl _).raise _)) u none
      · exact Within.of_power hwithin ((CoreKept.refl _).raise _).power
      · split
        · exact reportRating_within hread u
        · exact hwithin
      · exact hwithin
    · exact Within.of_power hwithin (WaitsLaw.trayFollows_core u _ _).power
  · exact (drawLawful_iff.1 h).2

/-! ## Deeds -/

theorem LoudDeed.within {s t : State} (h : DrawLawful s) (hd : LoudDeed s t) : Within t := by
  have hs : Within s := (drawLawful_iff.1 h).2
  have hkeeps : KeepsWithin s t → Within t := fun hk => hk.within hs
  cases hd with
  | idle => exact hs
  | removal slot => exact hkeeps ((KeepsWithin.refl s).removal slot)
  | slotReset slot => exact hkeeps ((KeepsWithin.refl s).slotResetBody slot)
  | unitPresenceRise u => exact unitPresenceRise_within h u
  | unitPresenceFall u => exact unitPresenceFall_within h u
  | unitReadComplete u x => exact unitReadComplete_within h u x
  | sensorRead sensor v => exact hkeeps ((KeepsWithin.refl s).chassisSensorReadComplete sensor v)
  | setPowerMode field => exact setPowerMode_within h field
  | hourTimer => exact hkeeps (KeepsWithin.refl s).hourTimer
  | poolInstall => exact hkeeps ((KeepsWithin.refl s).poolInstall _ _ _ _ _ _ _)
  | poolRevoke i => exact hkeeps ((KeepsWithin.refl s).confirmedPoolRevoke i)
  | portEnable port pool priority => exact hkeeps ((KeepsWithin.refl s).portEnable port pool priority)
  | portDisable port => exact hkeeps ((KeepsWithin.refl s).portDisable port)
  | portReleaseLicense port => exact hkeeps ((KeepsWithin.refl s).portReleaseLicense port)
  | portSetPriority port priority => exact hkeeps ((KeepsWithin.refl s).portSetPriority port priority)
  | ruleWrite rule x => exact hkeeps ((KeepsWithin.refl s).ruleWrite rule x)
  | ruleDisable rule => exact hkeeps ((KeepsWithin.refl s).ruleDisable rule)
  | ident slot => exact hkeeps ((KeepsWithin.refl s).takeIdent slot _ _ _ _)
  | ready slot g => exact hkeeps ((KeepsWithin.refl s).takeReady slot g)
  | admittingTimeout slot => exact hkeeps ((KeepsWithin.refl s).admittingTimeout slot)

theorem QuietDeed.keepsWithin {s t : State} (hd : QuietDeed s t) : KeepsWithin s t := by
  have hs := KeepsWithin.refl s
  have hfence : ∀ slot m, KeepsWithin s (commitTimeout slot m s) := fun slot m => hs.commitTimeout slot m
  cases hd with
  | presenceRise slot =>
    have hset : KeepsWithin s (s.modCard slot fun c => { c with presence := true }) := hs.of_power rfl
    unfold Machine.presenceRise
    split
    · exact hs
    · dsimp only
      split
      · exact hset.startProbe slot 0
      · exact hset
  | probeTimeout slot =>
    unfold Machine.probeTimeout
    split
    · split
      · exact hs.of_power rfl
      · exact hs.failCard slot _
    · exact hs
  | link slot position lit => exact hs.core ((CoreKept.refl s).takeLink slot position lit)
  | query slot tag position x y => exact hs.core ((CoreKept.refl s).query slot tag position x y)
  | temperature slot value => exact hs.of_power rfl
  | messageLeave slot => exact hs.of_power rfl
  | holdAck slot g => exact hs.core ((CoreKept.refl s).holdAck slot g)
  | resumeAck slot g => exact hs.core ((CoreKept.refl s).resumeAck slot g)
  | holdTimeout slot =>
    unfold Machine.holdTimeout
    split
    · exact hfence slot _
    · exact hs
  | resumeTimeout slot =>
    unfold Machine.resumeTimeout
    split
    · exact hfence slot _
    · exact hs
  | commitAbort => exact hs.core (CoreKept.refl s).commitAbort
  | ruleEnable rule =>
    unfold Machine.ruleEnable
    split
    · exact hs
    · split
      · exact hs
      · split
        · exact hs
        · exact hs.of_power rfl
  | fetched r => exact hs.modRule r _
  | scanTimer => exact hs.core ((CoreKept.refl s).scanner _)

theorem PortDeed.power {s t : State} (hd : PortDeed s t) : t.power = s.power := by rw [hd.frame]

theorem settleDeficit_keepsWithin (s : State) : KeepsWithin s (settleDeficit s) := by
  have hset : ∀ b, KeepsWithin s (s.modPower fun p => { p with deficit := b }) := fun b =>
    (KeepsWithin.refl s).power _ fun _ => ⟨rfl, le_rfl⟩
  unfold settleDeficit
  split
  · exact (hset true).core ((CoreKept.refl _).raise _)
  · exact (hset false).core ((CoreKept.refl _).clear _ _)
  · exact .refl s
  · exact .refl s

theorem coldReset_drawLawful (lines : PresenceLines) (s : State) : DrawLawful (coldReset lines s) := by
  have hrise : ∀ slot t, DrawLawful t → DrawLawful (presenceRise slot t) := fun slot t ht =>
    drawLawful_iff.2 ⟨(drawLawful_iff.1 ht).1.presenceRise slot,
      (QuietDeed.presenceRise slot).keepsWithin.within (drawLawful_iff.1 ht).2⟩
  have hunit : ∀ u t, DrawLawful t → DrawLawful (unitPresenceRise u t) := fun u t ht =>
    drawLawful_iff.2 ⟨(drawLawful_iff.1 ht).1.unitPresenceRise u, unitPresenceRise_within ht u⟩
  have hcold : DrawLawful (coldValues lines s) := drawLawful_iff.2 ⟨WaitsLaw.coldValues lines s, Nat.zero_le _⟩
  unfold coldReset sampleUnits sampleSlots
  refine forEach_keeps (P := DrawLawful) (fun u t ht => ?_) _ (forEach_keeps (P := DrawLawful) (fun slot t ht => ?_) _ hcold)
  · split
    · exact hunit u t ht
    · exact ht
  · split
    · exact hrise slot t ht
    · exact ht

theorem Deed.drawLawful {s t : State} (hs : DrawLawful s) (hd : Deed s t) : DrawLawful t := by
  have hlaw := (drawLawful_iff.1 hs).1.deed hd
  have hwithin : Within s := (drawLawful_iff.1 hs).2
  refine drawLawful_iff.2 ⟨hlaw, ?_⟩
  cases hd with
  | port hd => exact hwithin.of_power hd.power
  | cold lines => exact (drawLawful_iff.1 (coldReset_drawLawful lines s)).2
  | quiet hd => exact hd.keepsWithin.within hwithin
  | table hd => exact hwithin.of_power hd.kept.power
  | commit => exact (settleDeficit_keepsWithin _).within (hwithin.of_power (CoreKept.refl s).confirmedCommit.power)
  | loud hd => exact (settleDeficit_keepsWithin _).within (hd.within hs)

end Sys2Proof.Machine

section
open Sys2Proof Sys2Proof.Machine

/-- Settles O59, deed by deed: the law of the wait list with the sum, and the draw within the allowance. -/
theorem drawLawfulEveryStep : Obligations.DrawLawfulEveryStep := by
  unfold Obligations.DrawLawfulEveryStep
  refine fun s t hs h => step_keeps (I := DrawLawful) (fun s rest h => ?_) (fun _ _ => Deed.drawLawful) hs h
  exact drawLawful_iff.2 ⟨(drawLawful_iff.1 h).1.of_records rfl rfl rfl, (drawLawful_iff.1 h).2⟩

end

/-! PROOFS. The outputs (R22, R56, R59, R132, R137, R161): the fan duty and the scan turn under the operations on the Sensor Scanner,
the deficit state under every deed; and the settling of OutputsFollowEveryStep. -/

namespace Sys2Proof.Machine

/-! ## The fan duty and the scan turn (R132, R137) -/

/-- The Sensor Scanner's outputs are right: the fan duty, and the turn. -/
structure ScannerFollows (s : State) : Prop where
  duty : DutyFollows s
  turn : TurnFollows s

theorem traysRun_iff {s : State} : traysRun s = true ↔
    ∀ u : UnitIx, 6 ≤ u.val → (s.unit u).state = .starting ∨ (s.unit u).state = .online := by
  constructor
  · intro h u hu
    have hu : u = 6 ∨ u = 7 ∨ u = 8 ∨ u = 9 := by
      have hlt := u.isLt
      simp only [Fin.ext_iff]
      omega
    simp only [traysRun, List.all_cons, List.all_nil, Bool.and_true, Bool.and_eq_true, Bool.or_eq_true, beq_iff_eq] at h
    obtain ⟨h6, h7, h8, h9⟩ := h
    rcases hu with rfl | rfl | rfl | rfl <;> assumption
  · intro h
    simp only [traysRun, List.all_cons, List.all_nil, Bool.and_true, Bool.and_eq_true, Bool.or_eq_true, beq_iff_eq]
    exact ⟨h 6 (by decide), h 7 (by decide), h 8 (by decide), h 9 (by decide)⟩

theorem dutyOf_eq_normal {s : State} : dutyOf s = .normal ↔ s.scanner.firstRound = true ∧ s.scanner.boosts = [] ∧
    ∀ u : UnitIx, 6 ≤ u.val → (s.unit u).state = .starting ∨ (s.unit u).state = .online := by
  rw [← traysRun_iff]
  simp [dutyOf, List.isEmpty_iff, and_assoc]

/-- A recomputed duty is right (R137). -/
theorem dutyFollows_recomputeDuty (s : State) : DutyFollows (recomputeDuty s) := by
  refine ⟨dutyOf_eq_normal, ?_⟩
  show dutyPct s (dutyOf s) = _
  cases h : dutyOf s <;> simp [recomputeDuty, h, dutyPct]

/-- The duty speaks of the duty, the first round, the boost claims, the trays' states and the normal duty. -/
theorem DutyFollows.congr {s t : State} (h : DutyFollows s) (hd : t.scanner.duty = s.scanner.duty)
    (hp : t.scanner.fanPct = s.scanner.fanPct) (hf : t.scanner.firstRound = s.scanner.firstRound)
    (hb : t.scanner.boosts = s.scanner.boosts) (hu : ∀ u : UnitIx, 6 ≤ u.val → (t.unit u).state = (s.unit u).state)
    (hn : t.params.fanNormal = s.params.fanNormal) : DutyFollows t := by
  obtain ⟨hduty, hpct⟩ := h
  refine ⟨?_, by rw [hp, hpct, hd, hn]⟩
  rw [hd, hf, hb, hduty]
  refine and_congr_right fun _ => and_congr_right fun _ => forall_congr' fun u => forall_congr' fun hle => ?_
  rw [hu u hle]

namespace ScannerFollows

variable {s t : State}

theorem of_scanner (h : ScannerFollows s) (hs : t.scanner = s.scanner) (hp : t.params = s.params) : ScannerFollows t := by
  refine ⟨h.duty.congr (by rw [hs]) (by rw [hs]) (by rw [hs]) (by rw [hs]) (fun u _ => by rw [unit_of_scanner hs])
    (by rw [hp]), fun u hu => ?_⟩
  rw [unit_of_scanner hs]
  exact h.turn u (hs ▸ hu)

theorem of_moves {k : Scope} (h : ScannerFollows s) (hm : Moves k s t) (hk : k.sensors = false) : ScannerFollows t :=
  h.of_scanner (hm.scanner_eq hk) hm.params_eq

/-- A recomputation is right, whatever the duty was. -/
theorem recomputeDuty (h : TurnFollows s) : ScannerFollows (recomputeDuty s) := ⟨dutyFollows_recomputeDuty s, h⟩

theorem setBoosts (h : ScannerFollows s) (l : List RuleIx) : ScannerFollows (setBoosts l s) := recomputeDuty h.turn

theorem modRule (h : ScannerFollows s) (r : RuleIx) (f : RuleRec → RuleRec) : ScannerFollows (s.modRule r f) :=
  h.of_scanner rfl rfl

/-! ### Rules -/

theorem applyAction (h : ScannerFollows s) (r : RuleIx) (rule : RuleRec) : ScannerFollows (applyAction r rule s) := by
  unfold Machine.applyAction
  split
  · exact h
  · exact h.setBoosts _
  · exact h.of_moves (k := .power) (Moves.refl.setClaims _) rfl
  · split
    · exact h.of_moves (k := .power) (Moves.refl.parkClaim _ r) rfl
    · exact h

theorem withdrawAction (h : ScannerFollows s) (r : RuleIx) (rule : RuleRec) : ScannerFollows (withdrawAction r rule s) := by
  unfold Machine.withdrawAction
  split
  · exact h
  · exact h.setBoosts _
  · exact h.of_moves (k := .power) (Moves.refl.setClaims _) rfl
  · split
    · exact h.of_moves (k := .power) (Moves.refl.parkWithdraw _ r) rfl
    · exact h

theorem beginCondition (h : ScannerFollows s) (r : RuleIx) (rule : RuleRec) : ScannerFollows (beginCondition r rule s) :=
  (h.of_moves (k := .power) (Moves.refl.raise _) rfl).applyAction r rule

theorem endCondition (h : ScannerFollows s) (r : RuleIx) (rule : RuleRec) : ScannerFollows (endCondition r rule s) :=
  (h.of_moves (k := .power) (Moves.refl.clear _ _) rfl).withdrawAction r rule

theorem evaluateRule (h : ScannerFollows s) (r : RuleIx) : ScannerFollows (evaluateRule r s) := by
  unfold Machine.evaluateRule
  dsimp only
  split
  · unfold ruleClaims
    split
    · exact (h.modRule r _).beginCondition r _
    · exact (h.modRule r _).endCondition r _
    · exact h.modRule r _
    · exact h.modRule r _
  · exact h

theorem endIfHolds (h : ScannerFollows s) (r : RuleIx) : ScannerFollows (endIfHolds r s) := by
  unfold Machine.endIfHolds
  split
  · exact h.endCondition r _
  · exact h

theorem ruleWrite (h : ScannerFollows s) (rule : Byte) (x : RuleFields) : ScannerFollows (ruleWrite rule x s).1 := by
  unfold Machine.ruleWrite
  split
  · exact h
  · split
    · exact h
    · dsimp only
      exact (h.endIfHolds _).modRule _ _

theorem ruleDisable (h : ScannerFollows s) (rule : Byte) : ScannerFollows (ruleDisable rule s).1 := by
  unfold Machine.ruleDisable
  split
  · exact h
  · split
    · exact h
    · dsimp only
      exact (h.endIfHolds _).modRule _ _

theorem ruleEnable (h : ScannerFollows s) (rule : Byte) : ScannerFollows (ruleEnable rule s).1 := by
  unfold Machine.ruleEnable
  split
  · exact h
  · split
    · exact h
    · split
      · exact h
      · dsimp only
        exact h.modRule _ _

/-! ### The scan round -/

/-- The read that stands next is of a unit that is present (R132). -/
theorem turnFrom_present {n : Nat} {u : UnitIx} (h : turnFrom s n = .unit u) : n ≤ u.val ∧ (s.unit u).state ≠ .absent := by
  unfold turnFrom at h
  split at h
  · rename_i v hv
    cases h
    have := List.find?_some hv
    simpa [isPresent] using this
  · cases h

/-- A turn given to the unit that stands next is right. -/
theorem setTurn (h : DutyFollows s) {n : Nat} : ScannerFollows (s.modScanner fun x => { x with turn := some (turnFrom s n) }) := by
  refine ⟨h.congr rfl rfl rfl rfl (fun _ _ => rfl) rfl, fun u hu => ?_⟩
  have hu : turnFrom s n = .unit u := Option.some.inj hu
  exact (turnFrom_present hu).2

theorem presentSources (h : ScannerFollows s) : ScannerFollows (presentSources s) := by
  unfold Machine.presentSources
  generalize Vector.ofFn (presentSource s) = sources
  exact ⟨h.duty.congr rfl rfl rfl rfl (fun _ _ => rfl) rfl, h.turn⟩

theorem endRound (s : State) : ScannerFollows (endRound s) := by
  have hround : ScannerFollows (Machine.recomputeDuty (s.modScanner fun x => { x with firstRound := true, turn := none })) :=
    recomputeDuty fun u hu => by cases hu
  unfold Machine.endRound evaluateRules
  exact forEach_keeps (fun r t ht => ht.evaluateRule r) _ hround.presentSources

theorem chassisSensorReadComplete (h : ScannerFollows s) (sensor : ChassisSensor) (v : Option Half) :
    ScannerFollows (chassisSensorReadComplete sensor v s) := by
  unfold Machine.chassisSensorReadComplete
  split
  · unfold recordSensor
    split
    · exact ⟨h.duty.congr rfl rfl rfl rfl (fun _ _ => rfl) rfl, fun u hu => by cases hu⟩
    · exact endRound _
  · exact h

/-! ### Units -/

/-- A unit's record changes: the trays' states stand where the unit is a PSU or keeps its state. -/
theorem modUnit_duty (h : DutyFollows s) (u : UnitIx) (f : UnitRec → UnitRec)
    (hu : u.val < 6 ∨ (f (s.unit u)).state = (s.unit u).state) : DutyFollows (s.modUnit u f) := by
  refine h.congr rfl rfl rfl rfl (fun v hv => ?_) rfl
  rw [modUnit_unit]
  split
  · rename_i he
    subst he
    exact hu.resolve_left (by omega)
  · rfl

theorem modUnit_turn (h : TurnFollows s) (u : UnitIx) (f : UnitRec → UnitRec)
    (hu : s.scanner.turn ≠ some (.unit u) ∨ (f (s.unit u)).state ≠ .absent) : TurnFollows (s.modUnit u f) := by
  intro v hv
  rw [modUnit_unit]
  split
  · rename_i he
    subst he
    exact hu.resolve_left fun h => h hv
  · exact h v hv

theorem unitPresenceRise (h : ScannerFollows s) (u : UnitIx) : ScannerFollows (unitPresenceRise u s) := by
  have hturn : TurnFollows (s.modUnit u UnitRec.start) := modUnit_turn h.turn u _ (.inr nofun)
  unfold Machine.unitPresenceRise
  split
  · exact h
  · dsimp only
    split
    · rename_i hpsu
      exact ⟨modUnit_duty h.duty u _ (.inl (by simpa [isPsu] using hpsu)), hturn⟩
    · have harrives : Moves .power (s.modUnit u UnitRec.start) (trayArrives (s.modUnit u UnitRec.start)) :=
        Moves.refl.budgetChange _ fun _ => ⟨rfl, rfl⟩
      refine recomputeDuty fun v hv => ?_
      rw [unit_of_scanner (harrives.scanner_eq rfl)]
      exact hturn v (harrives.scanner_eq rfl ▸ hv)

/-- A unit that goes leaves the turn at a unit that is present (log 12). -/
theorem departUnit_turn (h : TurnFollows s) (u : UnitIx) : TurnFollows (departUnit u s) := by
  unfold departUnit
  dsimp only
  split
  · intro v hv
    exact (turnFrom_present (Option.some.inj hv)).2
  · rename_i hread
    refine fun v hv => ?_
    have hne : v ≠ u := by
      rintro rfl
      have habsent : isPresent s v = false := by simpa [isRead, show s.scanner.turn = some (.unit v) from hv] using hread
      exact h v hv (by simpa [isPresent] using habsent)
    rw [modUnit_unit, if_neg hne.symm]
    exact h v hv

theorem departUnit_duty (h : DutyFollows s) {u : UnitIx} (hu : u.val < 6) : DutyFollows (departUnit u s) := by
  have hgone := modUnit_duty h u UnitRec.depart (.inl hu)
  unfold departUnit
  dsimp only
  split
  · exact hgone.congr rfl rfl rfl rfl (fun _ _ => rfl) rfl
  · exact hgone

theorem raiseFanFault_turn (h : TurnFollows s) (u : UnitIx) (detail : Nat) : TurnFollows (raiseFanFault u detail s) := by
  have hset : TurnFollows (s.modUnit u fun r => { r with fanFault := true }) := by
    refine fun v hv => ?_
    rw [modUnit_unit]
    split
    · rename_i he
      subst he
      exact h _ hv
    · exact h v hv
  have hraise : Moves .power (s.modUnit u fun r => { r with fanFault := true }) (raiseFanFault u detail s) := Moves.refl.raise _
  refine fun v hv => ?_
  rw [unit_of_scanner (hraise.scanner_eq rfl)]
  exact hset v (hraise.scanner_eq rfl ▸ hv)

theorem unitPresenceFall (h : ScannerFollows s) (u : UnitIx) : ScannerFollows (unitPresenceFall u s) := by
  have hturn := departUnit_turn h.turn u
  unfold Machine.unitPresenceFall
  split
  · exact h
  · split
    · rename_i hpsu
      have hgone : ScannerFollows (departUnit u s) := ⟨departUnit_duty h.duty (by simpa [isPsu] using hpsu), hturn⟩
      refine hgone.of_moves (k := .power) ?_ rfl
      unfold psuDeparts
      split
      · exact Moves.refl.reportPsu u none
      · exact Moves.refl.clear _ _
      · exact .refl
      · exact .refl
    · have hleaves : Moves .power (departUnit u s) (trayLeaves (departUnit u s)) := Moves.refl.budgetChange _ fun _ => ⟨rfl, rfl⟩
      refine recomputeDuty (raiseFanFault_turn (fun v hv => ?_) u 2)
      rw [unit_of_scanner (hleaves.scanner_eq rfl)]
      exact hturn v (hleaves.scanner_eq rfl ▸ hv)

theorem endFanFault_turn (h : TurnFollows s) (u : UnitIx) : TurnFollows (endFanFault u s) := by
  have hset : TurnFollows (s.modUnit u fun r => { r with fanFault := false }) := by
    refine fun v hv => ?_
    rw [modUnit_unit]
    split
    · rename_i he
      subst he
      exact h _ hv
    · exact h v hv
  unfold endFanFault
  split
  · have hend : Moves .power (s.modUnit u fun r => { r with fanFault := false })
        (endAlarm .fanFault (unitSubject u) (s.modUnit u fun r => { r with fanFault := false })) := Moves.refl.clear _ _
    refine fun v hv => ?_
    rw [unit_of_scanner (hend.scanner_eq rfl)]
    exact hset v (hend.scanner_eq rfl ▸ hv)
  · exact h

theorem trayFollows {u : UnitIx} {before : UnitState} (hturn : TurnFollows s)
    (hduty : (s.unit u).state = before → DutyFollows s) : ScannerFollows (trayFollows u before s) := by
  unfold Machine.trayFollows
  split
  · rename_i hsame
    exact ⟨hduty hsame, hturn⟩
  · split
    · exact recomputeDuty (raiseFanFault_turn hturn u 1)
    · exact recomputeDuty (endFanFault_turn hturn u)
    · exact recomputeDuty hturn
    · exact recomputeDuty hturn

/-- The turn passes from a unit to one of a higher number. -/
theorem passTurn_turn (s : State) (u : UnitIx) (f : UnitRec → UnitRec) : TurnFollows ((passTurn u s).modUnit u f) := by
  intro v hv
  obtain ⟨hlt, hpresent⟩ := turnFrom_present (Option.some.inj hv)
  have hne : ¬ u = v := by
    rintro rfl
    omega
  rw [modUnit_unit, if_neg hne]
  exact hpresent

theorem unitReadComplete (h : ScannerFollows s) (u : UnitIx) (x : UnitReading) : ScannerFollows (unitReadComplete u x s) := by
  have hpassed : DutyFollows (passTurn u s) := h.duty.congr rfl rfl rfl rfl (fun _ _ => rfl) rfl
  unfold Machine.unitReadComplete
  split
  · dsimp only
    have hturn := passTurn_turn s u fun r => (r.record x (readClass u s.params.fanFloor x)).move
      (readClass u s.params.fanFloor x)
    split
    · rename_i hpsu
      have hread : ScannerFollows _ := ⟨modUnit_duty hpassed u (fun r => (r.record x (readClass u s.params.fanFloor x)).move
        (readClass u s.params.fanFloor x)) (.inl (by simpa [isPsu] using hpsu)), hturn⟩
      exact hread.of_moves (k := .power) (Moves.refl.psuFollows u _ _) rfl
    · refine trayFollows hturn fun hsame => modUnit_duty hpassed u _ (.inr ?_)
      rw [modUnit_unit, if_pos rfl] at hsame
      exact hsame
  · exact h

end ScannerFollows

/-! ## The deficit state (R59) -/

/-- The re-evaluation makes the deficit state right. -/
theorem deficitFollows_settleDeficit (s : State) : DeficitFollows (settleDeficit s) := by
  unfold DeficitFollows settleDeficit
  split
  · rename_i hd hh
    rw [raiseAlarm_eq]
    exact hh.symm
  · rename_i hd hh
    rw [endAlarm_eq]
    exact hh.symm
  · rename_i hd hh
    rw [hd, hh]
  · rename_i hd hh
    rw [hd, hh]

/-- The deficit speaks of the state, the wait list and the holds. -/
theorem DeficitFollows.congr {s t : State} (h : DeficitFollows s) (hd : t.power.deficit = s.power.deficit)
    (hw : t.power.waitList = s.power.waitList) (hp : ∀ n, (t.port n).hold = (s.port n).hold) : DeficitFollows t := by
  simp only [DeficitFollows, deficitHolds, hd, hw, hp] at h ⊢
  exact h

theorem DeficitFollows.of_core {s t : State} (h : DeficitFollows s) (hc : CoreKept s t) : DeficitFollows t :=
  h.congr (by rw [hc.power]) (by rw [hc.power]) hc.portHold

theorem DeficitFollows.of_enters {s t : State} {slot : Slot} {st : CardState} (h : DeficitFollows s)
    (hk : CardEnters slot st s t) : DeficitFollows t :=
  h.of_power_ports (by rw [hk.power]) (by rw [hk.power]) hk.ports

/-- A fence moves no eligibility: its card is in service before and after (R9, R32). -/
theorem fenceClaim_core {slot : Slot} {s : State} (hs : (s.card slot).state = .joined) :
    CoreKept (enterCard slot .fenced s) (fenceClaim slot s) := by
  have hk := (enterCard_enters slot .fenced s).then_core
    ((CoreKept.refl _).raise (plainRaise .cardFault (slotNumber slot) .major 4)) (by rw [raiseAlarm_eq])
  have hsame : ∀ u, FactsKept (raiseAlarm (plainRaise .cardFault (slotNumber slot) .major 4) (enterCard slot .fenced s)) u →
      ∀ n, eligible s n = eligible u n := fun u hu n => by
    rw [hu.eligible]
    have hport : (raiseAlarm (plainRaise .cardFault (slotNumber slot) .major 4) (enterCard slot .fenced s)).port n = s.port n :=
      port_of_ports hk.ports n
    by_cases hn : slotOf n = slot
    · have hid := hk.identity_kept (by simp)
      simp only [eligible, withinCount, CardRec.portCount, cardOf, hn, hid, hk.state, hs, hport, CardState.inService]
    · exact (hk.elsewhere.eligible hn).symm
  unfold fenceClaim
  rw [if_pos hs]
  unfold portsFollowCard
  have hraise := (CoreKept.refl (enterCard slot .fenced s)).raise (plainRaise .cardFault (slotNumber slot) .major 4)
  generalize raiseAlarm (plainRaise .cardFault (slotNumber slot) .major 4) (enterCard slot .fenced s) = v at hsame hraise ⊢
  have hloop : ∀ l u, CoreKept v u → CoreKept v (forEach l (fun n x => reviewServiceable n (serviceable s n)
      (reviewEligible n (eligible s n) (portDraw s n) x)) u) := by
    intro l
    induction l with
    | nil => exact fun u hu => hu
    | cons n l ih =>
      intro u hu
      rw [forEach_cons, reviewEligible_self _ (hsame u hu.facts n)]
      exact ih _ (hu.reviewServiceable n _)
  exact hraise.trans (hloop _ _ (CoreKept.refl v))

theorem DeficitFollows.commitTimeout {s : State} (h : DeficitFollows s) (slot : Slot) (m : CardMsg) :
    DeficitFollows (commitTimeout slot m s) := by
  unfold Machine.commitTimeout
  dsimp only
  split
  · exact h.of_core (((CoreKept.refl s).phase slot _).send slot m)
  · unfold fenceCard
    dsimp only
    have hnoted := h.of_core ((CoreKept.refl s).fenceCard_before slot)
    refine DeficitFollows.of_core ?_ (CoreKept.refl _).commitFollows
    generalize noteRecord _ _ _ = u at hnoted ⊢
    by_cases hj : (u.card slot).state = .joined
    · exact (hnoted.of_enters (enterCard_enters slot .fenced u)).of_core (fenceClaim_core hj)
    · rw [fenceClaim, if_neg hj]
      exact hnoted

theorem QuietDeed.deficit {s t : State} (hd : QuietDeed s t) (h : DeficitFollows s) : DeficitFollows t := by
  cases hd with
  | presenceRise slot =>
    have hset := h.of_core ((CoreKept.refl s).card slot (fun c => { c with presence := true }) fun _ => ⟨rfl, rfl⟩)
    unfold Machine.presenceRise
    split
    · exact h
    · dsimp only
      split
      · exact hset.of_enters (startProbe_enters slot 0 _)
      · exact hset
  | probeTimeout slot =>
    unfold Machine.probeTimeout
    split
    · split
      · exact h.of_power_ports rfl rfl rfl
      · exact h.of_enters (failCard_enters slot _ s)
    · exact h
  | link slot position lit => exact h.of_core ((CoreKept.refl s).takeLink slot position lit)
  | query slot tag position x y => exact h.of_core ((CoreKept.refl s).query slot tag position x y)
  | temperature slot value => exact h.of_power_ports rfl rfl rfl
  | messageLeave slot => exact h.of_power_ports rfl rfl rfl
  | holdAck slot g => exact h.of_core ((CoreKept.refl s).holdAck slot g)
  | resumeAck slot g => exact h.of_core ((CoreKept.refl s).resumeAck slot g)
  | holdTimeout slot =>
    unfold Machine.holdTimeout
    split
    · exact h.commitTimeout slot _
    · exact h
  | resumeTimeout slot =>
    unfold Machine.resumeTimeout
    split
    · exact h.commitTimeout slot _
    · exact h
  | commitAbort => exact h.of_core (CoreKept.refl s).commitAbort
  | ruleEnable rule =>
    unfold Machine.ruleEnable
    split
    · exact h
    · split
      · exact h
      · split
        · exact h
        · exact h.of_power_ports rfl rfl rfl
  | fetched r => exact h.of_power_ports rfl rfl rfl
  | scanTimer => exact h.of_power_ports rfl rfl rfl

theorem TableDeed.deficit {s t : State} (hd : TableDeed s t) (h : DeficitFollows s) : DeficitFollows t := by
  cases hd with
  | login slot position name => exact h.of_core ((CoreKept.refl s).login slot position name)
  | logout slot position name => exact h.of_core ((CoreKept.refl s).logout slot position name)
  | commitSetup p => rw [commitSetup_frame]; exact h.of_power_ports rfl rfl rfl
  | arm p armed => cases p <;> exact h.of_power_ports rfl rfl rfl
  | commitWithdraw => rw [commitWithdraw_frame]; exact h.of_power_ports rfl rfl rfl
  | workingClone => rw [workingClone_frame]; exact h.of_power_ports rfl rfl rfl
  | edit e => rw [editWorking_frame]; exact h.of_power_ports rfl rfl rfl
  | namePin name port => rw [namePin_frame]; exact h.of_power_ports rfl rfl rfl
  | nameUnpin name => rw [nameUnpin_frame]; exact h.of_power_ports rfl rfl rfl
  | alarmAcknowledge => rw [alarmAcknowledge_frame]; exact h.of_power_ports rfl rfl rfl
  | alarmAcknowledgeAll => rw [acknowledgeAll_frame]; exact h.of_power_ports rfl rfl rfl
  | setChassisNumber number => rw [setChassisNumber_frame]; exact h.of_power_ports rfl rfl rfl
  | setParameter number value => rw [setParameter_frame]; exact h.of_power_ports rfl rfl rfl
  | uptime => exact h.of_power_ports rfl rfl rfl

/-! ### A cold reset -/

/-- Nothing waits, nothing is admitted, and no deficit is raised. -/
structure NothingDrawn (s : State) : Prop where
  waitList : s.power.waitList = []
  admitted : s.power.admitted = 0
  deficit : s.power.deficit = false

theorem NothingDrawn.of_power {s t : State} (h : NothingDrawn s) (hp : t.power = s.power) : NothingDrawn t :=
  ⟨hp ▸ h.waitList, hp ▸ h.admitted, hp ▸ h.deficit⟩

theorem NothingDrawn.deficitFollows {s : State} (h : NothingDrawn s) : DeficitFollows s := by
  simp [DeficitFollows, deficitHolds, h.waitList, h.deficit]

theorem NothingDrawn.restorePass {s : State} (h : NothingDrawn s) : restorePass s = s := by
  unfold Machine.restorePass
  rw [h.waitList]
  rfl

/-- Where nothing is drawn, no change of the budget has a pass to run (R47). -/
theorem NothingDrawn.trayArrives {s : State} (h : NothingDrawn s) : NothingDrawn (trayArrives s) := by
  have hset : NothingDrawn (budgetSet (fun p => { p with trays := p.trays + 1 }) s) := by
    have hp := budgetSet_power (fun p => { p with trays := p.trays + 1 }) s
    exact ⟨by rw [hp]; exact h.waitList, by rw [hp]; exact h.admitted, by rw [hp]; exact h.deficit⟩
  unfold Machine.trayArrives
  rw [budgetChange_eq]
  unfold budgetFollows
  split
  · rw [if_neg]
    · exact hset
    · rw [Bool.not_eq_true, overdrawn_eq_false, hset.admitted]
      exact Nat.zero_le _
  · split
    · rw [hset.restorePass]
      exact hset
    · exact hset

theorem NothingDrawn.unitPresenceRise {s : State} (h : NothingDrawn s) (u : UnitIx) : NothingDrawn (unitPresenceRise u s) := by
  have hstart : NothingDrawn (s.modUnit u UnitRec.start) := h.of_power rfl
  unfold Machine.unitPresenceRise
  split
  · exact h
  · dsimp only
    split
    · exact hstart
    · exact hstart.trayArrives.of_power rfl

theorem presenceRise_power (slot : Slot) (s : State) : (presenceRise slot s).power = s.power := by
  unfold presenceRise
  split
  · rfl
  · dsimp only
    split <;> rfl

theorem coldReset_deficit (lines : PresenceLines) (s : State) : DeficitFollows (coldReset lines s) := by
  have hcold : NothingDrawn (coldValues lines s) := ⟨rfl, rfl, rfl⟩
  refine NothingDrawn.deficitFollows ?_
  unfold coldReset sampleUnits sampleSlots
  refine forEach_keeps (P := NothingDrawn) (fun u t ht => ?_) _ (forEach_keeps (P := NothingDrawn) (fun slot t ht => ?_) _ hcold)
  · split
    · exact ht.unitPresenceRise u
    · exact ht
  · split
    · exact ht.of_power (presenceRise_power slot t)
    · exact ht

/-! ## Deeds -/

/-- The outputs that every deed keeps (R22, R56, R59, R132, R137, R161). -/
structure OutputsFollow (s : State) : Prop where
  alerts : AlertsFollow s
  power : PowerFollows s
  cap : CapFollows s
  deficit : DeficitFollows s
  scanner : ScannerFollows s

/-- The outputs that the moves of the blocks keep. -/
structure BlocksFollow (s : State) : Prop where
  alerts : AlertsFollow s
  power : PowerFollows s
  cap : CapFollows s

theorem BlocksFollow.moves {k : Scope} {s t : State} (h : BlocksFollow s) (hm : Moves k s t) : BlocksFollow t :=
  ⟨hm.alertsFollow h.alerts, hm.powerFollows h.power, hm.capFollows h.cap⟩

theorem BlocksFollow.of_records {s t : State} (h : BlocksFollow s) (ha : AlertsFollow t) (hc : t.cards = s.cards)
    (hp : t.power = s.power) : BlocksFollow t :=
  ⟨ha, Moves.powerFollows_of_cards h.power hc, Moves.capFollows_of_power h.cap hp⟩

theorem changeMastership_attn (m : Option PortId) (s : State) : (changeMastership m s).attn = s.attn := by
  rw [changeMastership_frame]

/-- A write of a port's attention that drives its line keeps the lines right. -/
theorem AlertsFollow.modAttn {s : State} (h : AlertsFollow s) (p : PortId) {f : PortAttention → PortAttention}
    (hf : ∀ x, (f x).alertLow = (f x).set.meets (f x).mask) : AlertsFollow (s.modAttn p f) := by
  intro q
  rw [modAttn_attention]
  split
  · exact hf _
  · exact h q

/-- A reset port's line is released: its set and its mask are empty (R167). -/
theorem AlertsFollow.resetPort {s : State} (h : AlertsFollow s) (p : PortId) : AlertsFollow (resetPort p s) := by
  have hreleased : AlertsFollow (if isMaster s p then changeMastership none s else s) := by
    split
    · exact h.of_attn (changeMastership_attn none s)
    · exact h
  unfold Machine.resetPort
  refine AlertsFollow.modAttn (AlertsFollow.of_attn hreleased ?_) p fun _ => rfl
  cases p <;> rfl

theorem PortDeed.blocksFollow {s t : State} (hd : PortDeed s t) (h : BlocksFollow s) : BlocksFollow t := by
  have ha : AlertsFollow t := by
    cases hd with
    | port p f => cases p <;> exact h.alerts.of_attn rfl
    | disarm p => exact h.alerts.of_attn (by rw [disarm_frame])
    | mastership m => exact h.alerts.of_attn (changeMastership_attn m s)
    | reset p => exact h.alerts.resetPort p
    | attention p f hf => exact h.alerts.modAttn p hf
  exact h.of_records ha (by rw [hd.frame]) (by rw [hd.frame])

theorem PortDeed.outputsFollow {s t : State} (hd : PortDeed s t) (h : OutputsFollow s) : OutputsFollow t := by
  have hb := hd.blocksFollow ⟨h.alerts, h.power, h.cap⟩
  refine ⟨hb.alerts, hb.power, hb.cap, h.deficit.of_power_ports ?_ ?_ ?_, h.scanner.of_scanner ?_ ?_⟩ <;> rw [hd.frame]

/-! ### Tables -/

theorem AlertsFollow.noteRecord {s : State} (h : AlertsFollow s) (number : Option Half) (g : ResultRec → ResultRec) :
    AlertsFollow (noteRecord number g s) := (Moves.refl (k := .power)).noteRecord number g |>.alertsFollow h

theorem commitWithdraw_alerts {s : State} (h : AlertsFollow s) : AlertsFollow (commitWithdraw s).1 := by
  unfold commitWithdraw
  split
  · exact h
  · exact h
  · exact AlertsFollow.addReason _ _

theorem loginOnPort_alerts {s : State} (h : AlertsFollow s) (n : PortIx) (name : DevName) :
    AlertsFollow (loginOnPort n name s).1 := by
  unfold loginOnPort
  split
  · split
    · split <;> exact h
    · split
      · exact h
      · split
        · exact h.of_attn rfl
        · exact h
    · split <;> exact h
  · split
    · exact h
    · split
      · exact h.raiseAlarm _
      · exact h.of_attn rfl

theorem login_blocks {s : State} (h : BlocksFollow s) (slot : Slot) (position : Byte) (name : DevName) :
    BlocksFollow (login slot position name s) := by
  have htaken : BlocksFollow (takeLogin slot position name s).1 := by
    unfold takeLogin
    split
    · exact h
    · split
      · exact h
      · split
        · exact h.of_records (loginOnPort_alerts h.alerts _ name) (by rw [loginOnPort_frame]) (by rw [loginOnPort_frame])
        · exact h
  exact htaken.moves (k := .power) (Moves.refl.send slot _)

theorem logout_blocks {s : State} (h : BlocksFollow s) (slot : Slot) (position : Byte) (name : DevName) :
    BlocksFollow (logout slot position name s) := by
  unfold logout
  split
  · split
    · rename_i pos e _ _ _
      have hwritten : BlocksFollow (writeLogout pos e s) :=
        h.of_records (h.alerts.of_attn (by rw [writeLogout_eq])) (by rw [writeLogout_eq]) (by rw [writeLogout_eq])
      rw [endLogin_eq]
      refine hwritten.moves (k := .power) (Moves.sendJoined _ ?_)
      exact Moves.refl.port _ _ (fun _ _ => ⟨rfl, rfl⟩) fun _ _ => rfl
    · exact h
  · exact h

theorem acknowledgeEntry_alerts {s : State} (h : AlertsFollow s) (pos : Nat) (e : AlarmEntry) :
    AlertsFollow (acknowledgeEntry pos e s) := by
  unfold acknowledgeEntry
  split
  · split
    · exact AlertsFollow.alarmChanged _ (h.of_attn rfl)
    · exact AlertsFollow.alarmChanged _ (h.of_attn rfl)
  · exact AlertsFollow.alarmChanged _ (h.of_attn rfl)
  · exact h

theorem alarmAcknowledge_alerts {s : State} (h : AlertsFollow s) (position cause subject : Byte) :
    AlertsFollow (alarmAcknowledge position cause subject s).1 := by
  unfold alarmAcknowledge
  split
  · exact h
  · split
    · exact h
    · split
      · exact h
      · split
        · exact h
        · exact acknowledgeEntry_alerts h _ _

theorem alarmAcknowledgeAll_alerts {s : State} (h : AlertsFollow s) : AlertsFollow (alarmAcknowledgeAll s).1 := by
  unfold alarmAcknowledgeAll
  refine forEach_keeps (fun pos t ht => ?_) _ h
  unfold acknowledgeAt
  split
  · exact acknowledgeEntry_alerts ht _ _
  · exact ht

theorem setChassisNumber_alerts {s : State} (h : AlertsFollow s) (number : Word) :
    AlertsFollow (setChassisNumber number s).1 := by
  unfold setChassisNumber
  split
  · exact h
  · split
    · exact h
    · exact AlertsFollow.addReason _ _

theorem TableDeed.blocksFollow {s t : State} (hd : TableDeed s t) (h : BlocksFollow s) : BlocksFollow t := by
  cases hd with
  | login slot position name => exact login_blocks h slot position name
  | logout slot position name => exact logout_blocks h slot position name
  | commitSetup p => rw [commitSetup_frame]; exact h.of_records (h.alerts.of_attn rfl) rfl rfl
  | arm p armed => cases p <;> exact h.of_records (h.alerts.of_attn rfl) rfl rfl
  | commitWithdraw =>
    exact h.of_records (commitWithdraw_alerts h.alerts) (by rw [commitWithdraw_frame]) (by rw [commitWithdraw_frame])
  | workingClone => rw [workingClone_frame]; exact h.of_records (h.alerts.of_attn rfl) rfl rfl
  | edit e => rw [editWorking_frame]; exact h.of_records (h.alerts.of_attn rfl) rfl rfl
  | namePin name port => rw [namePin_frame]; exact h.of_records (h.alerts.of_attn rfl) rfl rfl
  | nameUnpin name => rw [nameUnpin_frame]; exact h.of_records (h.alerts.of_attn rfl) rfl rfl
  | alarmAcknowledge =>
    exact h.of_records (alarmAcknowledge_alerts h.alerts _ _ _) (by rw [alarmAcknowledge_frame])
      (by rw [alarmAcknowledge_frame])
  | alarmAcknowledgeAll =>
    exact h.of_records (alarmAcknowledgeAll_alerts h.alerts) (by rw [acknowledgeAll_frame]) (by rw [acknowledgeAll_frame])
  | setChassisNumber number =>
    exact h.of_records (setChassisNumber_alerts h.alerts number) (by rw [setChassisNumber_frame])
      (by rw [setChassisNumber_frame])
  | setParameter number value => rw [setParameter_frame]; exact h.of_records (h.alerts.of_attn rfl) rfl rfl
  | uptime => exact h.of_records (h.alerts.of_attn rfl) rfl rfl

/-- Set Parameter drives the fans anew; no other write of a table reaches the Sensor Scanner (R137, R165). -/
theorem TableDeed.scannerFollows {s t : State} (hd : TableDeed s t) (h : ScannerFollows s) : ScannerFollows t := by
  cases hd with
  | login slot position name => rw [login_frame]; exact h.of_scanner rfl rfl
  | logout slot position name => rw [logout_frame]; exact h.of_scanner rfl rfl
  | commitSetup p => rw [commitSetup_frame]; exact h.of_scanner rfl rfl
  | arm p armed => cases p <;> exact h.of_scanner rfl rfl
  | commitWithdraw => rw [commitWithdraw_frame]; exact h.of_scanner rfl rfl
  | workingClone => rw [workingClone_frame]; exact h.of_scanner rfl rfl
  | edit e => rw [editWorking_frame]; exact h.of_scanner rfl rfl
  | namePin name port => rw [namePin_frame]; exact h.of_scanner rfl rfl
  | nameUnpin name => rw [nameUnpin_frame]; exact h.of_scanner rfl rfl
  | alarmAcknowledge => rw [alarmAcknowledge_frame]; exact h.of_scanner rfl rfl
  | alarmAcknowledgeAll => rw [acknowledgeAll_frame]; exact h.of_scanner rfl rfl
  | setChassisNumber number => rw [setChassisNumber_frame]; exact h.of_scanner rfl rfl
  | setParameter number value =>
    unfold Machine.setParameter
    split
    · exact h
    · split
      · exact h
      · exact ScannerFollows.recomputeDuty h.turn
  | uptime => exact h.of_scanner rfl rfl

/-! ### Moves of the blocks -/

theorem ScannerFollows.of_power {s t : State} (h : ScannerFollows s) (hm : Moves .power s t) : ScannerFollows t :=
  h.of_moves hm rfl

theorem QuietDeed.scannerFollows {s t : State} (hd : QuietDeed s t) (h : ScannerFollows s) : ScannerFollows t := by
  cases hd with
  | presenceRise slot => exact h.of_power (Moves.refl.presenceRise slot)
  | probeTimeout slot => exact h.of_power (Moves.refl.probeTimeout slot)
  | link slot position lit => exact h.of_power (Moves.refl.takeLink slot position lit)
  | query slot tag position x y => exact h.of_power (Moves.refl.send _ _)
  | temperature slot value => exact h.of_scanner rfl rfl
  | messageLeave slot => exact h.of_scanner rfl rfl
  | holdAck slot g => exact h.of_power (Moves.refl.holdAck slot g)
  | resumeAck slot g => exact h.of_power (Moves.refl.resumeAck slot g)
  | holdTimeout slot => exact h.of_power (Moves.refl.holdTimeout slot)
  | resumeTimeout slot => exact h.of_power (Moves.refl.resumeTimeout slot)
  | commitAbort => exact h.of_power Moves.refl.commitAbort
  | ruleEnable rule => exact h.ruleEnable rule
  | fetched r => exact h.modRule r _
  | scanTimer => exact ScannerFollows.setTurn h.duty

theorem LoudDeed.scannerFollows {s t : State} (hd : LoudDeed s t) (h : ScannerFollows s) : ScannerFollows t := by
  have hmoves : ∀ u, Moves ⟨true, true, false⟩ s u → ScannerFollows u := fun u hm => h.of_moves hm rfl
  cases hd with
  | idle => exact h
  | removal slot => exact h.of_power (Moves.refl.removal slot)
  | slotReset slot => exact h.of_power (Moves.refl.slotResetBody slot)
  | unitPresenceRise u => exact h.unitPresenceRise u
  | unitPresenceFall u => exact h.unitPresenceFall u
  | unitReadComplete u x => exact h.unitReadComplete u x
  | sensorRead sensor v => exact h.chassisSensorReadComplete sensor v
  | setPowerMode field => exact h.of_power (Moves.refl.setPowerMode field)
  | hourTimer => exact hmoves _ (Moves.refl.hourTimer rfl)
  | poolInstall => exact hmoves _ (Moves.refl.poolInstall _ _ _ _ _ _ _ rfl)
  | poolRevoke i => exact hmoves _ (Moves.refl.confirmedPoolRevoke i rfl)
  | portEnable port pool priority => exact hmoves _ (Moves.refl.portEnable port pool priority rfl rfl)
  | portDisable port => exact hmoves _ (Moves.refl.portDisable port rfl)
  | portReleaseLicense port => exact hmoves _ (Moves.refl.portReleaseLicense port rfl)
  | portSetPriority port priority => exact hmoves _ (Moves.refl.portSetPriority port priority rfl)
  | ruleWrite rule x => exact h.ruleWrite rule x
  | ruleDisable rule => exact h.ruleDisable rule
  | ident slot => exact hmoves _ (Moves.refl.takeIdent slot _ _ _ _ rfl)
  | ready slot g => exact hmoves _ (Moves.refl.takeReady slot g rfl)
  | admittingTimeout slot => exact h.of_power (Moves.refl.admittingTimeout slot)

/-! ### A cold reset -/

theorem coldValues_outputs (lines : PresenceLines) (s : State) : OutputsFollow (coldValues lines s) := by
  refine ⟨fun p => ?_, fun slot => ?_, rfl, (⟨rfl, rfl, rfl⟩ : NothingDrawn (coldValues lines s)).deficitFollows,
    ⟨?_, fun u hu => by cases hu⟩⟩
  · cases p <;> rfl
  · simp [coldValues, State.card, State.reset, CardRec.cold, CardState.powered]
  · refine ⟨iff_of_false nofun ?_, rfl⟩
    rintro ⟨hround, -⟩
    cases hround

theorem coldReset_outputs (lines : PresenceLines) (s : State) : OutputsFollow (coldReset lines s) := by
  have hcold := coldValues_outputs lines s
  have hblocks := BlocksFollow.moves ⟨hcold.alerts, hcold.power, hcold.cap⟩ (coldReset_moves lines s)
  refine ⟨hblocks.alerts, hblocks.power, hblocks.cap, coldReset_deficit lines s, ?_⟩
  unfold coldReset sampleUnits sampleSlots
  refine forEach_keeps (P := ScannerFollows) (fun u t ht => ?_) _
    (forEach_keeps (P := ScannerFollows) (fun slot t ht => ?_) _ hcold.scanner)
  · split
    · exact ht.unitPresenceRise u
    · exact ht
  · split
    · exact ht.of_power (Moves.refl.presenceRise slot)
    · exact ht

theorem confirmedCommit_blocks {s : State} (h : BlocksFollow s) : BlocksFollow (confirmedCommit s).1 := by
  obtain ⟨u, hu, he | he⟩ := confirmedCommit_moves s <;> rw [he]
  · exact h.moves hu
  · exact (h.moves hu).of_records ((h.moves hu).alerts.of_attn rfl) rfl rfl

theorem confirmedCommit_scanner {s : State} (h : ScannerFollows s) : ScannerFollows (confirmedCommit s).1 := by
  obtain ⟨u, hu, he | he⟩ := confirmedCommit_moves s .power <;> rw [he]
  · exact h.of_power hu
  · exact (h.of_power hu).of_scanner rfl rfl

theorem settleDeficit_outputs {s : State} (hb : BlocksFollow s) (hs : ScannerFollows s) : OutputsFollow (settleDeficit s) := by
  have hm : Moves .power s (settleDeficit s) := Moves.refl.settleDeficit
  have hb := hb.moves hm
  exact ⟨hb.alerts, hb.power, hb.cap, deficitFollows_settleDeficit s, hs.of_power hm⟩

theorem Deed.outputsFollow {s t : State} (h : OutputsFollow s) (hd : Deed s t) : OutputsFollow t := by
  have hblocks : BlocksFollow s := ⟨h.alerts, h.power, h.cap⟩
  cases hd with
  | port hd => exact hd.outputsFollow h
  | cold lines => exact coldReset_outputs lines s
  | quiet hd =>
    have hb := hblocks.moves hd.moves
    exact ⟨hb.alerts, hb.power, hb.cap, hd.deficit h.deficit, hd.scannerFollows h.scanner⟩
  | table hd =>
    have hb := hd.blocksFollow hblocks
    exact ⟨hb.alerts, hb.power, hb.cap, hd.deficit h.deficit, hd.scannerFollows h.scanner⟩
  | commit => exact settleDeficit_outputs (confirmedCommit_blocks hblocks) (confirmedCommit_scanner h.scanner)
  | loud hd => exact settleDeficit_outputs (hblocks.moves hd.moves) (hd.scannerFollows h.scanner)

end Sys2Proof.Machine

section
open Sys2Proof Sys2Proof.Machine

/-- Settles O54, deed by deed: the moves of the blocks keep the lines and the cap, the Sensor Scanner's operations the duty and the
turn, and the deficit is re-evaluated wherever a body may change its condition. -/
theorem outputsFollowEveryStep : Obligations.OutputsFollowEveryStep := by
  unfold Obligations.OutputsFollowEveryStep
  rintro s t ⟨halerts, hpower, hcap, hdeficit, hduty, hturn⟩ h
  have ht : OutputsFollow t := step_keeps (I := OutputsFollow)
    (fun s rest h => ⟨h.alerts.of_attn rfl, h.power, h.cap, h.deficit, h.scanner.of_scanner rfl rfl⟩)
    (fun _ _ => Deed.outputsFollow) ⟨halerts, hpower, hcap, hdeficit, hduty, hturn⟩ h
  exact ⟨ht.alerts, ht.power, ht.cap, ht.deficit, ht.scanner.duty, ht.scanner.turn⟩

end

/-! PROOFS. The pools' bound counts (R62): what a change of a port's license or of a pool's record makes of them, and the settling of
PoolsLawfulEveryStep. -/

namespace Sys2Proof.Machine

/-! ## The counts -/

/-- A port counts for a pool: its license is Bound or Grace to it (R62). -/
def countsFor (s : State) (i : PoolIx) (n : PortIx) : Nat := if (s.port n).license.pool? = some i then 1 else 0

theorem boundTo_eq_sum (s : State) (i : PoolIx) : boundTo s i = ((List.finRange 672).map (countsFor s i)).sum := by
  have hports : s.ports.toList = (List.finRange 672).map s.port := by
    refine List.ext_getElem (by simp) fun k _ _ => ?_
    simp [State.port]
  have hsum := sum_map_ite_eq_filter (fun n : PortIx => (s.port n).license.pool? = some i) (fun _ => 1) (List.finRange 672)
  unfold boundTo countsFor
  rw [hports, List.countP_map, List.countP_eq_length_filter, hsum]
  simp only [List.map_const', List.sum_replicate, smul_eq_mul, mul_one]
  exact congrArg List.length (List.filter_congr fun n _ => by rw [Bool.eq_iff_iff]; simp)

/-- Ports with the same pools give the same counts. -/
theorem boundTo_congr {s t : State} (h : ∀ n, (t.port n).license.pool? = (s.port n).license.pool?) (i : PoolIx) :
    boundTo t i = boundTo s i := by
  simp only [boundTo_eq_sum, funext fun n => show countsFor t i n = countsFor s i n by simp only [countsFor, h]]

/-- A port whose license changes counts for its new pool and no more for its old one. -/
theorem boundTo_change {s t : State} {n : PortIx} (h : ∀ m, m ≠ n → (t.port m).license.pool? = (s.port m).license.pool?)
    (i : PoolIx) : boundTo t i + countsFor s i n = boundTo s i + countsFor t i n := by
  have := sum_map_update (List.nodup_finRange 672) (List.mem_finRange n) (f := countsFor t i) (g := countsFor s i)
    fun m hm => by simp only [countsFor, h m hm]
  simpa only [boundTo_eq_sum] using this

/-! ## Lists of ports -/

theorem mem_portsOfPool {s : State} {i : PoolIx} {n : PortIx} : n ∈ portsOfPool s i ↔ (s.port n).license.pool? = some i := by
  simp [portsOfPool, mem_portsWhere]

theorem pool?_of_mem_gracePorts {s : State} {i : PoolIx} {n : PortIx} (h : n ∈ gracePorts s i) :
    (s.port n).license.pool? = some i := by
  rw [gracePorts, mem_portsWhere] at h
  split at h
  · rename_i j hours hj
    rw [hj, ← of_decide_eq_true h]
    rfl
  · cases h
  · cases h

theorem pool?_of_mem_boundPorts {s : State} {i : PoolIx} {n : PortIx} (h : n ∈ boundPorts s i) :
    (s.port n).license.pool? = some i := by
  rw [boundPorts, mem_portsWhere] at h
  split at h
  · rename_i j hj
    rw [hj, ← of_decide_eq_true h]
    rfl
  · cases h
  · cases h

/-! ## The law -/

namespace PoolsLawful

variable {s t : State}

/-- The law speaks of the pools and of the pools that the licenses name. -/
theorem congr (h : PoolsLawful s) (hl : t.license.pools = s.license.pools)
    (hp : ∀ n, (t.port n).license.pool? = (s.port n).license.pool?) : PoolsLawful t := by
  intro i
  have hi : t.pool i = s.pool i := by simp only [State.pool, hl]
  rw [hi, boundTo_congr hp]
  exact h i

theorem moves {k : Scope} (h : PoolsLawful s) (hm : Moves k s t) (hk : k.licences = false) : PoolsLawful t :=
  h.congr (by rw [hm.license_eq hk]) fun n => by rw [hm.portLicense_eq hk]

/-- No port counts for a Vacant pool. -/
theorem bound_vacant (h : PoolsLawful s) {i : PoolIx} (hv : (s.pool i).state = .vacant) : (s.pool i).bound = 0 := by
  rw [(h i).2.2 hv]
  rfl

/-- A pool's record is written anew: it keeps the bound count, within the capacity, and is Vacant only if it is empty. -/
theorem writePool (h : PoolsLawful s) (i : PoolIx) {r : PoolRec} (hb : r.bound = boundTo s i) (hc : r.bound ≤ r.capacity)
    (hv : r.state = .vacant → r = PoolRec.vacant) : PoolsLawful (writePool i r s) := by
  have hset : PoolsLawful (s.modPool i fun _ => r) := by
    intro j
    rw [boundTo_congr (s := s) (t := s.modPool i fun _ => r) (fun _ => rfl), modPool_pool]
    split
    · rename_i he
      subst he
      exact ⟨hb, hc, hv⟩
    · exact h j
  unfold Machine.writePool
  dsimp only
  split
  · exact hset
  · exact hset.moves (k := .power) ((Moves.refl.poolTermClaim i _ _).reason _) rfl

/-- What a change of a port's license leads to beside the license itself reaches no license. -/
theorem setLicense_license (n : PortIx) (x : License) (s : State) :
    (portChange n (fun r => { r with license := x }) s).license = s.license ∧
      ∀ m, ((portChange n (fun r => { r with license := x }) s).port m).license = if n = m then x else (s.port m).license := by
  have hm : Moves .power (s.modPort n fun r => { r with license := x }) (portChange n (fun r => { r with license := x }) s) :=
    (Moves.refl.reviewEligible _ _ _).reviewServiceable _ _
  refine ⟨by rw [hm.license_eq rfl]; rfl, fun m => ?_⟩
  rw [hm.portLicense_eq rfl, modPort_port]
  split
  · rfl
  · rfl

/-- A license that names the pool that it named before. -/
theorem setLicense (h : PoolsLawful s) (n : PortIx) {x : License} (hx : x.pool? = (s.port n).license.pool?) :
    PoolsLawful (portChange n (fun r => { r with license := x }) s) := by
  obtain ⟨hl, hp⟩ := setLicense_license n x s
  refine h.congr (by rw [hl]) fun m => ?_
  rw [hp]
  split
  · rename_i he
    rw [hx, he]
  · rfl

/-- The pools' counts once a port has left the pool of its license. -/
def freed (n : PortIx) (s : State) : State :=
  match (s.port n).license.pool? with
  | some old => changeBound old (· - 1) s
  | none => s

theorem freed_ports (n : PortIx) (s : State) : (freed n s).ports = s.ports := by
  unfold freed
  split <;> rfl

theorem freed_pool (n : PortIx) (s : State) (i : PoolIx) :
    (freed n s).pool i = { s.pool i with bound := (s.pool i).bound - countsFor s i n } := by
  unfold freed countsFor
  split
  · rename_i old ho
    rw [ho, changeBound, addReason_pool, modPool_pool]
    by_cases hi : old = i
    · simp [hi]
    · simp [hi]
  · rename_i ho
    simp [ho]

theorem unbindPort_eq (n : PortIx) (s : State) :
    Machine.unbindPort n s = portChange n (fun r => { r with license := .unlicensed }) (freed n s) := rfl

theorem bindPort_eq (n : PortIx) (i : PoolIx) (s : State) : Machine.bindPort n i s =
    portChange n (fun r => { r with license := .bound i }) (Machine.changeBound i (· + 1) (freed n s)) := rfl

/-- A port that leaves its pool is counted there no more (R62). -/
theorem unbindPort (h : PoolsLawful s) (n : PortIx) : PoolsLawful (unbindPort n s) := by
  obtain ⟨hl, hp⟩ := setLicense_license n .unlicensed (freed n s)
  rw [← unbindPort_eq] at hl hp
  intro i
  have hpool : (Machine.unbindPort n s).pool i = { s.pool i with bound := (s.pool i).bound - countsFor s i n } := by
    rw [← freed_pool]
    simp only [State.pool, hl]
  have hcount := boundTo_change (s := s) (t := Machine.unbindPort n s) (n := n) (fun m hm => by
    rw [hp, if_neg (Ne.symm hm), port_of_ports (freed_ports n s)]) i
  have hzero : countsFor (Machine.unbindPort n s) i n = 0 := by simp [countsFor, hp, License.pool?]
  obtain ⟨hb, hc, hv⟩ := h i
  rw [hpool]
  refine ⟨?_, ?_, fun hst => ?_⟩
  · show (s.pool i).bound - countsFor s i n = _
    omega
  · show (s.pool i).bound - countsFor s i n ≤ (s.pool i).capacity
    omega
  · rw [hv hst]
    simp [PoolRec.vacant]

/-- A port that is bound to another pool that has room is counted there (R62, R68). -/
theorem bindPort (h : PoolsLawful s) {n : PortIx} {i : PoolIx} (hserves : (s.pool i).state.serves = true)
    (hroom : (s.pool i).bound < (s.pool i).capacity) (hown : (s.port n).license.pool? ≠ some i) :
    PoolsLawful (bindPort n i s) := by
  obtain ⟨hl, hp⟩ := setLicense_license n (.bound i) (changeBound i (· + 1) (freed n s))
  rw [← bindPort_eq] at hl hp
  have hports : ∀ m, ((changeBound i (· + 1) (freed n s)).port m) = s.port m := fun m => port_of_ports (freed_ports n s) m
  intro j
  have hcount := boundTo_change (s := s) (t := Machine.bindPort n i s) (n := n) (fun m hm => by
    rw [hp, if_neg (Ne.symm hm), hports]) j
  have hnew : countsFor (Machine.bindPort n i s) j n = if i = j then 1 else 0 := by
    simp [countsFor, hp, License.pool?]
  have hold : countsFor s i n = 0 := by simp [countsFor, hown]
  have hpool : (Machine.bindPort n i s).pool j = { s.pool j with bound := (s.pool j).bound - countsFor s j n + if i = j then 1 else 0 } := by
    have : (Machine.bindPort n i s).pool j = (changeBound i (· + 1) (freed n s)).pool j := by simp only [State.pool, hl]
    rw [this, changeBound, addReason_pool, modPool_pool]
    split
    · rename_i he
      subst he
      rw [freed_pool]
    · exact freed_pool n s j
  obtain ⟨hb, hc, hv⟩ := h j
  rw [hpool]
  by_cases hij : i = j
  · subst hij
    rw [if_pos rfl] at hnew ⊢
    refine ⟨?_, ?_, fun hst => ?_⟩
    · show (s.pool i).bound - countsFor s i n + 1 = _
      omega
    · show (s.pool i).bound - countsFor s i n + 1 ≤ (s.pool i).capacity
      omega
    · have hst : (s.pool i).state = .vacant := hst
      rw [hst] at hserves
      cases hserves
  · rw [if_neg hij] at hnew ⊢
    refine ⟨?_, ?_, fun hst => ?_⟩
    · show (s.pool j).bound - countsFor s j n + 0 = _
      omega
    · show (s.pool j).bound - countsFor s j n + 0 ≤ (s.pool j).capacity
      omega
    · rw [hv hst]
      simp [PoolRec.vacant]

/-! ## The rebinding pass (R68, R70) -/

/-- The automatic choice serves, has room, and is not the port's own pool (R68). -/
theorem serves_of_autoChoice {n : PortIx} {i : PoolIx} (h : autoChoice s n = some i) :
    poolServes s (cardOf s n).tier i = true ∧ (s.port n).license.pool? ≠ some i := by
  rw [autoChoice_eq_argmin] at h
  have hmem := List.argmin_mem h
  simpa [eligiblePools] using (List.mem_filter.1 hmem).2

theorem bindServing (h : PoolsLawful s) {n : PortIx} {i : PoolIx} {tier : Nat} (hserves : poolServes s tier i = true)
    (hown : (s.port n).license.pool? ≠ some i) : PoolsLawful (Machine.bindPort n i s) := by
  simp only [poolServes, Bool.and_eq_true, decide_eq_true_eq] at hserves
  exact h.bindPort hserves.1.1 hserves.1.2 hown

theorem autoBind (h : PoolsLawful s) (n : PortIx) : PoolsLawful (autoBind n s) := by
  unfold Machine.autoBind
  split
  · rename_i i hi
    obtain ⟨hserves, hown⟩ := serves_of_autoChoice hi
    exact h.bindServing hserves hown
  · exact h

theorem rebindingPass (h : PoolsLawful s) : PoolsLawful (rebindingPass s) :=
  forEach_keeps (fun n _ ht => ht.autoBind n) _ h

theorem restorePass (h : PoolsLawful s) : PoolsLawful (restorePass s) := h.moves (k := .power) Moves.refl.restorePass rfl

theorem reason (h : PoolsLawful s) (r : Reason) : PoolsLawful (addReason r s) := h.congr rfl fun _ => rfl

theorem rebindThenRestore (h : PoolsLawful s) (before : Nat) : PoolsLawful (rebindThenRestore before s) := by
  unfold Machine.rebindThenRestore
  dsimp only
  split
  · exact h.rebindingPass.restorePass
  · exact h.rebindingPass

/-! ## Credentials (R64 to R67) -/

theorem poolStateOf_ne_vacant (kind : PoolKind) (hours warn : Nat) : poolStateOf kind hours warn ≠ .vacant := by
  unfold poolStateOf
  split
  · nofun
  · split
    · nofun
    · split <;> nofun

/-- Ports whose licenses name a pool are Bound to it again (R67). -/
theorem forEach_bound {l : List PortIx} {i : PoolIx} (h : PoolsLawful s) (hl : ∀ n ∈ l, (s.port n).license.pool? = some i) :
    PoolsLawful (forEach l (fun n => portChange n fun r => { r with license := .bound i }) s) := by
  induction l generalizing s with
  | nil => exact h
  | cons n l ih =>
    rw [forEach_cons]
    refine ih (h.setLicense n (hl n List.mem_cons_self).symm) fun m hm => ?_
    rw [(setLicense_license n (.bound i) s).2]
    split
    · rfl
    · exact hl m (List.mem_cons_of_mem _ hm)

theorem applyCredential (h : PoolsLawful s) (c : Credential) (hc : (s.pool c.pool).bound ≤ c.capacity) :
    PoolsLawful (applyCredential c s) := by
  have hwritten : PoolsLawful (Machine.writePool c.pool (credentialPool c (s.pool c.pool).bound) s) :=
    h.writePool c.pool (h c.pool).1 hc fun hv => absurd hv (poolStateOf_ne_vacant _ _ _)
  unfold Machine.applyCredential
  dsimp only
  refine rebindThenRestore (reason ?_ _) _
  split
  · exact hwritten.forEach_bound fun n hn => pool?_of_mem_gracePorts hn
  · exact hwritten

theorem poolInstall (h : PoolsLawful s) (pool tier kind : Byte) (capacity hours warn : Half) (check : Word) :
    PoolsLawful (poolInstall pool tier kind capacity hours warn check s).1 := by
  unfold Machine.poolInstall
  split
  · exact h
  · split
    · exact h
    · dsimp only
      split
      · exact h
      · split
        · exact h
        · split
          · exact h
          · rename_i c _ _ _ hbound
            dsimp only
            refine h.applyCredential c ?_
            by_cases hv : (s.pool c.pool).state = .vacant
            · rw [h.bound_vacant hv]
              exact Nat.zero_le _
            · exact not_lt.1 fun hlt => hbound ⟨hv, hlt⟩

/-! ## Pool Revoke (R78) -/

/-- What unbinding a list of ports leaves: the law, and no license of the list's ports. -/
theorem forEach_unbindPort {l : List PortIx} (h : PoolsLawful s) :
    PoolsLawful (forEach l Machine.unbindPort s) ∧
      ∀ m, ((forEach l Machine.unbindPort s).port m).license = if m ∈ l then .unlicensed else (s.port m).license := by
  induction l generalizing s with
  | nil => exact ⟨h, fun m => by simp [forEach]⟩
  | cons n l ih =>
    obtain ⟨hlaw, hports⟩ := ih (h.unbindPort n)
    rw [forEach_cons]
    refine ⟨hlaw, fun m => ?_⟩
    rw [hports, unbindPort_eq, (setLicense_license n .unlicensed (freed n s)).2, port_of_ports (freed_ports n s)]
    by_cases hm : m = n
    · simp [hm]
    · simp [hm, Ne.symm hm]

theorem confirmedPoolRevoke (h : PoolsLawful s) (i : PoolIx) : PoolsLawful (confirmedPoolRevoke i s).1 := by
  unfold Machine.confirmedPoolRevoke
  split
  · exact h
  · obtain ⟨hlaw, hports⟩ := h.forEach_unbindPort (l := portsOfPool s i)
    have hnone : boundTo (forEach (portsOfPool s i) Machine.unbindPort s) i = 0 := by
      have hzero : ∀ n, countsFor (forEach (portsOfPool s i) Machine.unbindPort s) i n = 0 := fun n => by
        unfold countsFor
        rw [hports]
        simp only [mem_portsOfPool]
        by_cases hn : (s.port n).license.pool? = some i
        · rw [if_pos hn]
          rfl
        · rw [if_neg hn, if_neg hn]
      rw [boundTo_eq_sum, funext hzero]
      simp only [List.map_const', List.sum_replicate, smul_zero]
    dsimp only
    exact rebindThenRestore (reason (hlaw.writePool i hnone.symm (Nat.zero_le _) fun _ => rfl) _) _

/-! ## The hour timer (R73 to R75) -/

theorem enterGrace {i : PoolIx} {n : PortIx} (h : PoolsLawful s) (hn : (s.port n).license.pool? = some i) :
    PoolsLawful (enterGrace i n s) := by
  unfold Machine.enterGrace
  split
  · exact h.unbindPort n
  · exact h.setLicense n hn.symm

theorem enterGrace_license {i : PoolIx} {n m : PortIx} (hm : m ≠ n) :
    ((Machine.enterGrace i n s).port m).license = (s.port m).license := by
  unfold Machine.enterGrace
  split
  · rw [unbindPort_eq, (setLicense_license n _ _).2, if_neg hm.symm, port_of_ports (freed_ports n s)]
  · rw [(setLicense_license n _ _).2, if_neg hm.symm]

theorem forEach_enterGrace {l : List PortIx} (hl : l.Nodup) {i : PoolIx} (h : PoolsLawful s)
    (hp : ∀ n ∈ l, (s.port n).license.pool? = some i) : PoolsLawful (forEach l (Machine.enterGrace i) s) := by
  induction l generalizing s with
  | nil => exact h
  | cons n l ih =>
    obtain ⟨hn, hl⟩ := List.nodup_cons.1 hl
    rw [forEach_cons]
    refine ih hl (h.enterGrace (hp n List.mem_cons_self)) fun m hm => ?_
    rw [enterGrace_license fun he : m = n => hn (he ▸ hm)]
    exact hp m (List.mem_cons_of_mem _ hm)

theorem countPool (h : PoolsLawful s) (i : PoolIx) : PoolsLawful (countPool i s) := by
  unfold Machine.countPool
  dsimp only
  split
  · have hwritten := h.writePool i (r := { s.pool i with
      hours := (s.pool i).hours - 1, state := poolStateOf (s.pool i).kind ((s.pool i).hours - 1) (s.pool i).warn })
      (h i).1 (h i).2.1 fun hv => absurd hv (poolStateOf_ne_vacant _ _ _)
    split
    · exact forEach_enterGrace (l := boundPorts _ i) (portsWhere_nodup _ _) hwritten fun n hn => pool?_of_mem_boundPorts hn
    · exact hwritten
  · exact h

theorem countGrace (h : PoolsLawful s) (n : PortIx) : PoolsLawful (countGrace n s) := by
  unfold Machine.countGrace
  split
  · rename_i i hours hn
    split
    · exact h.unbindPort n
    · exact h.setLicense n (by rw [hn]; rfl)
  · exact h
  · exact h

theorem hourTimer (h : PoolsLawful s) : PoolsLawful (hourTimer s) := by
  have hgrace : PoolsLawful (forEach (portsInGrace s) Machine.countGrace (forEach allPools Machine.countPool s)) :=
    forEach_keeps (fun n _ ht => ht.countGrace n) _ (forEach_keeps (fun i _ ht => ht.countPool i) _ h)
  unfold Machine.hourTimer
  dsimp only
  split
  · exact hgrace.rebindThenRestore _
  · exact hgrace

/-! ## Ports and cards -/

theorem portReleaseLicense (h : PoolsLawful s) (port : Half) : PoolsLawful (portReleaseLicense port s).1 := by
  unfold Machine.portReleaseLicense
  split
  · exact h
  · split
    · exact h
    · split
      · exact h
      · dsimp only
        exact (h.unbindPort _).rebindThenRestore _

/-- Step 5 of Port Enable binds an Unlicensed port to a pool that serves (R15). -/
theorem enableSteps (h : PoolsLawful s) (n : PortIx) (named : Option PoolIx) : PoolsLawful (enableSteps n named s).1 := by
  unfold Machine.enableSteps
  split
  · exact h
  · split
    · exact h.restorePass
    · rename_i hheld
      have hfree : (s.port n).license = .unlicensed := by
        cases hx : (s.port n).license with
        | unlicensed => rfl
        | bound i => rw [hx] at hheld; exact absurd rfl hheld
        | grace i hours => rw [hx] at hheld; exact absurd rfl hheld
      split
      · exact h
      · rename_i i hi
        have hserves : poolServes s (cardOf s n).tier i = true := by
          unfold enablePool at hi
          split at hi
          · split at hi
            · cases hi
              assumption
            · cases hi
          · exact (serves_of_autoChoice hi).1
        exact (h.bindServing hserves (by rw [hfree]; nofun)).restorePass

theorem portEnable (h : PoolsLawful s) (port : Half) (pool priority : Byte) : PoolsLawful (portEnable port pool priority s).1 := by
  have hprio : ∀ n k, PoolsLawful (Machine.changePriority n k s) := fun n k =>
    h.moves (k := ⟨true, false, false⟩) (Moves.refl.changePriority n k rfl) rfl
  unfold Machine.portEnable
  split
  · exact h
  · split
    · exact h
    · unfold enablePort
      split
      · split
        · split
          · exact h
          · exact hprio _ _
        · exact h
      · refine enableSteps ?_ _ _
        exact h.moves (k := ⟨true, false, false⟩) (Moves.refl.portChange _ _ (fun hf => by cases hf) fun _ _ => rfl) rfl

theorem tierCheck (h : PoolsLawful s) (slot : Slot) (tier : Nat) : PoolsLawful (tierCheck slot tier s) := by
  unfold Machine.tierCheck
  dsimp only
  split
  · exact h
  · exact (h.forEach_unbindPort).1.rebindingPass

theorem takeIdent (h : PoolsLawful s) (slot : Slot) (cardType : Half) (portCount tier : Byte) (baseDraw : Half) :
    PoolsLawful (takeIdent slot cardType portCount tier baseDraw s) := by
  unfold Machine.takeIdent
  split
  · exact h.moves (k := .power) (Moves.refl.failCard _ _) rfl
  · rename_i id _
    have hnamed : PoolsLawful ((stopTimer slot s).modCard slot fun c => { c with identity := some id }) := h.congr rfl fun _ => rfl
    have hchecked := hnamed.tierCheck slot id.tier
    unfold acceptIdent
    dsimp only
    generalize Machine.tierCheck slot id.tier ((stopTimer slot s).modCard slot fun c => { c with identity := some id }) = u
      at hchecked ⊢
    have hplaced : PoolsLawful (if (u.card slot).parkClaims.isEmpty then Machine.placeCard slot u else enterCard slot .parked u) := by
      split
      · exact hchecked.congr rfl fun _ => rfl
      · exact hchecked.congr rfl fun _ => rfl
    generalize (if (u.card slot).parkClaims.isEmpty then Machine.placeCard slot u else enterCard slot .parked u) = v
      at hplaced ⊢
    split
    · exact hplaced.restorePass
    · exact hplaced

theorem takeReady (h : PoolsLawful s) (slot : Slot) (g : Word) : PoolsLawful (takeReady slot g s) := by
  unfold Machine.takeReady
  split
  · have hjoined : PoolsLawful ((enterCard slot .joined (stopTimer slot s)).modCard slot fun c => { c with attempts := 0 }) :=
      h.congr rfl fun _ => rfl
    have hfollowed := hjoined.moves (k := .power) ((Moves.refl.cardJoined slot).portsFollowCard slot s) rfl
    unfold joinCard
    exact hfollowed.rebindingPass.restorePass
  · exact h.congr rfl fun _ => rfl

/-! ## Deeds -/

theorem loudDeed (h : PoolsLawful s) (hd : LoudDeed s t) : PoolsLawful t := by
  have hpower : Moves .power s t → PoolsLawful t := fun hm => h.moves hm rfl
  have hsensors : Moves ⟨true, false, true⟩ s t → PoolsLawful t := fun hm => h.moves hm rfl
  cases hd with
  | idle => exact h
  | removal slot => exact hpower (Moves.refl.removal slot)
  | slotReset slot => exact hpower (Moves.refl.slotResetBody slot)
  | unitPresenceRise u => exact hsensors (Moves.refl.unitPresenceRise u rfl)
  | unitPresenceFall u => exact hsensors (Moves.refl.unitPresenceFall u rfl)
  | unitReadComplete u x => exact hsensors (Moves.refl.unitReadComplete u x rfl)
  | sensorRead sensor v => exact hsensors (Moves.refl.chassisSensorReadComplete sensor v rfl)
  | setPowerMode field => exact hpower (Moves.refl.setPowerMode field)
  | hourTimer => exact h.hourTimer
  | poolInstall => exact h.poolInstall _ _ _ _ _ _ _
  | poolRevoke i => exact h.confirmedPoolRevoke i
  | portEnable port pool priority => exact h.portEnable port pool priority
  | portDisable port => exact hsensors (Moves.refl.portDisable port rfl)
  | portReleaseLicense port => exact h.portReleaseLicense port
  | portSetPriority port priority => exact hsensors (Moves.refl.portSetPriority port priority rfl)
  | ruleWrite rule x => exact hsensors (Moves.refl.ruleWrite rule x rfl)
  | ruleDisable rule => exact hsensors (Moves.refl.ruleDisable rule rfl)
  | ident slot => exact h.takeIdent slot _ _ _ _
  | ready slot g => exact h.takeReady slot g
  | admittingTimeout slot => exact hpower (Moves.refl.admittingTimeout slot)

theorem quietDeed (h : PoolsLawful s) (hd : QuietDeed s t) : PoolsLawful t := by
  have hpower : Moves .power s t → PoolsLawful t := fun hm => h.moves hm rfl
  cases hd with
  | presenceRise slot => exact hpower (Moves.refl.presenceRise slot)
  | probeTimeout slot => exact hpower (Moves.refl.probeTimeout slot)
  | link slot position lit => exact hpower (Moves.refl.takeLink slot position lit)
  | query slot tag position x y => exact hpower (Moves.refl.send _ _)
  | temperature slot value => exact h.congr rfl fun _ => rfl
  | messageLeave slot => exact h.congr rfl fun _ => rfl
  | holdAck slot g => exact hpower (Moves.refl.holdAck slot g)
  | resumeAck slot g => exact hpower (Moves.refl.resumeAck slot g)
  | holdTimeout slot => exact hpower (Moves.refl.holdTimeout slot)
  | resumeTimeout slot => exact hpower (Moves.refl.resumeTimeout slot)
  | commitAbort => exact hpower Moves.refl.commitAbort
  | ruleEnable rule => exact h.moves (k := ⟨false, false, true⟩) (Moves.refl.ruleEnable rule rfl) rfl
  | fetched r => exact h.congr rfl fun _ => rfl
  | scanTimer => exact h.congr rfl fun _ => rfl

theorem login_license (slot : Slot) (position : Byte) (name : DevName) (s : State) (n : PortIx) :
    ((login slot position name s).port n).license = (s.port n).license :=
  ((CoreKept.refl s).login slot position name).portLicense n

theorem logout_license (slot : Slot) (position : Byte) (name : DevName) (s : State) (n : PortIx) :
    ((logout slot position name s).port n).license = (s.port n).license :=
  ((CoreKept.refl s).logout slot position name).portLicense n

theorem tableDeed (h : PoolsLawful s) (hd : TableDeed s t) : PoolsLawful t := by
  refine h.congr hd.kept.pools fun n => ?_
  cases hd with
  | login slot position name => rw [login_license]
  | logout slot position name => rw [logout_license]
  | commitSetup p => rw [commitSetup_frame]; rfl
  | arm p armed => cases p <;> rfl
  | commitWithdraw => rw [commitWithdraw_frame]; rfl
  | workingClone => rw [workingClone_frame]; rfl
  | edit e => rw [editWorking_frame]; rfl
  | namePin name port => rw [namePin_frame]; rfl
  | nameUnpin name => rw [nameUnpin_frame]; rfl
  | alarmAcknowledge => rw [alarmAcknowledge_frame]; rfl
  | alarmAcknowledgeAll => rw [acknowledgeAll_frame]; rfl
  | setChassisNumber number => rw [setChassisNumber_frame]; rfl
  | setParameter number value => rw [setParameter_frame]; rfl
  | uptime => rfl

/-- Where every pool is Vacant and every port Unlicensed the law holds. -/
theorem of_vacant (hp : ∀ i, s.pool i = PoolRec.vacant) (hn : ∀ n, (s.port n).license = .unlicensed) : PoolsLawful s := by
  intro i
  have hzero : ∀ n, countsFor s i n = 0 := fun n => by simp [countsFor, hn, License.pool?]
  have hcount : boundTo s i = 0 := by
    rw [boundTo_eq_sum, funext hzero]
    simp only [List.map_const', List.sum_replicate, smul_zero]
  rw [hp, hcount]
  exact ⟨rfl, Nat.zero_le _, fun _ => rfl⟩

theorem coldReset (lines : PresenceLines) (s : State) : PoolsLawful (coldReset lines s) := by
  have hcold : PoolsLawful (coldValues lines s) := of_vacant
    (fun i => by simp [coldValues, State.pool, State.reset]) fun n => by simp [coldValues, State.port, State.reset, PortRec.cold]
  unfold Machine.coldReset sampleUnits sampleSlots
  refine forEach_keeps (P := PoolsLawful) (fun u t ht => ?_) _ (forEach_keeps (P := PoolsLawful) (fun slot t ht => ?_) _ hcold)
  · split
    · exact ht.moves (k := ⟨false, false, true⟩) (Moves.refl.unitPresenceRise u rfl) rfl
    · exact ht
  · split
    · exact ht.moves (k := .power) (Moves.refl.presenceRise slot) rfl
    · exact ht

theorem deed (h : PoolsLawful s) (hd : Deed s t) : PoolsLawful t := by
  have hsettle : ∀ u, PoolsLawful u → PoolsLawful (settleDeficit u) := fun u hu =>
    hu.moves (k := .power) Moves.refl.settleDeficit rfl
  cases hd with
  | port hd => rw [hd.frame]; exact h.congr rfl fun _ => rfl
  | cold lines => exact coldReset lines s
  | quiet hd => exact h.quietDeed hd
  | table hd => exact h.tableDeed hd
  | commit =>
    have hc := (CoreKept.refl s).confirmedCommit
    exact hsettle _ (h.congr (by rw [hc.license]) fun n => by rw [hc.portLicense])
  | loud hd => exact hsettle _ (h.loudDeed hd)

end PoolsLawful

end Sys2Proof.Machine

section
open Sys2Proof Sys2Proof.Machine

/-- Settles O57, deed by deed: a binding and an unbinding move a port and a count together. -/
theorem poolsLawfulEveryStep : Obligations.PoolsLawfulEveryStep := by
  unfold Obligations.PoolsLawfulEveryStep
  exact fun s t hs h => step_keeps (I := PoolsLawful) (fun _ _ h => h.congr rfl fun _ => rfl) (fun _ _ => PoolsLawful.deed) hs h

end

/-! PROOFS. The Commit Engine's own law (R98, R104, R108, R110, R111): what each of its operations makes of it, up to the switch, the end
and the start of a queued commit that a change of its cards leads to. -/

namespace Sys2Proof.Machine

/-! ## The law without what is due -/

/-- A phase that a card may have while the engine is in a state (R98). -/
def PhaseFits : EngineState → Phase → Prop
  | .idle, p => p = .outside
  | .fencing, p => p ≠ .awaitResume ∧ p ≠ .done
  | .releasing, p => p ≠ .awaitHold ∧ p ≠ .held ∧ p ≠ .late

theorem phaseFits_outside (e : EngineState) : PhaseFits e .outside := by
  cases e
  · exact rfl
  · exact ⟨nofun, nofun⟩
  · exact ⟨nofun, nofun, nofun⟩

/-- A phase in which the card's timer runs (R98). -/
def Phase.awaits : Phase → Prop
  | .awaitHold | .awaitResume => True
  | .outside | .held | .late | .done => False

theorem Phase.awaits_iff {p : Phase} : p.awaits ↔ p = .awaitHold ∨ p = .awaitResume := by
  cases p <;> simp [Phase.awaits]

/-- The Commit Engine's law, but for the switch, the end and the start that may be due, and but for the cards that an operation going
through them has still to move. -/
structure EngineStands (moving : Slot → Prop) (s : State) : Prop where
  active : s.commit.engine = .idle ↔ s.commit.active = none
  tally : s.commit.engine = .idle → s.commit.tally = 0
  fits : ∀ c, ¬ moving c → PhaseFits s.commit.engine (s.phaseRec c).phase
  frozen : s.zones.workingState = .frozen ↔ s.commit.queued ≠ none
  timer : ∀ c, (s.phaseRec c).timerOn = true ↔ (s.phaseRec c).phase.awaits
  joined : ∀ c, (s.phaseRec c).phase ≠ .outside → (s.card c).state = .joined

/-- No card is being moved. -/
def noCard : Slot → Prop := fun _ => False

/-- Nothing is due: no switch and no end (R108, R110). -/
structure NothingDue (s : State) : Prop where
  fencing : s.commit.engine = .fencing → ∃ c, (s.phaseRec c).phase = .awaitHold
  releasing : s.commit.engine = .releasing → ∃ c, (s.phaseRec c).phase = .awaitResume

theorem commitLawful_iff {s : State} : CommitLawful s ↔
    EngineStands noCard s ∧ NothingDue s ∧ (s.commit.engine = .idle → s.commit.queued = none) := by
  constructor
  · rintro ⟨hactive, hidle, hfencing, hreleasing, hfrozen, htimer, hjoined⟩
    refine ⟨⟨hactive, fun h => (hidle h).2.2, fun c _ => ?_, hfrozen, fun c => (htimer c).trans Phase.awaits_iff.symm, hjoined⟩,
      ⟨fun h => (hfencing h).1, fun h => (hreleasing h).1⟩, fun h => (hidle h).2.1⟩
    cases he : s.commit.engine
    · exact (hidle he).1 c
    · exact (hfencing he).2 c
    · exact (hreleasing he).2 c
  · rintro ⟨h, hdue, hqueued⟩
    have hfits : ∀ c, PhaseFits s.commit.engine (s.phaseRec c).phase := fun c => h.fits c id
    refine ⟨h.active, fun he => ⟨fun c => ?_, hqueued he, h.tally he⟩, fun he => ⟨hdue.fencing he, fun c => ?_⟩,
      fun he => ⟨hdue.releasing he, fun c => ?_⟩, h.frozen, fun c => (h.timer c).trans Phase.awaits_iff, h.joined⟩
    all_goals
      have := hfits c
      rw [he] at this
      exact this

/-! ## Changes beside the engine -/

/-- From s to t the engine's state, its commits, its tally and its cards stand, Working is Frozen where it was, and the Joined cards are
Joined. -/
structure EngineSame (s t : State) : Prop where
  engine : t.commit.engine = s.commit.engine
  active : t.commit.active = s.commit.active
  queued : t.commit.queued = s.commit.queued
  tally : t.commit.tally = s.commit.tally
  cards : t.commit.cards = s.commit.cards
  frozen : t.zones.workingState = .frozen ↔ s.zones.workingState = .frozen
  joined : ∀ c, (s.card c).state = .joined → (t.card c).state = .joined

namespace EngineSame

variable {s t u : State}

theorem refl (s : State) : EngineSame s s := ⟨rfl, rfl, rfl, rfl, rfl, Iff.rfl, fun _ => id⟩

theorem trans (h : EngineSame s t) (h' : EngineSame t u) : EngineSame s u :=
  ⟨h'.engine.trans h.engine, h'.active.trans h.active, h'.queued.trans h.queued, h'.tally.trans h.tally,
    h'.cards.trans h.cards, h'.frozen.trans h.frozen, fun c hc => h'.joined c (h.joined c hc)⟩

theorem phaseRec (h : EngineSame s t) (c : Slot) : t.phaseRec c = s.phaseRec c := by simp only [State.phaseRec, h.cards]

theorem stands {moving : Slot → Prop} (h : EngineSame s t) (hs : EngineStands moving s) : EngineStands moving t where
  active := by rw [h.engine, h.active]; exact hs.active
  tally := by rw [h.engine, h.tally]; exact hs.tally
  fits c hc := by rw [h.engine, h.phaseRec]; exact hs.fits c hc
  frozen := by rw [h.frozen, h.queued]; exact hs.frozen
  timer c := by rw [h.phaseRec]; exact hs.timer c
  joined c := by rw [h.phaseRec]; exact fun hc => h.joined c (hs.joined c hc)

theorem nothingDue (h : EngineSame s t) (hs : NothingDue s) : NothingDue t where
  fencing he := by
    simp only [h.phaseRec]
    exact hs.fencing (h.engine ▸ he)
  releasing he := by
    simp only [h.phaseRec]
    exact hs.releasing (h.engine ▸ he)

theorem commitLawful (h : EngineSame s t) (hs : CommitLawful s) : CommitLawful t := by
  rw [commitLawful_iff] at hs ⊢
  obtain ⟨hstands, hdue, hqueued⟩ := hs
  exact ⟨h.stands hstands, h.nothingDue hdue, by rw [h.engine, h.queued]; exact hqueued⟩

theorem of_records (hc : t.commit = s.commit) (hz : t.zones = s.zones)
    (hj : ∀ c, (s.card c).state = .joined → (t.card c).state = .joined) : EngineSame s t :=
  ⟨by rw [hc], by rw [hc], by rw [hc], by rw [hc], by rw [hc], by rw [hz], hj⟩

theorem send (slot : Slot) (m : CardMsg) (s : State) : EngineSame s (send slot m s) :=
  of_records rfl rfl fun c hc => by rw [((CoreKept.refl s).send slot m).state]; exact hc

theorem reason (r : Reason) (s : State) : EngineSame s (addReason r s) := of_records rfl rfl fun _ => id

theorem raise (r : Raise) (s : State) : EngineSame s (raiseAlarm r s) := by
  rw [raiseAlarm_eq]
  exact of_records rfl rfl fun _ => id

/-- A result record is no part of what the law speaks of. -/
theorem noteRecord (number : Option Half) (g : ResultRec → ResultRec) (s : State) : EngineSame s (noteRecord number g s) := by
  have hupdate : ∀ k, EngineSame s (s.modCommit (CommitEngine.updateRecord k g)) := fun k => by
    have hsame : (CommitEngine.updateRecord k g s.commit).engine = s.commit.engine ∧
        (CommitEngine.updateRecord k g s.commit).active = s.commit.active ∧
        (CommitEngine.updateRecord k g s.commit).queued = s.commit.queued ∧
        (CommitEngine.updateRecord k g s.commit).tally = s.commit.tally ∧
        (CommitEngine.updateRecord k g s.commit).cards = s.commit.cards := by
      unfold CommitEngine.updateRecord
      split
      · exact ⟨rfl, rfl, rfl, rfl, rfl⟩
      · split
        · exact ⟨rfl, rfl, rfl, rfl, rfl⟩
        · exact ⟨rfl, rfl, rfl, rfl, rfl⟩
    obtain ⟨he, ha, hq, ht, hc⟩ := hsame
    exact ⟨he, ha, hq, ht, hc, Iff.rfl, fun _ => id⟩
  unfold Machine.noteRecord
  split
  · exact refl s
  · dsimp only
    split
    · exact hupdate _
    · exact (hupdate _).trans (reason _ _)

end EngineSame

/-- From s to t the engine and the Zone Store stand, and every card's state. -/
structure EngineApart (s t : State) : Prop where
  commit : t.commit = s.commit
  zones : t.zones = s.zones
  state : ∀ c, (t.card c).state = (s.card c).state

namespace EngineApart

variable {s t u : State}

theorem refl (s : State) : EngineApart s s := ⟨rfl, rfl, fun _ => rfl⟩

theorem trans (h : EngineApart s t) (h' : EngineApart t u) : EngineApart s u :=
  ⟨h'.commit.trans h.commit, h'.zones.trans h.zones, fun c => (h'.state c).trans (h.state c)⟩

theorem same (h : EngineApart s t) : EngineSame s t :=
  .of_records h.commit h.zones fun c hc => (h.state c).trans hc

theorem of_records (h : EngineApart s t) (hc : u.commit = t.commit) (hz : u.zones = t.zones) (hk : u.cards = t.cards) :
    EngineApart s u :=
  h.trans ⟨hc, hz, fun c => by rw [card_of_cards hk]⟩

theorem port (n : PortIx) (f : PortRec → PortRec) (h : EngineApart s t) : EngineApart s (t.modPort n f) :=
  h.of_records rfl rfl rfl

theorem power (f : PowerBudget → PowerBudget) (h : EngineApart s t) : EngineApart s (t.modPower f) := h.of_records rfl rfl rfl

theorem pool (i : PoolIx) (f : PoolRec → PoolRec) (h : EngineApart s t) : EngineApart s (t.modPool i f) :=
  h.of_records rfl rfl rfl

theorem reason (r : Reason) (h : EngineApart s t) : EngineApart s (addReason r t) := h.of_records rfl rfl rfl

theorem raise (r : Raise) (h : EngineApart s t) : EngineApart s (raiseAlarm r t) := by
  rw [raiseAlarm_eq]
  exact h.of_records rfl rfl rfl

theorem clear (c : Cause) (subject : Nat) (h : EngineApart s t) : EngineApart s (endAlarm c subject t) := by
  rw [endAlarm_eq]
  exact h.of_records rfl rfl rfl

theorem card (slot : Slot) (f : CardRec → CardRec) (hf : ∀ c, (f c).state = c.state) (h : EngineApart s t) :
    EngineApart s (t.modCard slot f) := by
  refine h.trans ⟨rfl, rfl, fun c => ?_⟩
  rw [modCard_card]
  split
  · subst_vars
    exact hf _
  · rfl

theorem forEach {α : Type} {act : α → State → State} (ha : ∀ x t, EngineApart s t → EngineApart s (act x t)) (l : List α)
    (h : EngineApart s t) : EngineApart s (Machine.forEach l act t) :=
  forEach_keeps ha l h

theorem send (slot : Slot) (m : CardMsg) (h : EngineApart s t) : EngineApart s (Machine.send slot m t) :=
  h.card slot _ fun _ => rfl

theorem sendJoined (m : CardMsg) (h : EngineApart s t) : EngineApart s (Machine.sendJoined m t) := by
  refine h.forEach (fun slot t ht => ?_) _
  split
  · exact ht.send slot m
  · exact ht

theorem endLogin (pos : Nat) (e : NameEntry) (h : EngineApart s t) : EngineApart s (Machine.endLogin pos e t) := by
  rw [endLogin_eq]
  refine sendJoined _ (port _ _ ?_)
  rw [writeLogout_eq]
  exact h.of_records rfl rfl rfl

theorem removeLogins (n : PortIx) (h : EngineApart s t) : EngineApart s (Machine.removeLogins n t) := by
  refine port n _ (h.forEach (fun pos t ht => ?_) _)
  unfold endLoginAt
  split
  · exact ht.endLogin pos _
  · exact ht

theorem reviewServiceable (n : PortIx) (was : Bool) (h : EngineApart s t) :
    EngineApart s (Machine.reviewServiceable n was t) := by
  unfold Machine.reviewServiceable
  split
  · unfold loseServiceable
    refine removeLogins n ?_
    split
    · exact (h.port n _).send _ _
    · exact h.port n _
  · exact h.send _ _
  · exact h
  · exact h

theorem reviewEligible (n : PortIx) (was : Bool) (draw : Nat) (h : EngineApart s t) :
    EngineApart s (Machine.reviewEligible n was draw t) := by
  unfold Machine.reviewEligible
  split
  · unfold loseEligibility
    refine port n _ ?_
    split
    · exact h.power _
    · exact h.power _
    · exact h
  · exact h.of_records rfl rfl rfl
  · exact h
  · exact h

theorem portChange (n : PortIx) (f : PortRec → PortRec) (h : EngineApart s t) : EngineApart s (Machine.portChange n f t) :=
  ((h.port n f).reviewEligible _ _ _).reviewServiceable _ _

theorem portsFollowCard (slot : Slot) (before : State) (h : EngineApart s t) :
    EngineApart s (Machine.portsFollowCard slot before t) :=
  h.forEach (fun _ _ ht => (ht.reviewEligible _ _ _).reviewServiceable _ _) _

theorem displacePort (n : PortIx) (hold : Bool) (h : EngineApart s t) : EngineApart s (Machine.displacePort n hold t) :=
  (((h.power _).port n _).power _).reviewServiceable n _

theorem admitPort (n : PortIx) (h : EngineApart s t) : EngineApart s (Machine.admitPort n t) :=
  ((h.power _).power _).portChange n _

theorem bindPort (n : PortIx) (i : PoolIx) (h : EngineApart s t) : EngineApart s (Machine.bindPort n i t) := by
  rw [PoolsLawful.bindPort_eq]
  refine portChange n _ (reason _ (pool i _ ?_))
  unfold PoolsLawful.freed
  split
  · exact (h.pool _ _).reason _
  · exact h

theorem unbindPort (n : PortIx) (h : EngineApart s t) : EngineApart s (Machine.unbindPort n t) := by
  rw [PoolsLawful.unbindPort_eq]
  refine portChange n _ ?_
  unfold PoolsLawful.freed
  split
  · exact (h.pool _ _).reason _
  · exact h

theorem rebindingPass (h : EngineApart s t) : EngineApart s (Machine.rebindingPass t) := by
  unfold Machine.rebindingPass
  refine h.forEach (fun n t ht => ?_) _
  unfold autoBind
  split
  · exact ht.bindPort n _
  · exact ht

theorem writePool (i : PoolIx) (r : PoolRec) (h : EngineApart s t) : EngineApart s (Machine.writePool i r t) := by
  unfold Machine.writePool
  dsimp only
  split
  · exact h.pool i _
  · refine reason _ ?_
    unfold poolTermClaim
    split
    · exact (h.pool i _).raise _
    · exact (h.pool i _).raise _
    all_goals
      split
      all_goals first | exact (h.pool i _).clear _ _ | exact h.pool i _

end EngineApart

/-! ## Phases -/

theorem setPhase_phaseRec (slot c : Slot) (p : Phase) (s : State) : (setPhase slot p s).phaseRec c =
    if slot = c then { s.phaseRec slot with phase := p, timerOn := false } else s.phaseRec c :=
  modPhase_phaseRec slot c _ s

theorem sendPhase_phaseRec (slot c : Slot) (p : Phase) (m : CardMsg) (s : State) :
    (send slot m (awaitPhase slot p s)).phaseRec c =
      if slot = c then { phase := p, resends := 0, timeout := commitTimeoutMs 0, timerOn := true } else s.phaseRec c := by
  have hsend : (send slot m (awaitPhase slot p s)).phaseRec c = (awaitPhase slot p s).phaseRec c := rfl
  rw [hsend]
  exact modPhase_phaseRec slot c _ s

namespace EngineStands

variable {moving : Slot → Prop} {s : State}

/-- A card takes a phase in which no timer runs; it has moved. -/
theorem setPhase (h : EngineStands moving s) (slot : Slot) {p : Phase} (hfits : PhaseFits s.commit.engine p)
    (hp : ¬ p.awaits) (hjoined : p ≠ .outside → (s.card slot).state = .joined) :
    EngineStands (fun c => moving c ∧ c ≠ slot) (setPhase slot p s) := by
  refine ⟨h.active, h.tally, fun c hc => ?_, h.frozen, fun c => ?_, fun c => ?_⟩ <;> rw [setPhase_phaseRec] <;> split
  · exact hfits
  · rename_i hne
    exact h.fits c fun hm => hc ⟨hm, Ne.symm hne⟩
  · exact iff_of_false nofun hp
  · exact h.timer c
  · rename_i he
    subst he
    exact hjoined
  · exact h.joined c

/-- A card is sent a message and takes a phase that awaits its answer; it has moved. -/
theorem sendPhase (h : EngineStands moving s) (slot : Slot) {p : Phase} (m : CardMsg) (hfits : PhaseFits s.commit.engine p)
    (hp : p.awaits) (hjoined : (s.card slot).state = .joined) :
    EngineStands (fun c => moving c ∧ c ≠ slot) (send slot m (awaitPhase slot p s)) := by
  refine ⟨h.active, h.tally, fun c hc => ?_, h.frozen, fun c => ?_, fun c hc => ?_⟩
  · rw [sendPhase_phaseRec]
    split
    · exact hfits
    · rename_i hne
      exact h.fits c fun hm => hc ⟨hm, Ne.symm hne⟩
  · rw [sendPhase_phaseRec]
    split
    · exact iff_of_true rfl hp
    · exact h.timer c
  · rw [sendPhase_phaseRec] at hc
    have hstate : ((send slot m (awaitPhase slot p s)).card c).state = (s.card c).state :=
      (((CoreKept.refl s).phase slot _).send slot m).state c
    rw [hstate]
    split at hc
    · rename_i he
      exact he ▸ hjoined
    · exact h.joined c hc

theorem weaken {moving' : Slot → Prop} (h : EngineStands moving s) (hm : ∀ c, moving c → moving' c) : EngineStands moving' s :=
  ⟨h.active, h.tally, fun c hc => h.fits c fun hmc => hc (hm c hmc), h.frozen, h.timer, h.joined⟩

/-- Every card of a list is sent Hold, or every card of a list is sent Resume: they have moved. -/
theorem forEach_sendPhase {p : Phase} (m : State → CardMsg) {l : List Slot} (h : EngineStands moving s)
    (hfits : PhaseFits s.commit.engine p) (hp : p.awaits) (hjoined : ∀ c ∈ l, (s.card c).state = .joined) :
    EngineStands (fun c => moving c ∧ c ∉ l) (forEach l (fun c s => send c (m s) (awaitPhase c p s)) s) := by
  induction l generalizing moving s with
  | nil => exact h.weaken fun c hc => ⟨hc, nofun⟩
  | cons c l ih =>
    rw [forEach_cons]
    have hstep := h.sendPhase c (m s) hfits hp (hjoined c List.mem_cons_self)
    refine (ih hstep hfits fun x hx => ?_).weaken fun x hx => ⟨hx.1.1, ?_⟩
    · have hstate : ((send c (m s) (awaitPhase c p s)).card x).state = (s.card x).state :=
        (((CoreKept.refl s).phase c _).send c _).state x
      rw [hstate]
      exact hjoined x (List.mem_cons_of_mem _ hx)
    · rw [List.mem_cons, not_or]
      exact ⟨hx.1.2, hx.2⟩

/-- Every card of a list goes Outside. -/
theorem forEach_setOutside {l : List Slot} (h : EngineStands moving s) :
    EngineStands (fun c => moving c ∧ c ∉ l) (forEach l (fun c => Machine.setPhase c .outside) s) := by
  induction l generalizing moving s with
  | nil => exact h.weaken fun c hc => ⟨hc, nofun⟩
  | cons c l ih =>
    rw [forEach_cons]
    refine (ih (h.setPhase c (phaseFits_outside _) nofun fun hne => absurd rfl hne)).weaken fun x hx => ⟨hx.1.1, ?_⟩
    rw [List.mem_cons, not_or]
    exact ⟨hx.1.2, hx.2⟩

/-- Nothing moves when everything has moved. -/
theorem settled (h : EngineStands moving s) (hm : ∀ c, ¬ moving c) : EngineStands noCard s := h.weaken fun c hc => hm c hc

/-- A card that is Outside may change its state; what else stands, stands. -/
theorem of_left {t : State} {slot : Slot} (h : EngineStands moving s) (hout : (s.phaseRec slot).phase = .outside)
    (hc : t.commit = s.commit) (hz : t.zones = s.zones)
    (hj : ∀ c, c ≠ slot → (s.card c).state = .joined → (t.card c).state = .joined) : EngineStands moving t := by
  have hphase : ∀ c, t.phaseRec c = s.phaseRec c := phaseRec_of_commit hc
  refine ⟨by rw [hc]; exact h.active, by rw [hc]; exact h.tally, fun c hm => by rw [hc, hphase]; exact h.fits c hm,
    by rw [hc, hz]; exact h.frozen, fun c => by rw [hphase]; exact h.timer c, fun c hne => ?_⟩
  by_cases hcs : c = slot
  · subst hcs
    exact absurd hout (hphase c ▸ hne)
  · exact hj c hcs (h.joined c (hphase c ▸ hne))

end EngineStands

theorem mem_cardsIn {s : State} {test : Phase → Bool} {c : Slot} : c ∈ cardsIn s test ↔ test (s.phaseRec c).phase = true := by
  simp [cardsIn, allSlots]

/-! ## The switch, the end and the start (R103, R105, R109, R111) -/

theorem forEach_setOutside_phase {l : List Slot} {s : State} {c : Slot}
    (h : c ∈ l ∨ (s.phaseRec c).phase = .outside) :
    ((forEach l (fun c => setPhase c .outside) s).phaseRec c).phase = .outside := by
  induction l generalizing s with
  | nil => exact h.resolve_left nofun
  | cons x l ih =>
    rw [forEach_cons]
    refine ih ?_
    by_cases hx : x = c
    · exact .inr (by rw [setPhase_phaseRec, if_pos hx])
    · rw [setPhase_phaseRec, if_neg hx]
      exact h.imp_left fun hm => List.mem_of_ne_of_mem (Ne.symm hx) hm

/-- What the loops over cards leave of the engine. -/
theorem forEach_sendResume_commit (l : List Slot) (s : State) :
    (forEach l sendResume s).commit = { s.commit with cards := (forEach l sendResume s).commit.cards } := by
  induction l generalizing s with
  | nil => rfl
  | cons c l ih => rw [forEach_cons, ih]; rfl

theorem forEach_sendHold_commit (l : List Slot) (s : State) :
    (forEach l sendHold s).commit = { s.commit with cards := (forEach l sendHold s).commit.cards } := by
  induction l generalizing s with
  | nil => rfl
  | cons c l ih => rw [forEach_cons, ih]; rfl

theorem forEach_setPhase_commit (p : Phase) (l : List Slot) (s : State) :
    (forEach l (fun c => setPhase c p) s).commit = { s.commit with cards := (forEach l (fun c => setPhase c p) s).commit.cards } := by
  induction l generalizing s with
  | nil => rfl
  | cons c l ih => rw [forEach_cons, ih]; rfl

theorem switchLive_engine (s : State) : (switchLive s).commit.engine = .releasing ∧ (switchLive s).commit.queued = s.commit.queued := by
  unfold switchLive
  dsimp only [addReason_commit]
  rw [forEach_sendResume_commit]
  exact ⟨rfl, (EngineSame.noteRecord _ _ _).queued⟩

theorem closeCommit_engine (s : State) : (closeCommit s).commit.engine = .idle ∧ (closeCommit s).commit.queued = s.commit.queued := by
  have hout : (forEach allSlots (fun slot => setPhase slot .outside) s).commit.queued = s.commit.queued := by
    rw [forEach_setPhase_commit]
  unfold closeCommit
  dsimp only [addReason_commit]
  refine ⟨rfl, ?_⟩
  rw [← hout]
  split
  · exact ((EngineSame.noteRecord _ _ _).trans (EngineSame.raise _ _)).queued
  · exact (EngineSame.noteRecord _ _ _).queued

theorem beginCommit_engine (number : Half) (s : State) :
    (beginCommit number s).commit.engine = .fencing ∧ (beginCommit number s).commit.queued = none := by
  unfold beginCommit
  dsimp only [addReason_commit]
  rw [forEach_sendHold_commit]
  exact ⟨rfl, rfl⟩

theorem switchIfDue_queued (s : State) : (switchIfDue s).commit.queued = s.commit.queued := by
  unfold switchIfDue
  split
  · exact (switchLive_engine s).2
  · rfl

theorem endIfDue_queued (s : State) : (endIfDue s).commit.queued = s.commit.queued := by
  unfold endIfDue
  split
  · exact (closeCommit_engine s).2
  · rfl

namespace EngineStands

variable {s : State}

/-- The switch (R109). -/
theorem switchLive (h : EngineStands noCard s) (he : s.commit.engine = .fencing)
    (hnone : ∀ c, (s.phaseRec c).phase ≠ .awaitHold) : EngineStands noCard (switchLive s) := by
  have hlive : EngineStands noCard (copyToLive s) := ⟨h.active, h.tally, h.fits, h.frozen, h.timer, h.joined⟩
  have hnoted := EngineSame.noteRecord (copyToLive s).commit.active (fun r => { r with generation := (copyToLive s).zones.generation })
    (copyToLive s)
  have hn := hnoted.stands hlive
  have hphase : ∀ c, ((noteRecord (copyToLive s).commit.active (fun r => { r with generation := (copyToLive s).zones.generation })
      (copyToLive s)).phaseRec c) = s.phaseRec c := hnoted.phaseRec
  have hactive : s.commit.active ≠ none := fun ha => by
    have := h.active.2 ha
    rw [he] at this
    cases this
  unfold Machine.switchLive
  dsimp only
  generalize noteRecord (copyToLive s).commit.active (fun r => { r with generation := (copyToLive s).zones.generation })
    (copyToLive s) = u at hnoted hn hphase ⊢
  have hreleasing : EngineStands (fun c => (s.phaseRec c).phase = .held ∨ (s.phaseRec c).phase = .late) (u.modCommit fun e =>
      { e with releaseGen := (copyToLive s).zones.generation, direction := .forward, engine := .releasing }) := by
    refine ⟨iff_of_false nofun fun ha => hactive (hnoted.active.symm.trans ha), nofun, fun c hc => ?_, hn.frozen, hn.timer, hn.joined⟩
    obtain ⟨hheld, hlate⟩ := not_or.1 hc
    show PhaseFits .releasing (u.phaseRec c).phase
    rw [hphase]
    exact ⟨hnone c, hheld, hlate⟩
  refine (EngineSame.reason _ _).stands ?_
  refine (hreleasing.forEach_sendPhase (p := .awaitResume) (fun s => .resume s.commit.releaseGen) ⟨nofun, nofun, nofun⟩ trivial
    fun c hc => ?_).settled fun c hc => hc.2 ?_
  · refine hn.joined c fun ho => ?_
    have := mem_cardsIn.1 hc
    rw [show ((u.modCommit fun e => { e with releaseGen := (copyToLive s).zones.generation, direction := .forward, engine := .releasing }).phaseRec c) =
      u.phaseRec c from rfl, ho] at this
    cases this
  · refine mem_cardsIn.2 ?_
    show (u.phaseRec c).phase == .held || (u.phaseRec c).phase == .late
    rw [hphase]
    rcases hc.1 with hc | hc <;> rw [hc] <;> rfl

/-- The end of a commit (R111, steps 1 to 4 and 6). -/
theorem closeCommit (h : EngineStands noCard s) : EngineStands noCard (closeCommit s) := by
  have hout := h.forEach_setOutside (l := allSlots)
  have hphase : ∀ c, ((forEach allSlots (fun c => Machine.setPhase c .outside) s).phaseRec c).phase = .outside := fun c =>
    forEach_setOutside_phase (.inl (List.mem_finRange c))
  unfold Machine.closeCommit
  dsimp only
  generalize forEach allSlots (fun c => Machine.setPhase c .outside) s = u at hout hphase ⊢
  have hidle : ∀ v, EngineSame u v → EngineStands noCard (v.modCommit fun e => { e with active := none, tally := 0, engine := .idle }) := by
    intro v hv
    have hvs := hv.stands hout
    refine ⟨iff_of_true rfl rfl, fun _ => rfl, fun c _ => ?_, hvs.frozen, hvs.timer, hvs.joined⟩
    show (v.phaseRec c).phase = .outside
    rw [hv.phaseRec]
    exact hphase c
  refine (EngineSame.reason _ _).stands ?_
  split
  · exact hidle _ ((EngineSame.noteRecord _ _ _).trans (EngineSame.raise _ _))
  · exact hidle _ (EngineSame.noteRecord _ _ _)

/-- The start of a commit on an Idle engine (R103, R105). -/
theorem beginCommit (h : EngineStands noCard s) (he : s.commit.engine = .idle) (number : Half) :
    EngineStands noCard (beginCommit number s) := by
  have hout : ∀ c, (s.phaseRec c).phase = .outside := fun c => by
    have := h.fits c id
    rwa [he] at this
  have hbegun : EngineStands noCard ((copyToPending s).modCommit fun e =>
      { e with active := some number, queued := none, tally := 0, direction := .forward, engine := .fencing }) := by
    refine ⟨iff_of_false nofun nofun, nofun, fun c _ => ?_, iff_of_false nofun fun hq => hq rfl, h.timer, h.joined⟩
    show PhaseFits .fencing (s.phaseRec c).phase
    rw [hout]
    exact phaseFits_outside _
  unfold Machine.beginCommit
  dsimp only
  refine (EngineSame.reason _ _).stands ((hbegun.forEach_sendPhase (p := .awaitHold) (fun s => .hold (holdGeneration s)) ⟨nofun, nofun⟩
    trivial fun c hc => ?_).settled fun c hc => hc.1)
  simpa [joinedCards] using (List.mem_filter.1 hc).2

theorem switchIfDue (h : EngineStands noCard s) : EngineStands noCard (switchIfDue s) ∧
    ((Machine.switchIfDue s).commit.engine = .fencing → ∃ c, ((Machine.switchIfDue s).phaseRec c).phase = .awaitHold) := by
  unfold Machine.switchIfDue
  split
  · rename_i hdue
    refine ⟨h.switchLive hdue.1 fun c hc => ?_, fun he => ?_⟩
    · have hmem : c ∈ cardsIn s (· == .awaitHold) := mem_cardsIn.2 (by simp [hc])
      rw [hdue.2] at hmem
      cases hmem
    · exact nomatch (switchLive_engine s).1.symm.trans he
  · rename_i hnot
    refine ⟨h, fun he => ?_⟩
    obtain ⟨c, hc⟩ := List.exists_mem_of_ne_nil _ fun hnil => hnot ⟨he, hnil⟩
    exact ⟨c, by simpa using mem_cardsIn.1 hc⟩

theorem endIfDue (h : EngineStands noCard s)
    (hfencing : s.commit.engine = .fencing → ∃ c, (s.phaseRec c).phase = .awaitHold) :
    EngineStands noCard (endIfDue s) ∧ NothingDue (Machine.endIfDue s) := by
  unfold Machine.endIfDue
  split
  · have hidle : (Machine.closeCommit s).commit.engine = .idle := (closeCommit_engine s).1
    refine ⟨h.closeCommit, ⟨fun he => ?_, fun he => ?_⟩⟩
    · exact nomatch hidle.symm.trans he
    · exact nomatch hidle.symm.trans he
  · rename_i hnot
    refine ⟨h, hfencing, fun he => ?_⟩
    obtain ⟨c, hc⟩ := List.exists_mem_of_ne_nil _ fun hnil => hnot ⟨he, hnil⟩
    exact ⟨c, by simpa using mem_cardsIn.1 hc⟩

/-- The switch and the end, each when due, leave nothing due (R108, R110). -/
theorem settle (h : EngineStands noCard s) :
    EngineStands noCard (Machine.endIfDue (Machine.switchIfDue s)) ∧ NothingDue (Machine.endIfDue (Machine.switchIfDue s)) :=
  let ⟨hswitched, hfencing⟩ := h.switchIfDue
  hswitched.endIfDue hfencing

/-- A commit that starts on an Idle engine makes the law whole again. -/
theorem start (h : EngineStands noCard s) (he : s.commit.engine = .idle) (number : Half) :
    CommitLawful (Machine.endIfDue (Machine.switchIfDue (Machine.beginCommit number s))) := by
  obtain ⟨hstands, hdue⟩ := (h.beginCommit he number).settle
  refine commitLawful_iff.2 ⟨hstands, hdue, fun _ => ?_⟩
  rw [endIfDue_queued, switchIfDue_queued]
  exact (beginCommit_engine number s).2

/-- What follows from a change of the engine's cards makes the law whole again (R108 to R111). -/
theorem commitFollows (h : EngineStands noCard s) : CommitLawful (commitFollows s) := by
  obtain ⟨hstands, hdue⟩ := h.settle
  unfold Machine.commitFollows startQueued
  split
  · rename_i number he hq
    exact hstands.start he number
  · rename_i he hq
    exact commitLawful_iff.2 ⟨hstands, hdue, fun _ => hq⟩
  · rename_i he
    exact commitLawful_iff.2 ⟨hstands, hdue, fun hi => by rw [he] at hi; cases hi⟩
  · rename_i he
    exact commitLawful_iff.2 ⟨hstands, hdue, fun hi => by rw [he] at hi; cases hi⟩

end EngineStands

/-! ## The operations that reach the engine -/

namespace CommitLawful

variable {s t : State}

theorem stands (h : CommitLawful s) : EngineStands noCard s := (commitLawful_iff.1 h).1

theorem nothingDue (h : CommitLawful s) : NothingDue s := (commitLawful_iff.1 h).2.1

/-- A card in a phase of a commit tells the engine's state. -/
theorem engine_of_awaitHold (h : CommitLawful s) {c : Slot} (hc : (s.phaseRec c).phase = .awaitHold) :
    s.commit.engine = .fencing := by
  have := h.stands.fits c id
  rw [hc] at this
  cases he : s.commit.engine with
  | idle => rw [he] at this; cases this
  | fencing => rfl
  | releasing => rw [he] at this; exact absurd rfl this.1

theorem not_idle (h : CommitLawful s) {c : Slot} (hc : (s.phaseRec c).phase ≠ .outside) : s.commit.engine ≠ .idle := by
  intro he
  have := h.stands.fits c id
  rw [he] at this
  exact hc this

/-- A card that is not Joined is in no set. -/
theorem outside_of_not_joined (h : CommitLawful s) {c : Slot} (hc : (s.card c).state ≠ .joined) :
    (s.phaseRec c).phase = .outside := by
  by_contra hne
  exact hc (h.stands.joined c hne)

theorem holdAck (h : CommitLawful s) {slot : Slot} (hj : (s.card slot).state = .joined) (g : Word) :
    CommitLawful (holdAck slot g s) := by
  unfold Machine.holdAck
  split
  · rename_i hdue
    refine ((h.stands.setPhase slot (p := .held) ?_ id fun _ => hj).settled fun c hc => hc.1).commitFollows
    rw [hdue.1]
    exact ⟨nofun, nofun⟩
  · exact h

theorem resumeAck (h : CommitLawful s) {slot : Slot} (hj : (s.card slot).state = .joined) (g : Word) :
    CommitLawful (resumeAck slot g s) := by
  unfold Machine.resumeAck
  split
  · rename_i hdue
    refine ((h.stands.setPhase slot (p := .done) ?_ id fun _ => hj).settled fun c hc => hc.1).commitFollows
    rw [hdue.1]
    exact ⟨nofun, nofun, nofun⟩
  · exact h

/-- A card that becomes Joined enters the set of the commit in flight (R108, R110). -/
theorem cardJoined (h : CommitLawful s) {slot : Slot} (hj : (s.card slot).state = .joined)
    (hout : (s.phaseRec slot).phase = .outside) : CommitLawful (cardJoined slot s) := by
  have hdue := h.nothingDue
  have hother : ∀ c, (s.phaseRec c).phase ≠ .outside → slot ≠ c := fun c hc he => hc (he ▸ hout)
  unfold Machine.cardJoined
  split
  · rename_i he
    have hset := (h.stands.setPhase slot (p := .late) (by rw [he]; exact ⟨nofun, nofun⟩) id fun _ => hj).settled fun c hc => hc.1
    refine commitLawful_iff.2 ⟨hset, ⟨fun _ => ?_, fun hr => ?_⟩, fun hi => ?_⟩
    · obtain ⟨c, hc⟩ := hdue.fencing he
      exact ⟨c, by rw [setPhase_phaseRec, if_neg (hother c (by simp [hc])), hc]⟩
    · have hr : s.commit.engine = .releasing := hr
      rw [he] at hr
      cases hr
    · have hi : s.commit.engine = .idle := hi
      rw [he] at hi
      cases hi
  · rename_i he
    have hset := (h.stands.sendPhase slot (p := .awaitResume) (.resume s.commit.releaseGen) (by rw [he]; exact ⟨nofun, nofun, nofun⟩)
      trivial hj).settled fun c hc => hc.1
    refine commitLawful_iff.2 ⟨hset, ⟨fun hf => ?_, fun _ => ⟨slot, ?_⟩⟩, fun hi => ?_⟩
    · have hf : s.commit.engine = .fencing := hf
      rw [he] at hf
      cases hf
    · exact congrArg CommitCard.phase ((sendPhase_phaseRec slot slot _ _ s).trans (if_pos rfl))
    · have hi : s.commit.engine = .idle := hi
      rw [he] at hi
      cases hi
  · exact h

/-- A card has left service: it leaves the set (R108, R110). The law held before it left, when it may have been Joined. -/
theorem cardLeft (h : CommitLawful s) {slot : Slot} (hc : t.commit = s.commit) (hz : t.zones = s.zones)
    (hj : ∀ c, c ≠ slot → (s.card c).state = .joined → (t.card c).state = .joined) : CommitLawful (cardLeft slot t) := by
  have hphase : ∀ c, t.phaseRec c = s.phaseRec c := phaseRec_of_commit hc
  unfold Machine.cardLeft
  split
  · rename_i hout
    obtain ⟨hstands, hdue, hqueued⟩ := commitLawful_iff.1 h
    refine commitLawful_iff.2 ⟨hstands.of_left (hphase slot ▸ hout) hc hz hj, ⟨fun he => ?_, fun he => ?_⟩, by rw [hc]; exact hqueued⟩
    · simp only [hphase]
      exact hdue.fencing (hc ▸ he)
    · simp only [hphase]
      exact hdue.releasing (hc ▸ he)
  · have hs := h.stands
    have hset : EngineStands noCard (setPhase slot .outside t) := by
      refine ⟨?_, ?_, fun c _ => ?_, ?_, fun c => ?_, fun c => ?_⟩
      · show t.commit.engine = .idle ↔ t.commit.active = none
        rw [hc]
        exact hs.active
      · show t.commit.engine = .idle → t.commit.tally = 0
        rw [hc]
        exact hs.tally
      · show PhaseFits t.commit.engine _
        rw [setPhase_phaseRec]
        split
        · exact phaseFits_outside _
        · rw [hc, hphase]
          exact hs.fits c id
      · show t.zones.workingState = .frozen ↔ t.commit.queued ≠ none
        rw [hc, hz]
        exact hs.frozen
      · rw [setPhase_phaseRec]
        split
        · exact iff_of_false nofun id
        · rw [hphase]
          exact hs.timer c
      · rw [setPhase_phaseRec]
        split
        · exact fun hne => absurd rfl hne
        · rename_i hne
          rw [hphase]
          exact fun hp => hj c (Ne.symm hne) (hs.joined c hp)
    exact hset.commitFollows

/-- The Commit Engine's part of a fence, up to the claim (R107). -/
theorem fenceCard (h : CommitLawful s) {slot : Slot} (hin : (s.phaseRec slot).phase ≠ .outside) :
    CommitLawful (fenceCard slot s) := by
  have hidle := h.not_idle hin
  have hset := (h.stands.setPhase slot (phaseFits_outside _) nofun fun hne => absurd rfl hne).settled fun c hc => hc.1
  have hcounted : EngineStands noCard ((setPhase slot .outside s).modCommit fun e => { e with tally := min (e.tally + 1) 255 }) :=
    ⟨hset.active, fun he => absurd he hidle, hset.fits, hset.frozen, hset.timer, hset.joined⟩
  have hout : (((setPhase slot .outside s).modCommit fun e => { e with tally := min (e.tally + 1) 255 }).phaseRec slot).phase = .outside := by
    show ((setPhase slot .outside s).phaseRec slot).phase = .outside
    rw [setPhase_phaseRec, if_pos rfl]
  unfold Machine.fenceCard
  dsimp only
  generalize (setPhase slot .outside s).modCommit (fun e => { e with tally := min (e.tally + 1) 255 }) = u at hcounted hout ⊢
  have hnoted := EngineSame.noteRecord u.commit.active (fun r => { r with fenced := u.commit.tally }) u
  have hn := hnoted.stands hcounted
  have houtn := hnoted.phaseRec slot
  generalize noteRecord u.commit.active (fun r => { r with fenced := u.commit.tally }) u = v at hn houtn ⊢
  refine EngineStands.commitFollows ?_
  unfold fenceClaim
  split
  · have hfollow := (((EngineApart.refl (enterCard slot .fenced v)).raise (plainRaise .cardFault (slotNumber slot) .major 4)).portsFollowCard
      slot v)
    refine hn.of_left (houtn.symm ▸ hout) hfollow.commit hfollow.zones fun c hc hcj => ?_
    rw [hfollow.state, enterCard_card_other hc]
    exact hcj
  · exact hn

theorem commitTimeout (h : CommitLawful s) {slot : Slot} (hin : (s.phaseRec slot).phase.awaits) (m : CardMsg) :
    CommitLawful (commitTimeout slot m s) := by
  have hne : (s.phaseRec slot).phase ≠ .outside := fun ho => by rw [ho] at hin; exact hin
  unfold Machine.commitTimeout
  dsimp only
  split
  · refine (EngineSame.send slot m _).commitLawful ?_
    have hphase : ∀ c, ((s.modPhase slot fun c => { c with
        resends := (s.phaseRec slot).resends + 1,
        timeout := commitTimeoutMs ((s.phaseRec slot).resends + 1),
        timerOn := true }).phaseRec c).phase = (s.phaseRec c).phase := fun c => by
      rw [modPhase_phaseRec]
      split
      · subst_vars
        rfl
      · rfl
    obtain ⟨hstands, hdue, hqueued⟩ := commitLawful_iff.1 h
    refine commitLawful_iff.2 ⟨⟨hstands.active, hstands.tally, fun c hc => ?_, hstands.frozen, fun c => ?_, fun c => ?_⟩,
      ⟨fun he => ?_, fun he => ?_⟩, hqueued⟩
    · rw [hphase]
      exact hstands.fits c hc
    · rw [hphase, modPhase_phaseRec]
      split
      · rename_i he
        exact iff_of_true rfl (he ▸ hin)
      · exact hstands.timer c
    · rw [hphase]
      exact hstands.joined c
    · simp only [hphase]
      exact hdue.fencing he
    · simp only [hphase]
      exact hdue.releasing he
  · exact h.fenceCard hne

theorem commitAbort (h : CommitLawful s) : CommitLawful (commitAbort s).1 := by
  unfold Machine.commitAbort
  split
  · exact h
  · exact h
  · rename_i he
    refine EngineStands.commitFollows ((EngineSame.reason _ _).stands ?_)
    have hactive : s.commit.active ≠ none := fun ha => by
      have := h.stands.active.2 ha
      rw [he] at this
      cases this
    have hreleasing : EngineStands (fun c => (s.phaseRec c).phase = .held ∨ (s.phaseRec c).phase = .awaitHold ∨ (s.phaseRec c).phase = .late)
        ((emptyPending s).modCommit fun e => { e with direction := .abort, releaseGen := s.zones.generation, engine := .releasing }) := by
      refine ⟨iff_of_false nofun hactive, nofun, fun c hc => ?_, h.stands.frozen, h.stands.timer, h.stands.joined⟩
      obtain ⟨hheld, hawait, hlate⟩ : _ ∧ _ ∧ _ := by simpa only [not_or] using hc
      exact ⟨hawait, hheld, hlate⟩
    have htold := hreleasing.forEach_sendPhase (p := .awaitResume) (fun s => .resume s.commit.releaseGen) ⟨nofun, nofun, nofun⟩
      trivial (l := cardsIn s fun p => p == .held || p == .awaitHold) fun c hc => by
        refine h.stands.joined c fun ho => ?_
        have := mem_cardsIn.1 hc
        rw [ho] at this
        cases this
    refine (htold.forEach_setOutside (l := cardsIn s (· == .late))).settled fun c hc => ?_
    obtain ⟨⟨hc, hnot⟩, hnotlate⟩ := hc
    simp only [mem_cardsIn, Bool.or_eq_true, beq_iff_eq, not_or] at hnot hnotlate
    rcases hc with hc | hc | hc
    · exact hnot.1 hc
    · exact hnot.2 hc
    · exact hnotlate hc

theorem confirmedCommit (h : CommitLawful s) : CommitLawful (confirmedCommit s).1 := by
  unfold Machine.confirmedCommit
  split
  · exact h
  · exact h
  · have htaken : EngineSame s (addReason .commit (s.modCommit (CommitEngine.takeNumber s.zones.generation))) :=
      ⟨rfl, rfl, rfl, rfl, rfl, Iff.rfl, fun _ => id⟩
    have ht := htaken.commitLawful h
    unfold acceptCommit
    dsimp only
    generalize addReason .commit (s.modCommit (CommitEngine.takeNumber s.zones.generation)) = u at ht ⊢
    have hqueue : u.commit.engine ≠ .idle → CommitLawful ((u.modZones fun z => { z with workingState := .frozen }).modCommit fun e =>
        { e with queued := some e.nextNumber }) := fun he => by
      obtain ⟨hstands, hdue, -⟩ := commitLawful_iff.1 ht
      exact commitLawful_iff.2 ⟨⟨hstands.active, hstands.tally, hstands.fits, iff_of_true rfl nofun, hstands.timer, hstands.joined⟩,
        ⟨hdue.fencing, hdue.releasing⟩, fun hi => absurd hi he⟩
    split
    · rename_i he
      exact ht.stands.start he _
    · rename_i he
      exact hqueue (by rw [he]; nofun)
    · rename_i he
      exact hqueue (by rw [he]; nofun)

theorem commitWithdraw (h : CommitLawful s) : CommitLawful (commitWithdraw s).1 := by
  unfold Machine.commitWithdraw
  split
  · exact h
  · exact h
  · rename_i hz
    have hnoted := EngineSame.noteRecord s.commit.queued (fun r => { r with outcome := .withdrawn }) s
    have hn := hnoted.commitLawful h
    dsimp only
    generalize noteRecord s.commit.queued (fun r => { r with outcome := .withdrawn }) s = u at hn ⊢
    obtain ⟨hstands, hdue, -⟩ := commitLawful_iff.1 hn
    refine (EngineSame.reason _ _).commitLawful (commitLawful_iff.2 ⟨⟨hstands.active, hstands.tally, hstands.fits,
      iff_of_false nofun fun hq => hq rfl, hstands.timer, hstands.joined⟩, ⟨hdue.fencing, hdue.releasing⟩, fun _ => rfl⟩)

end CommitLawful

end Sys2Proof.Machine

/-! PROOFS. A law that speaks of the engine, of the logins or of what is Serviceable is kept by every deed as soon as it is kept by a few
operations: the changes of a port, the displacement of a port, the joining, the fence and the departure of a card, the Commit Engine's
own operations, and the Name Map's. -/

namespace Sys2Proof.Machine

/-! ## Changes that such a law does not see -/

/-- From s to t the engine, the Name Map, the login counts and what is Serviceable stand. -/
structure Still (s t : State) : Prop where
  engine : EngineSame s t
  names : t.names = s.names
  logins : ∀ n, (t.port n).logins = (s.port n).logins
  serviceable : ∀ n, serviceable t n = serviceable s n

/-- Serviceable speaks of the port's intent, license and power and of its card's state and identity (R3). -/
theorem serviceable_congr {s t : State} {n : PortIx} (hi : (t.port n).intent = (s.port n).intent)
    (hl : (t.port n).license = (s.port n).license) (hp : (t.port n).power = (s.port n).power)
    (hs : (cardOf t n).state = (cardOf s n).state) (hid : (cardOf t n).identity = (cardOf s n).identity) :
    serviceable t n = serviceable s n := by
  unfold serviceable withinCount CardRec.portCount
  rw [hi, hl, hp, hs, hid]

theorem serviceable_of_not_joined {s : State} {n : PortIx} (h : (cardOf s n).state ≠ .joined) : serviceable s n = false := by
  simp [serviceable, h]

theorem serviceable_of_not_admitted {s : State} {n : PortIx} (h : (s.port n).power ≠ .admitted) : serviceable s n = false := by
  simp [serviceable, h]

namespace Still

variable {s t u : State}

theorem refl (s : State) : Still s s := ⟨.refl s, rfl, fun _ => rfl, fun _ => rfl⟩

theorem trans (h : Still s t) (h' : Still t u) : Still s u :=
  ⟨h.engine.trans h'.engine, h'.names.trans h.names, fun n => (h'.logins n).trans (h.logins n),
    fun n => (h'.serviceable n).trans (h.serviceable n)⟩

/-- The ports stand and every card's state and identity. -/
theorem of_records (hp : t.ports = s.ports) (hn : t.names = s.names) (hc : t.commit = s.commit) (hz : t.zones = s.zones)
    (hk : ∀ c, (t.card c).state = (s.card c).state ∧ (t.card c).identity = (s.card c).identity) : Still s t :=
  ⟨.of_records hc hz fun c hj => (hk c).1.trans hj, hn, fun n => by rw [port_of_ports hp], fun n =>
    serviceable_congr (by rw [port_of_ports hp]) (by rw [port_of_ports hp]) (by rw [port_of_ports hp]) (hk _).1 (hk _).2⟩

theorem of_cards (hp : t.ports = s.ports) (hn : t.names = s.names) (hc : t.commit = s.commit) (hz : t.zones = s.zones)
    (hk : t.cards = s.cards) : Still s t :=
  of_records hp hn hc hz fun c => by rw [card_of_cards hk]; exact ⟨rfl, rfl⟩

theorem card (slot : Slot) (f : CardRec → CardRec) (hf : ∀ c, (f c).state = c.state ∧ (f c).identity = c.identity) (s : State) :
    Still s (s.modCard slot f) :=
  of_records rfl rfl rfl rfl fun c => by
    have hcore := (CoreKept.refl s).card slot f hf
    exact ⟨hcore.state c, hcore.identity c⟩

theorem send (slot : Slot) (m : CardMsg) (s : State) : Still s (Machine.send slot m s) :=
  of_records rfl rfl rfl rfl fun c =>
    ⟨((CoreKept.refl s).send slot m).state c, ((CoreKept.refl s).send slot m).identity c⟩

theorem raise (r : Raise) (s : State) : Still s (raiseAlarm r s) := by
  rw [raiseAlarm_eq]
  exact of_cards rfl rfl rfl rfl rfl

theorem clear (c : Cause) (subject : Nat) (s : State) : Still s (endAlarm c subject s) := by
  rw [endAlarm_eq]
  exact of_cards rfl rfl rfl rfl rfl

/-- A card that is not Joined enters a state other than Joined, or is given another identity. -/
theorem of_out {slot : Slot} (hp : t.ports = s.ports) (hn : t.names = s.names) (hc : t.commit = s.commit) (hz : t.zones = s.zones)
    (hs : (s.card slot).state ≠ .joined) (ht : (t.card slot).state ≠ .joined)
    (hk : ∀ c, c ≠ slot → (t.card c).state = (s.card c).state ∧ (t.card c).identity = (s.card c).identity) : Still s t := by
  refine ⟨.of_records hc hz fun c hj => ?_, hn, fun n => by rw [port_of_ports hp], fun n => ?_⟩
  · by_cases he : c = slot
    · exact absurd (he ▸ hj) hs
    · exact (hk c he).1.trans hj
  · by_cases he : slotOf n = slot
    · have hsn : Machine.serviceable s n = false := serviceable_of_not_joined (by rw [cardOf, he]; exact hs)
      have htn : Machine.serviceable t n = false := serviceable_of_not_joined (by rw [cardOf, he]; exact ht)
      rw [hsn, htn]
    · exact serviceable_congr (by rw [port_of_ports hp]) (by rw [port_of_ports hp]) (by rw [port_of_ports hp]) (hk _ he).1 (hk _ he).2

theorem of_enters {slot : Slot} {st : CardState} (h : CardEnters slot st s t) (hs : (s.card slot).state ≠ .joined) (hst : st ≠ .joined)
    (hn : t.names = s.names) (hc : t.commit = s.commit) (hz : t.zones = s.zones) : Still s t :=
  of_out h.ports hn hc hz hs (by rw [h.state]; exact hst) h.others

/-- A port that is not Admitted is changed, and is not Admitted after. -/
theorem port (n : PortIx) (f : PortRec → PortRec) (hf : ∀ r, (f r).logins = r.logins) (hs : (s.port n).power ≠ .admitted)
    (ht : (f (s.port n)).power ≠ .admitted) : Still s (s.modPort n f) := by
  refine ⟨.of_records rfl rfl fun _ => id, rfl, fun m => ?_, fun m => ?_⟩
  · rw [modPort_port]
    split
    · rename_i he
      exact he ▸ hf _
    · rfl
  · by_cases hm : m = n
    · subst hm
      rw [serviceable_of_not_admitted hs, serviceable_of_not_admitted (by rw [modPort_port_same]; exact ht)]
    · have hport := modPort_port_other hm f s
      exact serviceable_congr (by rw [hport]) (by rw [hport]) (by rw [hport]) rfl rfl

/-- A port's priority is no part of what the law sees. -/
theorem priority (n : PortIx) (k : Priority) (s : State) : Still s (s.modPort n fun r => { r with priority := k }) := by
  have hport : ∀ m, ((s.modPort n fun r => { r with priority := k }).port m) =
      { s.port m with priority := ((s.modPort n fun r => { r with priority := k }).port m).priority } := fun m => by
    rw [modPort_port]
    split
    · rename_i he
      subst he
      rfl
    · rfl
  exact ⟨.of_records rfl rfl fun _ => id, rfl, fun m => by rw [hport], fun m =>
    serviceable_congr (by rw [hport]) (by rw [hport]) (by rw [hport]) rfl rfl⟩

end Still

/-! ### The command ports -/

/-- Working is Frozen where it was: such a change of the Zone Store the law does not see. -/
theorem Still.of_zones {s t : State} (hp : t.ports = s.ports) (hn : t.names = s.names) (hc : t.commit = s.commit)
    (hz : t.zones.workingState = .frozen ↔ s.zones.workingState = .frozen) (hk : t.cards = s.cards) : Still s t :=
  ⟨⟨by rw [hc], by rw [hc], by rw [hc], by rw [hc], by rw [hc], hz, fun c hj => by rw [card_of_cards hk]; exact hj⟩, hn,
    fun n => by rw [port_of_ports hp], fun n => serviceable_congr (by rw [port_of_ports hp]) (by rw [port_of_ports hp])
      (by rw [port_of_ports hp]) (by rw [cardOf, cardOf, card_of_cards hk]) (by rw [cardOf, cardOf, card_of_cards hk])⟩

theorem unarmWorking_frozen (z : ZoneStore) : (unarmWorking z).workingState = .frozen ↔ z.workingState = .frozen := by
  unfold unarmWorking
  cases z.workingState <;> simp

theorem disarm_frozen (p : PortId) (s : State) :
    (disarm p s).zones.workingState = .frozen ↔ s.zones.workingState = .frozen := by
  unfold disarm
  rw [modCmd_zones]
  cases (s.cmdPort p).armed with
  | commit => exact unarmWorking_frozen s.zones
  | none | poolRevoke _ | slotReset _ => exact Iff.rfl

theorem changeMastership_frozen (m : Option PortId) (s : State) :
    (changeMastership m s).zones.workingState = .frozen ↔ s.zones.workingState = .frozen := by
  unfold changeMastership
  split
  · exact disarm_frozen _ s
  · exact Iff.rfl

theorem resetPort_frozen (p : PortId) (s : State) :
    (resetPort p s).zones.workingState = .frozen ↔ s.zones.workingState = .frozen := by
  have hzones : (resetPort p s).zones = (if isMaster s p then changeMastership none s else s).zones := by
    unfold resetPort
    cases p <;> rfl
  rw [hzones]
  split
  · exact changeMastership_frozen none s
  · exact Iff.rfl

/-- Disarming takes Working from Armed to Editable and never from Frozen (R160). -/
theorem PortDeed.frozen {s t : State} (h : PortDeed s t) :
    t.zones.workingState = .frozen ↔ s.zones.workingState = .frozen := by
  cases h with
  | port p f => rw [modCmd_zones]
  | disarm p => exact disarm_frozen p s
  | mastership m => exact changeMastership_frozen m s
  | reset p => exact resetPort_frozen p s
  | attention p f => cases p <;> rfl

theorem PortDeed.still {s t : State} (h : PortDeed s t) : Still s t := by
  have hf := h.frame
  exact .of_zones (by rw [hf]) (by rw [hf]) (by rw [hf]) h.frozen (by rw [hf])

theorem commitSetup_still (p : PortId) (s : State) : Still s (commitSetup p s).1 := by
  unfold commitSetup
  split
  · rename_i he
    have hzones : (((s.modZones fun z => { z with workingState := .armed }).modCmd p fun x => { x with armed := .commit }).zones
        ).workingState = .armed := by rw [modCmd_zones]; rfl
    refine .of_zones ?_ ?_ ?_ ?_ ?_
    · cases p <;> rfl
    · cases p <;> rfl
    · cases p <;> rfl
    · exact iff_of_false (by rw [hzones]; nofun) (by rw [he]; nofun)
    · cases p <;> rfl
  · exact .refl s
  · exact .refl s

/-! ## The law's own operations -/

/-- A law that a change which it does not see keeps, and that the operations which it does see keep. -/
structure RestLaw (K : State → Prop) : Prop where
  still : ∀ {s t}, Still s t → K s → K t
  portChange : ∀ {s} n f, (∀ r : PortRec, (f r).logins = r.logins) → K s → K (portChange n f s)
  displacePort : ∀ {s} n hold, K s → K (displacePort n hold s)
  joinCard : ∀ {s slot}, (s.card slot).state = .admitting → K s → K (portsFollowCard slot s (cardJoined slot
    ((enterCard slot .joined (stopTimer slot s)).modCard slot fun c => { c with attempts := 0 })))
  leaveCard : ∀ {s} slot {st}, st.inService = false → K s → K (leaveCard slot st s)
  link : ∀ {s} slot position lit, K s → K (takeLink slot position lit s)
  holdAck : ∀ {s slot} g, (s.card slot).state = .joined → K s → K (holdAck slot g s)
  resumeAck : ∀ {s slot} g, (s.card slot).state = .joined → K s → K (resumeAck slot g s)
  commitTimeout : ∀ {s slot} m, (s.phaseRec slot).phase.awaits → K s → K (commitTimeout slot m s)
  commitAbort : ∀ {s}, K s → K (commitAbort s).1
  confirmedCommit : ∀ {s}, K s → K (confirmedCommit s).1
  commitWithdraw : ∀ {s}, K s → K (commitWithdraw s).1
  login : ∀ {s} slot position name, K s → K (login slot position name s)
  logout : ∀ {s} slot position name, K s → K (logout slot position name s)
  namePin : ∀ {s} name port, K s → K (namePin name port s).1
  nameUnpin : ∀ {s} name, K s → K (nameUnpin name s).1
  cold : ∀ lines s, K (coldValues lines s)

/-- The law together with that of the wait list, which says that what a restore pass admits was waiting. -/
structure Both (K : State → Prop) (s : State) : Prop where
  law : WaitsLaw False False s
  own : K s

namespace RestLaw

variable {K : State → Prop} {s t : State}

/-! ### Records -/

theorem side (hK : RestLaw K) (h : Both K s) (hc : CoreKept s t) (hs : Still s t) : Both K t :=
  ⟨h.law.of_core hc, hK.still hs h.own⟩

/-- A record that the law itself does not speak of. -/
theorem records (hK : RestLaw K) (h : K s) (hp : t.ports = s.ports) (hn : t.names = s.names) (hc : t.commit = s.commit)
    (hz : t.zones = s.zones) (hk : t.cards = s.cards) : K t :=
  hK.still (.of_cards hp hn hc hz hk) h

/-- A record that neither law speaks of. -/
theorem of_records (hK : RestLaw K) (h : Both K s) (hpw : t.power = s.power) (hp : t.ports = s.ports) (hk : t.cards = s.cards)
    (hn : t.names = s.names) (hc : t.commit = s.commit) (hz : t.zones = s.zones) : Both K t :=
  ⟨h.law.of_records hpw hp hk, hK.still (.of_cards hp hn hc hz hk) h.own⟩

theorem reason (hK : RestLaw K) (h : Both K s) (r : Reason) : Both K (addReason r s) := hK.of_records h rfl rfl rfl rfl rfl rfl

theorem raise (hK : RestLaw K) (h : Both K s) (r : Raise) : Both K (raiseAlarm r s) :=
  hK.side h ((CoreKept.refl s).raise r) (.raise r s)

theorem clear (hK : RestLaw K) (h : Both K s) (c : Cause) (subject : Nat) : Both K (endAlarm c subject s) :=
  hK.side h ((CoreKept.refl s).clear c subject) (.clear c subject s)

theorem card (hK : RestLaw K) (h : Both K s) (slot : Slot) (f : CardRec → CardRec)
    (hf : ∀ c, (f c).state = c.state ∧ (f c).identity = c.identity) : Both K (s.modCard slot f) :=
  hK.side h ((CoreKept.refl s).card slot f hf) (.card slot f hf s)

theorem send (hK : RestLaw K) (h : Both K s) (slot : Slot) (m : CardMsg) : Both K (send slot m s) :=
  hK.card h slot _ fun _ => ⟨rfl, rfl⟩

theorem startTimer (hK : RestLaw K) (h : Both K s) (slot : Slot) (ms : Nat) : Both K (startTimer slot ms s) := by
  unfold Machine.startTimer
  exact hK.card h slot _ fun _ => ⟨rfl, rfl⟩

theorem pool (hK : RestLaw K) (h : Both K s) (i : PoolIx) (f : PoolRec → PoolRec) : Both K (s.modPool i f) :=
  hK.of_records h rfl rfl rfl rfl rfl rfl

theorem unit (hK : RestLaw K) (h : Both K s) (u : UnitIx) (f : UnitRec → UnitRec) : Both K (s.modUnit u f) :=
  hK.of_records h rfl rfl rfl rfl rfl rfl

theorem rule (hK : RestLaw K) (h : Both K s) (r : RuleIx) (f : RuleRec → RuleRec) : Both K (s.modRule r f) :=
  hK.of_records h rfl rfl rfl rfl rfl rfl

theorem scanner (hK : RestLaw K) (h : Both K s) (f : SensorScanner → SensorScanner) : Both K (s.modScanner f) :=
  hK.of_records h rfl rfl rfl rfl rfl rfl

/-! ### The passes (R50, R52) -/

theorem forEach_restoreItem (hK : RestLaw K) {l : List WaitItem} (h : Both K s) (hx : ∀ x ∈ l, Restorable False s x) :
    Both K (forEach l restoreItem s) := by
  induction l generalizing s with
  | nil => exact h
  | cons x l ih =>
    have hxr := hx x List.mem_cons_self
    obtain ⟨hlaw, hrest⟩ := h.law.restoreItem hxr
    rw [forEach_cons]
    refine ih ⟨hlaw, ?_⟩ fun y hy => hrest y (hx y (List.mem_cons_of_mem _ hy)) (.inr id)
    cases x with
    | card c =>
      rw [restoreItem_card]
      split
      · have hout : (s.card c).state ≠ .joined := by
          rcases hxr with hc | ⟨-, hc⟩ <;> rw [hc] <;> nofun
        have hleft : Still s (chargeDraw (s.card c).baseDraw (leaveWait (.card c) s)) := .of_cards rfl rfl rfl rfl rfl
        exact hK.still (.of_enters (admitCard_enters c s) hout nofun rfl rfl rfl) (hK.still hleft h.own)
      · exact h.own
    | port n =>
      rw [restoreItem_port]
      split
      · have hleft : Still s (chargeDraw (portDraw s n) (leaveWait (.port n) s)) := .of_cards rfl rfl rfl rfl rfl
        exact hK.portChange n _ (fun _ => rfl) (hK.still hleft h.own)
      · exact h.own

theorem restorePass (hK : RestLaw K) (h : Both K s) : Both K (restorePass s) := by
  have hloop := hK.forEach_restoreItem h fun x hx => h.law.restorable hx
  unfold Machine.restorePass
  dsimp only
  split
  · exact hK.reason hloop _
  · exact hloop

theorem shedCard (hK : RestLaw K) (h : K s) (slot : Slot) : K (shedCard slot s) :=
  hK.records (hK.leaveCard slot (st := .waiting) rfl h) rfl rfl rfl rfl rfl

theorem shedPortStep (hK : RestLaw K) (h : K s) (n : PortIx) : K (shedPortStep n s) := by
  unfold Machine.shedPortStep
  split
  · exact hK.displacePort n false h
  · exact h

theorem shedCardStep (hK : RestLaw K) (h : K s) (c : Slot) : K (shedCardStep c s) := by
  unfold Machine.shedCardStep
  split
  · exact hK.shedCard h c
  · exact h

theorem shedPass (hK : RestLaw K) (h : Both K s) : Both K (shedPass s) := by
  refine ⟨h.law.shedPass, ?_⟩
  have hports := forEach_keeps (P := K) (act := Machine.shedPortStep) (fun n t ht => hK.shedPortStep ht n) (shedPorts s) h.own
  have hcards := forEach_keeps (P := K) (act := Machine.shedCardStep) (fun c t ht => hK.shedCardStep ht c) allSlots.reverse hports
  unfold Machine.shedPass
  generalize Machine.forEach allSlots.reverse Machine.shedCardStep (Machine.forEach (shedPorts s) Machine.shedPortStep s) = u
    at hcards
  exact hK.records hcards rfl rfl rfl rfl rfl

/-! ### Budget changes and the cap (R47, R56 to R58, R19) -/

theorem budgetChange (hK : RestLaw K) (h : Both K s) (g : PowerBudget → PowerBudget)
    (hg : (g s.power).waitList = s.power.waitList ∧ (g s.power).admitted = s.power.admitted ∧ (g s.power).cap = s.power.cap) :
    Both K (budgetChange g s) := by
  have hset : Both K (budgetSet g s) :=
    ⟨h.law.setSupply hg (budgetSet_eq g s), hK.still (by rw [budgetSet_eq]; exact .of_cards rfl rfl rfl rfl rfl) h.own⟩
  rw [budgetChange_eq]
  unfold Machine.budgetFollows
  split
  · split
    · exact hK.shedPass hset
    · exact hset
  · split
    · exact hK.restorePass hset
    · exact hset

theorem settleDeficit (hK : RestLaw K) (h : Both K s) : Both K (settleDeficit s) := by
  have hset : ∀ b, Still s (s.modPower fun p => { p with deficit := b }) := fun b => .of_cards rfl rfl rfl rfl rfl
  refine ⟨h.law.settleDeficit, ?_⟩
  unfold Machine.settleDeficit
  split
  · exact hK.still ((hset true).trans (.raise _ _)) h.own
  · exact hK.still ((hset false).trans (.clear _ _ _)) h.own
  · exact h.own
  · exact h.own

theorem forEach_setHold (hK : RestLaw K) {l : List PortIx} (hold : Bool) (h : K s) (hx : ∀ n ∈ l, (s.port n).power = .waiting) :
    K (forEach l (fun n s => setPower n .waiting hold s) s) := by
  induction l generalizing s with
  | nil => exact h
  | cons n l ih =>
    rw [forEach_cons]
    refine ih (hK.still (.port n _ (fun _ => rfl) (by simp [hx n List.mem_cons_self]) nofun) h) fun m hm => ?_
    by_cases hmn : m = n
    · subst hmn
      simp [setPower]
    · rw [setPower_port_other hmn]
      exact hx m (List.mem_cons_of_mem _ hm)

theorem setClaims (hK : RestLaw K) (h : Both K s) (l : List ThermalClaim) : Both K (setClaims l s) := by
  have hset := WaitsLaw.withClaims h.law.waits l (capOf l)
  have hown : K (s.modPower fun p => { p with claims := l, cap := capOf l }) := hK.records h.own rfl rfl rfl rfl rfl
  unfold Machine.setClaims
  dsimp only
  split
  · rename_i hlt
    refine hK.reason ?_ _
    have hheld : Both K (capHeld (capOf l) (capDisplaced (capOf l) (s.modPower fun p => { p with claims := l, cap := capOf l }))) :=
      ⟨WaitsLaw.capHeld hset rfl (le_of_lt hlt) h.law.holds, hK.forEach_setHold true
        (forEach_keeps (P := K) (fun n t ht => hK.displacePort n true ht) _ hown) fun n hn => (mem_portsAtCap.1 hn).1⟩
    rw [capFell_eq]
    split
    · exact hheld
    · exact hK.restorePass hheld
  · split
    · rename_i hlt
      refine hK.reason (hK.restorePass ⟨WaitsLaw.capFreed hset rfl (le_of_lt hlt) h.law.holds,
        hK.forEach_setHold false hown fun n hn => ?_⟩) _
      have hn := (mem_portsWhere.1 hn)
      exact of_decide_eq_true (Bool.and_eq_true_iff.1 hn).1
    · rename_i hle hge
      have : capOf l = s.power.cap := by omega
      exact ⟨⟨hset, fun n => (h.law.holds n).congr rfl rfl rfl this⟩, hown⟩

theorem replaced (hK : RestLaw K) (h : K s) {n : PortIx} (hn : (s.port n).power = .waiting) (prio : Priority) (held : Bool) :
    K (replaced n prio held s) := by
  have hleft : Still s (leaveWait (.port n) (s.modPort n fun r => { r with priority := prio })) :=
    (Still.priority n prio s).trans (.of_cards rfl rfl rfl rfl rfl)
  have hset : Still (leaveWait (.port n) (s.modPort n fun r => { r with priority := prio }))
      (setPower n .waiting held (leaveWait (.port n) (s.modPort n fun r => { r with priority := prio }))) := by
    refine .port n _ (fun _ => rfl) ?_ nofun
    simp [leaveWait, hn]
  exact hK.still ((hleft.trans hset).trans (.of_cards rfl rfl rfl rfl rfl)) h

theorem changePriority (hK : RestLaw K) (h : Both K s) (n : PortIx) (prio : Priority) : Both K (changePriority n prio s) := by
  have hlaw := h.law.changePriority n prio
  have hset := hK.still (Still.priority n prio s) h.own
  unfold Machine.changePriority at hlaw ⊢
  dsimp only at hlaw ⊢
  split
  · rename_i hoff
    rw [hoff] at hlaw
    exact ⟨hlaw, hset⟩
  · rename_i hn
    have hmoved : Both K (Machine.replaced n prio (decide (s.power.cap ≤ prio.val)) s) :=
      ⟨h.law.replaced hn prio rfl, hK.replaced h.own hn prio _⟩
    split
    · exact hmoved
    · exact hK.restorePass hmoved
  · rename_i hn
    rw [hn] at hlaw
    split
    · rename_i hheld
      exact hK.restorePass ⟨h.law.displaceAtCap hn (by simpa using hheld), hK.displacePort n true hset⟩
    · rename_i hheld
      dsimp only at hlaw
      rw [if_neg hheld] at hlaw
      exact ⟨hlaw, hset⟩

/-! ### Licences (R62 to R78) -/

theorem forEach {α : Type} {act : α → State → State} (ha : ∀ x t, Both K t → Both K (act x t)) (l : List α) (h : Both K s) :
    Both K (Machine.forEach l act s) :=
  forEach_keeps ha l h

theorem setLicense (hK : RestLaw K) (h : Both K s) (n : PortIx) (x : License) :
    Both K (Machine.portChange n (fun r => { r with license := x }) s) :=
  ⟨h.law.setLicense n x, hK.portChange n _ (fun _ => rfl) h.own⟩

theorem changeBound (hK : RestLaw K) (h : Both K s) (i : PoolIx) (g : Nat → Nat) : Both K (changeBound i g s) :=
  hK.reason (hK.pool h i _) _

theorem bindPort (hK : RestLaw K) (h : Both K s) (n : PortIx) (i : PoolIx) : Both K (bindPort n i s) := by
  unfold Machine.bindPort
  dsimp only
  split
  · exact hK.setLicense (hK.changeBound (hK.changeBound h _ _) i _) n _
  · exact hK.setLicense (hK.changeBound h i _) n _

theorem unbindPort (hK : RestLaw K) (h : Both K s) (n : PortIx) : Both K (unbindPort n s) := by
  unfold Machine.unbindPort
  dsimp only
  split
  · exact hK.setLicense (hK.changeBound h _ _) n _
  · exact hK.setLicense h n _

theorem rebindingPass (hK : RestLaw K) (h : Both K s) : Both K (rebindingPass s) := by
  refine forEach (fun n t ht => ?_) _ h
  unfold autoBind
  split
  · exact hK.bindPort ht n _
  · exact ht

theorem rebindThenRestore (hK : RestLaw K) (h : Both K s) (before : Nat) : Both K (rebindThenRestore before s) := by
  have hpass := hK.rebindingPass h
  unfold Machine.rebindThenRestore
  dsimp only
  split
  · exact hK.restorePass hpass
  · exact hpass

theorem poolTermClaim (hK : RestLaw K) (h : Both K s) (i : PoolIx) (x y : PoolState) : Both K (poolTermClaim i x y s) := by
  unfold Machine.poolTermClaim
  split
  · exact hK.raise h _
  · exact hK.raise h _
  all_goals
    split
    all_goals first | exact hK.clear h _ _ | exact h

theorem writePool (hK : RestLaw K) (h : Both K s) (i : PoolIx) (r : PoolRec) : Both K (writePool i r s) := by
  unfold Machine.writePool
  dsimp only
  split
  · exact hK.pool h i _
  · exact hK.reason (hK.poolTermClaim (hK.pool h i _) i _ _) _

theorem applyCredential (hK : RestLaw K) (h : Both K s) (c : Credential) : Both K (applyCredential c s) := by
  unfold Machine.applyCredential
  dsimp only
  refine hK.rebindThenRestore (hK.reason ?_ _) _
  split
  · exact forEach (act := fun n => Machine.portChange n fun r => { r with license := .bound c.pool })
      (fun n t ht => hK.setLicense ht n _) _ (hK.writePool h _ _)
  · exact hK.writePool h _ _

theorem poolInstall (hK : RestLaw K) (h : Both K s) (pool tier kind : Byte) (capacity hours warn : Half) (check : Word) :
    Both K (poolInstall pool tier kind capacity hours warn check s).1 := by
  unfold Machine.poolInstall
  split
  · exact h
  · split
    · exact h
    · dsimp only
      split
      · exact h
      · split
        · exact h
        · split
          · exact h
          · dsimp only
            exact hK.applyCredential h _

theorem confirmedPoolRevoke (hK : RestLaw K) (h : Both K s) (i : PoolIx) : Both K (confirmedPoolRevoke i s).1 := by
  unfold Machine.confirmedPoolRevoke
  split
  · exact h
  · have hunbound := forEach (act := Machine.unbindPort) (fun n t ht => hK.unbindPort ht n) (portsOfPool s i) h
    dsimp only
    exact hK.rebindThenRestore (hK.reason (hK.writePool hunbound i _) _) _

theorem countPool (hK : RestLaw K) (h : Both K s) (i : PoolIx) : Both K (countPool i s) := by
  unfold Machine.countPool
  dsimp only
  split
  · split
    · refine forEach (act := enterGrace i) (fun n t ht => ?_) _ (hK.writePool h i _)
      unfold enterGrace
      split
      · exact hK.unbindPort ht n
      · exact hK.setLicense ht n _
    · exact hK.writePool h i _
  · exact h

theorem countGrace (hK : RestLaw K) (h : Both K s) (n : PortIx) : Both K (countGrace n s) := by
  unfold Machine.countGrace
  split
  · split
    · exact hK.unbindPort h n
    · exact hK.setLicense h n _
  · exact h
  · exact h

theorem hourTimer (hK : RestLaw K) (h : Both K s) : Both K (hourTimer s) := by
  have hgrace := forEach (act := Machine.countGrace) (fun n t ht => hK.countGrace ht n) (portsInGrace s)
    (forEach (act := Machine.countPool) (fun i t ht => hK.countPool ht i) allPools h)
  unfold Machine.hourTimer
  dsimp only
  split
  · exact hK.rebindThenRestore hgrace _
  · exact hgrace

/-! ### The port commands (R13 to R19) -/

theorem portSetPriority (hK : RestLaw K) (h : Both K s) (port : Half) (priority : Byte) :
    Both K (portSetPriority port priority s).1 := by
  unfold Machine.portSetPriority
  split
  · exact h
  · exact h
  · split
    · exact h
    · exact hK.changePriority h _ _

theorem enableSteps (hK : RestLaw K) (h : Both K s) (n : PortIx) (named : Option PoolIx) : Both K (enableSteps n named s).1 := by
  unfold Machine.enableSteps
  split
  · exact h
  · split
    · exact hK.restorePass h
    · split
      · exact h
      · exact hK.restorePass (hK.bindPort h n _)

theorem enablePort (hK : RestLaw K) (h : Both K s) (n : PortIx) (named : Option PoolIx) (prio : Option Priority) :
    Both K (enablePort n named prio s).1 := by
  unfold Machine.enablePort
  split
  · split
    · split
      · exact h
      · exact hK.changePriority h n _
    · exact h
  · rename_i hi
    have hout : eligible s n = false := by simp [eligible, hi]
    exact hK.enableSteps ⟨h.law.portChange n (fun r => { r with intent := .enabled, priority := prio.getD r.priority })
      (fun _ => ⟨rfl, rfl⟩) fun hn => absurd (h.law.eligible_of_power hn) (by simp [hout]), hK.portChange n _ (fun _ => rfl) h.own⟩ n named

theorem portEnable (hK : RestLaw K) (h : Both K s) (port : Half) (pool priority : Byte) :
    Both K (portEnable port pool priority s).1 := by
  unfold Machine.portEnable
  split
  · exact h
  · split
    · exact h
    · exact hK.enablePort h _ _ _

theorem portDisable (hK : RestLaw K) (h : Both K s) (port : Half) : Both K (portDisable port s).1 := by
  have hoff : ∀ n, Both K (Machine.portChange n (fun r => { r with intent := .disabled }) s) := fun n =>
    ⟨h.law.portChange n _ (fun _ => ⟨rfl, rfl⟩) fun _ => rfl, hK.portChange n _ (fun _ => rfl) h.own⟩
  unfold Machine.portDisable
  split
  · exact h
  · split
    · exact h
    · dsimp only [disablePort]
      split
      · exact hK.restorePass (hoff _)
      · exact hoff _

theorem portReleaseLicense (hK : RestLaw K) (h : Both K s) (port : Half) : Both K (portReleaseLicense port s).1 := by
  unfold Machine.portReleaseLicense
  split
  · exact h
  · split
    · exact h
    · split
      · exact h
      · dsimp only
        exact hK.rebindThenRestore (hK.unbindPort h _) _

/-! ### Cards (R24 to R37) -/

/-- A card that is not Joined enters another such state. -/
theorem enters (hK : RestLaw K) (h : K s) {slot : Slot} {st : CardState} (hk : CardEnters slot st s t)
    (hs : (s.card slot).state ≠ .joined) (hst : st ≠ .joined) (hn : t.names = s.names) (hc : t.commit = s.commit)
    (hz : t.zones = s.zones) : K t :=
  hK.still (.of_enters hk hs hst hn hc hz) h

theorem failCard_records (slot : Slot) (r : FailureReason) (s : State) : (failCard slot r s).names = s.names ∧
    (failCard slot r s).commit = s.commit ∧ (failCard slot r s).zones = s.zones := by
  rw [failCard, raiseAlarm_eq]
  exact ⟨rfl, rfl, rfl⟩

theorem failCard (hK : RestLaw K) (h : Both K s) {slot : Slot} (r : FailureReason) (hs : (s.card slot).state = .probing) :
    Both K (failCard slot r s) := by
  obtain ⟨hn, hc, hz⟩ := failCard_records slot r s
  exact ⟨h.law.failCard r hs, hK.enters h.own (failCard_enters slot r s) (by rw [hs]; nofun) nofun hn hc hz⟩

theorem startProbe (hK : RestLaw K) (h : Both K s) {slot : Slot} (attempts : Nat) (hs : (s.card slot).state = .empty) :
    Both K (startProbe slot attempts s) :=
  ⟨h.law.startProbe attempts hs, hK.enters h.own (startProbe_enters slot attempts s) (by rw [hs]; nofun) nofun rfl rfl rfl⟩

theorem presenceRise (hK : RestLaw K) (h : Both K s) (slot : Slot) : Both K (presenceRise slot s) := by
  have ht := hK.card h slot (fun c => { c with presence := true }) fun _ => ⟨rfl, rfl⟩
  unfold Machine.presenceRise
  split
  · exact h
  · dsimp only
    split
    · exact hK.startProbe ht 0 (by simpa)
    · exact ht

theorem probeTimeout (hK : RestLaw K) (h : Both K s) (slot : Slot) : Both K (probeTimeout slot s) := by
  unfold Machine.probeTimeout
  split
  · rename_i hp
    split
    · have hcount := hK.card h slot (fun c => { c with attempts := (s.card slot).attempts + 1 }) fun _ => ⟨rfl, rfl⟩
      exact hK.startTimer (hK.send hcount slot .probe) slot _
    · exact hK.failCard h _ hp.1
  · exact h

theorem placeCard (hK : RestLaw K) (h : Both K s) {slot : Slot} (hs : (s.card slot).state.powered = false)
    (hw : (s.card slot).state ≠ .waiting) : Both K (placeCard slot s) := by
  refine ⟨h.law.placeCard hs hw, ?_⟩
  have hentered := hK.enters h.own (enterCard_enters slot .waiting s) (fun hj => by rw [hj] at hs; cases hs) nofun rfl rfl rfl
  exact hK.records hentered rfl rfl rfl rfl rfl

theorem tierCheck (hK : RestLaw K) (h : Both K s) (slot : Slot) (tier : Nat) : Both K (tierCheck slot tier s) := by
  unfold Machine.tierCheck
  dsimp only
  split
  · exact h
  · exact hK.rebindingPass (forEach (act := Machine.unbindPort) (fun n t ht => hK.unbindPort ht n) _ h)

theorem acceptIdent (hK : RestLaw K) (h : Both K s) {slot : Slot} (id : Identity) (hs : (s.card slot).state = .probing) :
    Both K (acceptIdent slot id s) := by
  have hstop : ((stopTimer slot s).card slot).state = .probing := (((CoreKept.refl s).stopTimer slot).state slot).trans hs
  have hstopped : Both K (stopTimer slot s) := by
    unfold Machine.stopTimer
    exact hK.card h slot _ fun _ => ⟨rfl, rfl⟩
  have hnamed : Both K ((stopTimer slot s).modCard slot fun c => { c with identity := some id }) := by
    refine ⟨hstopped.law.setIdentity (slot := slot) (some id) (by rw [hstop]; rfl), hK.still ?_ hstopped.own⟩
    refine .of_out (slot := slot) rfl rfl rfl rfl (by rw [hstop]; nofun) (by simp [hstop]) fun c hc => ?_
    rw [modCard_card, if_neg hc.symm]
    exact ⟨rfl, rfl⟩
  have hchecked := hK.tierCheck hnamed slot id.tier
  have hstate : ((Machine.tierCheck slot id.tier ((stopTimer slot s).modCard slot fun c => { c with identity := some id })).card
      slot).state = .probing := by
    rw [((DrawFalls.refl _).tierCheck slot id.tier).state]
    simpa using hstop
  unfold Machine.acceptIdent
  dsimp only
  generalize Machine.tierCheck slot id.tier ((stopTimer slot s).modCard slot fun c => { c with identity := some id }) = u
    at hchecked hstate ⊢
  have hplaced : Both K (if (u.card slot).parkClaims.isEmpty then Machine.placeCard slot u else enterCard slot .parked u) := by
    split
    · exact hK.placeCard hchecked (by rw [hstate]; rfl) (by simp [hstate])
    · exact ⟨hchecked.law.enters_idle (enterCard_enters slot .parked u) (by rw [hstate]; rfl) (by simp [hstate]) rfl nofun,
        hK.enters hchecked.own (enterCard_enters slot .parked u) (by rw [hstate]; nofun) nofun rfl rfl rfl⟩
  generalize (if (u.card slot).parkClaims.isEmpty then Machine.placeCard slot u else enterCard slot .parked u) = v
    at hplaced ⊢
  split
  · exact hK.restorePass hplaced
  · exact hplaced

theorem takeIdent (hK : RestLaw K) (h : Both K s) {slot : Slot} (cardType : Half) (portCount tier : Byte) (baseDraw : Half)
    (hs : (s.card slot).state = .probing) : Both K (takeIdent slot cardType portCount tier baseDraw s) := by
  unfold Machine.takeIdent
  split
  · exact hK.failCard h _ hs
  · exact hK.acceptIdent h _ hs

theorem joined (hK : RestLaw K) (h : Both K s) {slot : Slot} (hs : (s.card slot).state = .admitting) : Both K (Machine.joinCard slot s) := by
  have hstop := (CoreKept.refl s).stopTimer slot
  have hcount := (CoreKept.refl (enterCard slot .joined (stopTimer slot s))).card slot (fun c => { c with attempts := 0 })
    fun _ => ⟨rfl, rfl⟩
  have hk := ((enterCard_enters slot .joined (stopTimer slot s)).after_core hstop rfl).then_core hcount rfl
  unfold Machine.joinCard
  exact hK.restorePass (hK.rebindingPass ⟨h.law.follows hk ((CoreKept.refl _).cardJoined slot) (by rw [hs]; rfl) rfl,
    hK.joinCard hs h.own⟩)

theorem takeReady (hK : RestLaw K) (h : Both K s) {slot : Slot} (g : Word) (hs : (s.card slot).state = .admitting) :
    Both K (takeReady slot g s) := by
  unfold Machine.takeReady
  split
  · exact hK.joined h hs
  · exact hK.send h slot _

theorem admittingTimeout (hK : RestLaw K) (h : Both K s) (slot : Slot) : Both K (admittingTimeout slot s) := by
  unfold Machine.admittingTimeout
  split
  · rename_i hs
    have hreleased : K (releaseDraw (s.card slot).baseDraw s) := hK.records h.own rfl rfl rfl rfl rfl
    have hout : ((releaseDraw (s.card slot).baseDraw s).card slot).state ≠ .joined := by
      rw [show ((releaseDraw (s.card slot).baseDraw s).card slot).state = (s.card slot).state from rfl, hs.1]
      nofun
    dsimp only
    split
    · exact hK.restorePass ⟨h.law.enters_released (startProbe_enters slot _ _) hs.1 rfl nofun,
        hK.enters hreleased (startProbe_enters slot _ _) hout nofun rfl rfl rfl⟩
    · obtain ⟨hn, hc, hz⟩ := failCard_records slot .noReady (releaseDraw (s.card slot).baseDraw s)
      exact hK.restorePass ⟨h.law.enters_released (failCard_enters slot .noReady _) hs.1 rfl nofun,
        hK.enters hreleased (failCard_enters slot .noReady _) hout nofun hn hc hz⟩
  · exact h

theorem restoreIfReleased (hK : RestLaw K) (h : Both K s) (slot : Slot) (before : State) :
    Both K (restoreIfReleased slot before s) := by
  unfold Machine.restoreIfReleased
  split
  · exact hK.restorePass h
  · exact h

/-- A card leaves for a state in which it neither waits nor draws. -/
theorem left (hK : RestLaw K) (h : Both K s) (slot : Slot) {st : CardState} (hst : st.powered = false) (hw : st ≠ .waiting) :
    Both K (Machine.leaveCard slot st s) :=
  ⟨(h.law.leaveCard (slot := slot) (inService_powered hst)).law_of_ne hst hw, hK.leaveCard slot (inService_powered hst) h.own⟩

theorem removal (hK : RestLaw K) (h : Both K s) (slot : Slot) : Both K (removal slot s) := by
  unfold Machine.removal
  split
  · exact hK.restoreIfReleased (hK.card (hK.left h slot (st := .empty) rfl nofun) slot (fun c => { c with presence := false, attempts := 0 })
      fun _ => ⟨rfl, rfl⟩) slot s
  · exact h

theorem slotResetBody (hK : RestLaw K) (h : Both K s) (slot : Slot) : Both K (slotResetBody slot s) := by
  have hleft := hK.left h slot (st := .empty) rfl nofun
  unfold Machine.slotResetBody
  split
  · exact hK.restoreIfReleased (hK.startProbe hleft 0 (h.law.leaveCard (slot := slot) rfl).state) slot s
  · split
    · exact h
    · exact hK.restoreIfReleased (hK.card hleft slot (fun c => { c with attempts := 0 }) fun _ => ⟨rfl, rfl⟩) slot s

/-! ### Rules (R138 to R143) -/

theorem parkClaim (hK : RestLaw K) (h : Both K s) (slot : Slot) (rule : RuleIx) : Both K (parkClaim slot rule s) := by
  have hclaimed := hK.card h slot (fun c => { c with parkClaims := addRule rule c.parkClaims }) fun _ => ⟨rfl, rfl⟩
  unfold Machine.parkClaim
  dsimp only
  split
  · exact hK.restorePass (hK.left hclaimed slot (st := .parked) rfl nofun)
  · exact hclaimed

theorem parkWithdraw (hK : RestLaw K) (h : Both K s) (slot : Slot) (rule : RuleIx) : Both K (parkWithdraw slot rule s) := by
  have hleft := hK.card h slot (fun c => { c with parkClaims := dropRule rule c.parkClaims }) fun _ => ⟨rfl, rfl⟩
  unfold Machine.parkWithdraw
  dsimp only
  split
  · rename_i hp
    have hp := of_decide_eq_true (Bool.and_eq_true_iff.1 hp).2
    exact hK.restorePass (hK.placeCard hleft (slot := slot) (by rw [hp]; rfl) (by rw [hp]; nofun))
  · exact hleft

theorem recomputeDuty (hK : RestLaw K) (h : Both K s) : Both K (recomputeDuty s) := by
  unfold Machine.recomputeDuty
  exact hK.scanner h _

theorem setBoosts (hK : RestLaw K) (h : Both K s) (l : List RuleIx) : Both K (setBoosts l s) := hK.recomputeDuty (hK.scanner h _)

theorem applyAction (hK : RestLaw K) (h : Both K s) (r : RuleIx) (rule : RuleRec) : Both K (applyAction r rule s) := by
  unfold Machine.applyAction
  split
  · exact h
  · exact hK.setBoosts h _
  · exact hK.setClaims h _
  · split
    · exact hK.parkClaim h _ r
    · exact h

theorem withdrawAction (hK : RestLaw K) (h : Both K s) (r : RuleIx) (rule : RuleRec) : Both K (withdrawAction r rule s) := by
  unfold Machine.withdrawAction
  split
  · exact h
  · exact hK.setBoosts h _
  · exact hK.setClaims h _
  · split
    · exact hK.parkWithdraw h _ r
    · exact h

theorem beginCondition (hK : RestLaw K) (h : Both K s) (r : RuleIx) (rule : RuleRec) : Both K (beginCondition r rule s) :=
  hK.applyAction (hK.raise h _) r rule

theorem endCondition (hK : RestLaw K) (h : Both K s) (r : RuleIx) (rule : RuleRec) : Both K (endCondition r rule s) :=
  hK.withdrawAction (hK.clear h _ _) r rule

theorem evaluateRule (hK : RestLaw K) (h : Both K s) (r : RuleIx) : Both K (evaluateRule r s) := by
  unfold Machine.evaluateRule
  dsimp only
  split
  · unfold ruleClaims
    split
    · exact hK.beginCondition (hK.rule h r _) r _
    · exact hK.endCondition (hK.rule h r _) r _
    · exact hK.rule h r _
    · exact hK.rule h r _
  · exact h

theorem endIfHolds (hK : RestLaw K) (h : Both K s) (r : RuleIx) : Both K (endIfHolds r s) := by
  unfold Machine.endIfHolds
  split
  · exact hK.endCondition h r _
  · exact h

theorem ruleWrite (hK : RestLaw K) (h : Both K s) (rule : Byte) (x : RuleFields) : Both K (ruleWrite rule x s).1 := by
  unfold Machine.ruleWrite
  split
  · exact h
  · split
    · exact h
    · dsimp only
      exact hK.rule (hK.endIfHolds h _) _ _

theorem ruleDisable (hK : RestLaw K) (h : Both K s) (rule : Byte) : Both K (ruleDisable rule s).1 := by
  unfold Machine.ruleDisable
  split
  · exact h
  · split
    · exact h
    · dsimp only
      exact hK.rule (hK.endIfHolds h _) _ _

theorem ruleEnable (hK : RestLaw K) (h : Both K s) (rule : Byte) : Both K (ruleEnable rule s).1 := by
  unfold Machine.ruleEnable
  split
  · exact h
  · split
    · exact h
    · split
      · exact h
      · dsimp only
        exact hK.rule h _ _

/-! ### Units and sensors (R131 to R137) -/

theorem setCounted (hK : RestLaw K) (h : Both K s) (i : Fin 6) (rating : Option Nat) : Both K (setCounted i rating s) :=
  hK.budgetChange h _ ⟨rfl, rfl, rfl⟩

theorem reportPsu (hK : RestLaw K) (h : Both K s) (u : UnitIx) (rating : Option Nat) : Both K (reportPsu u rating s) := by
  unfold Machine.reportPsu
  split
  · exact hK.setCounted h _ _
  · exact h

theorem reportRating (hK : RestLaw K) (h : Both K s) (u : UnitIx) : Both K (reportRating u s) := by
  unfold Machine.reportRating
  split
  · split
    · exact h
    · exact hK.setCounted h _ _
  · exact h

theorem setPowerMode (hK : RestLaw K) (h : Both K s) (field : Byte) : Both K (setPowerMode field s).1 := by
  unfold Machine.setPowerMode
  split
  · exact h
  · split
    · exact h
    · exact hK.reason (hK.budgetChange h _ ⟨rfl, rfl, rfl⟩) _

theorem unitPresenceRise (hK : RestLaw K) (h : Both K s) (u : UnitIx) : Both K (unitPresenceRise u s) := by
  have hstart := hK.unit h u UnitRec.start
  unfold Machine.unitPresenceRise
  split
  · exact h
  · dsimp only
    split
    · exact hstart
    · exact hK.recomputeDuty (hK.budgetChange hstart (fun p => { p with trays := p.trays + 1 }) ⟨rfl, rfl, rfl⟩)

theorem departUnit (hK : RestLaw K) (h : Both K s) (u : UnitIx) : Both K (departUnit u s) := by
  unfold Machine.departUnit
  dsimp only
  split
  · exact hK.scanner (hK.unit h u _) _
  · exact hK.unit h u _

theorem raiseFanFault (hK : RestLaw K) (h : Both K s) (u : UnitIx) (detail : Nat) : Both K (raiseFanFault u detail s) :=
  hK.raise (hK.unit h u _) _

theorem endFanFault (hK : RestLaw K) (h : Both K s) (u : UnitIx) : Both K (endFanFault u s) := by
  unfold Machine.endFanFault
  split
  · exact hK.clear (hK.unit h u _) _ _
  · exact h

theorem unitPresenceFall (hK : RestLaw K) (h : Both K s) (u : UnitIx) : Both K (unitPresenceFall u s) := by
  have hgone := hK.departUnit h u
  unfold Machine.unitPresenceFall
  split
  · exact h
  · split
    · unfold psuDeparts
      split
      · exact hK.reportPsu hgone u none
      · exact hK.clear hgone _ _
      · exact hgone
      · exact hgone
    · have htrays := hK.budgetChange hgone (fun p => { p with trays := p.trays - 1 }) ⟨rfl, rfl, rfl⟩
      exact hK.recomputeDuty (hK.raiseFanFault htrays u 2)

theorem psuFollows (hK : RestLaw K) (h : Both K s) (u : UnitIx) (before : UnitState) (c : ReadClass) :
    Both K (psuFollows u before c s) := by
  unfold Machine.psuFollows
  split
  · exact hK.reportRating h u
  · exact hK.reportRating (hK.clear h _ _) u
  · exact hK.reportPsu (hK.raise h _) u none
  · exact hK.raise h _
  · split
    · exact hK.reportRating h u
    · exact h
  · exact h

theorem trayFollows (hK : RestLaw K) (h : Both K s) (u : UnitIx) (before : UnitState) : Both K (trayFollows u before s) := by
  unfold Machine.trayFollows
  split
  · exact h
  · split
    · exact hK.recomputeDuty (hK.raiseFanFault h u 1)
    · exact hK.recomputeDuty (hK.endFanFault h u)
    · exact hK.recomputeDuty h
    · exact hK.recomputeDuty h

theorem unitReadComplete (hK : RestLaw K) (h : Both K s) (u : UnitIx) (x : UnitReading) : Both K (unitReadComplete u x s) := by
  have hread := fun f => hK.unit (hK.scanner h fun y => (Machine.passTurn u s).scanner) u f
  unfold Machine.unitReadComplete
  split
  · dsimp only
    split
    · exact hK.psuFollows (hread _) u _ _
    · exact hK.trayFollows (hread _) u _
  · exact h

theorem sensorRead (hK : RestLaw K) (h : Both K s) (sensor : ChassisSensor) (v : Option Half) :
    Both K (chassisSensorReadComplete sensor v s) := by
  unfold chassisSensorReadComplete
  split
  · unfold recordSensor
    split
    · exact hK.scanner h _
    · unfold endRound evaluateRules
      exact forEach (act := Machine.evaluateRule) (fun r t ht => hK.evaluateRule ht r) _
        (hK.scanner (hK.recomputeDuty (hK.scanner (hK.scanner h _) _)) _)
  · exact h

/-! ### Deeds -/

theorem awaited (hK : RestLaw K) (h : Both K s) {slot : Slot} (m : CardMsg) (hp : (s.phaseRec slot).phase.awaits) :
    Both K (Machine.commitTimeout slot m s) :=
  ⟨h.law.commitTimeout slot m, hK.commitTimeout m hp h.own⟩

theorem quietDeed (hK : RestLaw K) (h : Both K s) (hd : QuietDeed s t) : Both K t := by
  cases hd with
  | presenceRise slot => exact hK.presenceRise h slot
  | probeTimeout slot => exact hK.probeTimeout h slot
  | link slot position lit => exact ⟨h.law.of_core ((CoreKept.refl s).takeLink slot position lit), hK.link slot position lit h.own⟩
  | query slot tag position x y => exact hK.send h slot _
  | temperature slot value => exact hK.card h slot _ fun _ => ⟨rfl, rfl⟩
  | messageLeave slot => exact hK.card h slot _ fun c => by unfold CardRec.leave; split <;> exact ⟨rfl, rfl⟩
  | holdAck slot g hj => exact ⟨h.law.of_core ((CoreKept.refl s).holdAck slot g), hK.holdAck g hj h.own⟩
  | resumeAck slot g hj => exact ⟨h.law.of_core ((CoreKept.refl s).resumeAck slot g), hK.resumeAck g hj h.own⟩
  | holdTimeout slot =>
    unfold holdTimeout
    split
    · rename_i hp
      exact hK.awaited h _ (Phase.awaits_iff.2 (.inl hp.1))
    · exact h
  | resumeTimeout slot =>
    unfold resumeTimeout
    split
    · rename_i hp
      exact hK.awaited h _ (Phase.awaits_iff.2 (.inr hp.1))
    · exact h
  | commitAbort => exact ⟨h.law.of_core (CoreKept.refl s).commitAbort, hK.commitAbort h.own⟩
  | ruleEnable rule => exact hK.ruleEnable h rule
  | fetched r => exact hK.rule h r _
  | scanTimer => exact hK.scanner h _

theorem loudDeed (hK : RestLaw K) (h : Both K s) (hd : LoudDeed s t) : Both K t := by
  cases hd with
  | idle => exact h
  | removal slot => exact hK.removal h slot
  | slotReset slot => exact hK.slotResetBody h slot
  | unitPresenceRise u => exact hK.unitPresenceRise h u
  | unitPresenceFall u => exact hK.unitPresenceFall h u
  | unitReadComplete u x => exact hK.unitReadComplete h u x
  | sensorRead sensor v => exact hK.sensorRead h sensor v
  | setPowerMode field => exact hK.setPowerMode h field
  | hourTimer => exact hK.hourTimer h
  | poolInstall => exact hK.poolInstall h _ _ _ _ _ _ _
  | poolRevoke i => exact hK.confirmedPoolRevoke h i
  | portEnable port pool priority => exact hK.portEnable h port pool priority
  | portDisable port => exact hK.portDisable h port
  | portReleaseLicense port => exact hK.portReleaseLicense h port
  | portSetPriority port priority => exact hK.portSetPriority h port priority
  | ruleWrite rule x => exact hK.ruleWrite h rule x
  | ruleDisable rule => exact hK.ruleDisable h rule
  | ident slot _ _ _ _ hp => exact hK.takeIdent h _ _ _ _ hp
  | ready slot g ha => exact hK.takeReady h g ha
  | admittingTimeout slot => exact hK.admittingTimeout h slot

theorem coldReset (hK : RestLaw K) (lines : PresenceLines) (s : State) : Both K (coldReset lines s) := by
  unfold Machine.coldReset sampleUnits sampleSlots
  refine forEach (fun u t ht => ?_) _ (forEach (fun slot t ht => ?_) _ ⟨WaitsLaw.coldValues lines s, hK.cold lines s⟩)
  · split
    · exact hK.unitPresenceRise ht u
    · exact ht
  · split
    · exact hK.presenceRise ht slot
    · exact ht

theorem tableDeed (hK : RestLaw K) (h : K s) (hd : TableDeed s t) : K t := by
  cases hd with
  | login slot position name => exact hK.login slot position name h
  | logout slot position name => exact hK.logout slot position name h
  | commitSetup p => exact hK.still (commitSetup_still p s) h
  | arm p armed => cases p <;> exact hK.records h rfl rfl rfl rfl rfl
  | commitWithdraw => exact hK.commitWithdraw h
  | workingClone => rw [workingClone_frame]; exact hK.still (s := s) (.of_zones rfl rfl rfl Iff.rfl rfl) h
  | edit e => rw [editWorking_frame]; exact hK.still (s := s) (.of_zones rfl rfl rfl Iff.rfl rfl) h
  | namePin name port => exact hK.namePin name port h
  | nameUnpin name => exact hK.nameUnpin name h
  | alarmAcknowledge => rw [alarmAcknowledge_frame]; exact hK.records h rfl rfl rfl rfl rfl
  | alarmAcknowledgeAll => rw [acknowledgeAll_frame]; exact hK.records h rfl rfl rfl rfl rfl
  | setChassisNumber number => rw [setChassisNumber_frame]; exact hK.records h rfl rfl rfl rfl rfl
  | setParameter number value => rw [setParameter_frame]; exact hK.records h rfl rfl rfl rfl rfl
  | uptime => exact hK.records h rfl rfl rfl rfl rfl

theorem deed (hK : RestLaw K) (h : Both K s) (hd : Deed s t) : Both K t := by
  cases hd with
  | port hd => exact ⟨h.law.portDeed hd, hK.still hd.still h.own⟩
  | cold lines => exact hK.coldReset lines s
  | quiet hd => exact hK.quietDeed h hd
  | table hd => exact ⟨h.law.tableDeed hd, hK.tableDeed h.own hd⟩
  | commit => exact hK.settleDeficit ⟨h.law.of_core (CoreKept.refl s).confirmedCommit, hK.confirmedCommit h.own⟩
  | loud hd => exact hK.settleDeficit (hK.loudDeed h hd)

/-- Every step keeps the law. -/
theorem step (hK : RestLaw K) (hw : WaitListFollows s) (h : K s) (hstep : Machine.step s = .next t) : K t :=
  (step_keeps (fun _ _ hb => hK.of_records hb rfl rfl rfl rfl rfl rfl) (fun _ _ => hK.deed) ⟨waitsLaw_iff.2 hw, h⟩ hstep).own

end RestLaw

end Sys2Proof.Machine

/-! PROOFS. The settling of CommitLawfulEveryStep: the Commit Engine's law is kept by the operations that it sees (R98, R104, R108,
R110, R111). -/

namespace Sys2Proof.Machine

namespace EngineApart

variable {s t : State}

theorem takeLink (slot : Slot) (position : Byte) (lit : Bool) (h : EngineApart s t) :
    EngineApart s (Machine.takeLink slot position lit t) := by
  unfold Machine.takeLink
  split
  · exact h
  · split
    · unfold linkReport
      split
      · split
        · exact h.send _ _
        · exact h
      · split
        · exact h.port _ _
        · exact (h.port _ _).removeLogins _
        · exact h
        · exact h
    · exact h

theorem loginOnPort (n : PortIx) (name : DevName) (s : State) : EngineApart s (loginOnPort n name s).1 := by
  rw [loginOnPort_frame]
  exact (refl s).of_records rfl rfl rfl

theorem login (slot : Slot) (position : Byte) (name : DevName) (s : State) : EngineApart s (login slot position name s) := by
  unfold Machine.login
  refine send slot _ ?_
  unfold takeLogin
  split
  · exact refl s
  · split
    · exact refl s
    · split
      · exact loginOnPort _ name s
      · exact refl s

theorem logout (slot : Slot) (position : Byte) (name : DevName) (s : State) : EngineApart s (logout slot position name s) := by
  unfold Machine.logout
  split
  · split
    · exact (refl s).endLogin _ _
    · exact refl s
  · exact refl s

end EngineApart

namespace CommitLawful

variable {s : State}

theorem apart {t : State} (h : CommitLawful s) (ha : EngineApart s t) : CommitLawful t := ha.same.commitLawful h

/-- A card that was Admitting becomes Joined: it enters the set of the commit in flight (R29, R108, R110). -/
theorem joinCard (h : CommitLawful s) {slot : Slot} (hs : (s.card slot).state = .admitting) :
    CommitLawful (portsFollowCard slot s (Machine.cardJoined slot
      ((enterCard slot .joined (stopTimer slot s)).modCard slot fun c => { c with attempts := 0 }))) := by
  have hout := h.outside_of_not_joined (c := slot) (by rw [hs]; nofun)
  have hcount := (CoreKept.refl (enterCard slot .joined (stopTimer slot s))).card slot (fun c => { c with attempts := 0 })
    fun _ => ⟨rfl, rfl⟩
  have hk := ((enterCard_enters slot .joined (stopTimer slot s)).after_core ((CoreKept.refl s).stopTimer slot) rfl).then_core hcount rfl
  have hsame : EngineSame s ((enterCard slot .joined (stopTimer slot s)).modCard slot fun c => { c with attempts := 0 }) :=
    .of_records rfl rfl fun c hc => by
      by_cases he : c = slot
      · rw [he]
        exact hk.state
      · exact (hk.others c he).1.trans hc
  have hphase := hsame.phaseRec slot
  have hlawful := hsame.commitLawful h
  generalize (enterCard slot .joined (stopTimer slot s)).modCard slot (fun c => { c with attempts := 0 }) = u at hk hphase hlawful ⊢
  exact (hlawful.cardJoined hk.state (by rw [hphase]; exact hout)).apart ((EngineApart.refl _).portsFollowCard slot s)

/-- A card leaves its state: one that was Joined leaves the set of the commit in flight (R35, R108, R110). -/
theorem leaveCard (h : CommitLawful s) (slot : Slot) (st : CardState) :
    CommitLawful (leaveCard slot st s) := by
  have hreleased : EngineApart s (releaseCard slot s) := by
    unfold releaseCard
    split
    · exact (EngineApart.refl s).power _
    · split
      · exact (EngineApart.refl s).power _
      · exact .refl s
  have hk : CardEnters slot st (releaseCard slot s) (clearTemp slot (stopTimer slot (enterCard slot st (releaseCard slot s)))) :=
    (enterCard_enters slot st _).then_core (((CoreKept.refl _).stopTimer slot).clearTemp slot) rfl
  have hcommit : (clearTemp slot (stopTimer slot (enterCard slot st (releaseCard slot s)))).commit = s.commit := hreleased.commit
  have hzones : (clearTemp slot (stopTimer slot (enterCard slot st (releaseCard slot s)))).zones = s.zones := hreleased.zones
  unfold Machine.leaveCard
  generalize clearTemp slot (stopTimer slot (enterCard slot st (releaseCard slot s))) = v at hk hcommit hzones ⊢
  have hother : ∀ c, c ≠ slot → (s.card c).state = .joined → (v.card c).state = .joined := fun c hc hj =>
    ((hk.others c hc).1.trans (hreleased.state c)).trans hj
  have htold : CommitLawful (tellDeparture slot s v) := by
    unfold tellDeparture
    split
    · exact (h.cardLeft hcommit hzones hother).apart ((EngineApart.refl _).portsFollowCard slot s)
    · rename_i hout
      have hnot : (s.card slot).state ≠ .joined := fun hj => hout (by rw [hj]; rfl)
      refine (EngineSame.of_records hcommit hzones fun c hj => ?_).commitLawful h
      exact hother c (fun he => hnot (he ▸ hj)) hj
  unfold endCardFault
  split
  · exact htold.apart ((EngineApart.refl _).clear _ _)
  · exact htold

theorem coldValues (lines : PresenceLines) (s : State) : CommitLawful (coldValues lines s) := by
  have hphase : ∀ c, ((Machine.coldValues lines s).phaseRec c) =
      { phase := .outside, resends := 0, timeout := 250, timerOn := false } := fun c => by
    simp [Machine.coldValues, State.phaseRec, State.reset, CommitEngine.cold]
  refine commitLawful_iff.2 ⟨⟨iff_of_true rfl rfl, fun _ => rfl, fun c _ => ?_, iff_of_false nofun fun hn => hn rfl, fun c => ?_,
    fun c hc => ?_⟩, ⟨nofun, nofun⟩, fun _ => rfl⟩
  · rw [hphase]
    exact phaseFits_outside _
  · rw [hphase]
    exact iff_of_false (by simp) id
  · rw [hphase] at hc
    exact absurd rfl hc

theorem restLaw : RestLaw CommitLawful where
  still hs h := hs.engine.commitLawful h
  portChange n f _ h := h.apart ((EngineApart.refl _).portChange n f)
  displacePort n hold h := h.apart ((EngineApart.refl _).displacePort n hold)
  joinCard hs h := h.joinCard hs
  leaveCard slot st _ h := h.leaveCard slot st
  link slot position lit h := h.apart ((EngineApart.refl _).takeLink slot position lit)
  holdAck g hj h := h.holdAck hj g
  resumeAck g hj h := h.resumeAck hj g
  commitTimeout m hp h := h.commitTimeout hp m
  commitAbort h := h.commitAbort
  confirmedCommit h := h.confirmedCommit
  commitWithdraw h := h.commitWithdraw
  login slot position name h := h.apart (.login slot position name _)
  logout slot position name h := h.apart (.logout slot position name _)
  namePin name port h := h.apart (by rw [namePin_frame]; exact (EngineApart.refl _).of_records rfl rfl rfl)
  nameUnpin name h := h.apart (by rw [nameUnpin_frame]; exact (EngineApart.refl _).of_records rfl rfl rfl)
  cold lines s := coldValues lines s

end CommitLawful

end Sys2Proof.Machine

section
open Sys2Proof Sys2Proof.Machine

/-- Settles O31: the engine's law is kept by the operations that reach the engine, and by the others as they leave it alone. -/
theorem commitLawfulEveryStep : Obligations.CommitLawfulEveryStep := by
  unfold Obligations.CommitLawfulEveryStep
  rintro s t ⟨hw, hc⟩ hstep
  exact CommitLawful.restLaw.step hw hc hstep

end

/-! PROOFS. What the Commit Engine's operations write: the engine, the images, the cards, the claims and the reasons, and nothing else. -/

namespace Sys2Proof.Machine

/-- From s to t only what the Commit Engine writes may differ. -/
def EngineFrame (s t : State) : Prop :=
  t = { s with attn := t.attn, cards := t.cards, zones := t.zones, commit := t.commit, alarms := t.alarms }

namespace EngineFrame

variable {s t u : State}

theorem refl (s : State) : EngineFrame s s := rfl

theorem trans (h : EngineFrame s t) (h' : EngineFrame t u) : EngineFrame s u := by
  unfold EngineFrame at h h' ⊢
  rw [h', h]

theorem ports (h : EngineFrame s t) : t.ports = s.ports := by rw [h]

theorem names (h : EngineFrame s t) : t.names = s.names := by rw [h]

theorem card (slot : Slot) (f : CardRec → CardRec) (h : EngineFrame s t) : EngineFrame s (t.modCard slot f) := h.trans rfl

theorem phase (slot : Slot) (f : CommitCard → CommitCard) (h : EngineFrame s t) : EngineFrame s (t.modPhase slot f) := h.trans rfl

theorem commit (f : CommitEngine → CommitEngine) (h : EngineFrame s t) : EngineFrame s (t.modCommit f) := h.trans rfl

theorem zones (f : ZoneStore → ZoneStore) (h : EngineFrame s t) : EngineFrame s (t.modZones f) := h.trans rfl

theorem reason (r : Reason) (h : EngineFrame s t) : EngineFrame s (addReason r t) := h.trans rfl

theorem raise (r : Raise) (h : EngineFrame s t) : EngineFrame s (raiseAlarm r t) := by
  rw [raiseAlarm_eq]
  exact h.trans rfl

theorem clear (c : Cause) (subject : Nat) (h : EngineFrame s t) : EngineFrame s (endAlarm c subject t) := by
  rw [endAlarm_eq]
  exact h.trans rfl

theorem forEach {α : Type} {act : α → State → State} (ha : ∀ x t, EngineFrame s t → EngineFrame s (act x t)) (l : List α)
    (h : EngineFrame s t) : EngineFrame s (Machine.forEach l act t) :=
  forEach_keeps ha l h

theorem send (slot : Slot) (m : CardMsg) (h : EngineFrame s t) : EngineFrame s (Machine.send slot m t) := h.trans rfl

theorem setPhase (slot : Slot) (p : Phase) (h : EngineFrame s t) : EngineFrame s (Machine.setPhase slot p t) := h.trans rfl

theorem sendResume (slot : Slot) (h : EngineFrame s t) : EngineFrame s (Machine.sendResume slot t) := h.trans rfl

theorem sendHold (slot : Slot) (h : EngineFrame s t) : EngineFrame s (Machine.sendHold slot t) := h.trans rfl

theorem noteRecord (number : Option Half) (g : ResultRec → ResultRec) (h : EngineFrame s t) :
    EngineFrame s (Machine.noteRecord number g t) := by
  unfold Machine.noteRecord
  split
  · exact h
  · dsimp only
    split
    · exact h.commit _
    · exact (h.commit _).reason _

theorem switchLive (h : EngineFrame s t) : EngineFrame s (Machine.switchLive t) := by
  unfold Machine.switchLive
  dsimp only
  refine reason _ (forEach (act := Machine.sendResume) (fun c u hu => hu.sendResume c) _ (commit _ (noteRecord _ _ (zones _ h))))

theorem closeCommit (h : EngineFrame s t) : EngineFrame s (Machine.closeCommit t) := by
  have hout := h.forEach (act := fun c => Machine.setPhase c .outside) (fun c u hu => hu.setPhase c .outside) allSlots
  unfold Machine.closeCommit
  dsimp only
  refine reason _ (commit _ ?_)
  split
  · exact (hout.noteRecord _ _).raise _
  · exact hout.noteRecord _ _

theorem beginCommit (number : Half) (h : EngineFrame s t) : EngineFrame s (Machine.beginCommit number t) := by
  unfold Machine.beginCommit
  dsimp only
  exact reason _ (forEach (act := Machine.sendHold) (fun c u hu => hu.sendHold c) _ (commit _ (zones _ h)))

theorem switchIfDue (h : EngineFrame s t) : EngineFrame s (Machine.switchIfDue t) := by
  unfold Machine.switchIfDue
  split
  · exact h.switchLive
  · exact h

theorem endIfDue (h : EngineFrame s t) : EngineFrame s (Machine.endIfDue t) := by
  unfold Machine.endIfDue
  split
  · exact h.closeCommit
  · exact h

theorem startQueued (h : EngineFrame s t) : EngineFrame s (Machine.startQueued t) := by
  unfold Machine.startQueued
  split
  · exact (h.beginCommit _).switchIfDue.endIfDue
  · exact h
  · exact h
  · exact h

theorem commitFollows (h : EngineFrame s t) : EngineFrame s (Machine.commitFollows t) :=
  h.switchIfDue.endIfDue.startQueued

theorem cardJoined (slot : Slot) (h : EngineFrame s t) : EngineFrame s (Machine.cardJoined slot t) := by
  unfold Machine.cardJoined
  split
  · exact h.setPhase _ _
  · exact h.sendResume _
  · exact h

theorem cardLeft (slot : Slot) (h : EngineFrame s t) : EngineFrame s (Machine.cardLeft slot t) := by
  unfold Machine.cardLeft
  split
  · exact h
  · exact (h.setPhase _ _).commitFollows

theorem holdAck (slot : Slot) (g : Word) (h : EngineFrame s t) : EngineFrame s (Machine.holdAck slot g t) := by
  unfold Machine.holdAck
  split
  · exact (h.setPhase _ _).commitFollows
  · exact h

theorem resumeAck (slot : Slot) (g : Word) (h : EngineFrame s t) : EngineFrame s (Machine.resumeAck slot g t) := by
  unfold Machine.resumeAck
  split
  · exact (h.setPhase _ _).commitFollows
  · exact h

theorem commitAbort (s : State) : EngineFrame s (commitAbort s).1 := by
  unfold Machine.commitAbort
  split
  · exact refl s
  · exact refl s
  · refine (reason _ (forEach (act := fun c => Machine.setPhase c .outside) (fun c u hu => hu.setPhase c .outside) _
      (forEach (act := Machine.sendResume) (fun c u hu => hu.sendResume c) _ (commit _ (zones _ (refl s)))))).commitFollows

theorem confirmedCommit (s : State) : EngineFrame s (confirmedCommit s).1 := by
  unfold Machine.confirmedCommit
  split
  · exact refl s
  · exact refl s
  · unfold acceptCommit
    dsimp only
    have htaken := ((refl s).commit (CommitEngine.takeNumber s.zones.generation)).reason .commit
    split
    · exact (htaken.beginCommit _).switchIfDue.endIfDue
    · exact (htaken.zones (fun z => { z with workingState := .frozen })).commit fun e => { e with queued := some e.nextNumber }
    · exact (htaken.zones (fun z => { z with workingState := .frozen })).commit fun e => { e with queued := some e.nextNumber }

theorem commitWithdraw (s : State) : EngineFrame s (commitWithdraw s).1 := by
  rw [commitWithdraw_frame]
  exact rfl

end EngineFrame

end Sys2Proof.Machine

/-! PROOFS. The Name Map follows what is Serviceable (R118, R122): the names and the counts that a removal of logins leaves, and the
settling of LoginsFollowEveryStep. -/

namespace Sys2Proof.Machine

/-! ## The names that a removal leaves (R121, R122) -/

/-- What is left of a table entry where the logins on some ports end. -/
def leftOf (gone : PortIx → Bool) (x : Nat × NameEntry) : Option (Nat × NameEntry) :=
  if gone x.2.port then x.2.loggedOut.map (x.1, ·) else some x

/-- The names as the end of the logins on some ports leaves them. -/
def namesAfter (gone : PortIx → Bool) (l : List (Nat × NameEntry)) : List (Nat × NameEntry) := l.filterMap (leftOf gone)

theorem leftOf_key {gone : PortIx → Bool} {x y : Nat × NameEntry} (h : leftOf gone x = some y) :
    y.1 = x.1 ∧ y.2.port = x.2.port ∧ (x.2.status = .pinned → y = x) := by
  unfold leftOf at h
  split at h
  · unfold NameEntry.loggedOut at h
    cases hs : x.2.status <;> rw [hs] at h <;> cases h <;> simp_all
  · cases h
    exact ⟨rfl, rfl, fun _ => rfl⟩

theorem leftOf_loggedIn {gone : PortIx → Bool} {x y : Nat × NameEntry} (h : leftOf gone x = some y)
    (hy : y.2.status.loggedIn = true) : y = x ∧ gone x.2.port = false := by
  unfold leftOf at h
  split at h
  · unfold NameEntry.loggedOut at h
    cases hs : x.2.status with
    | learned => rw [hs] at h; cases h
    | pinnedPresent => rw [hs] at h; cases h; cases hy
    | pinned => rw [hs] at h; cases h; rw [hs] at hy; cases hy
  · rename_i hstays
    cases h
    exact ⟨rfl, by simpa using hstays⟩

theorem leftOf_of_stays {gone : PortIx → Bool} {x : Nat × NameEntry} (h : gone x.2.port = false) : leftOf gone x = some x := by
  simp [leftOf, h]

/-- The names logged in on a port: none on one whose logins have ended, the same on any other. -/
theorem loggedIn_namesAfter (gone : PortIx → Bool) (n : PortIx) (l : List (Nat × NameEntry)) :
    (namesAfter gone l).filter (fun x => x.2.port == n && x.2.status.loggedIn) =
      if gone n then [] else l.filter fun x => x.2.port == n && x.2.status.loggedIn := by
  have hcase : ∀ x : Nat × NameEntry, ((leftOf gone x).toList.filter fun x => x.2.port == n && x.2.status.loggedIn) =
      if gone n then [] else [x].filter fun x => x.2.port == n && x.2.status.loggedIn := fun x => by
    cases hl : leftOf gone x with
    | none =>
      have hgone : gone x.2.port = true := by
        by_contra hg
        rw [leftOf_of_stays (by simpa using hg)] at hl
        cases hl
      by_cases hn : x.2.port = n
      · simp [← hn, hgone]
      · simp [hn]
    | some y =>
      obtain ⟨-, hport, -⟩ := leftOf_key hl
      cases hg : gone x.2.port with
      | false =>
        rw [leftOf_of_stays hg] at hl
        cases hl
        by_cases hn : x.2.port = n
        · simp [← hn, hg]
        · simp [hn]
      | true =>
        have hout : y.2.status.loggedIn = false := by
          by_contra hy
          rw [(leftOf_loggedIn hl (by simpa using hy)).2] at hg
          cases hg
        by_cases hn : x.2.port = n
        · simp [hout, ← hn, hg]
        · simp [hout, hn]
  induction l with
  | nil => simp [namesAfter]
  | cons x l ih =>
    have hsplit : namesAfter gone (x :: l) = (leftOf gone x).toList ++ namesAfter gone l := by
      unfold namesAfter
      rw [List.filterMap_cons]
      cases leftOf gone x <;> rfl
    rw [hsplit, List.filter_append, hcase, ih]
    split
    · rfl
    · rw [← List.filter_append, List.singleton_append]

theorem namesAfter_lt {gone : PortIx → Bool} {l : List (Nat × NameEntry)} (h : l.Pairwise fun x y => x.1 < y.1) :
    (namesAfter gone l).Pairwise fun x y => x.1 < y.1 := by
  refine List.Pairwise.filterMap _ (fun x y hxy a ha b hb => ?_) h
  rw [(leftOf_key ha).1, (leftOf_key hb).1]
  exact hxy

theorem TableLawful.pairwise {α : Type} {bound : Nat} {t : List (Nat × α)} (h : TableLawful bound t) :
    t.Pairwise fun x y => x.1 < y.1 := List.pairwise_map.1 h.1

theorem TableLawful.mem_iff {α : Type} {bound : Nat} {t : List (Nat × α)} (h : TableLawful bound t) {x : Nat × α} :
    x ∈ t ↔ tableGet t x.1 = some x.2 :=
  ⟨fun hx => h.get_of_mem hx, fun hx => mem_of_tableGet hx⟩

theorem removeLogins_namesLawful (n : PortIx) {s : State} (h : NamesLawful s) : NamesLawful (removeLogins n s) :=
  (Moves.refl (k := .power)).removeLogins n |>.namesLawful h

/-- The removal of a port's logins leaves every other entry, and each of its own as its logout leaves it (R122). -/
theorem removeLogins_names (n : PortIx) {s : State} (h : NamesLawful s) :
    (removeLogins n s).names = namesAfter (· == n) s.names := by
  have hafter := removeLogins_namesLawful n h
  have : Std.Irrefl (fun x y : Nat × NameEntry => x.1 < y.1) := ⟨fun x => Nat.lt_irrefl _⟩
  have : IsTrans (Nat × NameEntry) (fun x y => x.1 < y.1) := ⟨fun _ _ _ => Nat.lt_trans⟩
  refine hafter.1.pairwise.eq_of_mem_iff (namesAfter_lt h.1.pairwise) fun x => ?_
  rw [hafter.1.mem_iff, tableGet_removeLogins n h, namesAfter, List.mem_filterMap]
  constructor
  · intro hx
    obtain ⟨e, he, hleft⟩ := Option.bind_eq_some_iff.1 hx
    refine ⟨(x.1, e), mem_of_tableGet he, ?_⟩
    unfold leftOf
    by_cases hp : e.port = n
    · rw [if_pos hp] at hleft
      simp [hp, hleft]
    · rw [if_neg hp] at hleft
      cases hleft
      simp [hp]
  · rintro ⟨y, hy, hleft⟩
    obtain ⟨hkey, -, -⟩ := leftOf_key hleft
    rw [hkey, h.1.mem_iff.1 hy, Option.bind_some]
    unfold leftOf at hleft
    by_cases hp : y.2.port = n
    · rw [if_pos (by simpa using hp)] at hleft
      obtain ⟨e, he, hxe⟩ := Option.map_eq_some_iff.1 hleft
      rw [if_pos hp, he, ← hxe]
    · rw [if_neg (by simpa using hp)] at hleft
      cases hleft
      rw [if_neg hp]

/-! ## The law with what the Name Map takes to be Serviceable -/

/-- The Name Map is lawful, the login counts are right, and every entry that is logged in names a port of a set. -/
structure LoginsOver (S : PortIx → Bool) (s : State) : Prop where
  names : NamesLawful s
  count : ∀ n, (s.port n).logins = (loggedIn s n).length ∧ (s.port n).logins ≤ 4
  within : ∀ x ∈ s.names, x.2.status ≠ .pinned → S x.2.port = true

/-- The law at rest: the Name Map is lawful and follows what is Serviceable. -/
def NamesFollow (s : State) : Prop := NamesLawful s ∧ LoginsFollow s

theorem namesFollow_iff {s : State} : NamesFollow s ↔ LoginsOver (serviceable s) s :=
  ⟨fun ⟨hn, hc, hw⟩ => ⟨hn, hc, hw⟩, fun h => ⟨h.names, h.count, h.within⟩⟩

theorem loggedIn_of_names {s t : State} (h : t.names = s.names) (n : PortIx) : loggedIn t n = loggedIn s n := by
  simp only [loggedIn, h]

namespace LoginsOver

variable {S T : PortIx → Bool} {s t : State}

theorem congr (h : LoginsOver S s) (hn : t.names = s.names) (hl : ∀ n, (t.port n).logins = (s.port n).logins)
    (hS : ∀ n, T n = S n) : LoginsOver T t where
  names := h.names.of_names hn
  count n := by rw [hl, loggedIn_of_names hn]; exact h.count n
  within x hx hp := by rw [hS]; exact h.within x (hn ▸ hx) hp

/-- A port may come into the set, whatever it is. -/
theorem grow (h : LoginsOver S s) (n : PortIx) : LoginsOver (Function.update S n true) s where
  names := h.names
  count := h.count
  within x hx hp := by
    by_cases he : x.2.port = n
    · rw [he, Function.update_self]
    · rw [Function.update_of_ne he]
      exact h.within x hx hp

theorem removeLogins (h : LoginsOver S s) (n : PortIx) : LoginsOver (Function.update S n false) (removeLogins n s) := by
  have hnames := removeLogins_names n h.names
  refine ⟨removeLogins_namesLawful n h.names, fun m => ?_, fun x hx hp => ?_⟩
  · have hlogged : loggedIn (Machine.removeLogins n s) m = if m = n then [] else loggedIn s m := by
      unfold loggedIn
      rw [hnames, loggedIn_namesAfter]
      by_cases hm : m = n <;> simp [hm]
    rw [hlogged]
    by_cases hm : m = n
    · subst hm
      rw [removeLogins_port m h.names, if_pos rfl]
      exact ⟨rfl, Nat.zero_le 4⟩
    · rw [removeLogins_port_other hm h.names, if_neg hm]
      exact h.count m
  · rw [hnames, namesAfter] at hx
    obtain ⟨y, hy, hleft⟩ := List.mem_filterMap.1 hx
    have hin : x.2.status.loggedIn = true := (NameStatus.loggedIn_iff _).2 hp
    obtain ⟨rfl, hstays⟩ := leftOf_loggedIn hleft hin
    rw [Function.update_of_ne (by simpa using hstays)]
    exact h.within x hy hp

theorem loseServiceable (h : LoginsOver S s) (n : PortIx) : LoginsOver (Function.update S n false) (loseServiceable n s) := by
  have hdark : ∀ m, ((s.modPort n fun r => { r with link := .dark }).port m).logins = (s.port m).logins := fun m => by
    rw [modPort_port]
    split
    · rename_i he
      subst he
      rfl
    · rfl
  unfold Machine.loseServiceable
  refine removeLogins ?_ n
  split
  · exact h.congr rfl hdark fun _ => rfl
  · exact h.congr rfl hdark fun _ => rfl

/-- A review of Serviceable makes the law right at its port (R6, R7). -/
theorem reviewServiceable (h : LoginsOver S s) (n : PortIx) :
    LoginsOver (Function.update S n (serviceable s n)) (reviewServiceable n (S n) s) := by
  unfold Machine.reviewServiceable
  split
  · rename_i hwas hnow
    rw [hnow]
    exact h.loseServiceable n
  · rename_i hwas hnow
    rw [hnow]
    exact (h.grow n).congr rfl (fun _ => rfl) fun _ => rfl
  · rename_i hwas hnow
    rw [hnow, ← hwas, Function.update_eq_self]
    exact h
  · rename_i hwas hnow
    rw [hnow, ← hwas, Function.update_eq_self]
    exact h

end LoginsOver

/-! ## Changes at one port -/

/-- From s to t the Name Map and the login counts stand, and so does what is Serviceable but for one port. -/
structure ChangesAt (n : PortIx) (s t : State) : Prop where
  names : t.names = s.names
  logins : ∀ m, (t.port m).logins = (s.port m).logins
  others : ∀ m, m ≠ n → serviceable t m = serviceable s m

namespace ChangesAt

variable {n : PortIx} {s t u : State}

theorem refl (s : State) : ChangesAt n s s := ⟨rfl, fun _ => rfl, fun _ _ => rfl⟩

theorem trans (h : ChangesAt n s t) (h' : ChangesAt n t u) : ChangesAt n s u :=
  ⟨h'.names.trans h.names, fun m => (h'.logins m).trans (h.logins m), fun m hm => (h'.others m hm).trans (h.others m hm)⟩

theorem port (f : PortRec → PortRec) (hf : ∀ r, (f r).logins = r.logins) (s : State) : ChangesAt n s (s.modPort n f) := by
  refine ⟨rfl, fun m => ?_, fun m hm => ?_⟩
  · rw [modPort_port]
    split
    · rename_i he
      exact he ▸ hf _
    · rfl
  · have hport := modPort_port_other hm f s
    exact serviceable_congr (by rw [hport]) (by rw [hport]) (by rw [hport]) rfl rfl

theorem power (f : PowerBudget → PowerBudget) (s : State) : ChangesAt n s (s.modPower f) :=
  ⟨rfl, fun _ => rfl, fun _ _ => rfl⟩

theorem reviewEligible (n : PortIx) (was : Bool) (draw : Nat) (s : State) : ChangesAt n s (reviewEligible n was draw s) := by
  unfold Machine.reviewEligible
  split
  · unfold loseEligibility
    refine ChangesAt.trans ?_ (port (fun r => { r with power := .off, hold := false }) (fun _ => rfl) _)
    split
    · exact power _ s
    · exact power _ s
    · exact refl s
  · exact (port (fun r => { r with power := .waiting, hold := atCap s n }) (fun _ => rfl) s).trans ⟨rfl, fun _ => rfl, fun _ _ => rfl⟩
  · exact refl s
  · exact refl s

/-- A review after a change at one port makes the law right again. -/
theorem namesFollow (h : ChangesAt n s t) (hs : NamesFollow s) : NamesFollow (reviewServiceable n (serviceable s n) t) := by
  have hover := (namesFollow_iff.1 hs).congr (t := t) (T := serviceable s) h.names h.logins fun _ => rfl
  have hreviewed := hover.reviewServiceable n
  have hcore := (CoreKept.refl t).reviewServiceable n (serviceable s n)
  refine namesFollow_iff.2 (hreviewed.congr rfl (fun _ => rfl) fun m => ?_)
  rw [hcore.serviceable]
  by_cases hm : m = n
  · rw [hm, Function.update_self]
  · rw [Function.update_of_ne hm, h.others m hm]

end ChangesAt

namespace LoginsOver

variable {S : PortIx → Bool} {s : State}

/-- The ports of a list follow their card: where the Name Map took each of them to be as it was before, and any other as it is, the law
is right after (R9). -/
theorem followCard {before : State} {l : List PortIx} (hl : l.Nodup) (h : LoginsOver S s)
    (hin : ∀ n ∈ l, S n = serviceable before n) (hout : ∀ n, n ∉ l → S n = serviceable s n) :
    NamesFollow (forEach l (fun n s => Machine.reviewServiceable n (serviceable before n)
      (reviewEligible n (eligible before n) (portDraw before n) s)) s) := by
  induction l generalizing S s with
  | nil => exact namesFollow_iff.2 (h.congr rfl (fun _ => rfl) fun n => (hout n nofun).symm)
  | cons n l ih =>
    obtain ⟨hn, hl⟩ := List.nodup_cons.1 hl
    have hat := ChangesAt.reviewEligible n (eligible before n) (portDraw before n) s
    rw [forEach_cons, ← hin n List.mem_cons_self]
    generalize reviewEligible n (eligible before n) (portDraw before n) s = u at hat ⊢
    have hreviewed := (h.congr (t := u) (T := S) hat.names hat.logins fun _ => rfl).reviewServiceable n
    have hcore := (CoreKept.refl u).reviewServiceable n (S n)
    refine ih hl hreviewed (fun m hm => ?_) fun m hm => ?_
    · have hne : m ≠ n := fun he => hn (he ▸ hm)
      rw [Function.update_of_ne hne]
      exact hin m (List.mem_cons_of_mem _ hm)
    · rw [hcore.serviceable]
      by_cases hmn : m = n
      · rw [hmn, Function.update_self]
      · rw [Function.update_of_ne hmn, hat.others m hmn]
        exact hout m fun hc => (List.mem_cons.1 hc).elim hmn hm

end LoginsOver

namespace NamesFollow

variable {s t : State}

theorem still (h : NamesFollow s) (hs : Still s t) : NamesFollow t :=
  namesFollow_iff.2 ((namesFollow_iff.1 h).congr hs.names hs.logins hs.serviceable)

/-- A card changes its state and its ports follow it (R9). -/
theorem portsFollowCard {slot : Slot} (h : NamesFollow s) (hn : t.names = s.names) (hl : ∀ n, (t.port n).logins = (s.port n).logins)
    (ho : ∀ n, slotOf n ≠ slot → serviceable t n = serviceable s n) : NamesFollow (portsFollowCard slot s t) := by
  refine LoginsOver.followCard (slotPorts_nodup slot) ((namesFollow_iff.1 h).congr (T := serviceable s) hn hl fun _ => rfl)
    (fun _ _ => rfl) fun n hn => (ho n fun hs => hn (mem_slotPorts.2 hs)).symm

theorem portChange (h : NamesFollow s) (n : PortIx) (f : PortRec → PortRec) (hf : ∀ r, (f r).logins = r.logins) :
    NamesFollow (portChange n f s) :=
  ((ChangesAt.port f hf s).trans (.reviewEligible n _ _ _)).namesFollow h

theorem displacePort (h : NamesFollow s) (n : PortIx) (hold : Bool) : NamesFollow (displacePort n hold s) :=
  (((ChangesAt.power _ s).trans (.port (fun r => { r with power := .waiting, hold := hold }) (fun _ => rfl) _)).trans
    (.power _ _)).namesFollow h

theorem serviceable_of_enters {slot : Slot} {st : CardState} (hk : CardEnters slot st s t) (n : PortIx) (hn : slotOf n ≠ slot) :
    serviceable t n = serviceable s n :=
  serviceable_congr (by rw [port_of_ports hk.ports]) (by rw [port_of_ports hk.ports]) (by rw [port_of_ports hk.ports])
    (hk.others _ hn).1 (hk.others _ hn).2

theorem joinCard (h : NamesFollow s) (slot : Slot) :
    NamesFollow (Machine.portsFollowCard slot s (cardJoined slot
      ((enterCard slot .joined (stopTimer slot s)).modCard slot fun c => { c with attempts := 0 }))) := by
  have hcount := (CoreKept.refl (enterCard slot .joined (stopTimer slot s))).card slot (fun c => { c with attempts := 0 })
    fun _ => ⟨rfl, rfl⟩
  have hk := ((enterCard_enters slot .joined (stopTimer slot s)).after_core ((CoreKept.refl s).stopTimer slot) rfl).then_core hcount rfl
  have hnames : ((enterCard slot .joined (stopTimer slot s)).modCard slot fun c => { c with attempts := 0 }).names = s.names := rfl
  generalize (enterCard slot .joined (stopTimer slot s)).modCard slot (fun c => { c with attempts := 0 }) = u at hk hnames ⊢
  have hframe := (EngineFrame.refl u).cardJoined slot
  have hcore := (CoreKept.refl u).cardJoined slot
  refine h.portsFollowCard (hframe.names.trans hnames) (fun n => ?_) fun n hn => ?_
  · rw [port_of_ports (hframe.ports.trans hk.ports)]
  · rw [hcore.serviceable]
    exact serviceable_of_enters hk n hn

theorem leaveCard (h : NamesFollow s) (slot : Slot) {st : CardState} (hst : st.inService = false) :
    NamesFollow (leaveCard slot st s) := by
  have hjoined : st ≠ .joined := fun he => by rw [he] at hst; cases hst
  have hreleased : Still s (releaseCard slot s) := by
    unfold releaseCard
    split
    · exact .of_cards rfl rfl rfl rfl rfl
    · split
      · exact .of_cards rfl rfl rfl rfl rfl
      · exact .refl s
  have hk : CardEnters slot st (releaseCard slot s) (clearTemp slot (stopTimer slot (enterCard slot st (releaseCard slot s)))) :=
    (enterCard_enters slot st _).then_core (((CoreKept.refl _).stopTimer slot).clearTemp slot) rfl
  have hnames : (clearTemp slot (stopTimer slot (enterCard slot st (releaseCard slot s)))).names = s.names := hreleased.names
  unfold Machine.leaveCard
  generalize clearTemp slot (stopTimer slot (enterCard slot st (releaseCard slot s))) = v at hk hnames ⊢
  have hlogins : ∀ n, (v.port n).logins = (s.port n).logins := fun n => by
    rw [port_of_ports hk.ports]
    exact hreleased.logins n
  have hother : ∀ n, slotOf n ≠ slot → serviceable v n = serviceable s n := fun n hn =>
    (serviceable_of_enters hk n hn).trans (hreleased.serviceable n)
  have htold : NamesFollow (tellDeparture slot s v) := by
    unfold tellDeparture
    split
    · have hframe := (EngineFrame.refl v).cardLeft slot
      have hcore := (CoreKept.refl v).cardLeft slot
      refine h.portsFollowCard (hframe.names.trans hnames) (fun n => ?_) fun n hn => ?_
      · rw [port_of_ports hframe.ports]
        exact hlogins n
      · rw [hcore.serviceable]
        exact hother n hn
    · rename_i hout
      have hnot : (s.card slot).state ≠ .joined := fun hj => hout (by rw [hj]; rfl)
      refine namesFollow_iff.2 ((namesFollow_iff.1 h).congr hnames hlogins fun n => ?_)
      by_cases hn : slotOf n = slot
      · have hs : serviceable s n = false := serviceable_of_not_joined (by rw [cardOf, hn]; exact hnot)
        have hv : serviceable v n = false := serviceable_of_not_joined (by rw [cardOf, hn, hk.state]; exact hjoined)
        rw [hs, hv]
      · exact hother n hn
  unfold endCardFault
  split
  · exact htold.still (.clear _ _ _)
  · exact htold

/-- An operation that leaves the Name Map, the ports and every card's state and identity. -/
theorem of_engine (h : NamesFollow s) (hf : EngineFrame s t) (hc : CoreKept s t) : NamesFollow t :=
  namesFollow_iff.2 ((namesFollow_iff.1 h).congr hf.names (fun n => by rw [port_of_ports hf.ports]) hc.serviceable)

theorem fenceClaim (h : NamesFollow s) (slot : Slot) : NamesFollow (fenceClaim slot s) := by
  unfold Machine.fenceClaim
  split
  · have hk := (enterCard_enters slot .fenced s).then_core ((CoreKept.refl _).raise (plainRaise .cardFault (slotNumber slot) .major 4))
      (by rw [raiseAlarm_eq])
    refine h.portsFollowCard (by rw [raiseAlarm_eq]; rfl) (fun n => by rw [port_of_ports hk.ports]) fun n hn => ?_
    exact serviceable_of_enters hk n hn
  · exact h

theorem commitTimeout (h : NamesFollow s) (slot : Slot) (m : CardMsg) : NamesFollow (commitTimeout slot m s) := by
  unfold Machine.commitTimeout
  dsimp only
  split
  · exact h.of_engine (((EngineFrame.refl s).phase slot _).send slot m) (((CoreKept.refl s).phase slot _).send slot m)
  · unfold fenceCard
    dsimp only
    have hcounted := (EngineFrame.refl s).setPhase slot .outside |>.commit fun e => { e with tally := min (e.tally + 1) 255 }
    have hnoted := (h.of_engine (hcounted.noteRecord _ _) ((CoreKept.refl s).fenceCard_before slot)).fenceClaim slot
    exact hnoted.of_engine (EngineFrame.refl _).commitFollows (CoreKept.refl _).commitFollows

end NamesFollow

/-! ## Logins, logouts and pins (R119 to R125) -/

theorem tableErase_of_free {α : Type} {pos : Nat} {l : List (Nat × α)} (h : ∀ x ∈ l, x.1 ≠ pos) : tableErase pos l = l :=
  List.filter_eq_self.2 fun x hx => by simpa using h x hx

/-- Putting an entry puts it among the others. -/
theorem tableSet_perm {α : Type} {pos : Nat} (a : α) {l : List (Nat × α)} (h : l.Pairwise fun x y => x.1 < y.1) :
    (tableSet pos a l).Perm ((pos, a) :: tableErase pos l) := by
  induction l with
  | nil => exact .refl _
  | cons y l ih =>
    obtain ⟨k, b⟩ := y
    obtain ⟨hk, hl⟩ := List.pairwise_cons.1 h
    have hrest : pos ≤ k → tableErase pos l = l := fun hle =>
      tableErase_of_free fun x hx => Nat.ne_of_gt (lt_of_le_of_lt hle (hk x hx))
    rw [tableSet]
    split
    · rename_i hlt
      have herase : tableErase pos ((k, b) :: l) = (k, b) :: tableErase pos l :=
        List.filter_cons_of_pos (by simpa using Nat.ne_of_gt hlt)
      rw [herase, hrest hlt.le]
    · split
      · rename_i heq
        subst heq
        have herase : tableErase pos ((pos, b) :: l) = tableErase pos l := List.filter_cons_of_neg (by simp)
        rw [herase, hrest le_rfl]
      · rename_i hne
        have herase : tableErase pos ((k, b) :: l) = (k, b) :: tableErase pos l :=
          List.filter_cons_of_pos (by simpa using Ne.symm hne)
        rw [herase]
        exact ((ih hl).cons _).trans (.swap _ _ _)

/-- Freeing a position takes its entry from among the others. -/
theorem tableErase_perm {α : Type} {pos : Nat} {a : α} {l : List (Nat × α)} (h : l.Pairwise fun x y => x.1 < y.1)
    (hm : (pos, a) ∈ l) : l.Perm ((pos, a) :: tableErase pos l) := by
  induction l with
  | nil => cases hm
  | cons y l ih =>
    obtain ⟨hy, hl⟩ := List.pairwise_cons.1 h
    rcases List.mem_cons.1 hm with rfl | hm
    · have herase : tableErase pos ((pos, a) :: l) = tableErase pos l := List.filter_cons_of_neg (by simp)
      rw [herase, tableErase_of_free fun x hx => Nat.ne_of_gt (hy x hx)]
    · have herase : tableErase pos (y :: l) = y :: tableErase pos l :=
        List.filter_cons_of_pos (by simpa using Nat.ne_of_lt (hy _ hm))
      rw [herase]
      exact ((ih hl hm).cons _).trans (.swap _ _ _)

/-- From s to t one entry of the Name Map, if any, has given way to another, if any. -/
def Swapped (old new : Option (Nat × NameEntry)) (s t : State) : Prop :=
  ∃ rest, s.names.Perm (old.toList ++ rest) ∧ t.names.Perm (new.toList ++ rest)

namespace Swapped

variable {s t : State} {pos : Nat} {e e' : NameEntry}

theorem rewrite (h : NamesLawful s) (he : (pos, e) ∈ s.names) (e' : NameEntry) :
    Swapped (some (pos, e)) (some (pos, e')) s (putName pos e' s) :=
  ⟨_, tableErase_perm h.1.pairwise he, tableSet_perm e' h.1.pairwise⟩

theorem enter (h : NamesLawful s) (hfree : freePosition Config.namePositions s.names = some pos) (e' : NameEntry) :
    Swapped none (some (pos, e')) s (putName pos e' s) := by
  refine ⟨tableErase pos s.names, ?_, tableSet_perm e' h.1.pairwise⟩
  rw [tableErase_of_free (freePosition_free h.1 hfree).2]
  exact .refl _

theorem leave (h : NamesLawful s) (he : (pos, e) ∈ s.names) : Swapped (some (pos, e)) none s (freeName pos s) :=
  ⟨_, tableErase_perm h.1.pairwise he, .refl _⟩

theorem then_names {u : State} {old new : Option (Nat × NameEntry)} (h : Swapped old new s t) (hn : u.names = t.names) :
    Swapped old new s u := by
  obtain ⟨rest, hs, ht⟩ := h
  exact ⟨rest, hs, hn ▸ ht⟩

end Swapped

/-- How many logins on a port an entry counts for. -/
def countsOn (n : PortIx) (x : Option (Nat × NameEntry)) : Nat := x.toList.countP fun x => x.2.port == n && x.2.status.loggedIn

theorem countsOn_none (n : PortIx) : countsOn n none = 0 := rfl

theorem countsOn_pinned {x : Nat × NameEntry} (h : x.2.status = .pinned) (n : PortIx) : countsOn n (some x) = 0 := by
  simp [countsOn, h, NameStatus.loggedIn]

theorem countsOn_loggedIn {x : Nat × NameEntry} (h : x.2.status.loggedIn = true) (n : PortIx) :
    countsOn n (some x) = if x.2.port = n then 1 else 0 := by
  by_cases hn : x.2.port = n <;> simp [countsOn, h, hn]

theorem length_loggedIn (s : State) (n : PortIx) :
    (loggedIn s n).length = s.names.countP fun x => x.2.port == n && x.2.status.loggedIn := by
  rw [loggedIn, List.length_map, List.countP_eq_length_filter]

namespace NamesFollow

variable {s t : State} {old new : Option (Nat × NameEntry)}

/-- One entry gives way to another, and the login counts follow. -/
theorem swap (h : NamesFollow s) (hn : NamesLawful t) (hsw : Swapped old new s t)
    (hlog : ∀ n, (t.port n).logins + countsOn n old = (s.port n).logins + countsOn n new) (hle : ∀ n, (t.port n).logins ≤ 4)
    (hin : ∀ x, new = some x → x.2.status ≠ .pinned → serviceable s x.2.port = true)
    (hserv : ∀ n, serviceable t n = serviceable s n) : NamesFollow t := by
  obtain ⟨-, hcount, hwithin⟩ := h
  obtain ⟨rest, hs, ht⟩ := hsw
  refine ⟨hn, fun n => ⟨?_, hle n⟩, fun x hx hp => ?_⟩
  · have hcs := (hcount n).1
    rw [length_loggedIn, hs.countP_eq, List.countP_append] at hcs
    rw [length_loggedIn, ht.countP_eq, List.countP_append]
    have hl := hlog n
    unfold countsOn at hl
    omega
  · rw [hserv]
    rcases List.mem_append.1 (ht.mem_iff.1 hx) with hx | hx
    · exact hin x (Option.mem_toList.1 hx) hp
    · exact hwithin x (hs.mem_iff.2 (List.mem_append_right _ hx)) hp

theorem raiseLogins_port (n m : PortIx) (s : State) :
    ((raiseLogins n s).port m).logins = (s.port m).logins + if n = m then 1 else 0 := by
  unfold raiseLogins
  rw [modPort_port]
  split
  · rename_i he
    subst he
    rfl
  · rfl

theorem raiseLogins_serviceable (n m : PortIx) (s : State) : serviceable (raiseLogins n s) m = serviceable s m :=
  ((CoreKept.refl s).port' n (fun r => { r with logins := r.logins + 1 }) fun _ => rfl).serviceable m

/-- An accepted login: its entry counts for the port from now on (R120). -/
theorem enterLogin (h : NamesFollow s) {u : State} {n : PortIx} {x : Nat × NameEntry} (hn : NamesLawful u)
    (hsw : Swapped old (some x) s u) (hp : u.ports = s.ports) (hk : CoreKept s u) (hport : x.2.port = n)
    (hin : x.2.status.loggedIn = true) (hold : ∀ m, countsOn m old = 0) (hlt : (s.port n).logins < 4)
    (hserv : serviceable s n = true) : NamesFollow (raiseLogins n u) := by
  refine h.swap (hn.of_names rfl) (hsw.then_names rfl) (fun m => ?_) (fun m => ?_) (fun y hy _ => ?_) fun m => ?_
  · rw [raiseLogins_port, port_of_ports hp, hold, countsOn_loggedIn hin, hport]
    omega
  · rw [raiseLogins_port, port_of_ports hp]
    split
    · rename_i he
      subst he
      omega
    · exact (h.2.1 m).2
  · cases hy
    rw [hport]
    exact hserv
  · rw [raiseLogins_serviceable]
    exact hk.serviceable m

theorem loginOnPort (h : NamesFollow s) {n : PortIx} {name : DevName} (hname : name ≠ 0) (hserv : serviceable s n = true) :
    NamesFollow (loginOnPort n name s).1 := by
  unfold Machine.loginOnPort
  split
  · rename_i pos e he
    obtain ⟨hm, -⟩ := entryFor_mem he
    split
    · split <;> exact h
    · rename_i hpinned
      split
      · exact h
      · rename_i hport
        split
        · rename_i hlt
          exact h.enterLogin (h.1.rewrite (e' := { e with status := .pinnedPresent }) hm rfl)
            (.rewrite h.1 hm { e with status := .pinnedPresent }) rfl ((CoreKept.refl s).names _) (not_not.1 hport) rfl
            (countsOn_pinned hpinned) hlt hserv
        · exact h
    · split <;> exact h
  · rename_i hnone
    split
    · exact h
    · rename_i hlt
      split
      · exact h.still (.raise _ s)
      · rename_i pos hfree
        exact h.enterLogin (h.1.enter (e := ⟨name, n, .learned⟩) hname hfree hnone)
          (.enter h.1 hfree ⟨name, n, .learned⟩) rfl ((CoreKept.refl s).names _) rfl rfl countsOn_none (not_le.1 hlt) hserv

theorem login (h : NamesFollow s) (slot : Slot) (position : Byte) (name : DevName) : NamesFollow (login slot position name s) := by
  unfold Machine.login
  refine NamesFollow.still ?_ (.send slot _ _)
  unfold takeLogin
  split
  · exact h
  · rename_i hname
    split
    · exact h
    · split
      · rename_i hserv
        exact h.loginOnPort hname hserv
      · exact h

/-- The login of an entry ends: it counts for its port no more (R121). -/
theorem endLogin (h : NamesFollow s) {pos : Nat} {e : NameEntry} (he : (pos, e) ∈ s.names) (hin : e.status.loggedIn = true) :
    NamesFollow (endLogin pos e s) := by
  have hports : ∀ m, ((Machine.endLogin pos e s).port m).logins = (s.port m).logins - if e.port = m then 1 else 0 := fun m => by
    rw [endLogin_eq, sendJoined_port, lowerLogins, modPort_port, writeLogout_port, writeLogout_port]
    split
    · rename_i hm
      subst hm
      rfl
    · rfl
  have hle : ∀ m, ((Machine.endLogin pos e s).port m).logins ≤ 4 := fun m => by
    rw [hports]
    exact (Nat.sub_le _ _).trans (h.2.1 m).2
  have hpos : 1 ≤ (s.port e.port).logins := by
    rw [(h.2.1 e.port).1, length_loggedIn, Nat.one_le_iff_ne_zero, ← Nat.pos_iff_ne_zero, List.countP_pos_iff]
    exact ⟨(pos, e), he, by simp [hin]⟩
  have hcounts : ∀ m, ((Machine.endLogin pos e s).port m).logins + countsOn m (some (pos, e)) = (s.port m).logins := fun m => by
    rw [hports, countsOn_loggedIn hin]
    split
    · rename_i hm
      rw [← hm]
      omega
    · omega
  have hnames : (Machine.endLogin pos e s).names = (writeLogout pos e s).names := endLogin_names pos e s
  have hserv := ((CoreKept.refl s).endLogin pos e).serviceable
  cases hst : e.status with
  | learned =>
    refine h.swap (old := some (pos, e)) (new := none) (h.1.endLogin he) ((Swapped.leave h.1 he).then_names ?_) hcounts hle nofun hserv
    rw [hnames, writeLogout, hst]
  | pinnedPresent =>
    refine h.swap (old := some (pos, e)) (new := some (pos, { e with status := .pinned })) (h.1.endLogin he)
      ((Swapped.rewrite h.1 he _).then_names ?_) (fun m => ?_) hle ?_ hserv
    · rw [hnames, writeLogout, hst]
    · rw [hcounts, countsOn_pinned rfl, add_zero]
    · rintro x ⟨rfl⟩ hp
      exact absurd rfl hp
  | pinned => rw [hst] at hin; cases hin

theorem logout (h : NamesFollow s) (slot : Slot) (position : Byte) (name : DevName) : NamesFollow (logout slot position name s) := by
  unfold Machine.logout
  split
  · rename_i he
    split
    · rename_i hin
      exact h.endLogin (entryFor_mem he).1 hin.2
    · exact h
  · exact h

/-- An entry gives way to another that counts for the same port: no count moves. -/
theorem swap_same (h : NamesFollow s) (hn : NamesLawful t) (hsw : Swapped old new s t) (hp : t.ports = s.ports) (hk : CoreKept s t)
    (hcounts : ∀ n, countsOn n old = countsOn n new)
    (hin : ∀ x, new = some x → x.2.status ≠ .pinned → serviceable s x.2.port = true) : NamesFollow t :=
  h.swap hn hsw (fun n => by rw [port_of_ports hp, hcounts]) (fun n => by rw [port_of_ports hp]; exact (h.2.1 n).2) hin hk.serviceable

theorem namePin (h : NamesFollow s) (name : DevName) (port : Half) : NamesFollow (namePin name port s).1 := by
  have hlawful := h.1.namePin name port
  unfold Machine.namePin at hlawful ⊢
  split
  · exact h
  · rename_i hname
    split
    · exact h
    · rename_i n _
      split
      · rename_i hnone
        split
        · rename_i pos hfree
          refine h.swap_same (h.1.enter (e := ⟨name, n, .pinned⟩) hname hfree hnone) (.enter h.1 hfree ⟨name, n, .pinned⟩) rfl
            ((CoreKept.refl s).names _) (fun m => (countsOn_pinned (x := (pos, ⟨name, n, .pinned⟩)) rfl m).symm) ?_
          rintro x ⟨rfl⟩ hp
          exact absurd rfl hp
        · exact h
      · rename_i pos e he
        have hm := (entryFor_mem he).1
        split
        · rename_i hlearned
          split
          · refine h.swap_same (h.1.rewrite (e' := { e with status := .pinnedPresent }) hm rfl) (.rewrite h.1 hm _) rfl
              ((CoreKept.refl s).names _) (fun m => ?_) ?_
            · rw [countsOn_loggedIn (by rw [hlearned]; rfl), countsOn_loggedIn rfl]
            · rintro x ⟨rfl⟩ -
              exact h.2.2 (pos, e) hm (by rw [hlearned]; nofun)
          · exact h
        · rename_i hpinned
          split
          · exact h
          · refine h.swap_same (h.1.rewrite (e' := { e with port := n }) hm rfl) (.rewrite h.1 hm _) rfl
              ((CoreKept.refl s).names _) (fun m => ?_) ?_
            · rw [countsOn_pinned hpinned, countsOn_pinned (x := (pos, { e with port := n })) hpinned]
            · rintro x ⟨rfl⟩ hp
              exact absurd hpinned hp
        · split <;> exact h

theorem nameUnpin (h : NamesFollow s) (name : DevName) : NamesFollow (nameUnpin name s).1 := by
  unfold Machine.nameUnpin
  split
  · exact h
  · split
    · exact h
    · rename_i pos e he
      have hm := (entryFor_mem he).1
      split
      · exact h
      · rename_i hpinned
        exact h.swap_same (h.1.freeName pos) (.leave h.1 hm) rfl ((CoreKept.refl s).names _) (countsOn_pinned hpinned) nofun
      · rename_i hpresent
        refine h.swap_same (h.1.rewrite (e' := { e with status := .learned }) hm rfl) (.rewrite h.1 hm _) rfl
          ((CoreKept.refl s).names _) (fun m => ?_) ?_
        · rw [countsOn_loggedIn (by rw [hpresent]; rfl), countsOn_loggedIn rfl]
        · rintro x ⟨rfl⟩ -
          exact h.2.2 (pos, e) hm (by rw [hpresent]; nofun)

/-! ## Link messages (R8) -/

theorem takeLink (h : NamesFollow s) (slot : Slot) (position : Byte) (lit : Bool) : NamesFollow (takeLink slot position lit s) := by
  have hlink : ∀ n (l : LinkState), NamesFollow (s.modPort n fun r => { r with link := l }) := fun n l => by
    have hcore := (CoreKept.refl s).port' n (fun r => { r with link := l }) fun _ => rfl
    refine namesFollow_iff.2 ((namesFollow_iff.1 h).congr rfl (fun m => ?_) hcore.serviceable)
    rw [modPort_port]
    split
    · rename_i he
      subst he
      rfl
    · rfl
  unfold Machine.takeLink
  split
  · exact h
  · rename_i n _
    split
    · unfold linkReport
      split
      · split
        · exact h.still (.send _ _ s)
        · exact h
      · split
        · exact hlink n .lit
        · have hdark := hlink n .dark
          generalize (s.modPort n fun r => { r with link := .dark }) = u at hdark ⊢
          have hcore := (CoreKept.refl u).removeLogins n
          have hremoved := (namesFollow_iff.1 hdark).removeLogins n
          refine namesFollow_iff.2 ⟨hremoved.names, hremoved.count, fun x hx hp => ?_⟩
          have hS := hremoved.within x hx hp
          rw [hcore.serviceable]
          by_cases hxn : x.2.port = n
          · rw [hxn, Function.update_self] at hS
            cases hS
          · rwa [Function.update_of_ne hxn] at hS
        · exact h
        · exact h
    · exact h

/-! ## The settling -/

theorem coldValues (lines : PresenceLines) (s : State) : NamesFollow (coldValues lines s) := by
  have hnames : (Machine.coldValues lines s).names = [] := rfl
  refine ⟨by simp [NamesLawful, TableLawful, hnames], fun n => ?_, fun x hx => by rw [hnames] at hx; cases hx⟩
  have hlogins : ((Machine.coldValues lines s).port n).logins = 0 := by
    simp [Machine.coldValues, State.port, State.reset, PortRec.cold]
  rw [hlogins, loggedIn, hnames]
  exact ⟨rfl, Nat.zero_le 4⟩

theorem restLaw : RestLaw NamesFollow where
  still hs h := h.still hs
  portChange n f hf h := h.portChange n f hf
  displacePort n hold h := h.displacePort n hold
  joinCard _ h := h.joinCard _
  leaveCard slot _ hst h := h.leaveCard slot hst
  link slot position lit h := h.takeLink slot position lit
  holdAck g _ h := h.of_engine ((EngineFrame.refl _).holdAck _ g) ((CoreKept.refl _).holdAck _ g)
  resumeAck g _ h := h.of_engine ((EngineFrame.refl _).resumeAck _ g) ((CoreKept.refl _).resumeAck _ g)
  commitTimeout m _ h := h.commitTimeout _ m
  commitAbort h := h.of_engine (EngineFrame.commitAbort _) (CoreKept.refl _).commitAbort
  confirmedCommit h := h.of_engine (EngineFrame.confirmedCommit _) (CoreKept.refl _).confirmedCommit
  commitWithdraw h := h.of_engine (EngineFrame.commitWithdraw _) (by
    rw [commitWithdraw_frame]
    exact (CoreKept.refl _).of_records rfl rfl rfl rfl)
  login slot position name h := h.login slot position name
  logout slot position name h := h.logout slot position name
  namePin name port h := h.namePin name port
  nameUnpin name h := h.nameUnpin name
  cold lines s := coldValues lines s

end NamesFollow

end Sys2Proof.Machine

section
open Sys2Proof Sys2Proof.Machine

/-- Settles O28: the Name Map's law, with what the Name Map takes to be Serviceable until the review of each port. -/
theorem loginsFollowEveryStep : Obligations.LoginsFollowEveryStep := by
  unfold Obligations.LoginsFollowEveryStep
  rintro s t ⟨hn, hw, hl⟩ hstep
  exact (NamesFollow.restLaw.step hw ⟨hn, hl⟩ hstep).2

end

/-! PROOFS. The bytes of the two links (R168 to R170): the fields, the check, and the rows that frames and messages decode to; and the
settling of EncodingsAgree. -/

namespace Sys2Proof

/-! ## Fields (R168) -/

@[simp] theorem split2_join2 (a b : Byte) : split2 (join2 a b) = [a, b] := by
  unfold split2 join2
  rw [BitVec.extractLsb'_append_eq_left, BitVec.extractLsb'_append_eq_right]

@[simp] theorem split4_join4 (a b c d : Byte) : split4 (join4 a b c d) = [a, b, c, d] := by
  unfold split4 join4
  rw [BitVec.extractLsb'_append_eq_left, BitVec.extractLsb'_append_eq_right, split2_join2, split2_join2]
  rfl

@[simp] theorem split8_join8 (a b c d e f g h : Byte) : split8 (join8 a b c d e f g h) = [a, b, c, d, e, f, g, h] := by
  unfold split8 join8
  rw [BitVec.extractLsb'_append_eq_left, BitVec.extractLsb'_append_eq_right, split4_join4, split4_join4]
  rfl

theorem join2_split (w : Half) : join2 (w.extractLsb' 8 8) (w.extractLsb' 0 8) = w :=
  BitVec.extractLsb'_append_extractLsb' (w := 8) (len := 8)

/-- The two bytes at a place are those of the two-byte field there. -/
theorem exists_split2 (w : Half) : ∃ a b, split2 w = [a, b] ∧ join2 a b = w := ⟨_, _, rfl, join2_split w⟩

theorem exists_split4 (w : Word) : ∃ a b c d, split4 w = [a, b, c, d] ∧ join4 a b c d = w := by
  refine ⟨_, _, _, _, rfl, ?_⟩
  unfold join4
  rw [join2_split, join2_split]
  exact BitVec.extractLsb'_append_extractLsb' (w := 16) (len := 16)

theorem exists_split8 (w : DevName) :
    ∃ a b c d e f g h, split8 w = [a, b, c, d, e, f, g, h] ∧ join8 a b c d e f g h = w := by
  obtain ⟨a, b, c, d, hs, hj⟩ := exists_split4 (w.extractLsb' 32 32)
  obtain ⟨e, f, g, h, hs', hj'⟩ := exists_split4 (w.extractLsb' 0 32)
  refine ⟨a, b, c, d, e, f, g, h, ?_, ?_⟩
  · unfold split8
    rw [hs, hs']
    rfl
  · unfold join8
    rw [hj, hj']
    exact BitVec.extractLsb'_append_extractLsb' (w := 32) (len := 32)

theorem length_split2 (w : Half) : (split2 w).length = 2 := rfl

/-- A list of bytes is that of its bytes by their places. -/
theorem eq_map_byteAt {p : List Byte} {n : Nat} (h : p.length = n) : p = (List.range n).map (byteAt p) := by
  refine List.ext_getElem (by simp [h]) fun i hi _ => ?_
  simp [byteAt, List.getD_eq_getElem?_getD, hi]

/-! ## The check (R169) -/

theorem withCheck_length (l : List Byte) : (withCheck l).length = l.length + 2 := by simp [withCheck, length_split2]

theorem beforeCheck_withCheck (l : List Byte) : beforeCheck (withCheck l) = l := by
  rw [beforeCheck, withCheck_length, Nat.add_sub_cancel, withCheck, List.take_left]

theorem checkAgrees_withCheck (l : List Byte) : checkAgrees (withCheck l) = true := by
  rw [checkAgrees, beforeCheck_withCheck, carriedCheck, withCheck_length, Nat.add_sub_cancel, withCheck, List.drop_left]
  exact beq_self_eq_true _

theorem byteAt_append {l l' : List Byte} {i : Nat} (h : i < l.length) : byteAt (l ++ l') i = byteAt l i := by
  simp [byteAt, List.getD_eq_getElem?_getD, List.getElem?_append_left h]

/-! ## Command frames (R157, R170, table 11-3) -/

/-- The operation codes of R160 spell their own rows of Confirm, and any other code spells the Commit row (log 19). -/
theorem commandFields_confirmOf (f : Frame) (operation parameter : Byte) :
    commandFields (confirmOf f operation parameter) = some (f, 0x0B#8, [operation, parameter]) := by
  unfold confirmOf
  split
  · rename_i h
    rw [h]
    rfl
  · split
    · rename_i h
      rw [h]
      rfl
    · rfl

theorem nameAt_zero {p : List Byte} (h : p.length = 32) : nameAt p 0 = p := by
  rw [nameAt, List.drop_zero, ← h, List.take_length]

theorem nameAt_two {p : List Byte} (h : p.length = 34) : [byteAt p 0, byteAt p 1] ++ nameAt p 2 = p := by
  obtain ⟨a, q, rfl⟩ := List.exists_cons_of_length_eq_add_one h
  obtain ⟨b, q, rfl⟩ := List.exists_cons_of_length_eq_add_one (Nat.succ.inj h)
  have hq : q.length = 32 := by simpa using h
  show [a, b] ++ q.take 32 = _
  rw [← hq, List.take_length]
  rfl

theorem nameAt_two_last {p : List Byte} (h : p.length = 35) :
    [byteAt p 0, byteAt p 1] ++ nameAt p 2 ++ [byteAt p 34] = p := by
  have hlast : p.drop 34 = [byteAt p 34] := by
    rw [List.drop_eq_getElem_cons (by omega), List.drop_of_length_le (by omega)]
    simp [byteAt, List.getD_eq_getElem?_getD, h]
  have hfirst : (p.take 34).length = 34 := by simp [h]
  have hname : nameAt (p.take 34) 2 = nameAt p 2 := by simp [nameAt, List.take_drop, List.take_take]
  have hbytes : ∀ i, i < 34 → byteAt (p.take 34) i = byteAt p i := fun i hi => by
    simp [byteAt, List.getD_eq_getElem?_getD, hi]
  have hjoin := nameAt_two hfirst
  rw [hname, hbytes 0 (by omega), hbytes 1 (by omega)] at hjoin
  rw [hjoin, ← hlast, List.take_append_drop]

/-- A payload of the length of its code's layout decodes to a command that carries it. -/
theorem commandFields_decodeCommand (bytes : List Byte) (f : Frame) {k : Nat} {p : List Byte} (h : payloadLength k = some p.length) :
    commandFields (decodeCommand bytes f k p) = some (f, BitVec.ofNat 8 k, p) := by
  unfold payloadLength at h
  split at h
  case h_43 => cases h
  case h_11 =>
    refine (commandFields_confirmOf f (byteAt p 0) (byteAt p 1)).trans (congrArg (fun q => some (f, 0x0B#8, q)) ?_)
    exact (eq_map_byteAt (Option.some.inj h).symm).symm
  case h_23 => exact congrArg (fun q => some (f, 0x32#8, q)) (nameAt_zero (Option.some.inj h).symm)
  case h_25 =>
    refine congrArg (fun q => some (f, 0x34#8, q)) ?_
    rw [halfAt, split2_join2]
    exact nameAt_two_last (Option.some.inj h).symm
  case h_27 =>
    refine congrArg (fun q => some (f, 0x36#8, q)) ?_
    rw [halfAt, split2_join2]
    exact nameAt_two (Option.some.inj h).symm
  all_goals
    have hp := eq_map_byteAt (Option.some.inj h).symm
    simp only [List.range_succ, List.range_zero, List.nil_append, List.cons_append, List.map_cons, List.map_nil] at hp
    simp [decodeCommand, commandFields, halfAt, wordAt, longAt, ← hp]

/-- An assigned code is below 0x80, and its payload is short. -/
theorem payloadLength_bounds {k n : Nat} (h : payloadLength k = some n) : k < 0x80 ∧ n ≤ 35 := by
  unfold payloadLength at h
  split at h
  case h_43 => cases h
  all_goals
    cases h
    decide

/-- The frame that carries a payload of its code's length decodes to the command of the code with that payload (R157). -/
theorem decodeTransaction_frameBytes (port : PortId) (tag : Byte) {code : Byte} {p : List Byte}
    (h : payloadLength code.toNat = some p.length) : decodeTransaction port (frameBytes tag code p) =
      decodeCommand (frameBytes tag code p) ⟨port, tag⟩ code.toNat p := by
  obtain ⟨hcode, hlen⟩ := payloadLength_bounds h
  obtain ⟨hi, lo, hsplit, hjoin⟩ := exists_split2 (BitVec.ofNat 16 p.length)
  have hframe : frameBytes tag code p = withCheck (code :: tag :: hi :: lo :: p) := by
    unfold frameBytes
    rw [hsplit]
    rfl
  have hlong : ¬ (frameBytes tag code p).length < 6 := by
    rw [hframe, withCheck_length]
    simp
  have hbefore : beforeCheck (frameBytes tag code p) = code :: tag :: hi :: lo :: p := by rw [hframe, beforeCheck_withCheck]
  have hpayload : payloadOf (frameBytes tag code p) = p := by rw [payloadOf, hbefore]; rfl
  have hat : ∀ i, i < 4 → byteAt (frameBytes tag code p) i = byteAt (code :: tag :: hi :: lo :: p) i := fun i hi => by
    rw [hframe, withCheck]
    exact byteAt_append (by simp; omega)
  have hagrees : lengthAgrees (frameBytes tag code p) = true := by
    rw [lengthAgrees, hpayload, halfAt, hat 2 (by omega), hat 3 (by omega)]
    have hj : join2 (byteAt (code :: tag :: hi :: lo :: p) 2) (byteAt (code :: tag :: hi :: lo :: p) 3) = BitVec.ofNat 16 p.length := hjoin
    rw [hj, BitVec.toNat_ofNat, Nat.mod_eq_of_lt (by omega)]
    exact beq_self_eq_true _
  have hcheck : checkAgrees (frameBytes tag code p) = true := checkAgrees_withCheck _
  have hzero : byteAt (frameBytes tag code p) 0 = code := hat 0 (by omega)
  have htag : tagOf (frameBytes tag code p) = tag := hat 1 (by omega)
  have hreserved : reservedCode code.toNat = false := by
    rw [reservedCode, Bool.and_eq_false_iff]
    exact .inl (by simpa using hcode)
  unfold decodeTransaction
  rw [if_neg hlong, hcheck, hagrees, hzero, hreserved, h, hpayload, htag]
  simp

theorem join4_split (w : Word) : join4 ((w.extractLsb' 16 16).extractLsb' 8 8) ((w.extractLsb' 16 16).extractLsb' 0 8)
    ((w.extractLsb' 0 16).extractLsb' 8 8) ((w.extractLsb' 0 16).extractLsb' 0 8) = w := by
  unfold join4
  rw [join2_split, join2_split]
  exact BitVec.extractLsb'_append_extractLsb' (w := 16) (len := 16)

theorem join8_split (w : DevName) :
    join8 (((w.extractLsb' 32 32).extractLsb' 16 16).extractLsb' 8 8) (((w.extractLsb' 32 32).extractLsb' 16 16).extractLsb' 0 8)
      (((w.extractLsb' 32 32).extractLsb' 0 16).extractLsb' 8 8) (((w.extractLsb' 32 32).extractLsb' 0 16).extractLsb' 0 8)
      (((w.extractLsb' 0 32).extractLsb' 16 16).extractLsb' 8 8) (((w.extractLsb' 0 32).extractLsb' 16 16).extractLsb' 0 8)
      (((w.extractLsb' 0 32).extractLsb' 0 16).extractLsb' 8 8) (((w.extractLsb' 0 32).extractLsb' 0 16).extractLsb' 0 8) = w := by
  unfold join8
  rw [join4_split, join4_split]
  exact BitVec.extractLsb'_append_extractLsb' (w := 32) (len := 32)

theorem byteAt_zero (a : Byte) (l : List Byte) : byteAt (a :: l) 0 = a := rfl

theorem byteAt_succ (a : Byte) (l : List Byte) (i : Nat) : byteAt (a :: l) (i + 1) = byteAt l i := rfl

/-- A well-formed command has a payload of its code's length, and is what that payload decodes to. -/
theorem decodeCommand_commandFields {i : Instr} {f : Frame} {code : Byte} {p : List Byte} (hwf : i.wf = true)
    (h : commandFields i = some (f, code, p)) (bytes : List Byte) :
    payloadLength code.toNat = some p.length ∧ decodeCommand bytes f code.toNat p = i := by
  cases i <;> cases h
  case confirmCommit op par =>
    have hop : op ≠ 0x22#8 ∧ op ≠ 0x18#8 := by simpa [Instr.wf] using hwf
    refine ⟨rfl, ?_⟩
    show confirmOf f op par = _
    rw [confirmOf, if_neg hop.1, if_neg hop.2]
  case setSetName =>
    have hlen : p.length = 32 := by simpa [Instr.wf, nameFieldWf] using hwf
    refine ⟨by rw [hlen]; rfl, ?_⟩
    show Instr.setSetName f (nameAt p 0) = _
    rw [nameAt_zero hlen]
  case zoneCreate z name kind =>
    have hlen : name.length = 32 := by simpa [Instr.wf, nameFieldWf] using hwf
    have hname : nameAt (split2 z ++ name ++ [kind]) 2 = name := by
      show (name ++ [kind]).take 32 = name
      rw [← hlen, List.take_left]
    have hkind : byteAt (split2 z ++ name ++ [kind]) 34 = kind := by
      show byteAt (name ++ [kind]) 32 = kind
      simp [byteAt, List.getD_eq_getElem?_getD, ← hlen]
    refine ⟨by simp [split2, hlen, payloadLength], ?_⟩
    show Instr.zoneCreate f (join2 (z.extractLsb' 8 8) (z.extractLsb' 0 8)) (nameAt (split2 z ++ name ++ [kind]) 2)
      (byteAt (split2 z ++ name ++ [kind]) 34) = _
    rw [hname, hkind, join2_split]
  case zoneRename z name =>
    have hlen : name.length = 32 := by simpa [Instr.wf, nameFieldWf] using hwf
    have hname : nameAt (split2 z ++ name) 2 = name := by
      show name.take 32 = name
      rw [← hlen, List.take_length]
    refine ⟨by simp [split2, hlen, payloadLength], ?_⟩
    show Instr.zoneRename f (join2 (z.extractLsb' 8 8) (z.extractLsb' 0 8)) (nameAt (split2 z ++ name) 2) = _
    rw [hname, join2_split]
  case confirmPoolRevoke => exact ⟨rfl, rfl⟩
  case confirmSlotReset => exact ⟨rfl, rfl⟩
  all_goals
    refine ⟨rfl, ?_⟩
    simp only [BitVec.toNat_ofNat, Nat.reducePow, Nat.reduceMod, decodeCommand, halfAt, wordAt, longAt, split2, split4, split8,
      List.cons_append, List.nil_append, byteAt_zero, byteAt_succ, join2_split, join4_split, join8_split]

/-! ## Slot link messages (R39, table 11-5) -/

/-- The message that carries a payload of its kind's length decodes by its kind and payload (R39). -/
theorem decodeMessage_messageBytes (slot : Slot) {kind : Byte} {p : List Byte} (h : messageLength kind.toNat = some p.length)
    (hlen : p.length < 256) : decodeMessage slot (messageBytes kind p) =
      decodeMessageBody (messageBytes kind p) slot kind.toNat p := by
  have hmessage : messageBytes kind p = withCheck (kind :: BitVec.ofNat 8 p.length :: p) := rfl
  have hlong : ¬ (messageBytes kind p).length < 4 := by
    rw [hmessage, withCheck_length]
    simp
  have hpayload : messagePayload (messageBytes kind p) = p := by
    rw [messagePayload, hmessage, beforeCheck_withCheck]
    rfl
  have hkind : byteAt (messageBytes kind p) 0 = kind := rfl
  have hcount : (byteAt (messageBytes kind p) 1).toNat = p.length := by
    show (BitVec.ofNat 8 p.length).toNat = p.length
    rw [BitVec.toNat_ofNat, Nat.mod_eq_of_lt (by omega)]
  have hcheck : checkAgrees (messageBytes kind p) = true := checkAgrees_withCheck _
  unfold decodeMessage
  rw [if_neg hlong, hcheck, hkind, h, hcount, hpayload]
  simp

/-- A message row has a payload of its kind's length, and is what that payload decodes to. -/
theorem decodeMessageBody_messageFields {i : Instr} {slot : Slot} {kind : Byte} {p : List Byte}
    (h : messageFields i = some (slot, kind, p)) (bytes : List Byte) :
    messageLength kind.toNat = some p.length ∧ p.length < 256 ∧ decodeMessageBody bytes slot kind.toNat p = i := by
  cases i <;> cases h
  case link pos lit => cases lit <;> exact ⟨rfl, by simp, rfl⟩
  all_goals
    refine ⟨rfl, by simp [split2, split4, split8], ?_⟩
    simp only [BitVec.toNat_ofNat, Nat.reducePow, Nat.reduceMod, decodeMessageBody, halfAt, wordAt, longAt, split2, split4, split8,
      List.cons_append, List.nil_append, byteAt_zero, byteAt_succ, join2_split, join4_split, join8_split]

end Sys2Proof

section
open Sys2Proof Sys2Proof.Machine

/-- Settles O60: each row is what its payload decodes to, and the frame or message around the payload passes the checks. -/
theorem encodingsAgree : Obligations.EncodingsAgree := by
  unfold Obligations.EncodingsAgree
  refine ⟨fun i port bytes hwf h => ?_, fun i slot bytes h => ?_⟩
  · obtain ⟨⟨f, code, p⟩, hx, hb⟩ := Option.map_eq_some_iff.1 h
    obtain ⟨rfl, rfl⟩ := Prod.mk.inj hb
    obtain ⟨hlen, hrow⟩ := decodeCommand_commandFields hwf hx (frameBytes f.tag code p)
    rw [decodeTransaction_frameBytes f.port f.tag hlen]
    exact hrow
  · obtain ⟨⟨c, kind, p⟩, hx, hb⟩ := Option.map_eq_some_iff.1 h
    obtain ⟨rfl, rfl⟩ := Prod.mk.inj hb
    obtain ⟨hlen, hshort, hrow⟩ := decodeMessageBody_messageFields hx (messageBytes kind p)
    rw [decodeMessage_messageBytes c hlen hshort]
    exact hrow

end

/-! PROOFS. What a frame at a command port does, whatever its row: the checks of R157, the response of R156, the reads, the disarming of
R160 and the port reset of R167. -/

namespace Sys2Proof.Machine

/-! ## Every frame is received and answered (R156) -/

/-- What a body makes of a frame by its right (R158). -/
def rightly (f : Frame) (right : Right) (body : State → State × Answer) (s : State) : State × Answer :=
  if right = .master ∧ ¬ isMaster s f.port then (s, answer .privilege) else body s

theorem withRight_eq (f : Frame) (right : Right) (body : State → State × Answer) :
    withRight f right body = fun s => respond f (rightly f right body s).2 (rightly f right body s).1 := by
  funext s
  by_cases h : right = .master ∧ ¬ isMaster s f.port
  · rw [withRight, rightly, if_pos h, if_pos h]
  · rw [withRight, rightly, if_neg h, if_neg h, answerWith]

/-- The row is a frame that is received at its port and, when taken, answered. -/
def Receives (i : Instr) (f : Frame) : Prop :=
  ∃ take : State → State × Answer, ∀ s, exec i s = .next (receiveFrame f (fun s => respond f (take s).2 (take s).1) s)

theorem Means.receives {i : Instr} {f : Frame} {code : Nat} {m : FrameMeaning} (h : Means i f code m) : Receives i f := by
  refine ⟨fun s => rightly f m.right m.body (m.opened f s), fun s => ?_⟩
  rw [h.exec_eq]
  unfold FrameMeaning.run FrameMeaning.opened keepingCommand disarmingCommand
  rw [withRight_eq]
  split <;> rfl

theorem receives_of_commandFields {i : Instr} {f : Frame} {code : Byte} {payload : List Byte}
    (h : commandFields i = some (f, code, payload)) : Receives i f := by
  obtain ⟨m, hm⟩ := commandFields_means h
  exact hm.receives

/-- A row given by its bytes acts as what the bytes decode to (log 6). -/
theorem exec_raw {i : Instr} {p : PortId} {bytes : List Byte} (h : rawOf i = some (p, bytes)) (s : State) :
    exec i s = runTransaction (decodeTransaction p bytes) s := by
  cases i <;> cases h <;> rfl

theorem runTransaction_command {i : Instr} {x : Frame × Byte × List Byte} (h : commandFields i = some x) (s : State) :
    runTransaction i s = exec i s := by
  cases i <;> first | rfl | cases h

/-! ### Rows given by their bytes (R157) -/

section Raw

variable {i : Instr} {p : PortId} {bytes : List Byte}

/-- The code that a frame's bytes carry. -/
abbrev codeIn (bytes : List Byte) : Nat := (byteAt bytes 0).toNat

theorem exec_short (h : rawOf i = some (p, bytes)) (hlen : bytes.length < 6) (s : State) :
    exec i s = .next (refusedFrame ⟨p, tagOf bytes⟩ false .badLength s) := by
  rw [exec_raw h, decodeTransaction, if_pos hlen]
  rfl

theorem exec_badCheck (h : rawOf i = some (p, bytes)) (hlen : ¬ bytes.length < 6) (hc : checkAgrees bytes = false) (s : State) :
    exec i s = .next (refusedFrame ⟨p, tagOf bytes⟩ false .badCheck s) := by
  rw [exec_raw h, decodeTransaction, if_neg hlen, hc]
  rfl

theorem exec_badLengthField (h : rawOf i = some (p, bytes)) (hlen : ¬ bytes.length < 6) (hc : checkAgrees bytes = true)
    (hl : lengthAgrees bytes = false) (s : State) : exec i s = .next (refusedFrame ⟨p, tagOf bytes⟩ false .badLength s) := by
  rw [exec_raw h, decodeTransaction, if_neg hlen, hc, hl]
  show Host.Outcome.next (refusedFrame ⟨p, tagOf bytes⟩ (lengthAgrees bytes && !keepsArmed (byteAt bytes 0)) .badLength s) = _
  rw [hl]
  rfl

variable (h : rawOf i = some (p, bytes)) (hlen : ¬ bytes.length < 6) (hc : checkAgrees bytes = true) (hl : lengthAgrees bytes = true)

include h hlen hc hl

theorem exec_reserved (hr : reservedCode (codeIn bytes) = true) (s : State) :
    exec i s = .next (refusedFrame ⟨p, tagOf bytes⟩ true .reservedCommand s) := by
  rw [exec_raw h, decodeTransaction, if_neg hlen, hc, hl, hr]
  rfl

theorem exec_illegal (hr : reservedCode (codeIn bytes) = false) (hn : payloadLength (codeIn bytes) = none) (s : State) :
    exec i s = .next (refusedFrame ⟨p, tagOf bytes⟩ true .illegalCommand s) := by
  rw [exec_raw h, decodeTransaction, if_neg hlen, hc, hl, hr, hn]
  rfl

theorem exec_badPayload (hr : reservedCode (codeIn bytes) = false) {n : Nat} (hn : payloadLength (codeIn bytes) = some n)
    (hne : (payloadOf bytes).length ≠ n) (s : State) :
    exec i s = .next (refusedFrame ⟨p, tagOf bytes⟩ (!keepsArmed (byteAt bytes 0)) .badLength s) := by
  rw [exec_raw h, decodeTransaction, if_neg hlen, hc, hl, hr, hn]
  simp only [Bool.not_true, Bool.false_eq_true, if_false, if_pos hne]
  show Host.Outcome.next (refusedFrame ⟨p, tagOf bytes⟩ (lengthAgrees bytes && !keepsArmed (byteAt bytes 0)) .badLength s) = _
  rw [hl, Bool.true_and]

theorem exec_carried (hn : payloadLength (codeIn bytes) = some (payloadOf bytes).length) :
    ∃ c, commandFields c = some (⟨p, tagOf bytes⟩, byteAt bytes 0, payloadOf bytes) ∧ ∀ s, exec i s = exec c s := by
  have hfields := commandFields_decodeCommand bytes ⟨p, tagOf bytes⟩ hn
  have hr : reservedCode (codeIn bytes) = false := by
    rw [reservedCode, Bool.and_eq_false_iff]
    exact .inl (by simpa using (payloadLength_bounds hn).1)
  rw [BitVec.ofNat_toNat, BitVec.setWidth_eq] at hfields
  refine ⟨_, hfields, fun s => ?_⟩
  rw [exec_raw h, ← runTransaction_command hfields, decodeTransaction, if_neg hlen, hc, hl, hr, hn]
  simp only [Bool.not_true, Bool.false_eq_true, if_false, ne_eq, not_true_eq_false]

end Raw

theorem receives_refused (i : Instr) (f : Frame) (command : Bool) (st : Status)
    (h : ∀ s, exec i s = .next (refusedFrame f command st s)) : Receives i f :=
  ⟨fun s => (if command then disarmMaster f.port s else s, answer st), h⟩

theorem receives_of_rawOf {i : Instr} {p : PortId} {bytes : List Byte} (h : rawOf i = some (p, bytes)) :
    Receives i ⟨p, tagOf bytes⟩ := by
  by_cases hlen : bytes.length < 6
  · exact receives_refused _ _ _ _ (exec_short h hlen)
  cases hc : checkAgrees bytes with
  | false => exact receives_refused _ _ _ _ (exec_badCheck h hlen hc)
  | true =>
    cases hl : lengthAgrees bytes with
    | false => exact receives_refused _ _ _ _ (exec_badLengthField h hlen hc hl)
    | true =>
      cases hr : reservedCode (codeIn bytes) with
      | true => exact receives_refused _ _ _ _ (exec_reserved h hlen hc hl hr)
      | false =>
        cases hn : payloadLength (codeIn bytes) with
        | none => exact receives_refused _ _ _ _ (exec_illegal h hlen hc hl hr hn)
        | some n =>
          by_cases hne : (payloadOf bytes).length = n
          · obtain ⟨c, hfields, hexec⟩ := exec_carried h hlen hc hl (hn.trans (by rw [hne]))
            obtain ⟨take, htake⟩ := receives_of_commandFields hfields
            exact ⟨take, fun s => (hexec s).trans (htake s)⟩
          · exact receives_refused _ _ _ _ (exec_badPayload h hlen hc hl hr hn hne)

/-- The assigned codes are those with a layout (R157, table 11-3). -/
theorem assignedCode_iff : ∀ c, c < 256 → (assignedCode c ↔ payloadLength c ≠ none) := by
  unfold assignedCode
  decide +kernel

theorem keepsArmed_iff (b : Byte) : keepsArmed b = true ↔ b.toNat ∈ [0x01, 0x02, 0x03] := by
  simp [keepsArmed, BitVec.toNat_eq, or_assoc]

namespace Receives

variable {i : Instr} {f : Frame} {s : State}

theorem held (h : Receives i f) (hlow : (s.cmdPort f.port).prstLow = true) : exec i s = .next s := by
  obtain ⟨take, htake⟩ := h
  rw [htake, receiveFrame_held hlow]

theorem busy (h : Receives i f) (hlow : (s.cmdPort f.port).prstLow = false) (hw : (s.cmdPort f.port).working = true) :
    exec i s = .next (refuseBusy f.port f.tag s) := by
  obtain ⟨take, htake⟩ := h
  rw [htake, receiveFrame_busy hlow hw]

theorem taken (h : Receives i f) (ht : PortTakes s f.port) : ∃ t a, exec i s = .next (respond f a t) := by
  obtain ⟨take, htake⟩ := h
  exact ⟨(take s).1, (take s).2, by rw [htake, receiveFrame_takes ht]⟩

end Receives

/-! ## Writes of one command port -/

theorem onlyPort_refl (s : State) (p : PortId) : OnlyPort s s p (s.cmdPort p) := ⟨rfl, rfl, rfl, fun _ _ => rfl⟩

theorem onlyPort_write {p : PortId} {f : CmdPort → CmdPort} {s : State} {c : CmdPort} (h : f (s.cmdPort p) = c) :
    OnlyPort s (s.modCmd p f) p c :=
  h ▸ onlyPort_modCmd p f s

theorem modCmd_of_fixed {p : PortId} {f : CmdPort → CmdPort} {s : State} (h : f (s.cmdPort p) = s.cmdPort p) : s.modCmd p f = s := by
  have hcmd : (s.modCmd p f).cmd = s.cmd := by
    cases p <;> simp only [State.modCmd, State.cmdPort] at h ⊢ <;> rw [h]
  have hframe := (onlyPort_modCmd p f s).1
  rw [hframe, hcmd]

end Sys2Proof.Machine

section
open Sys2Proof Sys2Proof.Machine

/-- Settles O12: each refusal as the decoding gives it, and the command that a frame carries when it passes. -/
theorem frameChecks : Obligations.FrameChecks := by
  unfold Obligations.FrameChecks
  intro i p bytes s h ht
  dsimp only
  have hagrees : checkAgrees bytes = true ↔ bytes.drop (bytes.length - 2) = split2 (crc16 (bytes.take (bytes.length - 2))) :=
    beq_iff_eq
  have hpayload : (payloadOf bytes).length = bytes.length - 6 := by
    rw [payloadOf, List.length_drop, beforeCheck, List.length_take]
    omega
  have hfield : lengthAgrees bytes = true ↔ (halfAt bytes 2).toNat = bytes.length - 6 := by
    rw [lengthAgrees, hpayload]
    exact beq_iff_eq
  have hrefused : ∀ command st, refusedFrame ⟨p, tagOf bytes⟩ command st s =
      respond ⟨p, byteAt bytes 1⟩ (answer st) (if command then disarmMaster p s else s) := fun command st =>
    receiveFrame_takes ht _
  refine ⟨fun hlen => ?_, fun hlen hc => ?_, fun hlen hc hl => ?_, fun hlen hc hl => ⟨fun hlo hhi => ?_, fun hna hnr => ?_,
    fun ha hne => ?_, fun hn => ?_⟩⟩
  · rw [exec_short h hlen, hrefused]
    rfl
  · rw [exec_badCheck h (not_lt.2 hlen) (by rw [← Bool.not_eq_true, hagrees]; exact hc), hrefused]
    rfl
  · rw [exec_badLengthField h (not_lt.2 hlen) (hagrees.2 hc) (by rw [← Bool.not_eq_true, hfield]; exact hl), hrefused]
    rfl
  · rw [exec_reserved h (not_lt.2 hlen) (hagrees.2 hc) (hfield.2 hl) (by simp [reservedCode, codeIn, hlo, hhi]), hrefused]
    rfl
  · have hr : reservedCode (codeIn bytes) = false := by simpa [reservedCode, codeIn] using hnr
    have hn : payloadLength (codeIn bytes) = none := by
      by_contra hn
      exact hna ((assignedCode_iff _ (byteAt bytes 0).isLt).2 hn)
    rw [exec_illegal h (not_lt.2 hlen) (hagrees.2 hc) (hfield.2 hl) hr hn, hrefused]
    rfl
  · obtain ⟨n, hn⟩ := Option.ne_none_iff_exists'.1 ((assignedCode_iff _ (byteAt bytes 0).isLt).1 ha)
    have hr : reservedCode (codeIn bytes) = false := by
      rw [reservedCode, Bool.and_eq_false_iff]
      exact .inl (by simpa using (payloadLength_bounds hn).1)
    have hlength : (payloadOf bytes).length ≠ n := fun he => hne (by rw [hn, ← he, hpayload])
    rw [exec_badPayload h (not_lt.2 hlen) (hagrees.2 hc) (hfield.2 hl) hr hn hlength, hrefused]
    by_cases hk : (byteAt bytes 0).toNat ∈ [0x01, 0x02, 0x03]
    · rw [if_pos hk, (keepsArmed_iff _).2 hk]
      rfl
    · rw [if_neg hk, Bool.eq_false_iff.2 fun he => hk ((keepsArmed_iff _).1 he)]
      rfl
  · rw [← hpayload] at hn
    obtain ⟨c, hfields, hexec⟩ := exec_carried h (not_lt.2 hlen) (hagrees.2 hc) (hfield.2 hl) hn
    exact ⟨c, hfields, hexec s⟩

end

/-! PROOFS. The command ports (R156 to R160, R167): mastership, disarming, the setups, the port reset, and what an event that has no cause
leaves; with the settlings of the obligations about them. -/

namespace Sys2Proof.Machine

/-! ## Disarming and mastership (R159, R160) -/

theorem unarmWorking_eq (z : ZoneStore) : unarmWorking z = editableAgain z := by
  unfold unarmWorking editableAgain
  cases h : z.workingState <;> simp

theorem disarm_zones (p : PortId) (s : State) : (disarm p s).zones = disarmedZones s p := by
  unfold disarm disarmedZones
  rw [modCmd_zones]
  cases h : (s.cmdPort p).armed with
  | commit => simp [unarmWorking_eq]
  | none | poolRevoke _ | slotReset _ => simp

/-- A change of mastership disarms what its holder had armed (R159). -/
theorem mastershipMoves_changeMastership (m : Option PortId) (s : State) : MastershipMoves s (changeMastership m s) m := by
  unfold changeMastership
  cases hm : s.cmd.mastership with
  | none =>
    refine ⟨rfl, rfl, fun q => ?_, ?_⟩
    · rw [hm, if_neg nofun]
      cases q <;> rfl
    · rw [hm]
      rfl
  | some p =>
    have hport : ∀ q, ((disarm p s).setMastership m).cmdPort q = (disarm p s).cmdPort q := fun q => by cases q <;> rfl
    refine ⟨?_, rfl, fun q => ?_, ?_⟩
    · show (disarm p s).setMastership m = _
      conv_lhs => rw [disarm_eq]
      rfl
    · show ((disarm p s).setMastership m).cmdPort q = _
      rw [hport, hm]
      by_cases hq : p = q
      · rw [if_pos (congrArg some hq), ← hq, disarm_cmdPort]
      · rw [if_neg fun he => hq (Option.some.inj he), disarm_cmdPort_other (Ne.symm hq)]
    · rw [hm]
      exact disarm_zones p s

theorem changeMastership_disarm {p : PortId} {s : State} (hm : s.cmd.mastership = some p) (m : Option PortId) :
    changeMastership m (disarm p s) = changeMastership m s := by
  unfold changeMastership
  rw [disarm_mastership, hm]
  exact congrArg (fun t => State.setMastership m t) (disarm_disarm p s)

theorem isMaster_iff {s : State} {p : PortId} : isMaster s p = true ↔ s.cmd.mastership = some p := by simp [isMaster]

/-! ## The port reset (R167) -/

theorem resetPort_disarmMaster (p : PortId) (s : State) : resetPort p (disarmMaster p s) = resetPort p s := by
  by_cases hm : s.cmd.mastership = some p
  · have hmaster : isMaster s p = true := isMaster_iff.2 hm
    have hmaster' : isMaster (disarm p s) p = true := isMaster_iff.2 (by rw [disarm_mastership, hm])
    rw [disarmMaster_of_master hm]
    unfold resetPort
    rw [hmaster, hmaster', if_pos rfl, if_pos rfl, changeMastership_disarm hm]
  · rw [disarmMaster_of_observer hm]

/-- What a reset writes, after a write of the same kind. -/
theorem portFrame_trans {s u t : State} (hu : u = { s with cmd := u.cmd, attn := u.attn, zones := u.zones })
    (ht : t = { u with cmd := t.cmd, attn := t.attn, zones := t.zones }) :
    t = { s with cmd := t.cmd, attn := t.attn, zones := t.zones } := by
  rw [hu] at ht
  exact ht

theorem modCmd_portFrame (p : PortId) (f : CmdPort → CmdPort) (u : State) : u.modCmd p f =
    { u with cmd := (u.modCmd p f).cmd, attn := (u.modCmd p f).attn, zones := (u.modCmd p f).zones } := by
  cases p <;> rfl

theorem modAttn_portFrame (p : PortId) (f : PortAttention → PortAttention) (u : State) : u.modAttn p f =
    { u with cmd := (u.modAttn p f).cmd, attn := (u.modAttn p f).attn, zones := (u.modAttn p f).zones } := by
  cases p <;> rfl

/-- A write of the reset port. -/
theorem PortResets.write {s t : State} {p : PortId} {c : CmdPort} (h : PortResets s t p c) (f : CmdPort → CmdPort) {c' : CmdPort}
    (hf : f c = c') : PortResets s (t.modCmd p f) p c' := by
  obtain ⟨hframe, hport, hattn, hother, hmaster, hzones⟩ := h
  refine ⟨portFrame_trans hframe (modCmd_portFrame ..), by rw [modCmd_cmdPort_same, hport, hf],
    by rw [modCmd_attention]; exact hattn, fun q hq => ?_, ?_, ?_⟩
  · rw [modCmd_cmdPort, if_neg hq.symm, modCmd_attention]
    exact hother q hq
  · rw [modCmd_mastership]
    exact hmaster
  · rw [modCmd_zones]
    exact hzones

/-- The port as steps 1 and 2 of its reset leave it. -/
def resetCmdPort (c : CmdPort) : CmdPort := { c with armed := .none, cursors := Vector.replicate 7 0, tally := 0, busyTag := 0 }

/-- The writes of a port's reset, once it holds no mastership. -/
theorem resetPort_portFrame (p : PortId) (s : State) : ∃ u : State, u = { s with cmd := u.cmd, zones := u.zones } ∧
    resetPort p s = (u.modCmd p resetCmdPort).modAttn p (fun _ => PortAttention.cold) ∧
    (∀ q, u.cmdPort q = if s.cmd.mastership = some p ∧ q = p then { s.cmdPort q with armed := .none } else s.cmdPort q) ∧
    u.cmd.mastership = (if s.cmd.mastership = some p then none else s.cmd.mastership) ∧
    u.zones = if s.cmd.mastership = some p then disarmedZones s p else s.zones := by
  unfold resetPort
  by_cases hm : s.cmd.mastership = some p
  · obtain ⟨hframe, hnone, hport, hzones⟩ := mastershipMoves_changeMastership none s
    refine ⟨changeMastership none s, hframe, by rw [if_pos (isMaster_iff.2 hm)]; rfl, fun q => ?_, by rw [hnone, if_pos hm],
      by rw [hzones, if_pos hm, hm]⟩
    rw [hport, hm]
    by_cases hq : q = p
    · rw [if_pos (congrArg some hq.symm), if_pos ⟨rfl, hq⟩]
    · rw [if_neg fun he => hq (Option.some.inj he).symm, if_neg fun he => hq he.2]
  · exact ⟨s, rfl, by rw [if_neg fun he => hm (isMaster_iff.1 he)]; rfl, fun q => by rw [if_neg fun he => hm he.1],
      by rw [if_neg hm], by rw [if_neg hm]⟩

theorem portResets_resetPort (p : PortId) (s : State) : PortResets s (resetPort p s) p (resetCmdPort (s.cmdPort p)) := by
  obtain ⟨u, hframe, hreset, hport, hmaster, hzones⟩ := resetPort_portFrame p s
  have hattn : ∀ q, u.attention q = s.attention q := fun q => by rw [hframe]; cases q <;> rfl
  have hattn' : u.attn = s.attn := by rw [hframe]
  rw [hreset]
  refine ⟨?_, ?_, ?_, fun q hq => ⟨?_, ?_⟩, ?_, ?_⟩
  · exact portFrame_trans (portFrame_trans (by rw [hattn']; exact hframe) (modCmd_portFrame ..)) (modAttn_portFrame ..)
  · rw [modAttn_cmdPort, modCmd_cmdPort_same, hport]
    split <;> rfl
  · rw [modAttn_attention_same]
    rfl
  · rw [modAttn_cmdPort, modCmd_cmdPort, if_neg hq.symm, hport, if_neg fun he => hq he.2]
  · rw [modAttn_attention, if_neg hq.symm, modCmd_attention, hattn]
  · rw [modAttn_cmd, modCmd_mastership, hmaster]
  · rw [modAttn_zones, modCmd_zones, hzones]

end Sys2Proof.Machine

section
open Sys2Proof Sys2Proof.Machine

/-- Settles O5: what a reset writes, then the response of Port Restart or the fall of PRSTN; a held port takes no frame. -/
theorem portResetRule : Obligations.PortResetRule := by
  unfold Obligations.PortResetRule
  intro s
  refine ⟨fun f ht => ?_, fun p hlow => ?_, fun p => ?_, fun i f h hlow => ?_, fun i p bytes h hlow => ?_, fun p hlow => ?_⟩
  · have hexec : exec (.portRestart f) s = .next (respond f (answer .done) (resetPort f.port s)) := by
      show Host.Outcome.next (disarmingCommand f .any (fun s => (resetPort f.port s, answer .done)) s) = _
      rw [disarmingCommand, receiveFrame_takes ht, withRight_any, answerWith, resetPort_disarmMaster]
    refine ⟨_, 0, hexec, (portResets_resetPort f.port s).write _ ?_⟩
    simp [resetCmdPort, answer, ht.1]
  · have hexec : exec (.portReset p .low) s = .next ((resetPort p s).modCmd p fun c =>
        { c with response := none, working := false, prstLow := true }) := by
      show Host.Outcome.next (portResetLine p .low s) = _
      rw [portResetLine, hlow]
      rfl
    exact ⟨_, 0, hexec, (portResets_resetPort p s).write _ rfl⟩
  · exact ⟨_, rfl, onlyPort_write (f := fun c => { c with prstLow := false }) rfl⟩
  · unfold frameOf at h
    obtain ⟨⟨g, code, payload⟩, hfields, rfl⟩ := Option.map_eq_some_iff.1 h
    exact (receives_of_commandFields hfields).held hlow
  · exact (receives_of_rawOf h).held hlow
  · refine ⟨_, rfl, onlyPort_write ?_⟩
    simp [afterRead, readBytes, hlow]

/-- Settles O6: a settled state with nothing to move stays as it is. -/
theorem nothingMovesWithoutItsCause : Obligations.NothingMovesWithoutItsCause := by
  unfold Obligations.NothingMovesWithoutItsCause
  intro s
  have hstill : ∀ t, t = s → (Host.Outcome.next t : Result) = .next s := fun t ht => by rw [ht]
  have hsettled : DeficitFollows s → ∀ t, t = s → (Host.Outcome.next (settleDeficit t) : Result) = .next s := by
    intro hd t ht
    rw [ht, settleDeficit_of_follows hd]
  refine ⟨fun p h => hstill _ ?_, fun p h => hstill _ ?_, fun slot h => hstill _ ?_, fun slot hd h => hsettled hd _ ?_,
    fun u hd h => hsettled hd _ ?_, fun u hd h => hsettled hd _ ?_, fun slot h => hstill _ ?_, fun slot hd h => hsettled hd _ ?_,
    fun slot h => hstill _ ?_, fun slot h => hstill _ ?_, fun u x hd h => hsettled hd _ ?_, fun v hd h => hsettled hd _ ?_,
    fun v hd h => hsettled hd _ ?_⟩
  · rw [portResetLine, h]
    rfl
  · rw [supervisorFall, h, if_neg Bool.false_ne_true]
  · rw [presenceRise, if_pos h]
  · rw [removal, h, if_neg Bool.false_ne_true]
  · rw [unitPresenceRise, if_pos (.inl h)]
  · rw [unitPresenceFall, h, if_pos (.inl rfl)]
  · rw [probeTimeout, if_neg fun he => h.elim (fun hs => hs he.1) fun ht => Bool.false_ne_true (ht.symm.trans he.2)]
  · rw [admittingTimeout, if_neg fun he => h.elim (fun hs => hs he.1) fun ht => Bool.false_ne_true (ht.symm.trans he.2)]
  · rw [holdTimeout, if_neg fun he => h.elim (fun hs => hs he.1) fun ht => Bool.false_ne_true (ht.symm.trans he.2)]
  · rw [resumeTimeout, if_neg fun he => h.elim (fun hs => hs he.1) fun ht => Bool.false_ne_true (ht.symm.trans he.2)]
  · have hread : isRead s u = false := by
      rw [isRead, Bool.and_eq_false_iff]
      refine h.imp (fun ht => beq_eq_false_iff_ne.2 ht) fun ha => ?_
      rw [isPresent, ha]
      rfl
    rw [unitReadComplete, hread, if_neg Bool.false_ne_true]
  · exact if_neg h
  · exact if_neg h

/-- Settles O7: the table of R159, and what each change of the mastership disarms. -/
theorem mastershipRule : Obligations.MastershipRule := by
  unfold Obligations.MastershipRule
  refine ⟨fun f s hc => ?_, fun f s ht => ⟨fun hm => ?_, fun hm => ?_⟩, fun p s hsup => ?_, fun p s => ?_⟩
  · have hexec : exec (.masterClaim f) s = .next (respond f (masterClaim f.port s).2 (masterClaim f.port s).1) :=
      congrArg _ (disarmingCommand_any hc _)
    rw [hexec]
    unfold masterClaim
    refine ⟨fun hsup => ?_, fun hsup hm => ?_, fun hsup hm => ?_, fun hsup hm => ?_⟩
    · rw [hsup]
      rfl
    · simp [hsup, hm]
    · refine ⟨changeMastership (some f.port) s, ?_, mastershipMoves_changeMastership _ _⟩
      rcases hm with hm | ⟨q, hq, hm, hlow⟩
      · simp [hsup, hm]
      · simp [hsup, hm, hq, hlow]
    · obtain ⟨q, hq, hm, hhigh⟩ := hm
      simp [hsup, hm, hq, hhigh]
  · have hexec : exec (.masterRelease f) s = .next (respond f (answer .done) (changeMastership none s)) := by
      show Host.Outcome.next (disarmingCommand f .master (fun s => (changeMastership none s, answer .done)) s) = _
      rw [disarmingCommand, receiveFrame_takes ht, disarmMaster_of_master hm, withRight_master (by rw [disarm_mastership, hm]),
        answerWith, changeMastership_disarm hm]
    exact ⟨_, hexec, mastershipMoves_changeMastership _ _⟩
  · show Host.Outcome.next (disarmingCommand f .master (fun s => (changeMastership none s, answer .done)) s) = _
    rw [disarmingCommand, receiveFrame_takes ht, disarmMaster_of_observer hm, withRight_observer hm]
  · refine ⟨_, s.modCmd p fun c => { c with supervisor := false }, rfl, onlyPort_write rfl, fun hm => ?_, fun hm => ?_⟩
    · rw [supervisorFall, if_pos hsup, if_pos (isMaster_iff.2 hm)]
      exact mastershipMoves_changeMastership _ _
    · rw [supervisorFall, if_pos hsup, if_neg fun he => hm (isMaster_iff.1 he)]
  · exact ⟨_, rfl, onlyPort_write (f := fun c => { c with supervisor := true }) rfl⟩

end

/-! PROOFS. What an armed operation is disarmed by, and what arms it (R160); the frames and reads of a port (R156). -/

namespace Sys2Proof.Machine

/-! ## The commands that disarm (R160) -/

/-- Every command but Identify, Read Status, Read Attention and Confirm is a command that disarms (R160). -/
theorem exec_disarmingCommand {i : Instr} {f : Frame} {code : Byte} {payload : List Byte}
    (h : commandFields i = some (f, code, payload)) (hcode : code.toNat ∉ [0x01, 0x02, 0x03, 0x0B]) :
    ∃ right body, ∀ s, exec i s = .next (disarmingCommand f right body s) := by
  cases i <;> cases h <;> first | exact ⟨_, _, fun _ => rfl⟩ | exact absurd (by decide) hcode

theorem disarmingCommand_disarm {f : Frame} {s : State} (ht : PortTakes s f.port) (hm : s.cmd.mastership = some f.port)
    (right : Right) (body : State → State × Answer) :
    disarmingCommand f right body (disarm f.port s) = disarmingCommand f right body s := by
  have ht' : PortTakes (disarm f.port s) f.port := by
    unfold PortTakes
    rw [disarm_cmdPort]
    exact ht
  rw [disarmingCommand, disarmingCommand, receiveFrame_takes ht, receiveFrame_takes ht', disarmMaster_of_master hm,
    disarmMaster_of_master (by rw [disarm_mastership, hm]), disarm_disarm]

/-- Identify, Read Status and Read Attention answer and leave every armed operation and the zones (R160). -/
theorem keeping_leaves {i : Instr} {f : Frame} {code : Byte} {payload : List Byte} {s : State}
    (h : commandFields i = some (f, code, payload)) (hcode : code.toNat ∈ [0x01, 0x02, 0x03]) (ht : PortTakes s f.port) :
    ∃ t a, exec i s = .next (respond f a t) ∧ t.cmd = s.cmd ∧ t.zones = s.zones := by
  cases i <;> cases h <;> try exact absurd hcode (by decide)
  case identify => exact ⟨s, _, congrArg _ (keepingCommand_any ht _), rfl, rfl⟩
  case readStatus => exact ⟨s, _, congrArg _ (keepingCommand_any ht _), rfl, rfl⟩
  case readAttention => exact ⟨_, _, congrArg _ (keepingCommand_any ht _), modAttn_cmd .., modAttn_zones ..⟩

theorem respond_armed (f : Frame) (a : Answer) (s : State) (q : PortId) : ((respond f a s).cmdPort q).armed = (s.cmdPort q).armed := by
  by_cases hq : q = f.port
  · rw [hq, respond_cmdPort]
  · rw [respond_cmdPort_other f a s hq]

theorem respond_zones (f : Frame) (a : Answer) (s : State) : (respond f a s).zones = s.zones := modCmd_zones ..

/-! ## Confirm (R160) -/

theorem exec_confirmOf (f : Frame) (operation parameter : Byte) (s : State) : exec (confirmOf f operation parameter) s =
    .next (keepingCommand f .master (settled (confirm f.port operation parameter)) s) := by
  unfold confirmOf
  by_cases h22 : operation = 0x22#8
  · rw [if_pos h22, h22]
    rfl
  by_cases h18 : operation = 0x18#8
  · rw [if_neg h22, if_pos h18, h18]
    rfl
  · rw [if_neg h22, if_neg h18]
    rfl

theorem confirmMatches_eq_false {armed : Armed} {operation parameter : Byte}
    (h : armed = .none ∨ operation.toNat ≠ armed.code ∨ parameter.toNat ≠ armed.parameter) :
    confirmMatches armed operation parameter = false := by
  unfold confirmMatches
  rcases h with h | h | h
  · rw [h]
    rfl
  · rw [beq_eq_false_iff_ne.2 h, Bool.and_false, Bool.false_and]
  · rw [beq_eq_false_iff_ne.2 h, Bool.and_false]

theorem index1?_outside {n k : Nat} (h : k = 0 ∨ n < k) : index1? n k = none :=
  Option.eq_none_iff_forall_ne_some.2 fun i hi => by
    have := index1?_eq_some_iff.1 hi
    have := i.isLt
    omega

/-! ## Every row that is a frame (R156) -/

theorem receives_of_frame {i : Instr} {f : Frame}
    (h : frameOf i = some f ∨ ∃ bytes, rawOf i = some (f.port, bytes) ∧ f.tag = byteAt bytes 1) : Receives i f := by
  obtain hf | ⟨bytes, hraw, htag⟩ := h
  · obtain ⟨⟨g, code, payload⟩, hfields, rfl⟩ := Option.map_eq_some_iff.1 hf
    exact receives_of_commandFields hfields
  · have hframe : (⟨f.port, tagOf bytes⟩ : Frame) = f := by
      cases f
      exact congrArg _ htag.symm
    exact hframe ▸ receives_of_rawOf hraw

end Sys2Proof.Machine

section
open Sys2Proof Sys2Proof.Machine

/-- Settles O9: a command disarms before it acts, and a Confirm that does not match acts on nothing. -/
theorem disarmingRule : Obligations.DisarmingRule := by
  unfold Obligations.DisarmingRule
  refine ⟨fun i f code s hf hc ht hm hcode => ?_, fun p s => ⟨?_, disarm_mastership p s, disarm_cmdPort p s,
    fun q hq => disarm_cmdPort_other hq s⟩, fun i f code s hf hc ht hcode => ?_,
    fun f operation parameter i s ht hd hm hi hne => ?_⟩
  · obtain ⟨⟨g, c, payload⟩, hfields, rfl⟩ := Option.map_eq_some_iff.1 hf
    have hc' : c.toNat = code := by simpa [codeOf, hfields] using hc
    obtain ⟨right, body, hexec⟩ := exec_disarmingCommand hfields (hc' ▸ hcode)
    rw [hexec, hexec, disarmingCommand_disarm ht hm]
  · rw [← disarm_zones]
    exact disarm_eq p s
  · obtain ⟨⟨g, c, payload⟩, hfields, rfl⟩ := Option.map_eq_some_iff.1 hf
    have hc' : c.toNat = code := by simpa [codeOf, hfields] using hc
    obtain ⟨t, a, hexec, hcmd, hzones⟩ := keeping_leaves hfields (hc' ▸ hcode) ht
    refine ⟨_, hexec, fun q => ?_, by rw [respond_zones, hzones]⟩
    rw [respond_armed]
    unfold State.cmdPort
    rw [hcmd]
  · have hmatch : confirmMatches (s.cmdPort f.port).armed operation parameter = false := by
      refine confirmMatches_eq_false (hne.imp_right fun hne => ?_)
      cases harmed : (s.cmdPort f.port).armed with
      | none =>
        rw [harmed] at hne
        exact hne.elim
      | commit =>
        rw [harmed] at hne
        exact hne.imp (fun h he => h (BitVec.eq_of_toNat_eq he)) fun h he => h (BitVec.eq_of_toNat_eq he)
      | poolRevoke pool =>
        rw [harmed] at hne
        exact hne.imp_left fun h he => h (BitVec.eq_of_toNat_eq he)
      | slotReset slot =>
        rw [harmed] at hne
        exact hne.imp_left fun h he => h (BitVec.eq_of_toNat_eq he)
    have hd' : DeficitFollows (disarm f.port s) := by
      refine hd.of_power_ports ?_ ?_ ?_ <;> rw [disarm_eq]
    rw [← hi, exec_confirmOf, keepingCommand_master ht hm, settled, confirm, hmatch]
    simp only [Bool.false_eq_true, if_false]
    rw [settleDeficit_of_follows hd']

/-- Settles O10: the setups that the master may carry out with nothing armed. -/
theorem setupsArm : Obligations.SetupsArm := by
  unfold Obligations.SetupsArm
  intro f s hc
  refine ⟨fun hw => ?_, fun hw => ?_, fun x pool hx => ?_, fun x hx => ?_, fun x slot hx => ?_, fun x hx => ?_⟩
  · refine ⟨(s.modZones fun z => { z with workingState := .armed }).modCmd f.port fun c => { c with armed := .commit },
      (congrArg Host.Outcome.next (disarmingCommand_master hc .master (commitSetup f.port))).trans ?_, onlyPort_write ?_⟩
    · rw [commitSetup, hw]
    · cases f.port <;> rfl
  · refine (congrArg Host.Outcome.next (disarmingCommand_master hc .master (commitSetup f.port))).trans ?_
    rw [commitSetup, hw]
  · have hindex : index1? 16 x.toNat = some pool := index1?_eq_some_iff.2 hx
    refine ⟨_, (congrArg Host.Outcome.next (disarmingCommand_master hc .master (poolRevokeSetup f.port x))).trans ?_,
      onlyPort_write (f := fun c => { c with armed := .poolRevoke pool }) rfl⟩
    rw [poolRevokeSetup, hindex]
  · refine (congrArg Host.Outcome.next (disarmingCommand_master hc .master (poolRevokeSetup f.port x))).trans ?_
    rw [poolRevokeSetup, index1?_outside (hx.imp_left fun h => by rw [h]; rfl)]
  · have hindex : index1? 14 x.toNat = some slot := index1?_eq_some_iff.2 hx
    refine ⟨_, (congrArg Host.Outcome.next (disarmingCommand_master hc .master (slotResetSetup f.port x))).trans ?_,
      onlyPort_write (f := fun c => { c with armed := .slotReset slot }) rfl⟩
    rw [slotResetSetup, hindex]
  · refine (congrArg Host.Outcome.next (disarmingCommand_master hc .master (slotResetSetup f.port x))).trans ?_
    rw [slotResetSetup, index1?_outside (hx.imp_left fun h => by rw [h]; rfl)]

/-- Settles O11: a taken frame is answered, a frame at a Working port counted, and a read empties the slot. -/
theorem framesAndReads : Obligations.FramesAndReads := by
  unfold Obligations.FramesAndReads
  refine ⟨fun i f s h => ⟨fun ht => ?_, fun hlow hw => ?_⟩, fun f a s => onlyPort_write rfl, fun p s r hlow hw hr => ?_,
    fun p s hlow hw => ?_, fun r => ?_, rfl, rfl, rfl, rfl⟩
  · obtain ⟨t, a, hexec⟩ := (receives_of_frame h).taken ht
    exact ⟨_, _, hexec, by rw [respond_cmdPort], by rw [respond_cmdPort], rfl⟩
  · exact ⟨_, (receives_of_frame h).busy hlow hw, onlyPort_write rfl⟩
  · refine ⟨_, rfl, onlyPort_write ?_⟩
    simp [afterRead, readBytes, hlow, hw, hr, busyResponse]
  · refine ⟨_, rfl, onlyPort_write ?_⟩
    simp [afterRead, readBytes, hlow, hw]
  · rfl

end

/-! PROOFS. Attention, parameters, identity and status (R161, R165, R166). -/

namespace Sys2Proof.Machine

/-! ## Attention (R161) -/

theorem highBits_eq_zero_iff (b : Byte) : b.extractLsb' 5 3 = 0 ↔ b.toNat < 32 := by
  have hlt := b.isLt
  rw [← BitVec.toNat_inj, BitVec.extractLsb'_toNat, Nat.shiftRight_eq_div_pow]
  show b.toNat / 2 ^ 5 % 2 ^ 3 = 0 ↔ _
  omega

/-- The reasons of the low five bits of a byte. -/
def lowReasons (b : Byte) : ReasonSet :=
  { alarm := b.getLsbD 0, commit := b.getLsbD 1, slot := b.getLsbD 2, license := b.getLsbD 3, power := b.getLsbD 4 }

theorem reasonsOf_of_large {mask : Byte} (h : 32 ≤ mask.toNat) : reasonsOf mask = none :=
  if_pos fun he => absurd ((highBits_eq_zero_iff mask).1 he) (not_lt.2 h)

theorem reasonsOf_of_small {mask : Byte} (h : mask.toNat < 32) : reasonsOf mask = some (lowReasons mask) :=
  if_neg fun hne => hne ((highBits_eq_zero_iff mask).2 h)

theorem reasonByte_bits (x : ReasonSet) : (reasonByte x).getLsbD 0 = x.alarm ∧ (reasonByte x).getLsbD 1 = x.commit ∧
    (reasonByte x).getLsbD 2 = x.slot ∧ (reasonByte x).getLsbD 3 = x.license ∧ (reasonByte x).getLsbD 4 = x.power ∧
    (reasonByte x).toNat < 32 := by
  obtain ⟨alarm, commit, slot, license, power⟩ := x
  revert alarm commit slot license power
  decide

theorem modAttn_eq (p : PortId) (f : PortAttention → PortAttention) (s : State) : s.modAttn p f = { s with attn := (s.modAttn p f).attn } := by
  cases p <;> rfl

/-! ## Parameters (R165) -/

/-- Setting a parameter whose number and value have this meaning. -/
theorem setParameter_of {f : Frame} {number : Byte} {value : Half} {s : State} (hc : MasterClear s f.port) {x : Params}
    (hwith : paramsWith number.toNat value.toNat s.params = some x) :
    (x = s.params → exec (.setParameter f number value) s = .next (respond f (answer .noChange) s)) ∧
    (x ≠ s.params → exec (.setParameter f number value) s = .next (respond f (answer .done) (recomputeDuty (s.setParams x)))) := by
  have hexec : exec (.setParameter f number value) s =
      .next (respond f (setParameter number value s).2 (setParameter number value s).1) :=
    congrArg _ (disarmingCommand_master hc .master _)
  rw [hexec, setParameter, hwith]
  exact ⟨fun hx => by simp only [if_pos hx], fun hx => by simp only [if_neg hx]⟩

theorem setParameter_of_none {f : Frame} {number : Byte} {value : Half} {s : State} (hc : MasterClear s f.port)
    (hwith : paramsWith number.toNat value.toNat s.params = none) :
    exec (.setParameter f number value) s = .next (respond f (answer .invalidField) s) := by
  have hexec : exec (.setParameter f number value) s =
      .next (respond f (setParameter number value s).2 (setParameter number value s).1) :=
    congrArg _ (disarmingCommand_master hc .master _)
  rw [hexec, setParameter, hwith]

/-- What a parameter's change writes, the fan duty with it (R137). -/
def ParameterSet (s t : State) (x : Params) : Prop :=
  t = { s with params := t.params, scanner := { s.scanner with duty := t.scanner.duty, fanPct := t.scanner.fanPct } } ∧
    t.params = x ∧
    (t.scanner.duty = .normal ↔ s.scanner.firstRound = true ∧ s.scanner.boosts = [] ∧
      ∀ u : UnitIx, 6 ≤ u.val → (s.unit u).state = .starting ∨ (s.unit u).state = .online) ∧
    (t.scanner.duty = .normal → t.scanner.fanPct = t.params.fanNormal) ∧
    (t.scanner.duty = .boost → t.scanner.fanPct = 100)

theorem parameterSet_recomputeDuty (s : State) (x : Params) : ParameterSet s (recomputeDuty (s.setParams x)) x := by
  obtain ⟨hduty, hpct⟩ := dutyFollows_recomputeDuty (s.setParams x)
  exact ⟨rfl, rfl, hduty, fun h => by rw [hpct, h], fun h => by rw [hpct, h]⟩

/-- The rule of R165, for a number and value whose law, held value and new parameters are these. -/
theorem parameterRule_of {f : Frame} {number : Byte} {value : Half} {s : State} (hc : MasterClear s f.port) {lawful : Prop}
    {held : Nat} {x : Params} (hlawful : lawful → paramsWith number.toNat value.toNat s.params = some x)
    (hunlawful : ¬ lawful → paramsWith number.toNat value.toNat s.params = none) (hheld : x = s.params ↔ value.toNat = held) :
    (¬ lawful → exec (.setParameter f number value) s = .next (respond f (answer .invalidField) s)) ∧
    (lawful → value.toNat = held → exec (.setParameter f number value) s = .next (respond f (answer .noChange) s)) ∧
    (lawful → value.toNat ≠ held → ∃ t, exec (.setParameter f number value) s = .next (respond f (answer .done) t) ∧
      ParameterSet s t x) :=
  ⟨fun h => setParameter_of_none hc (hunlawful h), fun h hv => (setParameter_of hc (hlawful h)).1 (hheld.2 hv),
    fun h hv => ⟨_, (setParameter_of hc (hlawful h)).2 fun hx => hv (hheld.1 hx), parameterSet_recomputeDuty s x⟩⟩

/-! ## Status (R166) -/

/-- The nine bytes of a commit result record (R171). -/
def resultBytes : Option ResultRec → List Byte
  | none => [0#8, 0#8, 0#8, 0#8, 0#8, 0#8, 0#8, 0#8, 0#8]
  | some r => [1#8] ++ split2 r.number ++
      [match r.outcome with
        | .inFlight => 0#8
        | .passed => 1#8
        | .passedDegraded => 2#8
        | .aborted => 3#8
        | .withdrawn => 4#8,
       BitVec.ofNat 8 r.fenced] ++ split4 r.generation

theorem resultFields_eq (r : Option ResultRec) : resultFields r = resultBytes r := by
  cases r with
  | none => rfl
  | some r =>
    obtain ⟨number, outcome, fenced, generation⟩ := r
    cases outcome <;> rfl

theorem exists_resultFields (r : Option ResultRec) : ∃ a b c d e f g h i, resultFields r = [a, b, c, d, e, f, g, h, i] := by
  cases r <;> exact ⟨_, _, _, _, _, _, _, _, _, rfl⟩

theorem exists_commitNumberFields (k : Option Half) : ∃ a b c, commitNumberFields k = [a, b, c] ∧
    (a, join2 b c) = match k with
      | none => (0#8, 0#16)
      | some k => (1#8, k) := by
  cases k with
  | none => exact ⟨_, _, _, rfl, rfl⟩
  | some k => exact ⟨_, _, _, rfl, by rw [join2_split]⟩

end Sys2Proof.Machine

section
open Sys2Proof Sys2Proof.Machine

/-- Settles O15: the sets and masks of the two ports, each line driven after every change. -/
theorem attentionRule : Obligations.AttentionRule := by
  unfold Obligations.AttentionRule
  refine ⟨fun r s p => ⟨?_, rfl⟩, fun f s ht => ?_, fun f mask s hc => ⟨fun hm => ?_, fun hm => ?_⟩⟩
  · rw [addReason_attention]
    rfl
  · refine ⟨s.modAttn f.port fun p => PortAttention.drive { p with set := ReasonSet.empty }, _,
      congrArg _ (keepingCommand_any ht (readAttention f.port)), reasonByte_bits _, modAttn_eq .., ?_, fun q hq => ?_⟩
    · rw [modAttn_attention_same]
      rfl
    · rw [modAttn_attention, if_neg hq.symm]
  · refine (congrArg Host.Outcome.next (disarmingCommand_any hc (setAlertMask f.port mask))).trans ?_
    rw [setAlertMask, reasonsOf_of_large hm]
  · refine ⟨s.modAttn f.port fun p => PortAttention.drive { p with mask := lowReasons mask }, lowReasons mask,
      (congrArg Host.Outcome.next (disarmingCommand_any hc (setAlertMask f.port mask))).trans ?_, rfl, modAttn_eq .., ?_,
      fun q hq => ?_⟩
    · rw [setAlertMask, reasonsOf_of_small hm]
    · rw [modAttn_attention_same]
      rfl
    · rw [modAttn_attention, if_neg hq.symm]

/-- Settles O17: by the five numbers; any other is refused. -/
theorem parameterRule : Obligations.ParameterRule := by
  unfold Obligations.ParameterRule
  intro f number value s hc
  dsimp only
  by_cases h1 : number = 1
  · subst h1
    exact parameterRule_of hc (x := { s.params with probeRetry := value.toNat }) (by simp [paramsWith]) (by simp [paramsWith])
      (by cases s.params; simp)
  by_cases h2 : number = 2
  · subst h2
    exact parameterRule_of hc (x := { s.params with commitRetry := value.toNat }) (by simp [paramsWith]) (by simp [paramsWith])
      (by cases s.params; simp)
  by_cases h3 : number = 3
  · subst h3
    exact parameterRule_of hc (x := { s.params with grace := value.toNat }) (by simp [paramsWith]) (by simp [paramsWith])
      (by cases s.params; simp)
  by_cases h4 : number = 4
  · subst h4
    exact parameterRule_of hc (x := { s.params with fanNormal := value.toNat }) (by simp [paramsWith]) (by simp [paramsWith])
      (by cases s.params; simp)
  by_cases h5 : number = 5
  · subst h5
    exact parameterRule_of hc (x := { s.params with fanFloor := value.toNat }) (by simp [paramsWith]) (by simp [paramsWith])
      (by cases s.params; simp)
  · have hunlawful : ¬ ((number = 1 ∧ value.toNat ≤ 7) ∨ (number = 2 ∧ value.toNat ≤ 7) ∨ (number = 3 ∧ value.toNat ≤ 168) ∨
        (number = 4 ∧ 30 ≤ value.toNat ∧ value.toNat ≤ 100) ∨ (number = 5 ∧ value.toNat ≤ 20000)) := by
      rintro (h | h | h | h | h)
      exacts [h1 h.1, h2 h.1, h3 h.1, h4 h.1, h5 h.1]
    have hwith : paramsWith number.toNat value.toNat s.params = none := by
      unfold paramsWith
      split <;> first | rfl | bv_omega
    exact ⟨fun _ => setParameter_of_none hc hwith, fun h => absurd h hunlawful, fun h => absurd h hunlawful⟩

/-- Settles O14: the bytes of the status by their places, the parts of fixed length spelled out. -/
theorem identityAndStatusRule : Obligations.IdentityAndStatusRule := by
  unfold Obligations.IdentityAndStatusRule
  refine ⟨fun f s ht => congrArg _ (keepingCommand_any ht _), fun s => ?_, fun f s ht => ?_⟩
  · have hcount : s.uptime + 1 = BitVec.ofNat 32 (s.uptime.toNat + 1) := by
      rw [BitVec.ofNat_add, BitVec.ofNat_toNat, BitVec.setWidth_eq]
      rfl
    show Host.Outcome.next { s with uptime := s.uptime + 1 } = _
    rw [hcount]
  · dsimp only
    obtain ⟨a8, a9, a10, hactive, hactive'⟩ := exists_commitNumberFields s.commit.active
    obtain ⟨a11, a12, a13, hqueued, hqueued'⟩ := exists_commitNumberFields s.commit.queued
    obtain ⟨c0, c1, c2, c3, c4, c5, c6, c7, c8, hcurrent⟩ := exists_resultFields s.commit.current
    obtain ⟨p0, p1, p2, p3, p4, p5, p6, p7, p8, hprevious⟩ := exists_resultFields s.commit.previous
    obtain ⟨g0, g1, g2, g3, hgen, hgen'⟩ := exists_split4 s.zones.generation
    obtain ⟨v0, v1, havail, havail'⟩ := exists_split2 (BitVec.ofNat 16 (availableOf s.power))
    obtain ⟨r0, r1, hroom, hroom'⟩ := exists_split2 (BitVec.ofInt 16 (headroomOf s.power))
    obtain ⟨f0, f1, hfloor, hfloor'⟩ := exists_split2 (BitVec.ofNat 16 s.params.fanFloor)
    obtain ⟨u0, u1, u2, u3, hup, hup'⟩ := exists_split4 s.uptime
    refine ⟨statusFields f.port s, congrArg _ (keepingCommand_any ht _), ?_⟩
    have hfields : statusFields f.port s = [BitVec.ofNat 8 (mastershipCode s.cmd.mastership),
        if isMaster s f.port then 1#8 else 0#8, if s.cmd.a.supervisor then 1#8 else 0#8, if s.cmd.b.supervisor then 1#8 else 0#8,
        BitVec.ofNat 8 (s.cmdPort f.port).armed.code, BitVec.ofNat 8 (s.cmdPort f.port).armed.parameter,
        BitVec.ofNat 8 s.commit.engine.code, BitVec.ofNat 8 s.commit.direction.code, a8, a9, a10, a11, a12, a13,
        BitVec.ofNat 8 s.zones.workingState.code, if s.zones.modified then 1#8 else 0#8, c0, c1, c2, c3, c4, c5, c6, c7, c8,
        p0, p1, p2, p3, p4, p5, p6, p7, p8, g0, g1, g2, g3, BitVec.ofNat 8 s.power.mode.code, v0, v1, r0, r1,
        BitVec.ofNat 8 s.params.probeRetry, BitVec.ofNat 8 s.params.commitRetry, BitVec.ofNat 8 s.params.grace,
        BitVec.ofNat 8 s.params.fanNormal, f0, f1, u0, u1, u2, u3] := by
      unfold statusFields num2
      rw [hactive, hqueued, hcurrent, hprevious, hgen, havail, hroom, hfloor, hup]
      simp only [num1, flagByte, List.cons_append, List.nil_append]
    rw [hfields]
    refine ⟨rfl, ?_, ?_, rfl, rfl, ?_, ?_, ?_, hactive', hqueued', ?_, rfl, ?_, ?_, hgen', ?_, havail', hroom', rfl, rfl, rfl,
      rfl, hfloor', hup'⟩
    · show BitVec.ofNat 8 (mastershipCode s.cmd.mastership) = _
      rcases s.cmd.mastership with _ | _ | _ <;> rfl
    · show (if isMaster s f.port then 1#8 else 0#8) = _
      simp only [isMaster_iff]
    · show (BitVec.ofNat 8 (s.cmdPort f.port).armed.code, BitVec.ofNat 8 (s.cmdPort f.port).armed.parameter) = _
      cases (s.cmdPort f.port).armed <;> rfl
    · show BitVec.ofNat 8 s.commit.engine.code = _
      cases s.commit.engine <;> rfl
    · show BitVec.ofNat 8 s.commit.direction.code = _
      cases s.commit.direction <;> rfl
    · show BitVec.ofNat 8 s.zones.workingState.code = _
      cases s.zones.workingState <;> rfl
    · refine (hcurrent.symm.trans (resultFields_eq _)).trans ?_
      cases s.commit.current <;> rfl
    · refine (hprevious.symm.trans (resultFields_eq _)).trans ?_
      cases s.commit.previous <;> rfl
    · show BitVec.ofNat 8 s.power.mode.code = _
      cases s.power.mode <;> rfl

end

/-! PROOFS. Fetch (R163, R164): the checks, the record selected, the cursors and the rule's sticky flag. -/

namespace Sys2Proof.Machine

/-! ## Cursors (R162) -/

theorem writeCursor_eq (c : Nat) (v : Half) (p : CmdPort) : writeCursor c v p = { p with cursors := (writeCursor c v p).cursors } := by
  unfold writeCursor
  split <;> rfl

theorem readCursor_writeCursor {c : Nat} (h1 : 1 ≤ c) (h7 : c ≤ 7) (v : Half) (p : CmdPort) {d : Nat} (hd : 1 ≤ d) (hd7 : d ≤ 7) :
    readCursor (writeCursor c v p) d = if d = c then v else readCursor p d := by
  have hc : c = (⟨c - 1, by omega⟩ : Fin 7).val + 1 := (Nat.sub_add_cancel h1).symm
  have hd' : d = (⟨d - 1, by omega⟩ : Fin 7).val + 1 := (Nat.sub_add_cancel hd).symm
  rw [writeCursor_of_index hc]
  unfold readCursor
  rw [index1?_eq_some_iff.2 hd']
  dsimp only [Fin.getElem_fin]
  rw [Vector.getElem_set]
  exact if_congr (by omega) rfl rfl

/-- The cursor that takes the link, 0 standing for none (R164). -/
theorem readCursor_load {c : Nat} (hc7 : c ≤ 7) (v : Half) (p : CmdPort) {load : Byte} (hload : load.toNat = c) {d : Nat} (hd : 1 ≤ d)
    (hd7 : d ≤ 7) : readCursor (if load = 0 then p else writeCursor c v p) d = if d = c then v else readCursor p d := by
  by_cases h0 : load = 0
  · rw [if_pos h0, if_neg]
    rintro rfl
    rw [h0] at hload
    exact absurd hd (not_le.2 (hload ▸ Nat.zero_lt_one))
  · have h1 : 1 ≤ c := by bv_omega
    rw [if_neg h0, readCursor_writeCursor h1 hc7 v p hd hd7]

/-- A selected record writes no more of the port than its cursors (R164). -/
theorem fetchCursors_eq (x : FetchFields) (i link : Nat) (p : CmdPort) :
    fetchCursors x i link p = { p with cursors := (fetchCursors x i link p).cursors } := by
  have hwrite : ∀ (b : Prop) [Decidable b] c v (q : CmdPort), q = { p with cursors := q.cursors } →
      (if b then writeCursor c v q else q) = { p with cursors := (if b then writeCursor c v q else q).cursors } := by
    intro b _ c v q hq
    split
    · rw [hq]
      exact writeCursor_eq ..
    · exact hq
  unfold fetchCursors
  rw [← ite_not]
  exact hwrite _ _ _ _ (hwrite _ _ _ _ rfl)

theorem readCursor_fetchCursors {x : FetchFields} (hb : x.base.toNat ≤ 7) (hl : x.load.toNat ≤ 7)
    (hadvance : x.advance = true → x.base ≠ 0 ∧ x.load ≠ x.base) (i link : Nat) (p : CmdPort) {c : Nat} (h1 : 1 ≤ c) (h7 : c ≤ 7) :
    readCursor (fetchCursors x i link p) c = if x.advance = true ∧ c = x.base.toNat then BitVec.ofNat 16 i
      else if c = x.load.toNat then BitVec.ofNat 16 link else readCursor p c := by
  unfold fetchCursors
  dsimp only
  rw [readCursor_load hl _ _ rfl h1 h7]
  by_cases ha : x.advance = true
  · obtain ⟨hbase, hload⟩ := hadvance ha
    have hb1 : 1 ≤ x.base.toNat := by bv_omega
    rw [if_pos ha, readCursor_writeCursor hb1 hb _ _ h1 h7]
    by_cases hc : c = x.base.toNat
    · have hcl : c ≠ x.load.toNat := fun he => hload (BitVec.eq_of_toNat_eq (he.symm.trans hc))
      rw [if_neg hcl, if_pos hc, if_pos ⟨ha, hc⟩]
    · rw [if_neg hc, if_neg (c := x.advance = true ∧ _) fun he => hc he.2]
  · rw [if_neg ha, if_neg (c := x.advance = true ∧ _) fun he => ha he.1]

/-! ## The record selected (R163, R164) -/

theorem selectRow_skip (s : State) (t : Table) (i : Nat) :
    selectRow s t true i = (List.range' i (t.last + 1 - i)).find? fun j => (tableRow s t j).occupied := by
  have hcomm : (fun j => j + i) = fun j => i + j := funext fun j => Nat.add_comm j i
  rw [selectRow, if_pos rfl, List.range'_eq_map_range, hcomm]

theorem selectRow_eq_some {s : State} {t : Table} {skip : Bool} {i j : Nat} (hj : j ≤ t.last)
    (h : (skip = false ∧ j = i) ∨ (skip = true ∧ i ≤ j ∧ (tableRow s t j).occupied = true ∧
      ∀ m, i ≤ m → m < j → (tableRow s t m).occupied = false)) : selectRow s t skip i = some j := by
  obtain ⟨rfl, rfl⟩ | ⟨rfl, hij, hocc, hfirst⟩ := h
  · rfl
  · rw [selectRow_skip, List.find?_range'_eq_some]
    exact ⟨hocc, List.mem_range'_1.2 ⟨hij, by omega⟩, fun m hm hmj => by rw [hfirst m hm hmj]; rfl⟩

theorem selectRow_eq_none {s : State} {t : Table} {i : Nat} (h : ∀ j, i ≤ j → j ≤ t.last → (tableRow s t j).occupied = false) :
    selectRow s t true i = none := by
  rw [selectRow_skip, List.find?_range'_eq_none]
  intro j hj hlt
  rw [h j hj (by omega)]
  rfl

/-! ## A rule's sticky flag (R141) -/

theorem fetchEffect_eq (t : Table) (i : Nat) (s : State) : fetchEffect t i s = { s with rules := (fetchEffect t i s).rules } := by
  unfold fetchEffect
  split <;> rfl

theorem fetchEffect_rule {t : Table} {j : Nat} (hj : j ≤ t.last) (s : State) (r : RuleIx) :
    (fetchEffect t j s).rule r = if t = .rules ∧ r.val = j then { s.rule r with sticky := false } else s.rule r := by
  unfold fetchEffect
  split
  case h_1 q hq =>
    have hval : j = q.val := index?_eq_some_iff.1 hq
    rw [modRule_rule]
    by_cases hr : q = r
    · rw [if_pos hr, if_pos ⟨rfl, by rw [← hr, hval]⟩, hr]
    · rw [if_neg hr, if_neg fun he => hr (Fin.ext (hval.symm.trans he.2.symm))]
  case h_2 hno =>
    rw [if_neg]
    rintro ⟨rfl, hr⟩
    exact hno r rfl (index?_eq_some_iff.2 hr.symm)

/-! ## The checks (R163) -/

section Fetched

variable {f : Frame} {x : FetchFields} {s : State}

/-- A field of a Fetch is out of its range (R163). -/
def FetchFields.Wrong (x : FetchFields) : Prop :=
  x.table = 0 ∨ 10 < x.table.toNat ∨ 7 < x.base.toNat ∨ 7 < x.load.toNat ∨ 1 < x.mode.toNat ∨ (x.mode = 1 ∧ 7 < x.indexCursor)

theorem tableOf_eq_none_iff (code : Byte) : tableOf code = none ↔ code = 0 ∨ 10 < code.toNat := by
  revert code
  decide +kernel

theorem table?_of_wrong (h : x.Wrong) : x.table? = none := by
  unfold FetchFields.table?
  split
  · rfl
  · rename_i hin
    rw [tableOf_eq_none_iff]
    rcases h with h | h | h
    · exact .inl h
    · exact .inr h
    · exact absurd h hin

theorem table?_of_right (h : ¬ x.Wrong) : x.table? = tableOf x.table :=
  if_neg fun he => h (.inr (.inr he))

theorem fetch_wrong (p : PortId) (h : x.Wrong) (s : State) : fetch p x s = (s, answer .invalidField) := by
  rw [fetch, table?_of_wrong h]

/-- A Fetch that would advance cursor 0, or load the cursor that it advances (R163). -/
theorem fetch_form (p : PortId) (h : ¬ x.Wrong) (ha : x.advance = true) (hb : x.base = 0 ∨ x.load = x.base) (s : State) :
    fetch p x s = (s, answer .invalidForm) := by
  obtain ⟨k, hk⟩ : ∃ k, x.table? = some k := by
    rw [table?_of_right h]
    exact Option.ne_none_iff_exists'.1 fun hn => h (((tableOf_eq_none_iff _).1 hn).imp_right .inl)
  have hform : (x.advance && (x.base == 0 || x.load == x.base)) = true := by
    rw [Bool.and_eq_true, Bool.or_eq_true, beq_iff_eq, beq_iff_eq]
    exact ⟨ha, hb⟩
  rw [fetch, hk]
  dsimp only
  rw [hform, if_pos rfl]

section Ranged

variable {p : PortId} {k : Table} (hw : ¬ x.Wrong) (hk : tableOf x.table = some k)
  (hadvance : x.advance = true → x.base ≠ 0 ∧ x.load ≠ x.base)

include hw hk hadvance

/-- A Fetch whose table stands and whose cursors may be written goes on to its index (R163, R164). -/
theorem fetch_of_table : fetch p x s = if x.index (s.cmdPort p) < k.first ∨ k.last < x.index (s.cmdPort p) then
    (s, answer .outOfRange) else fetchRow p x k (x.index (s.cmdPort p)) s := by
  have hform : (x.advance && (x.base == 0 || x.load == x.base)) = false := by
    cases ha : x.advance with
    | false => rfl
    | true =>
      obtain ⟨hb, hl⟩ := hadvance ha
      rw [beq_eq_false_iff_ne.2 hb, beq_eq_false_iff_ne.2 hl]
      rfl
  unfold fetch
  rw [table?_of_right hw, hk]
  dsimp only
  rw [hform, if_neg Bool.false_ne_true]

theorem fetch_outOfRange (h : x.index (s.cmdPort p) < k.first ∨ k.last < x.index (s.cmdPort p)) :
    fetch p x s = (s, answer .outOfRange) := by
  rw [fetch_of_table hw hk hadvance, if_pos h]

variable (hfirst : k.first ≤ x.index (s.cmdPort p)) (hlast : x.index (s.cmdPort p) ≤ k.last)

include hfirst hlast

theorem fetch_inRange : fetch p x s = fetchRow p x k (x.index (s.cmdPort p)) s := by
  rw [fetch_of_table hw hk hadvance, if_neg (not_or.2 ⟨not_lt.2 hfirst, not_lt.2 hlast⟩)]

theorem fetch_endOfTable (hskip : x.skip = true)
    (hvacant : ∀ j, x.index (s.cmdPort p) ≤ j → j ≤ k.last → (tableRow s k j).occupied = false) :
    fetch p x s = (s, answer .endOfTable) := by
  rw [fetch_inRange hw hk hadvance hfirst hlast, fetchRow, hskip, selectRow_eq_none hvacant]

end Ranged

/-- The state after a record of a table was fetched into the cursors of a port (R164). -/
def fetched (p : PortId) (x : FetchFields) (k : Table) (j : Nat) (s : State) : State :=
  (fetchEffect k j s).modCmd p (fetchCursors x j (tableRow s k j).link)

theorem fetch_selected {p : PortId} {k : Table} {j : Nat} (hw : ¬ x.Wrong) (hk : tableOf x.table = some k)
    (hadvance : x.advance = true → x.base ≠ 0 ∧ x.load ≠ x.base) (hfirst : k.first ≤ x.index (s.cmdPort p)) (hj : j ≤ k.last)
    (hsel : (x.skip = false ∧ j = x.index (s.cmdPort p)) ∨ (x.skip = true ∧ x.index (s.cmdPort p) ≤ j ∧
      (tableRow s k j).occupied = true ∧ ∀ m, x.index (s.cmdPort p) ≤ m → m < j → (tableRow s k m).occupied = false)) :
    fetch p x s = (fetched p x k j s, doneWith ([x.table] ++ num2 j ++ num2 (tableRow s k j).link ++ (tableRow s k j).bytes)) := by
  have hlast : x.index (s.cmdPort p) ≤ k.last := by
    obtain ⟨-, rfl⟩ | ⟨-, hij, -⟩ := hsel
    · exact hj
    · exact hij.trans hj
  rw [fetch_inRange hw hk hadvance hfirst hlast, fetchRow, selectRow_eq_some hj hsel]
  rfl

theorem fetched_cmdPort (p : PortId) (x : FetchFields) (k : Table) (j : Nat) (s : State) :
    (fetched p x k j s).cmdPort p = fetchCursors x j (tableRow s k j).link (s.cmdPort p) := by
  rw [fetched, modCmd_cmdPort_same, fetchEffect_eq]
  rfl

theorem fetched_eq (p : PortId) (x : FetchFields) (k : Table) (j : Nat) (s : State) :
    fetched p x k j s = { s with cmd := (fetched p x k j s).cmd, rules := (fetched p x k j s).rules } := by
  have hframe : fetched p x k j s = { fetchEffect k j s with cmd := (fetched p x k j s).cmd } := (onlyPort_modCmd ..).1
  have hrules : (fetched p x k j s).rules = (fetchEffect k j s).rules := modCmd_rules ..
  rw [hrules]
  conv_lhs => rw [hframe, fetchEffect_eq]

theorem fetched_onlyPort (p : PortId) (x : FetchFields) (k : Table) (j : Nat) (s : State) :
    OnlyPort { s with rules := (fetched p x k j s).rules } (fetched p x k j s) p
      { s.cmdPort p with cursors := ((fetched p x k j s).cmdPort p).cursors } := by
  have hcmd : (fetchEffect k j s).cmd = s.cmd := by rw [fetchEffect_eq]
  refine ⟨fetched_eq .., ?_, ?_, fun q hq => ?_⟩
  · exact (modCmd_mastership ..).trans (congrArg _ hcmd)
  · rw [fetched_cmdPort]
    exact fetchCursors_eq ..
  · rw [fetched, modCmd_cmdPort, if_neg hq.symm]
    exact cmdPort_of_cmd hcmd q

end Fetched

end Sys2Proof.Machine

section
open Sys2Proof Sys2Proof.Machine

/-- Settles O18: the checks in order, then the record that the index selects. -/
theorem fetchRule : Obligations.FetchRule := by
  unfold Obligations.FetchRule
  intro f table base mode operand flags load s hc
  dsimp only
  let x : FetchFields := ⟨table, base, mode, operand, flags, load⟩
  have hexec : ∀ t a, fetch f.port x s = (t, a) →
      exec (.fetch f table base mode operand flags load) s = .next (respond f a t) := by
    intro t a hfetch
    refine (congrArg Host.Outcome.next (disarmingCommand_any hc (fetch f.port x))).trans ?_
    rw [hfetch]
  refine ⟨fun hw => hexec _ _ (fetch_wrong (x := x) _ hw s), fun hw ha hb => hexec _ _ (fetch_form _ (x := x) hw ha hb s),
    fun k hw ha hk => ⟨fun hout => hexec _ _ (fetch_outOfRange (x := x) hw hk ha hout),
      fun hfirst hlast hskip hvacant => hexec _ _ (fetch_endOfTable (x := x) hw hk ha hfirst hlast hskip hvacant),
      fun j hfirst hj hsel => ?_⟩⟩
  have hbase : base.toNat ≤ 7 := not_lt.1 fun h => hw (.inr (.inr (.inl h)))
  have hload : load.toNat ≤ 7 := not_lt.1 fun h => hw (.inr (.inr (.inr (.inl h))))
  refine ⟨fetched f.port x k j s, hexec _ _ (fetch_selected (x := x) hw hk ha hfirst hj hsel), fetched_eq .., fetched_onlyPort ..,
    fun c h1 h7 => ?_, fun r => ?_⟩
  · rw [fetched_cmdPort]
    exact readCursor_fetchCursors (x := x) hbase hload ha j _ _ h1 h7
  · exact (modCmd_rule ..).trans (fetchEffect_rule hj s r)

end

/-! PROOFS. The ten tables of Fetch (R163, R171): each record's bytes, its length, and when it is vacant. -/

namespace Sys2Proof.Machine

theorem tableRow_ports (s : State) (n : PortIx) : tableRow s .ports n.val = portRow s n := by
  rw [tableRow, index?_eq_some_iff.2 rfl]
  rfl

theorem tableRow_cards (s : State) (c : Slot) : tableRow s .cards (c.val + 1) = cardRow s c := by
  rw [tableRow, index1?_eq_some_iff.2 rfl]
  rfl

theorem tableRow_units (s : State) (u : UnitIx) : tableRow s .units (u.val + 1) = unitRow s u := by
  rw [tableRow, index1?_eq_some_iff.2 rfl]
  rfl

theorem tableRow_sources (s : State) (k : SourceIx) : tableRow s .sources k.val = sourceRow s k := by
  rw [tableRow, index?_eq_some_iff.2 rfl]
  rfl

theorem tableRow_pools (s : State) (k : PoolIx) : tableRow s .pools (k.val + 1) = poolRow s k := by
  rw [tableRow, index1?_eq_some_iff.2 rfl]
  rfl

theorem tableRow_rules (s : State) (r : RuleIx) : tableRow s .rules r.val = ruleRow s r := by
  rw [tableRow, index?_eq_some_iff.2 rfl]
  rfl

/-! ## Fields of fixed length -/

theorem licenseFields_length (x : License) : (licenseFields x).length = 3 := by cases x <;> rfl

theorem identityFields_length (x : Option Identity) : (identityFields x).length = 7 := by cases x <;> rfl

theorem actionFields_length (x : RuleAction) : (actionFields x).length = 2 := by cases x <;> rfl

theorem ruleStateFields_length (x : RuleState) : (ruleStateFields x).length = 2 := by cases x <;> rfl

theorem licenseFields_eq (x : License) : licenseFields x = match x with
    | .unlicensed => [0#8, 0#8, 0#8]
    | .bound k => [1#8, BitVec.ofNat 8 (k.val + 1), 0#8]
    | .grace k h => [2#8, BitVec.ofNat 8 (k.val + 1), BitVec.ofNat 8 h] := by
  cases x <;> rfl

theorem identityFields_eq (x : Option Identity) : identityFields x = match x with
    | none => [0#8, 0#8, 0#8, 0#8, 0#8, 0#8, 0#8]
    | some x => [1#8] ++ split2 x.cardType ++ [BitVec.ofNat 8 x.portCount, BitVec.ofNat 8 x.tier] ++
        split2 (BitVec.ofNat 16 x.baseDraw) := by
  cases x <;> rfl

theorem actionFields_eq (x : RuleAction) : actionFields x = match x with
    | .none => [0#8, 0#8]
    | .fanBoost => [1#8, 0#8]
    | .shed n => [2#8, BitVec.ofNat 8 n.val]
    | .cardOff => [3#8, 0#8] := by
  cases x <;> rfl

theorem ruleStateFields_eq (x : RuleState) : ruleStateFields x = match x with
    | .idle => [0#8, 0#8]
    | .counting k => [1#8, BitVec.ofNat 8 k]
    | .active => [2#8, 0#8]
    | .releasing k => [3#8, BitVec.ofNat 8 k] := by
  cases x <;> rfl

theorem num1_length (n : Nat) : (num1 n).length = 1 := rfl

theorem num2_length (n : Nat) : (num2 n).length = 2 := rfl

theorem flagByte_length (b : Bool) : (flagByte b).length = 1 := rfl

theorem memberFields_length (m : Member) : (memberFields m).length = 10 := by
  unfold memberFields
  cases m.designator <;> rfl

theorem portVacant_iff (s : State) (n : PortIx) : portVacant s n = true ↔
    reported s n = .absent ∧ (s.port n).intent = .disabled ∧ (s.port n).license = .unlicensed := by
  simp [portVacant, and_assoc]

/-! ## Zone records (R97) -/

theorem zone?_eq_none_iff {im : Image} {id : Nat} : im.zone? id = none ↔ ∀ z ∈ im.zones, z.id ≠ id := by
  simp [Image.zone?]

/-- The bytes of a zone record as 11.4 lays them out. -/
def zoneBytes (id : Nat) : Option Zone → List Byte
  | none => split2 (BitVec.ofNat 16 id) ++ List.replicate 34 0#8
  | some z => split2 (BitVec.ofNat 16 id) ++ z.name ++ List.replicate (32 - z.name.length) 0#8 ++
      [BitVec.ofNat 8 z.kind.code, BitVec.ofNat 8 z.members.length] ++
      z.members.flatMap fun m =>
        (match m.designator with
          | .name d => 0#8 :: split8 d
          | .port slot pos => [1#8, BitVec.ofNat 8 (slot.val + 1), BitVec.ofNat 8 pos.val, 0#8, 0#8, 0#8, 0#8, 0#8, 0#8]) ++
        [BitVec.ofNat 8 m.role.code]

theorem zoneRecord_eq (id : Nat) (z : Option Zone) : zoneRecord id z = zoneBytes id z := by
  cases z with
  | none => rfl
  | some z =>
    have hmember : memberFields = fun m => (match m.designator with
          | .name d => 0#8 :: split8 d
          | .port slot pos => [1#8, BitVec.ofNat 8 (slot.val + 1), BitVec.ofNat 8 pos.val, 0#8, 0#8, 0#8, 0#8, 0#8, 0#8]) ++
        [BitVec.ofNat 8 m.role.code] := by
      funext m
      obtain ⟨designator, role⟩ := m
      cases designator <;> rfl
    rw [zoneRecord, zoneBytes, hmember]
    simp only [num2, nameField, num1, List.append_assoc]
    rfl

theorem zoneRow_length {im : Image} (h : ImageLawful im) (id : Nat) : (zoneRow im id).bytes.length = 36 + 10 * (zoneRow im id).link := by
  unfold zoneRow zoneRecord
  dsimp only
  cases hz : im.zone? id with
  | none => simp [num2, length_split2]
  | some z =>
    obtain ⟨-, -, hzones, -⟩ := h
    obtain ⟨-, -, -, -, hlen, -⟩ := hzones z (List.mem_of_find?_eq_some hz)
    have hmembers : (z.members.flatMap memberFields).length = 10 * z.members.length := by
      rw [List.length_flatMap]
      simp only [memberFields_length]
      simp [Nat.mul_comm]
    simp only [List.length_append, hmembers, num2, length_split2, nameField, List.length_replicate, num1, List.length_cons,
      List.length_nil, Option.map_some, Option.getD_some]
    omega

theorem zoneRow_rule (im : Image) (id : Nat) : (zoneRow im id).link = ((im.zone? id).map fun z => z.members.length).getD 0 ∧
    ((zoneRow im id).occupied = false ↔ ∀ z ∈ im.zones, z.id ≠ id) ∧ (zoneRow im id).bytes = zoneBytes id (im.zone? id) ∧
    (ImageLawful im → (zoneRow im id).bytes.length = 36 + 10 * (zoneRow im id).link) := by
  refine ⟨rfl, ?_, zoneRecord_eq .., fun h => zoneRow_length h id⟩
  rw [← zone?_eq_none_iff]
  exact Option.isSome_eq_false_iff.trans Option.isNone_iff_eq_none

/-- In a lawful image a zone is found by its id (R80). -/
theorem zone?_of_mem {im : Image} (h : ImageLawful im) {z : Zone} (hz : z ∈ im.zones) : im.zone? z.id = some z := by
  obtain ⟨hsorted, -⟩ := h
  cases hfound : im.zone? z.id with
  | none => exact absurd rfl (zone?_eq_none_iff.1 hfound z hz)
  | some w =>
    have hw : w ∈ im.zones := List.mem_of_find?_eq_some hfound
    have hid : w.id = z.id := by simpa using List.find?_some hfound
    exact congrArg some (List.inj_on_of_nodup_map (hsorted.imp fun h => Nat.ne_of_lt h) hw hz hid)

end Sys2Proof.Machine

section
open Sys2Proof Sys2Proof.Machine

/-- Settles O19: table by table, each row of a record of the state. -/
theorem fetchTables : Obligations.FetchTables := by
  unfold Obligations.FetchTables
  intro s
  dsimp only
  refine ⟨by decide, rfl, by decide, fun n => ?_, fun c => ?_, fun u => ?_, fun k => ?_, fun k => ?_, fun id => ?_, fun id => ?_,
    fun im z h => zone?_of_mem h, fun k => ?_, fun r => ?_, fun k => ?_⟩
  · rw [tableRow_ports]
    refine ⟨rfl, ?_, ?_, ?_⟩
    · simp only [portRow, portRecord, List.length_append, licenseFields_length, num1_length, num2_length, flagByte_length]
    · rw [← portVacant_iff]
      exact iff_of_eq (Bool.not_eq_false' _)
    · simp only [portRow, portRecord, licenseFields_eq]
      cases (s.port n).license <;> rfl
  · rw [tableRow_cards]
    refine ⟨rfl, ?_, bne_eq_false_iff_eq, ?_⟩
    · simp only [cardRow, cardRecord, List.length_append, identityFields_length, num1_length, num2_length, flagByte_length, length_split2]
    · simp only [cardRow, cardRecord, identityFields_eq]
      cases (s.card c).identity <;> rfl
  · rw [tableRow_units]
    refine ⟨rfl, rfl, bne_eq_false_iff_eq, ?_⟩
    simp only [unitRow, unitRecord, isPsu, decide_eq_true_eq]
    rfl
  · rw [tableRow_sources]
    exact ⟨rfl, rfl, rfl, rfl⟩
  · rw [tableRow_pools]
    exact ⟨rfl, rfl, bne_eq_false_iff_eq, rfl⟩
  · exact zoneRow_rule s.zones.live id
  · exact zoneRow_rule s.zones.working id
  · rw [show tableRow s .names k = nameRow s k from rfl]
    unfold nameRow
    refine ⟨?_, fun hk => ?_, fun e hk => ?_⟩
    · cases tableGet s.names k <;> rfl
    · rw [hk]
      exact ⟨rfl, rfl, rfl⟩
    · rw [hk]
      refine ⟨rfl, rfl, ?_⟩
      obtain ⟨name, port, status⟩ := e
      cases status <;> rfl
  · rw [tableRow_rules]
    refine ⟨rfl, ?_, rfl, ?_⟩
    · simp only [ruleRow, ruleRecord, List.length_append, actionFields_length, ruleStateFields_length, num1_length, flagByte_length, length_split2]
    · simp only [ruleRow, ruleRecord, actionFields_eq, ruleStateFields_eq]
      cases (s.rule r).action <;> cases (s.rule r).state <;> rfl
  · rw [show tableRow s .alarms k = alarmRow s k from rfl]
    unfold alarmRow
    refine ⟨?_, fun hk => ?_, fun e hk => ?_⟩
    · cases tableGet s.alarms k <;> rfl
    · rw [hk]
      exact ⟨rfl, rfl, rfl⟩
    · rw [hk]
      exact ⟨rfl, rfl, rfl⟩

end

/-! PROOFS. What the claims on the Alarm Table leave: the pair of a raise stands, the pair of an end is over, and the entries of every
other pair are as they were (R146 to R149). -/

namespace Sys2Proof.Machine

theorem mem_tableSet_iff {α : Type} {pos : Nat} {a : α} {l : List (Nat × α)} (h : l.Pairwise fun x y => x.1 < y.1) {x : Nat × α} :
    x ∈ tableSet pos a l ↔ x = (pos, a) ∨ (x ∈ l ∧ x.1 ≠ pos) := by
  rw [(tableSet_perm a h).mem_iff, List.mem_cons, tableErase, List.mem_filter, decide_eq_true_iff]

/-- One entry to a position. -/
theorem TableLawful.eq_of_mem {α : Type} {bound pos : Nat} {a b : α} {l : List (Nat × α)} (h : TableLawful bound l)
    (ha : (pos, a) ∈ l) (hb : (pos, b) ∈ l) : a = b := by
  by_contra hne
  have hdistinct : (pos, a).1 ≠ (pos, b).1 :=
    pairwise_mem (fun _ _ => Ne.symm) (h.pairwise.imp Nat.ne_of_lt) ha hb fun he => hne (congrArg Prod.snd he)
  exact hdistinct rfl

theorem length_tableSet_le {α : Type} (pos : Nat) (a : α) (l : List (Nat × α)) : (tableSet pos a l).length ≤ l.length + 1 := by
  induction l with
  | nil => exact le_rfl
  | cons y l ih =>
    obtain ⟨k, b⟩ := y
    rw [tableSet]
    split
    · exact le_rfl
    · split
      · exact Nat.le_succ _
      · exact Nat.succ_le_succ ih

theorem length_raiseAlarm_le (r : Raise) (s : State) : (raiseAlarm r s).alarms.length ≤ s.alarms.length + 1 := by
  have hput (pos : Nat) (e : AlarmEntry) : (putAlarm pos e s).alarms.length ≤ s.alarms.length + 1 := length_tableSet_le pos e s.alarms
  unfold raiseAlarm
  split
  · split
    · exact hput _ _
    · exact hput _ _
    · rw [alarmChanged_alarms]
      exact hput _ _
  · split
    · rw [alarmChanged_alarms]
      exact hput _ _
    · exact Nat.le_succ _

/-! ## The other pairs -/

theorem OtherAlarmsKept.of_alarms {s t : State} (h : t.alarms = s.alarms) (c : Cause) (k : Nat) : OtherAlarmsKept s t c k :=
  fun _ _ => by rw [h]

theorem OtherAlarmsKept.trans {s t u : State} {c : Cause} {k : Nat} (h : OtherAlarmsKept s t c k) (h' : OtherAlarmsKept t u c k) :
    OtherAlarmsKept s u c k :=
  fun x hx => (h' x hx).trans (h x hx)

/-- Writing an entry over one of its own pair, or where none is, keeps the other pairs. -/
theorem otherAlarmsKept_putAlarm {s : State} {pos : Nat} {e : AlarmEntry} (h : AlarmsLawful s)
    (hold : ∀ d, (pos, d) ∈ s.alarms → d.cause = e.cause ∧ d.subject = e.subject) :
    OtherAlarmsKept s (putAlarm pos e s) e.cause e.subject := by
  intro x hx
  show x ∈ tableSet pos e s.alarms ↔ _
  rw [mem_tableSet_iff h.1.pairwise]
  constructor
  · rintro (rfl | ⟨hm, -⟩)
    · exact absurd ⟨rfl, rfl⟩ hx
    · exact hm
  · intro hm
    refine .inr ⟨hm, fun hpos => hx (hold x.2 ?_)⟩
    rw [← hpos]
    exact hm

theorem otherAlarmsKept_raiseAlarm {s : State} (r : Raise) (h : AlarmsLawful s) :
    OtherAlarmsKept s (raiseAlarm r s) r.cause r.subject := by
  unfold raiseAlarm
  split
  next pos e hfound =>
    obtain ⟨hmem, hcause, hsubject⟩ := alarmFor_mem hfound
    have hput (e' : AlarmEntry) (hc : e'.cause = e.cause) (hk : e'.subject = e.subject) :
        OtherAlarmsKept s (putAlarm pos e' s) r.cause r.subject := by
      rw [← hcause, ← hsubject, ← hc, ← hk]
      refine otherAlarmsKept_putAlarm h fun d hd => ?_
      rw [h.1.eq_of_mem hd hmem, hc, hk]
      exact ⟨rfl, rfl⟩
    have hupdated := hput (updatedAlarm r s.uptime e) (by rw [updatedAlarm_eq]) (by rw [updatedAlarm_eq])
    split
    · exact hupdated
    · exact hupdated
    · exact (hput (reraisedAlarm r s.uptime e) rfl rfl).trans (.of_alarms (alarmChanged_alarms _ _) _ _)
  next =>
    split
    next pos hfree =>
      refine (otherAlarmsKept_putAlarm (e := newAlarm r s.uptime) h fun d hd => ?_).trans (.of_alarms (alarmChanged_alarms _ _) _ _)
      exact absurd rfl ((freePosition_free h.1 hfree).2 _ hd)
    next => exact .of_alarms rfl _ _

theorem otherAlarmsKept_endAlarm {s : State} (c : Cause) (k : Nat) (h : AlarmsLawful s) :
    OtherAlarmsKept s (endAlarm c k s) c k := by
  unfold endAlarm
  split
  next pos e hfound =>
    obtain ⟨hmem, rfl, rfl⟩ := alarmFor_mem hfound
    split
    · refine (otherAlarmsKept_putAlarm (e := { e with state := .clearedUnacked, last := s.uptime }) h fun d hd => ?_).trans
        (.of_alarms (alarmChanged_alarms _ _) _ _)
      rw [h.1.eq_of_mem hd hmem]
      exact ⟨rfl, rfl⟩
    · intro x hx
      rw [retireAlarm, alarmChanged_alarms]
      show x ∈ tableErase pos s.alarms ↔ _
      rw [tableErase, List.mem_filter, decide_eq_true_iff]
      refine ⟨And.left, fun hm => ⟨hm, fun hpos => hx ?_⟩⟩
      have hentry : x.2 = e := h.1.eq_of_mem (pos := pos) (by rw [← hpos]; exact hm) hmem
      rw [hentry]
      exact ⟨rfl, rfl⟩
    · exact .of_alarms rfl _ _
  next => exact .of_alarms rfl _ _

/-! ## What stands and what is over -/

theorem AlarmStands.of_alarms {s t : State} {c : Cause} {k : Nat} {sev : Severity} {d : Nat} (h : AlarmStands s c k sev d)
    (ha : t.alarms = s.alarms) : AlarmStands t c k sev d := by
  unfold AlarmStands at h ⊢
  rwa [ha]

/-- A claim of another pair leaves an alarm standing. -/
theorem AlarmStands.of_other {s t : State} {c c' : Cause} {k k' : Nat} {sev : Severity} {d : Nat} (h : AlarmStands s c k sev d)
    (hkept : OtherAlarmsKept s t c' k') (hne : ¬ (c = c' ∧ k = k')) : AlarmStands t c k sev d := by
  obtain ⟨pos, e, hmem, rfl, rfl, hrest⟩ := h
  exact ⟨pos, e, (hkept (pos, e) hne).2 hmem, rfl, rfl, hrest⟩

theorem AlarmOver.of_alarms {s t : State} {c : Cause} {k : Nat} (h : AlarmOver s c k) (ha : t.alarms = s.alarms) :
    AlarmOver t c k := by
  unfold AlarmOver at h ⊢
  rwa [ha]

theorem AlarmOver.of_other {s t : State} {c c' : Cause} {k k' : Nat} (h : AlarmOver s c k) (hkept : OtherAlarmsKept s t c' k')
    (hne : ¬ (c = c' ∧ k = k')) : AlarmOver t c k := by
  intro x hx hc hk
  exact h x ((hkept x fun he => hne ⟨hc.symm.trans he.1, hk.symm.trans he.2⟩).1 hx) hc hk

/-- The entry that the search for a pair finds is the pair's one entry. -/
theorem AlarmsLawful.entry_eq {s : State} (h : AlarmsLawful s) {pos : Nat} {e : AlarmEntry} (hmem : (pos, e) ∈ s.alarms)
    {x : Nat × AlarmEntry} (hx : x ∈ s.alarms) (hc : x.2.cause = e.cause) (hk : x.2.subject = e.subject) : x = (pos, e) := by
  by_contra hne
  exact pairwise_mem (fun _ _ hxy hyx => hxy ⟨hyx.1.symm, hyx.2.symm⟩) h.2 hx hmem hne ⟨hc, hk⟩

/-- After an end claim the pair is over (R149). -/
theorem alarmOver_endAlarm {s : State} (c : Cause) (k : Nat) (h : AlarmsLawful s) : AlarmOver (endAlarm c k s) c k := by
  unfold endAlarm
  split
  next pos e hfound =>
    obtain ⟨hmem, rfl, rfl⟩ := alarmFor_mem hfound
    split
    · intro x hx hc hk
      rw [alarmChanged_alarms] at hx
      rcases (mem_tableSet_iff h.1.pairwise).1 hx with rfl | ⟨hxs, hpos⟩
      · rfl
      · exact absurd (congrArg Prod.fst (h.entry_eq hmem hxs hc hk)) hpos
    · intro x hx hc hk
      rw [retireAlarm, alarmChanged_alarms] at hx
      obtain ⟨hxs, hpos⟩ := List.mem_filter.1 (show x ∈ s.alarms.filter _ from hx)
      exact absurd (congrArg Prod.fst (h.entry_eq hmem hxs hc hk)) (by simpa using hpos)
    next hstate =>
      intro x hx hc hk
      rw [h.entry_eq hmem hx hc hk]
      exact hstate
  next hnone => exact fun x hx hc hk => absurd ⟨hc, hk⟩ (alarmFor_none hnone x hx)

end Sys2Proof.Machine

/-! PROOFS. What the Commit Engine's operations do (R99, R105, R109 to R111): the record of a commit after a change, the cards that a loop
tells, the start, the switch and the end, and which of them follow from a change of the engine's cards. -/

namespace Sys2Proof.Machine

theorem cards_ext {s t : State} (h : ∀ c, t.card c = s.card c) : t.cards = s.cards :=
  Vector.ext fun i hi => h ⟨i, hi⟩

/-! ## Result records (R99, R102) -/

/-- The engine's two result records, the current one first. -/
def CommitEngine.records (e : CommitEngine) : Option ResultRec × Option ResultRec := (e.current, e.previous)

/-- The two records after a change of the record of a commit. -/
def changeRecord (number : Option Half) (g : ResultRec → ResultRec) (rs : Option ResultRec × Option ResultRec) :
    Option ResultRec × Option ResultRec :=
  match number with
  | none => rs
  | some k =>
    if rs.1.any fun r => r.number == k then (rs.1.map g, rs.2)
    else if rs.2.any fun r => r.number == k then (rs.1, rs.2.map g)
    else rs

theorem noteRecord_eq (number : Option Half) (g : ResultRec → ResultRec) (s : State) : noteRecord number g s = { s with
    commit := { s.commit with
      current := (changeRecord number g s.commit.records).1
      previous := (changeRecord number g s.commit.records).2 }
    attn := (noteRecord number g s).attn } := by
  have hupdate (k : Half) : CommitEngine.updateRecord k g s.commit = { s.commit with
      current := (changeRecord (some k) g s.commit.records).1
      previous := (changeRecord (some k) g s.commit.records).2 } := by
    unfold CommitEngine.updateRecord changeRecord CommitEngine.records
    dsimp only
    split
    · rfl
    · split <;> rfl
  cases number with
  | none => rfl
  | some k =>
    rw [← hupdate]
    unfold noteRecord
    dsimp only
    split <;> rfl

section Records
variable {number : Option Half} {g : ResultRec → ResultRec} {rs : Option ResultRec × Option ResultRec} {r : ResultRec}

theorem changeRecord_of_current (h : rs.1 = some r) (hn : number = some r.number) : changeRecord number g rs = (some (g r), rs.2) := by
  subst hn
  simp [changeRecord, h]

theorem changeRecord_of_previous (h : rs.2 = some r) (hn : number = some r.number)
    (hcurrent : ∀ q, rs.1 = some q → q.number ≠ r.number) : changeRecord number g rs = (rs.1, some (g r)) := by
  subst hn
  cases hq : rs.1 with
  | none => simp [changeRecord, h, hq]
  | some q => simp [changeRecord, h, hq, hcurrent q hq]

theorem changeRecord_current_other (h : rs.1 = some r) (hn : number ≠ some r.number) : (changeRecord number g rs).1 = some r := by
  cases number with
  | none => exact h
  | some k =>
    have hk : ¬ r.number = k := fun he => hn (by rw [he])
    unfold changeRecord
    simp only [h, Option.any_some, beq_iff_eq, hk, if_false]
    split
    · rfl
    · exact h

theorem changeRecord_previous_other (h : rs.2 = some r) (hn : number ≠ some r.number) : (changeRecord number g rs).2 = some r := by
  cases number with
  | none => exact h
  | some k =>
    have hk : ¬ r.number = k := fun he => hn (by rw [he])
    unfold changeRecord
    simp only [h, Option.any_some, beq_iff_eq, hk, if_false]
    split
    · rfl
    · exact h

/-- Two changes of the record of one commit. -/
theorem changeRecord_changeRecord (number : Option Half) {f : ResultRec → ResultRec} (hf : ∀ r, (f r).number = r.number)
    (g : ResultRec → ResultRec) (rs : Option ResultRec × Option ResultRec) :
    changeRecord number g (changeRecord number f rs) = changeRecord number (fun r => g (f r)) rs := by
  obtain ⟨current, previous⟩ := rs
  cases number with
  | none => rfl
  | some k =>
    cases current with
    | none =>
      cases previous with
      | none => rfl
      | some p =>
        by_cases hp : p.number = k
        · simp [changeRecord, hp, hf]
        · simp [changeRecord, hp]
    | some c =>
      by_cases hc : c.number = k
      · simp [changeRecord, hc, hf]
      · cases previous with
        | none => simp [changeRecord, hc]
        | some p =>
          by_cases hp : p.number = k
          · simp [changeRecord, hc, hp, hf]
          · simp [changeRecord, hc, hp]

end Records

/-! ## The cards that a loop tells (R105, R109) -/

/-- The cards of a set, and no others, have gone to a phase that awaits their answer, with no resend and the timer at 250 ms, and have
been sent a message. -/
structure Told (told : Slot → Prop) (p : Phase) (m : CardMsg) (s t : State) : Prop where
  phase : ∀ c, told c → t.phaseRec c = { phase := p, resends := 0, timeout := 250, timerOn := true }
  card : ∀ c, told c → t.card c = { s.card c with outbox := (s.card c).outbox ++ [m] }
  phase_other : ∀ c, ¬ told c → t.phaseRec c = s.phaseRec c
  card_other : ∀ c, ¬ told c → t.card c = s.card c

theorem Told.of_records {told : Slot → Prop} {p : Phase} {m : CardMsg} {s t s' t' : State} (h : Told told p m s t)
    (hs : s'.cards = s.cards) (hsp : s'.commit.cards = s.commit.cards) (ht : t'.cards = t.cards)
    (htp : t'.commit.cards = t.commit.cards) : Told told p m s' t' := by
  have hphase (c : Slot) : t'.phaseRec c = t.phaseRec c := by simp only [State.phaseRec, htp]
  have hphases (c : Slot) : s'.phaseRec c = s.phaseRec c := by simp only [State.phaseRec, hsp]
  refine ⟨fun c hc => ?_, fun c hc => ?_, fun c hc => ?_, fun c hc => ?_⟩
  · rw [hphase]; exact h.phase c hc
  · rw [card_of_cards ht, card_of_cards hs]; exact h.card c hc
  · rw [hphase, hphases]; exact h.phase_other c hc
  · rw [card_of_cards ht, card_of_cards hs]; exact h.card_other c hc

theorem Told.congr {told told' : Slot → Prop} {p : Phase} {m : CardMsg} {s t : State} (h : Told told p m s t)
    (hiff : ∀ c, told' c ↔ told c) : Told told' p m s t := by
  rwa [show told' = told from funext fun c => propext (hiff c)]

/-- The state with only the cards and the engine's cards of another. -/
def withCards (s t : State) : State := { s with cards := t.cards, commit := { s.commit with cards := t.commit.cards } }

/-- Telling each card of a list the same message. -/
theorem told_forEach {p : Phase} {m : State → CardMsg} (hm : ∀ s u, m (withCards s u) = m s) {l : List Slot} (hl : l.Nodup)
    (s : State) :
    let t := forEach l (fun c s => send c (m s) (awaitPhase c p s)) s
    t = withCards s t ∧ Told (· ∈ l) p (m s) s t := by
  induction l generalizing s with
  | nil => exact ⟨rfl, nofun, nofun, fun _ _ => rfl, fun _ _ => rfl⟩
  | cons x l ih =>
    obtain ⟨hx, hl⟩ := List.nodup_cons.1 hl
    have hframe : send x (m s) (awaitPhase x p s) = withCards s (send x (m s) (awaitPhase x p s)) := rfl
    have hphase (c : Slot) : (send x (m s) (awaitPhase x p s)).phaseRec c =
        if x = c then { phase := p, resends := 0, timeout := 250, timerOn := true } else s.phaseRec c :=
      sendPhase_phaseRec x c p (m s) s
    have hcard (c : Slot) : (send x (m s) (awaitPhase x p s)).card c =
        if x = c then { s.card x with outbox := (s.card x).outbox ++ [m s] } else s.card c :=
      modCard_card x c _ _
    obtain ⟨hrest, htold⟩ := ih hl (send x (m s) (awaitPhase x p s))
    have hsame : m (send x (m s) (awaitPhase x p s)) = m s := by rw [hframe, hm]
    rw [hsame] at htold
    simp only [forEach_cons]
    generalize forEach l (fun c s => send c (m s) (awaitPhase c p s)) (send x (m s) (awaitPhase x p s)) = t at hrest htold ⊢
    refine ⟨by rw [hrest, hframe]; rfl, fun c hc => ?_, fun c hc => ?_, fun c hc => ?_, fun c hc => ?_⟩
    · by_cases hcl : c ∈ l
      · exact htold.phase c hcl
      · have hcx : x = c := ((List.mem_cons.1 hc).resolve_right hcl).symm
        rw [htold.phase_other c hcl, hphase, if_pos hcx]
    · by_cases hcl : c ∈ l
      · rw [htold.card c hcl, hcard, if_neg fun he : x = c => hx (he ▸ hcl)]
      · have hcx : x = c := ((List.mem_cons.1 hc).resolve_right hcl).symm
        rw [htold.card_other c hcl, hcard, if_pos hcx, hcx]
    · obtain ⟨hne, hcl⟩ := not_or.1 fun hor => hc (List.mem_cons.2 hor)
      rw [htold.phase_other c hcl, hphase, if_neg (Ne.symm hne)]
    · obtain ⟨hne, hcl⟩ := not_or.1 fun hor => hc (List.mem_cons.2 hor)
      rw [htold.card_other c hcl, hcard, if_neg (Ne.symm hne)]

theorem cardsIn_nodup (s : State) (test : Phase → Bool) : (cardsIn s test).Nodup := (List.nodup_finRange 14).filter _

theorem joinedCards_nodup (s : State) : (joinedCards s).Nodup := (List.nodup_finRange 14).filter _

theorem mem_joinedCards {s : State} {c : Slot} : c ∈ joinedCards s ↔ (s.card c).state = .joined := by
  simp [joinedCards, allSlots]

theorem cardsIn_eq_nil_iff {s : State} {test : Phase → Bool} : cardsIn s test = [] ↔ ∀ c, test (s.phaseRec c).phase = false := by
  simp [cardsIn, allSlots]

/-! ## The start (R103, R105) -/

/-- The Zone Store at the start of a commit (R85, R103). -/
def zonesBegun (z : ZoneStore) : ZoneStore := { z with pending := z.working, modified := false, workingState := .editable }

/-- From s to t the commit of a number has started. -/
structure Begun (number : Half) (s t : State) : Prop where
  frame : t = { s with zones := zonesBegun s.zones, commit := t.commit, cards := t.cards, attn := t.attn }
  commit : t.commit = { s.commit with
    active := some number, queued := none, tally := 0, direction := .forward, engine := .fencing, cards := t.commit.cards }
  told : Told (fun c => (s.card c).state = .joined) .awaitHold (.hold (s.zones.generation + 1)) s t
  noted : ∀ p, (t.attention p).set.commit = true

theorem begun_beginCommit (number : Half) (s : State) : Begun number s (beginCommit number s) := by
  unfold beginCommit
  dsimp only
  have hlist : ∀ c, (s.card c).state = .joined ↔ c ∈ joinedCards ((copyToPending s).modCommit fun e =>
      { e with active := some number, queued := none, tally := 0, direction := .forward, engine := .fencing }) := fun c =>
    mem_joinedCards.symm
  have hnodup := joinedCards_nodup ((copyToPending s).modCommit fun e =>
      { e with active := some number, queued := none, tally := 0, direction := .forward, engine := .fencing })
  generalize joinedCards _ = l at hlist hnodup
  obtain ⟨hframe, htold⟩ := told_forEach (p := .awaitHold) (m := fun s => .hold (holdGeneration s)) (fun _ _ => rfl) hnodup
    ((copyToPending s).modCommit fun e =>
      { e with active := some number, queued := none, tally := 0, direction := .forward, engine := .fencing })
  change forEach l sendHold _ = _ at hframe
  change Told (· ∈ l) .awaitHold (.hold (s.zones.generation + 1)) _ (forEach l sendHold _) at htold
  generalize forEach l sendHold _ = t at hframe htold
  refine ⟨?_, ?_, (htold.of_records (s' := s) (t' := addReason .commit t) rfl rfl rfl rfl).congr hlist, fun p => by
    rw [addReason_attention]; rfl⟩
  · show addReason .commit t = _
    rw [hframe]
    rfl
  · show t.commit = _
    rw [hframe]
    rfl

/-! ## The switch (R109) -/

/-- The Zone Store after the switch (R85, R109). -/
def zonesSwitched (z : ZoneStore) : ZoneStore := { z with live := z.pending, generation := z.generation + 1, pending := Image.empty }

/-- From s to t the switch has been made. -/
structure Switched (s t : State) : Prop where
  frame : t = { s with zones := zonesSwitched s.zones, commit := t.commit, cards := t.cards, attn := t.attn }
  commit : t.commit = { s.commit with
    releaseGen := s.zones.generation + 1, direction := .forward, engine := .releasing
    current := t.commit.current, previous := t.commit.previous, cards := t.commit.cards }
  records : t.commit.records =
    changeRecord s.commit.active (fun r => { r with generation := s.zones.generation + 1 }) s.commit.records
  told : Told (fun c => (s.phaseRec c).phase = .held ∨ (s.phaseRec c).phase = .late) .awaitResume
    (.resume (s.zones.generation + 1)) s t
  noted : ∀ p, (t.attention p).set.commit = true

theorem switched_switchLive (s : State) : Switched s (switchLive s) := by
  have hnote := noteRecord_eq s.commit.active (fun r => { r with generation := s.zones.generation + 1 }) (copyToLive s)
  unfold switchLive
  dsimp only
  change Switched s (addReason .commit (forEach (cardsIn ((noteRecord s.commit.active
    (fun r => { r with generation := s.zones.generation + 1 }) (copyToLive s)).modCommit fun e =>
      { e with releaseGen := s.zones.generation + 1, direction := .forward, engine := .releasing }) _) sendResume
    ((noteRecord s.commit.active (fun r => { r with generation := s.zones.generation + 1 }) (copyToLive s)).modCommit fun e =>
      { e with releaseGen := s.zones.generation + 1, direction := .forward, engine := .releasing })))
  generalize noteRecord s.commit.active (fun r => { r with generation := s.zones.generation + 1 }) (copyToLive s) = u at hnote ⊢
  have hcards : u.commit.cards = s.commit.cards := by rw [hnote]; rfl
  have hlist : ∀ c, ((s.phaseRec c).phase = .held ∨ (s.phaseRec c).phase = .late) ↔
      c ∈ cardsIn (u.modCommit fun e =>
        { e with releaseGen := s.zones.generation + 1, direction := .forward, engine := .releasing })
        fun p => p == .held || p == .late := fun c => by
    rw [mem_cardsIn, Bool.or_eq_true, beq_iff_eq, beq_iff_eq]
    simp only [State.phaseRec, modCommit_commit, hcards]
  have hnodup := cardsIn_nodup (u.modCommit fun e =>
    { e with releaseGen := s.zones.generation + 1, direction := .forward, engine := .releasing }) fun p => p == .held || p == .late
  generalize cardsIn _ _ = l at hlist hnodup
  obtain ⟨hframe, htold⟩ := told_forEach (p := .awaitResume) (m := fun s => .resume s.commit.releaseGen) (fun _ _ => rfl) hnodup
    (u.modCommit fun e => { e with releaseGen := s.zones.generation + 1, direction := .forward, engine := .releasing })
  change forEach l sendResume _ = _ at hframe
  change Told (· ∈ l) .awaitResume (.resume (s.zones.generation + 1)) _ (forEach l sendResume _) at htold
  generalize forEach l sendResume _ = t at hframe htold
  refine ⟨?_, ?_, ?_, (htold.of_records (s' := s) (t' := addReason .commit t) (by rw [modCommit_cards, hnote]; rfl) hcards.symm rfl
    rfl).congr hlist, fun p => by rw [addReason_attention]; rfl⟩
  · show addReason .commit t = _
    rw [hframe, hnote]
    rfl
  · show t.commit = _
    rw [hframe, hnote]
    rfl
  · show t.commit.records = _
    rw [hframe, hnote]
    rfl

/-! ## The end (R111) -/

/-- From s to t the commit has ended, as far as the engine's return to Idle. -/
structure Closed (s t : State) : Prop where
  frame : t = { s with commit := t.commit, alarms := t.alarms, attn := t.attn }
  commit : t.commit = { s.commit with
    active := none, tally := 0, engine := .idle
    current := t.commit.current, previous := t.commit.previous, cards := t.commit.cards }
  records : t.commit.records = changeRecord s.commit.active (fun r => { r with outcome := endOutcome s.commit }) s.commit.records
  outside : ∀ c, (t.phaseRec c).phase = .outside
  quiet : endOutcome s.commit ≠ .passedDegraded → t.alarms = s.alarms
  raised : endOutcome s.commit = .passedDegraded → ∃ u : State, u.alarms = s.alarms ∧
    t.alarms = (raiseAlarm (plainRaise .commitDegraded 0 .major s.commit.tally) u).alarms
  noted : ∀ p, (t.attention p).set.commit = true

theorem closed_closeCommit (s : State) : Closed s (closeCommit s) := by
  have houtside (c : Slot) : ((forEach allSlots (fun slot => setPhase slot .outside) s).phaseRec c).phase = .outside :=
    forEach_setOutside_phase (.inl (List.mem_finRange c))
  have hout : forEach allSlots (fun slot => setPhase slot .outside) s =
      { s with commit := { s.commit with cards := (forEach allSlots (fun slot => setPhase slot .outside) s).commit.cards } } :=
    forEach_keeps (P := fun t => t = { s with commit := { s.commit with cards := t.commit.cards } })
      (fun c t ht => by rw [ht]; rfl) allSlots rfl
  unfold closeCommit
  dsimp only
  generalize forEach allSlots (fun slot => setPhase slot .outside) s = o at houtside hout
  have hnote := noteRecord_eq s.commit.active (fun r => { r with outcome := endOutcome s.commit }) o
  rw [show o.commit.active = s.commit.active by rw [hout]]
  generalize noteRecord s.commit.active (fun r => { r with outcome := endOutcome s.commit }) o = n at hnote ⊢
  have hnoted : n = { s with commit := { s.commit with
      cards := o.commit.cards
      current := (changeRecord s.commit.active (fun r => { r with outcome := endOutcome s.commit }) s.commit.records).1
      previous := (changeRecord s.commit.active (fun r => { r with outcome := endOutcome s.commit }) s.commit.records).2 }, attn := n.attn } := by
    rw [hnote, hout]
    rfl
  have htally : n.commit.tally = s.commit.tally := by rw [hnoted]
  have hclosed (u : State) (hu : u = { n with alarms := u.alarms, attn := u.attn })
      (hquiet : endOutcome s.commit ≠ .passedDegraded → u.alarms = s.alarms)
      (hraised : endOutcome s.commit = .passedDegraded → ∃ v : State, v.alarms = s.alarms ∧
        u.alarms = (raiseAlarm (plainRaise .commitDegraded 0 .major s.commit.tally) v).alarms) :
      Closed s (addReason .commit (u.modCommit fun e => { e with active := none, tally := 0, engine := .idle })) := by
    have hcommit : u.commit = n.commit := by rw [hu]
    refine ⟨?_, ?_, ?_, fun c => ?_, hquiet, hraised, fun p => by rw [addReason_attention]; rfl⟩
    · rw [hu, hnoted]
      rfl
    · rw [addReason_commit, modCommit_commit, hcommit, hnoted]
    · rw [addReason_commit, modCommit_commit, hcommit, hnoted]
      rfl
    · rw [addReason_phaseRec]
      refine Eq.trans ?_ (houtside c)
      show (u.phaseRec c).phase = _
      rw [phaseRec_of_commit hcommit, hnoted]
      rfl
  split
  next hdegraded =>
    refine hclosed _ (raiseAlarm_eq _ _) (absurd hdegraded) fun _ => ⟨n, by rw [hnoted], ?_⟩
    rw [htally]
  next hother => exact hclosed n rfl (fun _ => by rw [hnoted]) fun he => absurd he hother

/-! ## What follows from a change of the engine's cards (R108 to R111) -/

section Follows
variable {s : State}

theorem switchIfDue_of_waiting (h : ∃ c, (s.phaseRec c).phase = .awaitHold) : switchIfDue s = s := by
  obtain ⟨c, hc⟩ := h
  refine if_neg fun hdue => ?_
  have := cardsIn_eq_nil_iff.1 hdue.2 c
  rw [hc] at this
  cases this

theorem switchIfDue_of_engine (h : s.commit.engine ≠ .fencing) : switchIfDue s = s := if_neg fun hdue => h hdue.1

theorem switchIfDue_of_due (he : s.commit.engine = .fencing) (h : ∀ c, (s.phaseRec c).phase ≠ .awaitHold) :
    switchIfDue s = switchLive s :=
  if_pos ⟨he, cardsIn_eq_nil_iff.2 fun c => beq_eq_false_iff_ne.2 (h c)⟩

theorem endIfDue_of_waiting (h : ∃ c, (s.phaseRec c).phase = .awaitResume) : endIfDue s = s := by
  obtain ⟨c, hc⟩ := h
  refine if_neg fun hdue => ?_
  have := cardsIn_eq_nil_iff.1 hdue.2 c
  rw [hc] at this
  cases this

theorem endIfDue_of_engine (h : s.commit.engine ≠ .releasing) : endIfDue s = s := if_neg fun hdue => h hdue.1

theorem endIfDue_of_due (he : s.commit.engine = .releasing) (h : ∀ c, (s.phaseRec c).phase ≠ .awaitResume) :
    endIfDue s = closeCommit s :=
  if_pos ⟨he, cardsIn_eq_nil_iff.2 fun c => beq_eq_false_iff_ne.2 (h c)⟩

theorem startQueued_of_busy (h : s.commit.engine ≠ .idle) : startQueued s = s := by
  unfold startQueued
  split
  next he _ => exact absurd he h
  next => rfl
  next => rfl
  next => rfl

theorem startQueued_of_none (h : s.commit.queued = none) : startQueued s = s := by
  unfold startQueued
  split
  next hq => rw [h] at hq; cases hq
  next => rfl
  next => rfl
  next => rfl

theorem startQueued_of_some {k : Half} (he : s.commit.engine = .idle) (hq : s.commit.queued = some k) :
    startQueued s = endIfDue (switchIfDue (beginCommit k s)) := by
  simp only [startQueued, he, hq]

/-- A commit that starts with a Joined card waits for it (R105). -/
theorem settle_begun_of_joined (k : Half) (h : ∃ c, (s.card c).state = .joined) :
    endIfDue (switchIfDue (beginCommit k s)) = beginCommit k s := by
  obtain ⟨c, hc⟩ := h
  have hbegun := begun_beginCommit k s
  have hengine : (beginCommit k s).commit.engine = .fencing := by rw [hbegun.commit]
  rw [switchIfDue_of_waiting ⟨c, by rw [hbegun.told.phase c hc]⟩, endIfDue_of_engine (by rw [hengine]; nofun)]

/-- A commit that starts with no Joined card switches and ends at once (R105, R109, R111). -/
theorem settle_begun_of_none (k : Half) (h : ∀ c, (s.card c).state ≠ .joined) (hout : ∀ c, (s.phaseRec c).phase = .outside) :
    endIfDue (switchIfDue (beginCommit k s)) = closeCommit (switchLive (beginCommit k s)) := by
  have hbegun := begun_beginCommit k s
  have hphase (c : Slot) : ((beginCommit k s).phaseRec c).phase = .outside := by rw [hbegun.told.phase_other c (h c)]; exact hout c
  have hswitched := switched_switchLive (beginCommit k s)
  rw [switchIfDue_of_due (by rw [hbegun.commit]) (fun c => by rw [hphase]; nofun), endIfDue_of_due (by rw [hswitched.commit])]
  intro c
  rw [hswitched.told.phase_other c (by rw [hphase]; exact not_or.2 ⟨nofun, nofun⟩), hphase]
  nofun

theorem commitFollows_of_fencing (he : s.commit.engine = .fencing) (h : ∃ c, (s.phaseRec c).phase = .awaitHold) :
    commitFollows s = s := by
  rw [commitFollows, switchIfDue_of_waiting h, endIfDue_of_engine (by rw [he]; nofun), startQueued_of_busy (by rw [he]; nofun)]

theorem commitFollows_of_releasing (he : s.commit.engine = .releasing) (h : ∃ c, (s.phaseRec c).phase = .awaitResume) :
    commitFollows s = s := by
  rw [commitFollows, switchIfDue_of_engine (by rw [he]; nofun), endIfDue_of_waiting h, startQueued_of_busy (by rw [he]; nofun)]

/-- The switch that leaves a card awaited (R109). -/
theorem commitFollows_of_switch (he : s.commit.engine = .fencing) (hnone : ∀ c, (s.phaseRec c).phase ≠ .awaitHold)
    (h : ∃ c, (s.phaseRec c).phase = .held ∨ (s.phaseRec c).phase = .late) : commitFollows s = switchLive s := by
  have hswitched := switched_switchLive s
  have hengine : (switchLive s).commit.engine = .releasing := by rw [hswitched.commit]
  obtain ⟨c, hc⟩ := h
  rw [commitFollows, switchIfDue_of_due he hnone, endIfDue_of_waiting ⟨c, by rw [hswitched.told.phase c hc]⟩,
    startQueued_of_busy (by rw [hengine]; nofun)]

/-- The switch that leaves no card awaited is the end too (R109, R110). -/
theorem commitFollows_of_switch_end (he : s.commit.engine = .fencing) (hnone : ∀ c, (s.phaseRec c).phase ≠ .awaitHold)
    (hheld : ∀ c, (s.phaseRec c).phase ≠ .held) (hlate : ∀ c, (s.phaseRec c).phase ≠ .late)
    (hresume : ∀ c, (s.phaseRec c).phase ≠ .awaitResume) : commitFollows s = startQueued (closeCommit (switchLive s)) := by
  have hswitched := switched_switchLive s
  rw [commitFollows, switchIfDue_of_due he hnone, endIfDue_of_due (by rw [hswitched.commit])]
  intro c
  rw [hswitched.told.phase_other c (not_or.2 ⟨hheld c, hlate c⟩)]
  exact hresume c

theorem commitFollows_of_end (he : s.commit.engine = .releasing) (hnone : ∀ c, (s.phaseRec c).phase ≠ .awaitResume) :
    commitFollows s = startQueued (closeCommit s) := by
  rw [commitFollows, switchIfDue_of_engine (by rw [he]; nofun), endIfDue_of_due he hnone]

end Follows

end Sys2Proof.Machine

/-! PROOFS. The commit that passes at once; a Confirm of a Commit (R101 to R105), the acknowledgements of the cards (R108 to R111), and
the commands Commit Abort and Commit Withdraw (R112 to R114). -/

namespace Sys2Proof.Machine

/-! ## A commit with no card to hold (R105, R109, R111) -/

/-- From s to t the commit of a number has started, switched and ended, with no card told. -/
structure PassedAtOnce (number : Half) (s t : State) : Prop where
  frame : t = { s with zones := zonesSwitched (zonesBegun s.zones), commit := t.commit, attn := t.attn }
  commit : t.commit = { s.commit with
    engine := .idle, direction := .forward, releaseGen := s.zones.generation + 1, active := none, queued := none, tally := 0
    current := t.commit.current, previous := t.commit.previous, cards := t.commit.cards }
  records : t.commit.records = changeRecord (some number)
    (fun r => { r with outcome := .passed, generation := s.zones.generation + 1 }) s.commit.records
  outside : ∀ c, (t.phaseRec c).phase = .outside
  noted : ∀ p, (t.attention p).set.commit = true

theorem passedAtOnce {s : State} (k : Half) (h : ∀ c, (s.card c).state ≠ .joined) (hout : ∀ c, (s.phaseRec c).phase = .outside) :
    PassedAtOnce k s (endIfDue (switchIfDue (beginCommit k s))) := by
  rw [settle_begun_of_none k h hout]
  have hbegun := begun_beginCommit k s
  have hswitched := switched_switchLive (beginCommit k s)
  have hclosed := closed_closeCommit (switchLive (beginCommit k s))
  have hphase (c : Slot) : ((beginCommit k s).phaseRec c).phase = .outside := by rw [hbegun.told.phase_other c (h c)]; exact hout c
  have hcards : (switchLive (beginCommit k s)).cards = s.cards := cards_ext fun c => by
    rw [hswitched.told.card_other c (by rw [hphase]; exact not_or.2 ⟨nofun, nofun⟩), hbegun.told.card_other c (h c)]
  generalize switchLive (beginCommit k s) = w at hswitched hclosed hcards ⊢
  generalize closeCommit w = t at hclosed ⊢
  generalize beginCommit k s = b at hbegun hswitched
  have hzones : b.zones = zonesBegun s.zones := by rw [hbegun.frame]
  have hgeneration : b.zones.generation = s.zones.generation := by rw [hzones]; rfl
  have houtcome : endOutcome w.commit = .passed := by rw [hswitched.commit, hbegun.commit]; rfl
  have hactive : b.commit.active = some k := by rw [hbegun.commit]
  have hrecords : b.commit.records = s.commit.records := by rw [hbegun.commit]; rfl
  refine ⟨?_, ?_, ?_, hclosed.outside, hclosed.noted⟩
  · have halarms : t.alarms = w.alarms := hclosed.quiet (by rw [houtcome]; nofun)
    rw [hclosed.frame, halarms, hswitched.frame, hcards, hzones, hbegun.frame]
  · rw [hclosed.commit, hswitched.commit, hbegun.commit, hgeneration]
  · rw [hclosed.records, houtcome, show w.commit.active = some k by rw [hswitched.commit]; exact hactive, hswitched.records, hactive,
      changeRecord_changeRecord, hrecords, hgeneration]
    exact fun _ => rfl

/-! ## Validation (R101) -/

theorem find?_of_first {α : Type} {test : α → Bool} {before rest : List α} {x : α} (hbefore : ∀ y ∈ before, test y = false)
    (hx : test x = true) : (before ++ x :: rest).find? test = some x :=
  List.find?_eq_some_iff_append.2 ⟨hx, before, rest, rfl, fun y hy => by rw [hbefore y hy]; rfl⟩

/-- A Peer zone without a Principal. -/
def wantsPrincipal (z : Zone) : Prop := z.kind = .peer ∧ ∀ m ∈ z.members, m.role ≠ .principal

theorem wantsPrincipal_iff (z : Zone) :
    (z.kind == .peer && !z.members.any fun m => m.role == .principal) = true ↔ wantsPrincipal z := by
  simp [wantsPrincipal]

theorem emptyZone?_eq_none {im : Image} (h : ∀ z ∈ im.zones, z.members ≠ []) : emptyZone? im = none :=
  List.find?_eq_none.2 fun z hz => by simpa using h z hz

theorem noPrincipal?_eq_none {im : Image} (h : ∀ z ∈ im.zones, ¬ wantsPrincipal z) : noPrincipal? im = none :=
  List.find?_eq_none.2 fun z hz => by rw [wantsPrincipal_iff]; exact h z hz

theorem emptyZone?_of_first {im : Image} {before rest : List Zone} {z : Zone} (hzones : im.zones = before ++ z :: rest)
    (hbefore : ∀ w ∈ before, w.members ≠ []) (hz : z.members = []) : emptyZone? im = some z := by
  rw [emptyZone?, hzones]
  exact find?_of_first (fun w hw => by simpa using hbefore w hw) (by simpa using hz)

theorem noPrincipal?_of_first {im : Image} {before rest : List Zone} {z : Zone} (hzones : im.zones = before ++ z :: rest)
    (hbefore : ∀ w ∈ before, ¬ wantsPrincipal w) (hz : wantsPrincipal z) : noPrincipal? im = some z := by
  rw [noPrincipal?, hzones]
  exact find?_of_first (fun w hw => Bool.eq_false_iff.2 fun he => hbefore w hw ((wantsPrincipal_iff w).1 he)) ((wantsPrincipal_iff z).2 hz)

/-! ## A Confirm that matches a Commit (R101) -/

theorem exec_confirm_commit {f : Frame} {s : State} (ht : PortTakes s f.port) (hm : s.cmd.mastership = some f.port)
    (ha : (s.cmdPort f.port).armed = .commit) : exec (.confirmCommit f 0x39 0) s =
      .next (respond f (confirmedCommit (disarm f.port s)).2 (settleDeficit (confirmedCommit (disarm f.port s)).1)) := by
  have hconfirm : confirm f.port 0x39 0 s = confirmedCommit (disarm f.port s) := by
    rw [confirm, ha]
    rfl
  refine (congrArg Host.Outcome.next (keepingCommand_master ht hm .master (settled (confirm f.port 0x39 0)))).trans ?_
  rw [settled, hconfirm]

theorem exec_confirm_commit_of {f : Frame} {s t : State} {a : Answer} (ht : PortTakes s f.port)
    (hm : s.cmd.mastership = some f.port) (hd : DeficitFollows s) (ha : (s.cmdPort f.port).armed = .commit)
    (h : confirmedCommit (disarm f.port s) = (t, a)) : exec (.confirmCommit f 0x39 0) s = .next (respond f a t) := by
  have hframe : EngineFrame (disarm f.port s) t := by
    have := EngineFrame.confirmedCommit (disarm f.port s)
    rwa [h] at this
  have hdt : DeficitFollows t := by
    refine hd.of_power_ports ?_ ?_ ?_ <;> rw [hframe, disarm_eq]
  rw [exec_confirm_commit ht hm ha, h, settleDeficit_of_follows hdt]

/-- Working of an armed Commit, disarmed. -/
theorem disarmedZones_of_commit {s : State} {p : PortId} (ha : (s.cmdPort p).armed = .commit)
    (hw : s.zones.workingState = .armed) : (disarm p s).zones = { s.zones with workingState := .editable } := by
  rw [disarm_zones, disarmedZones, if_pos ha, editableAgain, if_pos hw]

theorem confirmedCommit_valid {s : State} (h : ∀ z ∈ s.zones.working.zones, z.members ≠ [] ∧ ¬ wantsPrincipal z) :
    confirmedCommit s = acceptCommit s := by
  rw [confirmedCommit, emptyZone?_eq_none fun z hz => (h z hz).1, noPrincipal?_eq_none fun z hz => (h z hz).2]

/-- The state once a Confirm's commit has taken its number (R102). -/
def numbered (s : State) : State := addReason .commit (s.modCommit (CommitEngine.takeNumber s.zones.generation))

theorem acceptCommit_of_idle {s : State} (h : s.commit.engine = .idle) : acceptCommit s =
    (endIfDue (switchIfDue (beginCommit (s.commit.nextNumber + 1) (numbered s))), answer .started) := by
  have hidle : (numbered s).commit.engine = .idle := h
  unfold acceptCommit
  dsimp only
  split
  next => rfl
  next he => exact nomatch hidle.symm.trans he
  next he => exact nomatch hidle.symm.trans he

theorem acceptCommit_of_busy {s : State} (h : s.commit.engine ≠ .idle) : acceptCommit s =
    (((numbered s).modZones fun z => { z with workingState := .frozen }).modCommit fun e => { e with queued := some e.nextNumber },
      answer .queued) := by
  unfold acceptCommit
  dsimp only
  split
  next he => exact absurd he h
  next => rfl
  next => rfl

theorem numbered_noted (s : State) (p : PortId) : ((numbered s).attention p).set.commit = true := by
  rw [numbered, addReason_attention]
  rfl

/-! ## Acknowledgements (R108 to R111) -/

/-- A card answers: it takes a phase in which no timer runs. -/
theorem exec_holdAck {slot : Slot} {generation : Word} {s : State} (h : (s.card slot).state = .joined) :
    exec (.holdAck slot generation) s = .next (holdAck slot generation s) := by
  change Host.Outcome.next (takeMessage slot CardState.isJoined (holdAck slot generation) s) = _
  rw [takeMessage_of_joined h]

theorem exec_resumeAck {slot : Slot} {generation : Word} {s : State} (h : (s.card slot).state = .joined) :
    exec (.resumeAck slot generation) s = .next (resumeAck slot generation s) := by
  change Host.Outcome.next (takeMessage slot CardState.isJoined (resumeAck slot generation) s) = _
  rw [takeMessage_of_joined h]

/-- One card of the engine takes a phase; the engine's cards and nothing else are written. -/
theorem setPhase_eq (slot : Slot) (p : Phase) (s : State) : setPhase slot p s = { s with
    commit := { s.commit with cards := s.commit.cards.set slot { s.phaseRec slot with phase := p, timerOn := false } } } := rfl

theorem setPhase_phase_same (slot : Slot) (p : Phase) (s : State) : ((setPhase slot p s).phaseRec slot).phase = p := by
  rw [setPhase_phaseRec, if_pos rfl]

theorem setPhase_phaseRec_other {slot c : Slot} (h : c ≠ slot) (p : Phase) (s : State) :
    (setPhase slot p s).phaseRec c = s.phaseRec c := by
  rw [setPhase_phaseRec, if_neg (Ne.symm h)]

/-- What a claim about every other card and about the phase that a card takes says of all cards. -/
theorem forall_setPhase {slot : Slot} {p : Phase} {s : State} {test : Phase → Prop} (hp : test p)
    (h : ∀ c, c ≠ slot → test (s.phaseRec c).phase) (c : Slot) : test ((setPhase slot p s).phaseRec c).phase := by
  by_cases hc : c = slot
  · subst hc
    rwa [setPhase_phase_same]
  · rw [setPhase_phaseRec_other hc]
    exact h c hc

end Sys2Proof.Machine

/-! PROOFS. What the Commit Engine's commands and messages answer and leave. -/

namespace Sys2Proof.Machine

theorem disarm_commitRecords (p : PortId) (s : State) : (disarm p s).commit = s.commit ∧ (disarm p s).cards = s.cards ∧
    (disarm p s).attn = s.attn ∧ ∀ c, (disarm p s).card c = s.card c ∧ (disarm p s).phaseRec c = s.phaseRec c := by
  rw [disarm_eq]
  exact ⟨rfl, rfl, rfl, fun _ => ⟨rfl, rfl⟩⟩

/-- A Confirm's commit takes its number from the engine and the generation as they were before the disarming. -/
theorem numbered_disarm {s : State} {p : PortId} (ha : (s.cmdPort p).armed = .commit) (hw : s.zones.workingState = .armed) :
    (numbered (disarm p s)).commit = s.commit.takeNumber s.zones.generation ∧
    (numbered (disarm p s)).zones = { s.zones with workingState := .editable } ∧
    ∀ c, (numbered (disarm p s)).card c = s.card c ∧ (numbered (disarm p s)).phaseRec c = s.phaseRec c := by
  obtain ⟨hcommit, -, -, hsame⟩ := disarm_commitRecords p s
  have hzones := disarmedZones_of_commit ha hw
  refine ⟨?_, hzones, hsame⟩
  show CommitEngine.takeNumber (disarm p s).zones.generation (disarm p s).commit = _
  rw [hcommit, hzones]

/-- Every card of a list goes Outside; the engine's cards and nothing else are written. -/
theorem forEach_outside_spec {l : List Slot} (s : State) :
    let t := forEach l (fun c => setPhase c .outside) s
    t = { s with commit := { s.commit with cards := t.commit.cards } } ∧ ∀ c, c ∉ l → t.phaseRec c = s.phaseRec c := by
  dsimp only
  refine ⟨forEach_keeps (P := fun t => t = { s with commit := { s.commit with cards := t.commit.cards } })
    (fun c t ht => by rw [ht]; rfl) l rfl, ?_⟩
  induction l generalizing s with
  | nil => exact fun _ _ => rfl
  | cons x l ih =>
    intro c hc
    obtain ⟨hx, hl⟩ := not_or.1 fun hor => hc (List.mem_cons.2 hor)
    rw [forEach_cons, ih _ c hl, setPhase_phaseRec_other hx]

/-- From s to t the active commit, with a card in Held or AwaitHold, has been aborted (R112). -/
structure Aborted (s t : State) : Prop where
  frame : t = { s with
    zones := { s.zones with pending := Image.empty }, commit := t.commit, cards := t.cards, attn := t.attn }
  commit : t.commit = { s.commit with
    direction := .abort, releaseGen := s.zones.generation, engine := .releasing, cards := t.commit.cards }
  phase : ∀ c, ((s.phaseRec c).phase = .held ∨ (s.phaseRec c).phase = .awaitHold) →
    t.phaseRec c = { phase := .awaitResume, resends := 0, timeout := 250, timerOn := true }
  card : ∀ c, ((s.phaseRec c).phase = .held ∨ (s.phaseRec c).phase = .awaitHold) →
    t.card c = { s.card c with outbox := (s.card c).outbox ++ [.resume s.zones.generation] }
  late : ∀ c, (s.phaseRec c).phase = .late → (t.phaseRec c).phase = .outside
  card_other : ∀ c, ¬ ((s.phaseRec c).phase = .held ∨ (s.phaseRec c).phase = .awaitHold) → t.card c = s.card c
  noted : ∀ p, (t.attention p).set.commit = true

/-- An abort tells the cards that hold or are to hold, drops the late ones, and waits for those told. -/
theorem commitAbort_of_held {s : State} (he : s.commit.engine = .fencing)
    (hheld : ∃ c, (s.phaseRec c).phase = .held ∨ (s.phaseRec c).phase = .awaitHold) :
    ∃ t, commitAbort s = (t, answer .started) ∧ Aborted s t := by
  unfold commitAbort
  rw [he]
  dsimp only
  have hlist (c : Slot) : ((s.phaseRec c).phase = .held ∨ (s.phaseRec c).phase = .awaitHold) ↔
      c ∈ cardsIn s (fun p => p == .held || p == .awaitHold) := by
    rw [mem_cardsIn, Bool.or_eq_true, beq_iff_eq, beq_iff_eq]
  obtain ⟨hframe, htold⟩ := told_forEach (p := .awaitResume) (m := fun s => .resume s.commit.releaseGen) (fun _ _ => rfl)
    (cardsIn_nodup s fun p => p == .held || p == .awaitHold)
    ((emptyPending s).modCommit fun e => { e with direction := .abort, releaseGen := s.zones.generation, engine := .releasing })
  change forEach _ sendResume _ = _ at hframe
  change Told _ .awaitResume (.resume s.zones.generation) _ (forEach _ sendResume _) at htold
  replace htold := (htold.of_records (s' := s) rfl rfl rfl rfl).congr hlist
  generalize forEach (cardsIn s fun p => p == .held || p == .awaitHold) sendResume _ = u at hframe htold ⊢
  obtain ⟨hlate, hkept⟩ := forEach_outside_spec (l := cardsIn s (· == .late)) u
  have hgone (c : Slot) (hc : (s.phaseRec c).phase = .late) :
      ((forEach (cardsIn s (· == .late)) (fun slot => setPhase slot .outside) u).phaseRec c).phase = .outside :=
    forEach_setOutside_phase (.inl (mem_cardsIn.2 (by rw [hc]; rfl)))
  generalize forEach (cardsIn s (· == .late)) (fun slot => setPhase slot .outside) u = t at hlate hkept hgone ⊢
  have hcards : t.cards = u.cards := by rw [hlate]
  have hphase (c : Slot) (hc : (s.phaseRec c).phase = .held ∨ (s.phaseRec c).phase = .awaitHold) :
      t.phaseRec c = { phase := .awaitResume, resends := 0, timeout := 250, timerOn := true } := by
    rw [hkept c ?_, htold.phase c hc]
    intro hl
    rw [mem_cardsIn, beq_iff_eq] at hl
    rw [hl] at hc
    exact hc.elim nofun nofun
  have haborted : Aborted s (addReason .commit t) := by
    refine ⟨?_, ?_, hphase, fun c hc => ?_, hgone, fun c hc => ?_, fun p => by rw [addReason_attention]; rfl⟩
    · rw [hlate, hframe]
      rfl
    · rw [addReason_commit, hlate, hframe]
      rfl
    · exact (card_of_cards hcards c).trans (htold.card c hc)
    · exact (card_of_cards hcards c).trans (htold.card_other c hc)
  obtain ⟨c, hc⟩ := hheld
  refine ⟨addReason .commit t, ?_, haborted⟩
  rw [commitFollows_of_releasing (by rw [haborted.commit]) ⟨c, by rw [haborted.phase c hc]⟩]

end Sys2Proof.Machine

section
open Sys2Proof Sys2Proof.Machine

/-- Settles O49: the abort, by the engine's state, and the withdrawal, by Working's. -/
theorem abortAndWithdrawRule : Obligations.AbortAndWithdrawRule := by
  unfold Obligations.AbortAndWithdrawRule
  intro f s hc
  have habort : exec (.commitAbort f) s = .next (respond f (commitAbort s).2 (commitAbort s).1) :=
    congrArg Host.Outcome.next (disarmingCommand_master hc .master commitAbort)
  have hwithdraw : exec (.commitWithdraw f) s = .next (respond f (commitWithdraw s).2 (commitWithdraw s).1) :=
    congrArg Host.Outcome.next (disarmingCommand_master hc .master commitWithdraw)
  refine ⟨fun he => ?_, fun he => ?_, fun he hheld hresume => ?_, fun hw => ?_, fun hw => ?_⟩
  · rw [habort, commitAbort, he]
  · rw [habort, commitAbort, he]
  · rw [habort]
    obtain ⟨t, hanswer, haborted⟩ := commitAbort_of_held he hheld
    have hlate (c : Slot) (hc : (s.phaseRec c).phase = .late) : ¬ ((s.phaseRec c).phase = .held ∨ (s.phaseRec c).phase = .awaitHold) := by
      rw [hc]
      exact not_or.2 ⟨nofun, nofun⟩
    refine ⟨t, by rw [hanswer], ?_, ?_, ?_, ?_, ?_, ?_, ?_, ?_,
      fun c hc => ⟨haborted.phase c hc, haborted.card c hc⟩, fun c hc => ⟨haborted.late c hc, haborted.card_other c (hlate c hc)⟩,
      haborted.noted, ?_⟩
    · rw [haborted.frame]
    · rw [haborted.commit]
    · rw [haborted.commit]
    · rw [haborted.commit]
    · rw [haborted.commit]
    · rw [haborted.commit]
    · rw [haborted.commit]
    · rw [haborted.commit]
    · rw [haborted.frame]
  · rw [hwithdraw, commitWithdraw, hw]
  · rw [hwithdraw]
    unfold commitWithdraw
    rw [hw]
    dsimp only
    have hnote := noteRecord_eq s.commit.queued (fun r => { r with outcome := .withdrawn }) s
    generalize noteRecord s.commit.queued (fun r => { r with outcome := .withdrawn }) s = u at hnote ⊢
    refine ⟨_, rfl, ?_, rfl, ?_, fun r hr hq => ?_, fun p => by rw [addReason_attention]; rfl, ?_⟩
    · rw [addReason_zones, modZones_zones, hnote]; rfl
    · rw [addReason_commit, modZones_commit, hnote]; rfl
    · have hrecords : u.commit.records = (some { r with outcome := .withdrawn }, s.commit.previous) := by
        rw [hnote]
        exact changeRecord_of_current hr hq
      exact ⟨congrArg Prod.fst hrecords, congrArg Prod.snd hrecords⟩
    · show addReason .commit _ = _
      rw [hnote]
      rfl

/-- Settles O46: a Confirm of a Commit, by the first zone that fails validation and by the engine's state. -/
theorem commitConfirmed : Obligations.CommitConfirmed := by
  unfold Obligations.CommitConfirmed
  intro f s ht hm hd ha hw hq
  obtain ⟨hcommit, -, -, -⟩ := disarm_commitRecords f.port s
  have hzones := disarmedZones_of_commit ha hw
  have hworking : (disarm f.port s).zones.working = s.zones.working := by rw [hzones]
  have hnumber : (disarm f.port s).commit.nextNumber = s.commit.nextNumber := by rw [hcommit]
  obtain ⟨htaken, hnumberedZones, hsame⟩ := numbered_disarm ha hw
  have hjoined (c : Slot) : ((numbered (disarm f.port s)).card c).state = .joined ↔ (s.card c).state = .joined := by rw [(hsame c).1]
  have haccept (hvalid : ∀ z ∈ s.zones.working.zones, z.members ≠ [] ∧ ¬ wantsPrincipal z) {t : State} {a : Answer}
      (h : acceptCommit (disarm f.port s) = (t, a)) : exec (.confirmCommit f 0x39 0) s = .next (respond f a t) :=
    exec_confirm_commit_of ht hm hd ha ((confirmedCommit_valid (by rw [hworking]; exact hvalid)).trans h)
  have hstart (he : s.commit.engine = .idle) : acceptCommit (disarm f.port s) =
      (endIfDue (switchIfDue (beginCommit (s.commit.nextNumber + 1) (numbered (disarm f.port s)))), answer .started) := by
    rw [acceptCommit_of_idle (by rw [hcommit]; exact he), hnumber]
  refine ⟨fun before z rest hsplit hbefore hz => ?_, fun hfull before z rest hsplit hbefore hz => ?_,
    fun hvalid => ⟨fun he hout hany => ?_, fun he hout hnone => ?_, fun he => ?_⟩⟩
  · refine exec_confirm_commit_of ht hm hd ha ?_
    rw [confirmedCommit, emptyZone?_of_first (by rw [hworking]; exact hsplit) hbefore hz]
    rfl
  · refine exec_confirm_commit_of ht hm hd ha ?_
    rw [confirmedCommit, emptyZone?_eq_none (by rw [hworking]; exact hfull),
      noPrincipal?_of_first (by rw [hworking]; exact hsplit) hbefore hz]
    rfl
  · have hbegun := begun_beginCommit (s.commit.nextNumber + 1) (numbered (disarm f.port s))
    have hexec := haccept hvalid (hstart he)
    rw [settle_begun_of_joined _ (hany.imp fun c hc => (hjoined c).2 hc)] at hexec
    refine ⟨_, hexec, ?_⟩
    generalize beginCommit (s.commit.nextNumber + 1) (numbered (disarm f.port s)) = t at hbegun
    have hother (c : Slot) (hc : (s.card c).state ≠ .joined) : ((numbered (disarm f.port s)).card c).state ≠ .joined :=
      fun h => hc ((hjoined c).1 h)
    refine ⟨⟨?_, ?_⟩, ?_, ?_, ?_, ?_, ?_, ?_, ?_, fun c hc => ⟨hbegun.told.phase c ((hjoined c).2 hc), ?_⟩,
      fun c hc => ⟨(hbegun.told.phase_other c (hother c hc)).trans (hsame c).2, (hbegun.told.card_other c (hother c hc)).trans (hsame c).1⟩,
      hbegun.noted, ?_⟩
    · rw [hbegun.commit, htaken]; rfl
    · rw [hbegun.commit, htaken]; rfl
    · rw [hbegun.frame, hnumberedZones]; rfl
    · rw [hbegun.commit]
    · rw [hbegun.commit]
    · rw [hbegun.commit]
    · rw [hbegun.commit]
    · rw [hbegun.commit]
    · rw [hbegun.commit, htaken]; rfl
    · rw [hbegun.told.card c ((hjoined c).2 hc), hnumberedZones, (hsame c).1]
    · rw [hbegun.frame]; rfl
  · have hpassed := passedAtOnce (s := numbered (disarm f.port s)) (s.commit.nextNumber + 1)
      (fun c hc => hnone c ((hjoined c).1 hc)) fun c => by rw [(hsame c).2]; exact hout c
    refine ⟨_, haccept hvalid (hstart he), ?_⟩
    generalize endIfDue (switchIfDue (beginCommit (s.commit.nextNumber + 1) (numbered (disarm f.port s)))) = t at hpassed
    have hrecords := hpassed.records
    rw [htaken, hnumberedZones, changeRecord_of_current (number := some (s.commit.nextNumber + 1))
      (r := newRecord (s.commit.nextNumber + 1) s.zones.generation) (rs := (s.commit.takeNumber s.zones.generation).records) rfl
      rfl] at hrecords
    refine ⟨⟨?_, congrArg Prod.snd hrecords⟩, ?_, ?_, ?_, congrArg Prod.fst hrecords, ?_⟩
    · rw [hpassed.commit, htaken]; rfl
    · rw [hpassed.frame, hnumberedZones]; rfl
    · rw [hpassed.commit]
    · rw [hpassed.commit]
    · rw [hpassed.frame]; rfl
  · refine ⟨_, haccept hvalid (acceptCommit_of_busy (by rw [hcommit]; exact he)), ?_⟩
    have hwritten : ((numbered (disarm f.port s)).modZones fun z => { z with workingState := .frozen }).zones =
        { s.zones with workingState := .frozen } := by
      rw [modZones_zones, hnumberedZones]
    refine ⟨⟨?_, ?_⟩, hwritten, ?_, ?_, ?_, numbered_noted _, rfl⟩
    all_goals
      rw [modCommit_commit, modZones_commit, htaken]
      rfl

end

/-! PROOFS. The acknowledgements of the cards (R108 to R111). -/

namespace Sys2Proof.Machine

/-- What a change of the record of a commit says of the one record that holds its number. -/
theorem noted_of_records {e e' : CommitEngine} {number : Option Half} {g : ResultRec → ResultRec}
    (h : e'.records = changeRecord number g e.records) :
    (∀ r, e.current = some r → number = some r.number → e'.current = some (g r)) ∧
      ∀ r, e.previous = some r → number = some r.number → (∀ q, e.current = some q → q.number ≠ r.number) →
        e'.previous = some (g r) := by
  refine ⟨fun r hr hn => ?_, fun r hr hn hq => ?_⟩
  · rw [changeRecord_of_current (rs := e.records) hr hn] at h
    exact congrArg Prod.fst h
  · rw [changeRecord_of_previous (rs := e.records) hr hn hq] at h
    exact congrArg Prod.snd h

theorem endOutcome_degraded {e : CommitEngine} (hd : e.direction = .forward) (ht : e.tally ≠ 0) : endOutcome e = .passedDegraded := by
  rw [endOutcome, hd]
  exact if_neg ht

/-- The claim at the end of a degraded commit (R111). -/
theorem Closed.alarmStands {s t : State} (h : Closed s t) (ho : endOutcome s.commit = .passedDegraded)
    (hroom : s.alarms.length < 128) : AlarmStands t .commitDegraded 0 .major s.commit.tally := by
  obtain ⟨u, hu, ht⟩ := h.raised ho
  exact (alarmStands_raiseAlarm (plainRaise .commitDegraded 0 .major s.commit.tally) (by rw [hu]; exact hroom)).of_alarms ht

/-- What a taken Resume-Ack settles at the end of its commit (R111). -/
def SettledEnd (s t : State) : Prop :=
  ((∀ r, s.commit.current = some r → s.commit.active = some r.number →
      t.commit.current = some { r with outcome := endOutcome s.commit }) ∧
    ∀ r, s.commit.previous = some r → s.commit.active = some r.number →
      (∀ q, s.commit.current = some q → q.number ≠ r.number) →
      t.commit.previous = some { r with outcome := endOutcome s.commit }) ∧
  (s.commit.direction = .forward → s.commit.tally ≠ 0 → AlarmsLawful s → s.alarms.length < 128 →
    AlarmStands t .commitDegraded 0 .major s.commit.tally)

theorem Closed.settledEnd {s u t : State} (h : Closed u t) (hr : u.commit.records = s.commit.records)
    (ha : u.commit.active = s.commit.active) (hd : u.commit.direction = s.commit.direction) (hy : u.commit.tally = s.commit.tally)
    (hl : u.alarms = s.alarms) : SettledEnd s t := by
  have houtcome : endOutcome u.commit = endOutcome s.commit := by rw [endOutcome, endOutcome, hd, hy]
  have hrecords := h.records
  rw [ha, houtcome, hr] at hrecords
  refine ⟨noted_of_records hrecords, fun hdir htally _ hroom => ?_⟩
  rw [← hy]
  exact h.alarmStands (houtcome.trans (endOutcome_degraded hdir htally)) (by rw [hl]; exact hroom)

/-- The records and the alarms carry over. -/
theorem SettledEnd.of_records {s t u : State} (h : SettledEnd s t) (hr : u.commit.records = t.commit.records)
    (ha : u.alarms = t.alarms) : SettledEnd s u := by
  have hcurrent : u.commit.current = t.commit.current := congrArg Prod.fst hr
  have hprevious : u.commit.previous = t.commit.previous := congrArg Prod.snd hr
  obtain ⟨⟨hc, hp⟩, hstands⟩ := h
  exact ⟨⟨fun r h1 h2 => hcurrent.trans (hc r h1 h2), fun r h1 h2 h3 => hprevious.trans (hp r h1 h2 h3)⟩,
    fun h1 h2 h3 h4 => (hstands h1 h2 h3 h4).of_alarms ha⟩

section Taken
variable {slot : Slot} {generation : Word} {s : State}

theorem holdAck_of_taken (h : s.commit.engine = .fencing ∧ (s.phaseRec slot).phase = .awaitHold ∧ generation = s.zones.generation + 1) :
    holdAck slot generation s = commitFollows (setPhase slot .held s) := if_pos h

theorem resumeAck_of_taken
    (h : s.commit.engine = .releasing ∧ (s.phaseRec slot).phase = .awaitResume ∧ generation = s.commit.releaseGen) :
    resumeAck slot generation s = commitFollows (setPhase slot .done s) := if_pos h

/-- The Hold-Ack of the last card makes the switch (R109). -/
theorem switched_of_last_holdAck (he : s.commit.engine = .fencing) (hlast : ∀ c, c ≠ slot → (s.phaseRec c).phase ≠ .awaitHold) :
    Switched (setPhase slot .held s) (commitFollows (setPhase slot .held s)) := by
  rw [commitFollows_of_switch (s := setPhase slot .held s) he (forall_setPhase (test := (· ≠ .awaitHold)) nofun hlast) ⟨slot, .inl (setPhase_phase_same ..)⟩]
  exact switched_switchLive _

/-- The Resume-Ack of the last card is the end (R111). -/
theorem closed_of_last_resumeAck (he : s.commit.engine = .releasing) (hlast : ∀ c, c ≠ slot → (s.phaseRec c).phase ≠ .awaitResume) :
    ∃ w, Closed (setPhase slot .done s) w ∧ commitFollows (setPhase slot .done s) = startQueued w ∧
      w.commit.queued = s.commit.queued ∧ SettledEnd s w := by
  have hclosed := closed_closeCommit (setPhase slot .done s)
  refine ⟨_, hclosed, commitFollows_of_end he (forall_setPhase (test := (· ≠ .awaitResume)) nofun hlast), ?_,
    hclosed.settledEnd rfl rfl rfl rfl rfl⟩
  rw [hclosed.commit]
  rfl

end Taken

end Sys2Proof.Machine

section
open Sys2Proof Sys2Proof.Machine

/-- Settles O47: an acknowledgement is ignored, taken, or the last one, which makes the switch or the end. -/
theorem acknowledgementsRule : Obligations.AcknowledgementsRule := by
  unfold Obligations.AcknowledgementsRule
  intro slot generation s hjoined
  have hhold : exec (.holdAck slot generation) s = .next (holdAck slot generation s) := exec_holdAck hjoined
  have hresume : exec (.resumeAck slot generation) s = .next (resumeAck slot generation s) := exec_resumeAck hjoined
  refine ⟨fun hnot => ?_, fun htaken hmore => ?_, fun htaken hlast => ?_, fun hnot => ?_, fun htaken hmore => ?_,
    fun htaken hlast hq => ?_, fun htaken hlast k hq => ?_⟩
  · rw [hhold]
    exact congrArg _ (if_neg hnot)
  · obtain ⟨c, hc, hwaits⟩ := hmore
    rw [hhold, holdAck_of_taken htaken,
      commitFollows_of_fencing (s := setPhase slot .held s) htaken.1 ⟨c, by rw [setPhase_phaseRec_other hc]; exact hwaits⟩]
    rfl
  · have hswitched := switched_of_last_holdAck htaken.1 hlast
    rw [hhold, holdAck_of_taken htaken]
    generalize commitFollows (setPhase slot .held s) = t at hswitched
    refine ⟨t, rfl, ?_, ?_, ?_, ?_, ?_, ?_, ?_, fun c => ?_, noted_of_records hswitched.records, hswitched.noted, ?_⟩
    · rw [hswitched.frame]; rfl
    · rw [hswitched.commit]
    · rw [hswitched.commit]
    · rw [hswitched.commit]; rfl
    · rw [hswitched.commit]; rfl
    · rw [hswitched.commit]; rfl
    · rw [hswitched.commit]; rfl
    · have htold : (c = slot ∨ (s.phaseRec c).phase = .held ∨ (s.phaseRec c).phase = .late) ↔
          (((setPhase slot .held s).phaseRec c).phase = .held ∨ ((setPhase slot .held s).phaseRec c).phase = .late) := by
        by_cases hc : c = slot
        · rw [hc]
          exact iff_of_true (.inl rfl) (.inl (setPhase_phase_same ..))
        · rw [setPhase_phaseRec_other hc, or_iff_right hc]
      split
      next hin => exact ⟨hswitched.told.phase c (htold.1 hin), hswitched.told.card c (htold.1 hin)⟩
      next hout =>
        refine ⟨(hswitched.told.phase_other c fun h => hout (htold.2 h)).trans (setPhase_phaseRec_other (fun h => hout (.inl h)) _ _),
          hswitched.told.card_other c fun h => hout (htold.2 h)⟩
    · rw [hswitched.frame]; rfl
  · rw [hresume]
    exact congrArg _ (if_neg hnot)
  · obtain ⟨c, hc, hwaits⟩ := hmore
    rw [hresume, resumeAck_of_taken htaken,
      commitFollows_of_releasing (s := setPhase slot .done s) htaken.1 ⟨c, by rw [setPhase_phaseRec_other hc]; exact hwaits⟩]
    rfl
  · obtain ⟨w, hclosed, hfollows, hqueued, hsettled⟩ := closed_of_last_resumeAck htaken.1 hlast
    rw [startQueued_of_none (hqueued.trans hq)] at hfollows
    rw [hresume, resumeAck_of_taken htaken, hfollows]
    refine ⟨w, rfl, ?_, ?_, ?_, hclosed.outside, hsettled, hclosed.noted, ?_⟩
    · rw [hclosed.commit]
    · rw [hclosed.commit]
    · rw [hclosed.commit]
    · rw [hclosed.frame]; rfl
  · obtain ⟨w, hclosed, hfollows, hqueued, hsettled⟩ := closed_of_last_resumeAck htaken.1 hlast
    have hcards (c : Slot) : w.card c = s.card c := by rw [hclosed.frame]; rfl
    rw [startQueued_of_some (by rw [hclosed.commit]) (hqueued.trans hq),
      settle_begun_of_joined k ⟨slot, by rw [hcards, hjoined]⟩] at hfollows
    have hbegun := begun_beginCommit k w
    rw [hresume, resumeAck_of_taken htaken, hfollows]
    generalize beginCommit k w = t at hbegun
    have hgeneration : w.zones.generation = s.zones.generation := by rw [hclosed.frame]; rfl
    refine ⟨t, rfl, ?_, ?_, ?_, ?_, ?_, hsettled.of_records ?_ ?_, ?_, fun c hc => ⟨?_, ?_⟩, fun c hc => ⟨?_, ?_⟩, hbegun.noted, ?_⟩
    · rw [hbegun.commit]
    · rw [hbegun.commit]
    · rw [hbegun.commit]
    · rw [hbegun.commit]
    · rw [hbegun.commit]
    · rw [hbegun.commit]; rfl
    · rw [hbegun.frame]
    · rw [hbegun.frame, hclosed.frame]; rfl
    · exact hbegun.told.phase c (by rw [hcards]; exact hc)
    · rw [hbegun.told.card c (by rw [hcards]; exact hc), hcards, hgeneration]
    · rw [hbegun.told.phase_other c (by rw [hcards]; exact hc)]
      exact hclosed.outside c
    · rw [hbegun.told.card_other c (by rw [hcards]; exact hc), hcards]
    · rw [hbegun.frame, hclosed.frame]; rfl

end

/-! PROOFS. The messages of the slot links (R38 to R41): where one is valid, what the link checks discard, what leaves on a link. -/

namespace Sys2Proof.Machine

/-! ## Where a message is valid (R40) -/

theorem takeMessage_of_invalid {slot : Slot} {s : State} {valid : CardState → Bool} (h : valid (s.card slot).state = false)
    (act : State → State) : takeMessage slot valid act s = s :=
  if_neg (by rw [h]; nofun)

theorem powered_iff (st : CardState) : st.powered = true ↔ st = .admitting ∨ st = .joined ∨ st = .fenced := by
  cases st <;> simp [CardState.powered]

/-! ## The link checks (R39) -/

theorem messagePayload_length {bytes : List Byte} : (messagePayload bytes).length = bytes.length - 4 := by
  simp [messagePayload, beforeCheck]
  omega

/-- The state byte of a Link, the second byte of its payload. -/
theorem byteAt_messagePayload_one {bytes : List Byte} (h : 5 < bytes.length) : byteAt (messagePayload bytes) 1 = byteAt bytes 3 := by
  simp only [byteAt, messagePayload, beforeCheck, List.getD_eq_getElem?_getD, List.getElem?_drop]
  rw [List.getElem?_take_of_lt (by omega)]

/-- The body of a message is discarded only where it is a Link whose state byte is neither 0 nor 1. -/
theorem decodeMessageBody_of_kind {bytes p : List Byte} {slot : Slot} (h : 1 < (byteAt p 1).toNat) :
    decodeMessageBody bytes slot 0x43 p = .linkCheckDiscard slot bytes := by
  have hzero : byteAt p 1 ≠ 0#8 := fun he => by rw [he] at h; exact absurd h (by decide)
  have hone : byteAt p 1 ≠ 1#8 := fun he => by rw [he] at h; exact absurd h (by decide)
  show (if byteAt p 1 = 0#8 then _ else if byteAt p 1 = 1#8 then _ else _) = _
  rw [if_neg hzero, if_neg hone]

theorem messageLength_outside {k : Nat} (h : k < 0x41 ∨ 0x49 < k) : messageLength k = none := by
  unfold messageLength
  split
  case h_10 => rfl
  all_goals omega

/-- What fails a link check is discarded. -/
theorem decodeMessage_discards {slot : Slot} {bytes : List Byte}
    (h : bytes.length < 4 ∨ bytes.drop (bytes.length - 2) ≠ split2 (crc16 (bytes.take (bytes.length - 2))) ∨
      (byteAt bytes 0).toNat < 0x41 ∨ 0x49 < (byteAt bytes 0).toNat ∨
      messageLength (byteAt bytes 0).toNat ≠ some (byteAt bytes 1).toNat ∨ (byteAt bytes 1).toNat ≠ bytes.length - 4 ∨
      (byteAt bytes 0 = 0x43 ∧ 1 < (byteAt bytes 3).toNat)) :
    decodeMessage slot bytes = .linkCheckDiscard slot bytes := by
  unfold decodeMessage
  split
  next => rfl
  next hlong =>
    split
    next => rfl
    next hcheck =>
      have hagrees : bytes.drop (bytes.length - 2) = split2 (crc16 (bytes.take (bytes.length - 2))) := by
        simpa [checkAgrees, carriedCheck, beforeCheck] using hcheck
      split
      next => rfl
      next n hlength =>
        split
        next => rfl
        next hcount =>
          obtain ⟨hn, hp⟩ : (byteAt bytes 1).toNat = n ∧ (messagePayload bytes).length = n := by simpa using hcount
          rw [messagePayload_length] at hp
          have hkind : ¬ ((byteAt bytes 0).toNat < 0x41 ∨ 0x49 < (byteAt bytes 0).toNat) := fun ho => by
            rw [messageLength_outside ho] at hlength
            cases hlength
          have hstate : byteAt bytes 0 = 0x43 ∧ 1 < (byteAt bytes 3).toNat := by
            rcases h with h | h | h | h | h | h | h
            · exact absurd h hlong
            · exact absurd hagrees h
            · exact absurd (.inl h) hkind
            · exact absurd (.inr h) hkind
            · exact absurd (hlength.trans (congrArg some hn.symm)) h
            · exact absurd (hn.trans hp.symm) h
            · exact h
          rw [hstate.1] at hlength ⊢
          obtain rfl : 2 = n := Option.some.inj hlength
          refine decodeMessageBody_of_kind ?_
          rw [byteAt_messagePayload_one (by omega)]
          exact hstate.2

theorem exec_linkCheckDiscard (slot : Slot) (bytes : List Byte) (s : State) :
    exec (.linkCheckDiscard slot bytes) s = runMessage (decodeMessage slot bytes) s := rfl

/-- A row that a message carries means the same by its bytes. -/
theorem runMessage_of_encoded {i : Instr} {x : Slot × List Byte} (h : encodeMessage i = some x) (s : State) :
    runMessage i s = exec i s := by
  obtain ⟨fields, hfields, -⟩ := Option.map_eq_some_iff.1 h
  cases i <;> cases hfields <;> rfl

end Sys2Proof.Machine

section
open Sys2Proof Sys2Proof.Machine

/-- Settles O30: messages by the card's state, the link checks, Temperatures, and what leaves on a link. -/
theorem messagesRule : Obligations.MessagesRule := by
  unfold Obligations.MessagesRule
  refine ⟨fun slot s => ⟨fun hp hd ct pc tier bd => ?_, fun ha hd g => ?_, fun hj => ?_, fun ha hj hf v => ?_,
    fun bytes hbytes => ?_, fun bytes i hi => ?_⟩, fun slot s => ⟨fun v hv => ?_, fun m rest hm => ?_, fun hm => ?_, fun m => ?_⟩⟩
  · show Host.Outcome.next (settleDeficit (takeMessage slot CardState.isProbing _ s)) = _
    rw [takeMessage_of_invalid (Bool.eq_false_iff.2 fun h => hp ((isProbing_iff _).1 h)), settleDeficit_of_follows hd]
  · show Host.Outcome.next (settleDeficit (takeMessage slot CardState.isAdmitting _ s)) = _
    rw [takeMessage_of_invalid (Bool.eq_false_iff.2 fun h => ha ((isAdmitting_iff _).1 h)), settleDeficit_of_follows hd]
  · have hinvalid : (s.card slot).state.isJoined = false := Bool.eq_false_iff.2 fun h => hj ((isJoined_iff _).1 h)
    have htake (act : State → State) : Host.Outcome.next (takeMessage slot CardState.isJoined act s) = (.next s : Result) :=
      congrArg _ (takeMessage_of_invalid hinvalid act)
    exact ⟨fun _ _ => htake _, fun _ _ => htake _, fun _ _ => htake _, fun _ _ _ _ => htake _, fun _ => htake _, fun _ => htake _⟩
  · refine congrArg Host.Outcome.next (takeMessage_of_invalid (Bool.eq_false_iff.2 fun h => ?_) (takeTemperature slot v))
    exact ((powered_iff _).1 h).elim ha (Or.rec hj hf)
  · rw [exec_linkCheckDiscard, decodeMessage_discards hbytes]
    rfl
  · rw [exec_linkCheckDiscard, encodingsAgree.2 i slot bytes hi, runMessage_of_encoded hi]
  · exact congrArg Host.Outcome.next (if_pos ((powered_iff _).2 hv))
  · show Host.Outcome.next (s.modCard slot CardRec.leave) = _
    rw [State.modCard, CardRec.leave, hm]
  · show Host.Outcome.next (s.modCard slot CardRec.leave) = _
    rw [State.modCard, CardRec.leave, hm]
    exact congrArg (fun cards => Host.Outcome.next { s with cards := cards }) (Vector.set_getElem_self _)
  · cases m <;> rfl

end

/-! PROOFS. Reasons stay in the attention sets (R161); and what a restore pass does, item by item (R11, R28, R50). -/

namespace Sys2Proof.Machine

/-! ## Reasons in the attention sets (R161) -/

/-- Whether a set holds a reason. -/
def ReasonSet.holds (x : ReasonSet) : Reason → Bool
  | .alarm => x.alarm
  | .commit => x.commit
  | .slot => x.slot
  | .license => x.license
  | .power => x.power

theorem ReasonSet.holds_add (x : ReasonSet) (q r : Reason) : (x.add q).holds r = (decide (q = r) || x.holds r) := by
  cases q <;> cases r <;> rfl

/-- A reason is in the attention sets of both ports. -/
def Noted (r : Reason) (s : State) : Prop := ∀ p, (s.attention p).set.holds r = true

theorem Noted.of_attn {r : Reason} {s t : State} (h : Noted r s) (ha : t.attn = s.attn) : Noted r t := fun p => by
  rw [attention_of_attn ha]
  exact h p

theorem noted_addReason_self (r : Reason) (s : State) : Noted r (addReason r s) := fun p => by
  rw [addReason_attention]
  exact (ReasonSet.holds_add _ r r).trans (by rw [decide_eq_true rfl, Bool.true_or])

theorem Noted.addReason {r : Reason} {s : State} (h : Noted r s) (q : Reason) : Noted r (addReason q s) := fun p => by
  rw [addReason_attention]
  exact (ReasonSet.holds_add _ q r).trans (by rw [h p, Bool.or_true])

theorem Noted.alarmChanged {r : Reason} {s : State} (silent : Bool) (h : Noted r s) : Noted r (alarmChanged silent s) := by
  unfold Machine.alarmChanged
  split
  · exact h
  · exact h.addReason _

theorem Noted.raiseAlarm {r : Reason} {s : State} (h : Noted r s) (c : Raise) : Noted r (raiseAlarm c s) := by
  unfold Machine.raiseAlarm
  split
  · split
    · exact h.of_attn rfl
    · exact h.of_attn rfl
    · exact Noted.alarmChanged _ (h.of_attn rfl)
  · split
    · exact Noted.alarmChanged _ (h.of_attn rfl)
    · exact h

theorem Noted.endAlarm {r : Reason} {s : State} (h : Noted r s) (c : Cause) (subject : Nat) : Noted r (endAlarm c subject s) := by
  unfold Machine.endAlarm
  split
  · split
    · exact Noted.alarmChanged _ (h.of_attn rfl)
    · exact Noted.alarmChanged _ (h.of_attn rfl)
    · exact h
  · exact h

/-- No operation of the blocks takes a reason out of the attention sets. -/
theorem Moves.noted {k : Scope} {s t : State} {r : Reason} (hm : Moves k s t) (h : Noted r s) : Noted r t := by
  induction hm with
  | refl => exact h
  | reason q _ ih => exact ih.addReason q
  | raise c _ ih => exact ih.raiseAlarm c
  | clear c subject _ ih => exact ih.endAlarm c subject
  | _ => rename_i ih; exact ih.of_attn rfl

/-! ## One item of a restore pass (R11, R28, R50) -/

/-- The power record once an item has been admitted for its draw. -/
def powerTaking (x : WaitItem) (draw : Nat) (p : PowerBudget) : PowerBudget :=
  { p with waitList := p.waitList.filter fun y => y ≠ x, admitted := p.admitted + draw }

/-- A card as it is once a restore pass has admitted it. -/
def admittedCard (generation : Word) (c : CardRec) : CardRec :=
  { c with
    state := .admitting, failure := .none, tempValid := false, timerOn := true, retryTimeout := 5000
    powerEnable := true, outbox := c.outbox ++ [.admission generation] }

/-- Admitting a card: its draw is charged, it leaves the wait list, and Admit goes to it. -/
theorem admitCard_spec (c : Slot) (s : State) :
    admitCard c s = { s with
      power := powerTaking (.card c) (s.card c).baseDraw s.power, cards := (admitCard c s).cards, attn := (addReason .slot s).attn } ∧
    ∀ e, (admitCard c s).card e = if c = e then admittedCard s.zones.generation (s.card c) else s.card e := by
  refine ⟨rfl, fun e => ?_⟩
  unfold admitCard startAdmitting startTimer send clearTemp enterCard
  simp only [modCard_card, addReason_card]
  split
  · rfl
  · rfl

/-- Serviceable is eligibility, with the card Joined and the port Admitted (R3, R5). -/
theorem serviceable_iff {s : State} {n : PortIx} : serviceable s n = true ↔
    eligible s n = true ∧ (s.card (slotOf n)).state = .joined ∧ (s.port n).power = .admitted := by
  unfold serviceable eligible cardOf
  simp only [Bool.and_eq_true, beq_iff_eq]
  constructor
  · rintro ⟨⟨⟨⟨hj, hw⟩, hi⟩, hl⟩, hp⟩
    exact ⟨⟨⟨⟨hi, hl⟩, by rw [hj]; rfl⟩, hw⟩, hj, hp⟩
  · rintro ⟨⟨⟨⟨hi, hl⟩, -⟩, hw⟩, hj, hp⟩
    exact ⟨⟨⟨⟨hj, hw⟩, hi⟩, hl⟩, hp⟩

theorem admitted_eq (n : PortIx) (s : State) : admitted n s = { s with
    power := powerTaking (.port n) (portDraw s n) s.power, ports := s.ports.set n { s.port n with power := .admitted } } := by
  unfold admitted setPower State.modPort
  rfl

/-- Admitting an eligible port that waits: its draw is charged, it leaves the wait list, and on a Joined card it gains Serviceable, so
that Permit goes to the card. -/
theorem admitPort_spec {n : PortIx} {s : State} (hn : (s.port n).power = .waiting) (he : eligible s n = true) :
    admitPort n s = { s with
      power := powerTaking (.port n) (portDraw s n) s.power
      ports := s.ports.set n { s.port n with power := .admitted }, cards := (admitPort n s).cards } ∧
    ∀ e, (admitPort n s).card e = if slotOf n = e ∧ (s.card e).state = .joined then
      { s.card e with outbox := (s.card e).outbox ++ [.permit (posOf n)] } else s.card e := by
  have hbefore : serviceable (chargeDraw (portDraw s n) (leaveWait (.port n) s)) n = false := by
    refine Bool.eq_false_iff.2 fun h => ?_
    have hp : (s.port n).power = .admitted := (serviceable_iff.1 h).2.2
    rw [hn] at hp
    cases hp
  have heligible : eligible (admitted n s) n = true := by
    rw [← he]
    exact eligible_congr (by rw [admitted_port_self]) (by rw [admitted_port_self]) rfl rfl
  have hafter : serviceable (admitted n s) n = true ↔ (s.card (slotOf n)).state = .joined := by
    rw [serviceable_iff, admitted_port_self]
    exact ⟨fun h => h.2.1, fun h => ⟨heligible, h, rfl⟩⟩
  rw [admitPort_eq, hbefore]
  unfold reviewServiceable
  cases hserv : serviceable (admitted n s) n with
  | true =>
    have hjoined := hafter.1 hserv
    refine ⟨by rw [admitted_eq]; rfl, fun e => ?_⟩
    show (send (slotOf n) _ _).card e = _
    rw [send, modCard_card]
    by_cases hs : slotOf n = e
    · subst hs
      rw [if_pos rfl, if_pos ⟨rfl, hjoined⟩]
      rfl
    · rw [if_neg hs, if_neg fun h => hs h.1]
      rfl
  | false =>
    have hnot : (s.card (slotOf n)).state ≠ .joined := fun h => by
      rw [hafter.2 h] at hserv
      cases hserv
    refine ⟨by rw [admitted_eq], fun e => ?_⟩
    rw [if_neg]
    · rfl
    · rintro ⟨rfl, h⟩
      exact hnot h

/-! ## The pass (R50) -/

theorem restoreTakes_congr {s t : State} (hb : allowanceOf t.power = allowanceOf s.power) {l : List WaitItem}
    (h : ∀ x ∈ l, itemHeld t x = itemHeld s x ∧ itemDraw t x = itemDraw s x) (drawn : Nat) :
    restoreTakes t drawn l = restoreTakes s drawn l := by
  induction l generalizing drawn with
  | nil => rfl
  | cons x l ih =>
    obtain ⟨hheld, hdraw⟩ := h x List.mem_cons_self
    simp only [restoreTakes, hheld, hdraw, hb, ih fun y hy => h y (List.mem_cons_of_mem _ hy)]

theorem restoreTakes_subset {s : State} {l : List WaitItem} {drawn : Nat} {x : WaitItem} (h : x ∈ restoreTakes s drawn l) : x ∈ l := by
  induction l generalizing drawn with
  | nil => cases h
  | cons y l ih =>
    rw [restoreTakes] at h
    split at h
    · exact (List.mem_cons.1 h).elim (fun he => he ▸ List.mem_cons_self) fun h => List.mem_cons_of_mem _ (ih h)
    · exact List.mem_cons_of_mem _ (ih h)

/-- From s to t some items of a restore pass have been admitted, in their order. -/
structure Admits (taken : List WaitItem) (s t : State) : Prop where
  frame : t = { s with ports := t.ports, cards := t.cards, power := t.power, attn := t.attn }
  power : t.power = { s.power with
    waitList := s.power.waitList.filter fun x => x ∉ taken, admitted := s.power.admitted + (taken.map (itemDraw s)).sum }
  port : ∀ n, t.port n = if WaitItem.port n ∈ taken then { s.port n with power := .admitted } else s.port n
  card : ∀ c, t.card c =
    if WaitItem.card c ∈ taken then admittedCard s.zones.generation (s.card c)
    else if (s.card c).state = .joined then { s.card c with outbox := (s.card c).outbox ++ permitsTo c taken }
    else s.card c
  slot : (∃ c, WaitItem.card c ∈ taken) → Noted .slot t
  slotKept : Noted .slot s → Noted .slot t

theorem admits_nil (s : State) : Admits [] s s := by
  refine ⟨rfl, ?_, fun n => (if_neg nofun).symm, fun c => ?_, fun ⟨c, hc⟩ => (nomatch hc), id⟩
  · simp
  · rw [if_neg nofun]
    split
    · simp [permitsTo]
    · rfl

/-- What the items of a list need for a pass over it: each stands once, the ports wait and are eligible, the cards wait. -/
structure Passable (l : List WaitItem) (s : State) : Prop where
  nodup : l.Nodup
  port : ∀ n, WaitItem.port n ∈ l → (s.port n).power = .waiting ∧ eligible s n = true
  card : ∀ c, WaitItem.card c ∈ l → (s.card c).state = .waiting

theorem Passable.tail {x : WaitItem} {l : List WaitItem} {s : State} (h : Passable (x :: l) s) : Passable l s :=
  ⟨(List.nodup_cons.1 h.nodup).2, fun n hn => h.port n (List.mem_cons_of_mem _ hn), fun c hc => h.card c (List.mem_cons_of_mem _ hc)⟩

/-- What an admitted item leaves of the others: their holds, draws, powers, states and eligibility. -/
structure LeavesItems (l : List WaitItem) (s t : State) : Prop where
  port : ∀ n, WaitItem.port n ∈ l → t.port n = s.port n
  state : ∀ c, WaitItem.card c ∈ l → (t.card c).state = (s.card c).state
  cardOf : ∀ n, WaitItem.port n ∈ l → (Machine.cardOf t n).state = (Machine.cardOf s n).state
  identity : ∀ c, (t.card c).identity = (s.card c).identity
  supply : t.power.supply = s.power.supply

theorem LeavesItems.passable {l : List WaitItem} {s t : State} (h : LeavesItems l s t) (hp : Passable l s) : Passable l t := by
  refine ⟨hp.nodup, fun n hn => ?_, fun c hc => (h.state c hc).trans (hp.card c hc)⟩
  have hport := h.port n hn
  rw [hport]
  refine ⟨(hp.port n hn).1, ?_⟩
  rw [eligible_congr (s := s) (by rw [hport]) (by rw [hport]) (h.cardOf n hn) (h.identity _)]
  exact (hp.port n hn).2

theorem LeavesItems.takes {l : List WaitItem} {s t : State} (h : LeavesItems l s t) (drawn : Nat) :
    restoreTakes t drawn l = restoreTakes s drawn l := by
  refine restoreTakes_congr (allowanceOf_of_supply h.supply) (fun x hx => ?_) drawn
  cases x with
  | card c =>
    refine ⟨rfl, ?_⟩
    show (t.card c).baseDraw = (s.card c).baseDraw
    simp only [CardRec.baseDraw, h.identity]
  | port n =>
    refine ⟨?_, portDraw_congr (h.identity _)⟩
    show (t.port n).hold = (s.port n).hold
    rw [h.port n hx]

/-- An admitted card, and what it leaves of the items that follow. -/
theorem admits_admitCard {c : Slot} {l : List WaitItem} {s : State} (h : Passable (.card c :: l) s) :
    Admits [.card c] s (admitCard c s) ∧ LeavesItems l s (admitCard c s) := by
  obtain ⟨hframe, hcard⟩ := admitCard_spec c s
  have hwaiting := h.card c List.mem_cons_self
  have hnot : WaitItem.card c ∉ l := (List.nodup_cons.1 h.nodup).1
  have hslot : Noted .slot (admitCard c s) := (noted_addReason_self .slot s).of_attn (by rw [hframe])
  refine ⟨⟨by rw [hframe], ?_, fun n => ?_, fun e => ?_, fun _ => hslot, fun _ => hslot⟩,
    ⟨fun n _ => rfl, fun e he => ?_, fun n hn => ?_, fun e => ?_, ?_⟩⟩
  · rw [hframe]
    simp [powerTaking, itemDraw]
  · rw [if_neg (by simp)]
    rfl
  · rw [hcard]
    by_cases he : c = e
    · subst he
      rw [if_pos rfl, if_pos (List.mem_singleton.2 rfl)]
    · rw [if_neg he, if_neg (by simpa using Ne.symm he)]
      simp [permitsTo]
  · rw [hcard, if_neg fun hce : c = e => hnot (hce ▸ he)]
  · have hin : (s.card (slotOf n)).state.inService = true := by
      have := (h.tail.port n hn).2
      simp only [eligible, Bool.and_eq_true] at this
      exact this.1.2
    show ((admitCard c s).card (slotOf n)).state = (s.card (slotOf n)).state
    rw [hcard, if_neg]
    intro hc
    rw [← hc, hwaiting] at hin
    cases hin
  · rw [hcard]
    split
    next he => rw [← he]; rfl
    next => rfl
  · rw [hframe]
    rfl

/-- An admitted port, and what it leaves of the items that follow. -/
theorem admits_admitPort {n : PortIx} {l : List WaitItem} {s : State} (h : Passable (.port n :: l) s) :
    Admits [.port n] s (admitPort n s) ∧ LeavesItems l s (admitPort n s) := by
  obtain ⟨hwaiting, heligible⟩ := h.port n List.mem_cons_self
  obtain ⟨hframe, hcard⟩ := admitPort_spec hwaiting heligible
  have hnot : WaitItem.port n ∉ l := (List.nodup_cons.1 h.nodup).1
  have hport (m : PortIx) : (admitPort n s).port m = if n = m then { s.port n with power := .admitted } else s.port m := by
    rw [hframe]
    exact modPort_port n m (fun _ => { s.port n with power := .admitted }) s
  have hsame (e : Slot) : ((admitPort n s).card e).state = (s.card e).state ∧
      ((admitPort n s).card e).identity = (s.card e).identity := by
    rw [hcard]
    split <;> exact ⟨rfl, rfl⟩
  refine ⟨⟨by rw [hframe], ?_, fun m => ?_, fun e => ?_, fun ⟨c, hc⟩ => ?_, fun hs => hs.of_attn (by rw [hframe])⟩,
    ⟨fun m hm => ?_, fun e _ => (hsame e).1, fun m _ => (hsame _).1, fun e => (hsame e).2, ?_⟩⟩
  · rw [hframe]
    simp [powerTaking, itemDraw]
  · rw [hport]
    by_cases hm : n = m
    · subst hm
      rw [if_pos rfl, if_pos (List.mem_singleton.2 rfl)]
    · rw [if_neg hm, if_neg (by simpa using Ne.symm hm)]
  · rw [hcard, if_neg (c := WaitItem.card e ∈ [WaitItem.port n]) (by simp)]
    by_cases hs : slotOf n = e
    · simp only [hs, true_and, permitsTo, List.filterMap_cons, List.filterMap_nil, if_true]
    · simp [permitsTo, hs]
  · simp at hc
  · rw [hport, if_neg fun hnm : n = m => hnot (hnm ▸ hm)]
  · rw [hframe]
    rfl

theorem permitsTo_cons (c : Slot) (x : WaitItem) (l : List WaitItem) : permitsTo c (x :: l) = permitsTo c [x] ++ permitsTo c l :=
  List.filterMap_append (l := [x]) (l' := l)

/-- What one admitted item and those after it make together. -/
theorem Admits.cons {x : WaitItem} {l rest : List WaitItem} {s u t : State} (hx : Admits [x] s u) (hleaves : LeavesItems l s u)
    (hp : Passable l s) (hsub : ∀ y ∈ rest, y ∈ l) (hnot : x ∉ l) (h : Admits rest u t) : Admits (x :: rest) s t := by
  have hgeneration : u.zones.generation = s.zones.generation := by rw [hx.frame]
  refine ⟨by rw [h.frame, hx.frame], ?_, fun n => ?_, fun c => ?_, fun hc => ?_, fun hs => h.slotKept (hx.slotKept hs)⟩
  · have hdraws : rest.map (itemDraw u) = rest.map (itemDraw s) := List.map_congr_left fun y _ => by
      cases y with
      | card c => simp only [itemDraw, CardRec.baseDraw, hleaves.identity]
      | port n => exact portDraw_congr (hleaves.identity _)
    rw [h.power, hx.power, hdraws]
    simp only [List.map_cons, List.map_nil, List.sum_cons, List.sum_nil, List.filter_filter, List.mem_cons, List.not_mem_nil,
      or_false, not_or, Nat.add_zero, Nat.add_assoc, Bool.decide_and, Bool.and_comm]
  · rw [h.port, hx.port]
    simp only [List.mem_cons, List.not_mem_nil, or_false]
    by_cases hrest : WaitItem.port n ∈ rest <;> by_cases hxn : WaitItem.port n = x <;> simp [hrest, hxn]
  · rw [h.card, hx.card, hgeneration]
    by_cases hxc : WaitItem.card c = x
    · have hrest : x ∉ rest := fun hr => hnot (hsub x hr)
      simp [hrest, hxc, admittedCard]
    · by_cases hrest : WaitItem.card c ∈ rest
      · have hstate : (s.card c).state ≠ .joined := by rw [hp.card c (hsub _ hrest)]; nofun
        simp [hrest, hxc, hstate]
      · by_cases hj : (s.card c).state = .joined
        · simp [hrest, hxc, hj, permitsTo_cons c x rest]
        · simp [hrest, hxc, hj]
  · by_cases hany : ∃ c, WaitItem.card c ∈ rest
    · exact h.slot hany
    · obtain ⟨c, hc⟩ := hc
      refine h.slotKept (hx.slot ⟨c, ?_⟩)
      rw [List.mem_singleton]
      exact (List.mem_cons.1 hc).resolve_right fun hr => hany ⟨c, hr⟩

/-- An item that is not held and fits is admitted; any other is left (R50). -/
theorem restoreItem_of_not {x : WaitItem} {s : State}
    (h : ¬ (itemHeld s x = false ∧ itemDraw s x + s.power.admitted ≤ allowanceOf s.power)) : restoreItem x s = s := by
  cases x with
  | card c => exact (restoreItem_card c s).trans (if_neg fun hf => h ⟨rfl, of_decide_eq_true hf⟩)
  | port n =>
    refine (restoreItem_port n s).trans (if_neg fun hf => h ?_)
    obtain ⟨hheld, hfits⟩ := Bool.and_eq_true_iff.1 hf
    exact ⟨(Bool.not_eq_true' _).mp hheld, of_decide_eq_true hfits⟩

/-- The loop of a restore pass admits what it takes of its list (R50). -/
theorem admits_forEach {l : List WaitItem} {s : State} (h : Passable l s) :
    Admits (restoreTakes s s.power.admitted l) s (forEach l restoreItem s) := by
  induction l generalizing s with
  | nil => exact admits_nil s
  | cons x l ih =>
    have hnot := (List.nodup_cons.1 h.nodup).1
    have hgo (htest : itemHeld s x = false ∧ itemDraw s x + s.power.admitted ≤ allowanceOf s.power) {u : State}
        (hitem : restoreItem x s = u) (hadmits : Admits [x] s u) (hleaves : LeavesItems l s u) :
        Admits (restoreTakes s s.power.admitted (x :: l)) s (forEach (x :: l) restoreItem s) := by
      have hrest := ih (hleaves.passable h.tail)
      have hdrawn : u.power.admitted = s.power.admitted + itemDraw s x := by rw [hadmits.power]; simp
      rw [hleaves.takes, hdrawn] at hrest
      rw [restoreTakes, if_pos htest, forEach_cons, hitem]
      exact hadmits.cons hleaves h.tail (fun y hy => restoreTakes_subset hy) hnot hrest
    by_cases htest : itemHeld s x = false ∧ itemDraw s x + s.power.admitted ≤ allowanceOf s.power
    · cases x with
      | card c =>
        obtain ⟨hadmits, hleaves⟩ := admits_admitCard h
        exact hgo htest ((restoreItem_card c s).trans (if_pos (decide_eq_true htest.2))) hadmits hleaves
      | port n =>
        obtain ⟨hadmits, hleaves⟩ := admits_admitPort h
        have hheld : (s.port n).hold = false := htest.1
        refine hgo htest ((restoreItem_port n s).trans (if_pos ?_)) hadmits hleaves
        rw [hheld]
        exact decide_eq_true htest.2
    · rw [restoreTakes, if_neg htest, forEach_cons, restoreItem_of_not htest]
      exact ih h.tail

/-- A list of which nothing is admitted leaves the state. -/
theorem forEach_restoreItem_of_nil {l : List WaitItem} {s : State} (h : restoreTakes s s.power.admitted l = []) :
    forEach l restoreItem s = s := by
  induction l with
  | nil => rfl
  | cons x l ih =>
    rw [restoreTakes] at h
    split at h
    next => cases h
    next htest =>
      rw [forEach_cons, restoreItem_of_not htest]
      exact ih h

/-- What a restore pass takes of the wait list. -/
def passTakes (s : State) : List WaitItem := restoreTakes s s.power.admitted s.power.waitList

/-- A restore pass admits what it takes, and adds Power where it takes any (R50, R60). -/
theorem admits_restorePass {s : State} (h : Passable s.power.waitList s) :
    Admits (passTakes s) s (restorePass s) ∧ (passTakes s ≠ [] → Noted .power (restorePass s)) ∧
      (passTakes s = [] → restorePass s = s) := by
  have hloop := admits_forEach h
  have hnil := forEach_restoreItem_of_nil (l := s.power.waitList) (s := s)
  unfold passTakes restorePass
  have hsub : ∀ x ∈ restoreTakes s s.power.admitted s.power.waitList, x ∈ s.power.waitList := fun x hx => restoreTakes_subset hx
  generalize restoreTakes s s.power.admitted s.power.waitList = taken at hloop hnil hsub ⊢
  dsimp only
  by_cases htaken : taken = []
  · rw [hnil htaken, if_neg (lt_irrefl _), htaken]
    exact ⟨admits_nil s, fun hne => absurd rfl hne, fun _ => rfl⟩
  · obtain ⟨x, hx⟩ := List.exists_mem_of_ne_nil taken htaken
    have hshorter : (forEach s.power.waitList restoreItem s).power.waitList.length < s.power.waitList.length := by
      rw [hloop.power]
      exact List.length_filter_lt_length_iff_exists.2 ⟨x, hsub x hx, by simpa using hx⟩
    rw [if_pos hshorter]
    refine ⟨⟨?_, hloop.power, hloop.port, hloop.card, fun hc => (hloop.slot hc).addReason _, fun hs => (hloop.slotKept hs).addReason _⟩,
      fun _ => noted_addReason_self _ _, fun he => absurd he htaken⟩
    rw [hloop.frame]
    rfl

theorem WaitsLaw.passable {o d : Prop} {s : State} (h : WaitsLaw o d s) (hn : s.power.waitList.Nodup) :
    Passable s.power.waitList s := by
  refine ⟨hn, fun n hx => ?_, fun c hx => by simpa [waitsNow] using (h.waits.cards c).1 hx⟩
  have hwaiting := (h.waits.ports n).1 hx
  exact ⟨hwaiting, h.eligible_of_power (by rw [hwaiting]; nofun)⟩

end Sys2Proof.Machine

/-! PROOFS. What ports that lose Serviceable do to the names and the cards, one after the other (R7, R122, R123); and what a port that
loses eligibility leaves of its record and of the budget (R5, R55). -/

namespace Sys2Proof.Machine

/-! ## Names and messages (R7, R122, R123) -/

/-- A card record with messages behind what waits. -/
def CardRec.behind (c : CardRec) (l : List CardMsg) : CardRec := { c with outbox := c.outbox ++ l }

theorem CardRec.behind_nil (c : CardRec) : c.behind [] = c := by simp [CardRec.behind]

theorem CardRec.behind_behind (c : CardRec) (l l' : List CardMsg) : (c.behind l).behind l' = c.behind (l ++ l') := by
  simp [CardRec.behind]

/-- What a port's loss of Serviceable sends to a card: Revoke to its own, where that is in service, and a Purge for each login to a
Joined one. -/
def lostSends (s : State) (n : PortIx) (c : Slot) : List CardMsg :=
  (if slotOf n = c ∧ (s.card c).state.inService = true then [.revoke (posOf n)] else []) ++
    if (s.card c).state = .joined then (loggedIn s n).map .purge else []

theorem lostSends_of_serviceable {s : State} {n : PortIx} (h : serviceable s n = true) (c : Slot) :
    lostSends s n c = fallSends s n c := by
  unfold lostSends fallSends
  by_cases hc : slotOf n = c
  · have hin : (s.card c).state.inService = true := by rw [← hc, (serviceable_iff.1 h).2.1]; rfl
    rw [if_pos ⟨hc, hin⟩, if_pos hc]
  · rw [if_neg fun hand => hc hand.1, if_neg hc]

theorem namesAfter_of_none {gone : PortIx → Bool} (h : ∀ n, gone n = false) (l : List (Nat × NameEntry)) : namesAfter gone l = l := by
  have hleft : leftOf gone = some := funext fun x => leftOf_of_stays (h _)
  rw [namesAfter, hleft, List.filterMap_some]

theorem namesAfter_namesAfter (f g : PortIx → Bool) (l : List (Nat × NameEntry)) :
    namesAfter g (namesAfter f l) = namesAfter (fun n => f n || g n) l := by
  unfold namesAfter
  rw [List.filterMap_filterMap]
  refine List.filterMap_congr fun x _ => ?_
  cases hf : f x.2.port with
  | false =>
    rw [leftOf_of_stays hf, Option.bind_some]
    simp only [leftOf, hf, Bool.false_or]
  | true =>
    have hleft : leftOf (fun n => f n || g n) x = leftOf f x := by simp only [leftOf, hf, Bool.true_or]
    rw [hleft]
    cases hx : leftOf f x with
    | none => rfl
    | some y =>
      rw [Option.bind_some]
      have hout : y.2.loggedOut = some y.2 := by
        refine NameEntry.loggedOut_of_not_loggedIn (Bool.eq_false_iff.2 fun hy => ?_)
        rw [(leftOf_loggedIn hx hy).2] at hf
        cases hf
      unfold leftOf
      rw [hout]
      split <;> rfl

/-- From s to t ports of a list have lost Serviceable, one after the other: their logins have ended, and the messages of each have gone
out. -/
structure Falls (l : List PortIx) (s t : State) : Prop where
  names : t.names = namesAfter (fun n => decide (n ∈ l)) s.names
  card : ∀ c, t.card c = (s.card c).behind (l.flatMap fun n => lostSends s n c)
  lawful : NamesLawful t

theorem Falls.nil {s t : State} (h : NamesLawful s) (hn : t.names = s.names) (hc : t.cards = s.cards) : Falls [] s t := by
  refine ⟨?_, fun c => ?_, h.of_names hn⟩
  · rw [hn]
    exact (namesAfter_of_none (fun n => by simp) _).symm
  · rw [card_of_cards hc, List.flatMap_nil, CardRec.behind_nil]

theorem Falls.loggedIn {l : List PortIx} {s t : State} (h : Falls l s t) {n : PortIx} (hn : n ∉ l) :
    loggedIn t n = Machine.loggedIn s n := by
  unfold Machine.loggedIn
  rw [h.names, loggedIn_namesAfter, if_neg (by simpa using hn)]

theorem Falls.state {l : List PortIx} {s t : State} (h : Falls l s t) (c : Slot) : (t.card c).state = (s.card c).state := by
  rw [h.card]
  rfl

theorem Falls.identity {l : List PortIx} {s t : State} (h : Falls l s t) (c : Slot) : (t.card c).identity = (s.card c).identity := by
  rw [h.card]
  rfl

theorem Falls.append {l l' : List PortIx} {s u t : State} (h : Falls l s u) (h' : Falls l' u t) (hd : ∀ n ∈ l', n ∉ l) :
    Falls (l ++ l') s t := by
  refine ⟨?_, fun c => ?_, h'.lawful⟩
  · rw [h'.names, h.names, namesAfter_namesAfter]
    simp only [List.mem_append, Bool.decide_or]
  · have hsends : (l'.flatMap fun n => lostSends u n c) = l'.flatMap fun n => lostSends s n c :=
      List.flatMap_congr fun n hn => by simp only [lostSends, h.state, h.loggedIn (hd n hn)]
    rw [h'.card, h.card, hsends, CardRec.behind_behind, List.flatMap_append]

/-- The records beside names and cards may be anything. -/
theorem Falls.of_records {l : List PortIx} {s t s' t' : State} (h : Falls l s t) (hs : s'.names = s.names) (hsc : s'.cards = s.cards)
    (ht : t'.names = t.names) (htc : t'.cards = t.cards) : Falls l s' t' := by
  refine ⟨by rw [ht, hs, h.names], fun c => ?_, h.lawful.of_names ht⟩
  rw [card_of_cards htc, h.card, card_of_cards hsc]
  have hsends (n : PortIx) : lostSends s' n c = lostSends s n c := by
    simp only [lostSends, card_of_cards hsc, loggedIn_of_names hs]
  simp only [hsends]

/-- A port's record once it has lost Serviceable. -/
def darkened (r : PortRec) : PortRec := { r with link := .dark, logins := 0 }

/-- One port loses Serviceable (R7). -/
theorem loseServiceable_spec (n : PortIx) {s : State} (h : NamesLawful s) :
    loseServiceable n s = { s with
      ports := (loseServiceable n s).ports, cards := (loseServiceable n s).cards, names := (loseServiceable n s).names } ∧
    (∀ m, (loseServiceable n s).port m = if n = m then darkened (s.port n) else s.port m) ∧ Falls [n] s (loseServiceable n s) := by
  have hlaw (u : State) (hn : u.names = s.names) : NamesLawful u := h.of_names hn
  have hpart (u : State) (hu : u = { s with ports := u.ports, cards := u.cards })
      (hport : ∀ m, u.port m = if n = m then { s.port n with link := .dark } else s.port m)
      (hcard : ∀ c, u.card c = (s.card c).behind (if slotOf n = c ∧ (s.card c).state.inService = true then [.revoke (posOf n)] else [])) :
      removeLogins n u = { s with
        ports := (removeLogins n u).ports, cards := (removeLogins n u).cards, names := (removeLogins n u).names } ∧
      (∀ m, (removeLogins n u).port m = if n = m then darkened (s.port n) else s.port m) ∧ Falls [n] s (removeLogins n u) := by
    have hnames : u.names = s.names := by rw [hu]
    have hu' := hlaw u hnames
    refine ⟨?_, fun m => ?_, ?_, fun c => ?_, removeLogins_namesLawful n hu'⟩
    · rw [removeLogins_frame n hu', hu]
    · by_cases hm : n = m
      · subst hm
        rw [removeLogins_port n hu', hport, if_pos rfl, if_pos rfl]
        rfl
      · rw [removeLogins_port_other (Ne.symm hm) hu', hport, if_neg hm, if_neg hm]
    · rw [removeLogins_names n hu', hnames]
      congr 1
      funext m
      simp only [List.mem_singleton, Bool.beq_eq_decide_eq]
    · rw [removeLogins_card n hu', hcard, loggedIn_of_names hnames, CardRec.told, List.flatMap_singleton, lostSends]
      show (if (s.card c).state = .joined then _ else _) = _
      split
      · rw [← CardRec.behind_behind]
        rfl
      · rw [List.append_nil]
  unfold loseServiceable
  dsimp only
  have hdark (m : PortIx) : (s.modPort n fun r => { r with link := .dark }).port m =
      if n = m then { s.port n with link := .dark } else s.port m := modPort_port n m _ s
  split
  next hin =>
    refine hpart _ rfl hdark fun c => ?_
    rw [send, modCard_card]
    by_cases hc : slotOf n = c
    · subst hc
      rw [if_pos rfl, if_pos ⟨rfl, hin⟩]
      rfl
    · rw [if_neg hc, if_neg fun hand => hc hand.1, CardRec.behind_nil]
      rfl
  next hout =>
    refine hpart _ rfl hdark fun c => ?_
    rw [if_neg, CardRec.behind_nil]
    · rfl
    · rintro ⟨rfl, hin⟩
      exact hout hin

/-! ## Eligibility (R5, R55) -/

/-- A port's record once it has lost eligibility, and Serviceable with it where it had that. -/
def portFallen (served : Bool) (r : PortRec) : PortRec :=
  if served then darkened { r with power := .off, hold := false } else { r with power := .off, hold := false }

theorem fallenPort_eq (s : State) (n : PortIx) : fallenPort s n = portFallen (serviceable s n) (s.port n) := rfl

/-- What a port draws of the admitted draw. -/
def drawnBy (power : PortPower) (draw : Nat) : Nat := if power = .admitted then draw else 0

/-- The power record once a port has left it: off the wait list, its draw released. -/
def powerWithout (n : PortIx) (draw : Nat) (p : PowerBudget) : PowerBudget :=
  { p with waitList := p.waitList.filter fun x => x ≠ .port n, admitted := p.admitted - draw }

theorem powerWithout_of_absent {n : PortIx} {p : PowerBudget} (h : WaitItem.port n ∉ p.waitList) (draw : Nat) :
    powerWithout n draw p = { p with admitted := p.admitted - draw } := by
  unfold powerWithout
  rw [List.filter_eq_self.2 fun x hx => by simpa using fun he : x = .port n => h (he ▸ hx)]

/-- A port loses eligibility that it had wherever it was not Off (R5). -/
theorem reviewEligible_lost {n : PortIx} {was : Bool} {s : State} (draw : Nat) (hnow : eligible s n = false)
    (hwas : was = false ↔ (s.port n).power = .off) (hhold : (s.port n).power = .off → (s.port n).hold = false)
    (hlist : WaitItem.port n ∈ s.power.waitList ↔ (s.port n).power = .waiting) :
    reviewEligible n was draw s = { s with
      ports := s.ports.set n { s.port n with power := .off, hold := false }
      power := powerWithout n (drawnBy (s.port n).power draw) s.power } := by
  unfold reviewEligible
  rw [hnow]
  cases was with
  | true =>
    show loseEligibility n draw s = _
    unfold loseEligibility setPower State.modPort
    cases hpower : (s.port n).power with
    | off => exact absurd (hwas.2 hpower) nofun
    | waiting => rfl
    | admitted =>
      have habsent : WaitItem.port n ∉ s.power.waitList := fun hm => by
        have := hlist.1 hm
        rw [hpower] at this
        cases this
      rw [powerWithout_of_absent habsent]
      rfl
  | false =>
    have hoff := hwas.1 rfl
    have habsent : WaitItem.port n ∉ s.power.waitList := fun hm => by
      have := hlist.1 hm
      rw [hoff] at this
      cases this
    have hsame : ({ s.port n with power := .off, hold := false } : PortRec) = s.port n := by rw [← hoff, ← hhold hoff]
    show s = _
    rw [hsame, powerWithout_of_absent habsent, hoff]
    have hset : s.ports.set n (s.port n) = s.ports := Vector.set_getElem_self _
    rw [hset]
    rfl

/-- One port that is no longer eligible, reviewed (R5, R7). -/
theorem review_lost {n : PortIx} {was served : Bool} {s : State} (draw : Nat) (h : NamesLawful s) (hnow : eligible s n = false)
    (hwas : was = false ↔ (s.port n).power = .off) (hhold : (s.port n).power = .off → (s.port n).hold = false)
    (hlist : WaitItem.port n ∈ s.power.waitList ↔ (s.port n).power = .waiting) :
    let t := reviewServiceable n served (reviewEligible n was draw s)
    t = { s with
      ports := t.ports, cards := t.cards, names := t.names, power := powerWithout n (drawnBy (s.port n).power draw) s.power } ∧
    (∀ m, t.port m = if n = m then portFallen served (s.port n) else s.port m) ∧ Falls (if served then [n] else []) s t := by
  have hstep := reviewEligible_lost draw hnow hwas hhold hlist
  have hoff : ∀ m, (reviewEligible n was draw s).port m = if n = m then { s.port n with power := .off, hold := false } else s.port m :=
    fun m => by
      rw [hstep]
      exact modPort_port n m (fun r => { r with power := .off, hold := false }) s
  have hnot : serviceable (reviewEligible n was draw s) n = false := by
    refine Bool.eq_false_iff.2 fun hs => ?_
    have hpower := (serviceable_iff.1 hs).2.2
    rw [hoff, if_pos rfl] at hpower
    cases hpower
  have hnames : (reviewEligible n was draw s).names = s.names := by rw [hstep]
  have hcards : (reviewEligible n was draw s).cards = s.cards := by rw [hstep]
  have hlawful := h.of_names hnames
  generalize reviewEligible n was draw s = u at hstep hoff hnot hnames hcards hlawful
  unfold reviewServiceable
  rw [hnot]
  cases served with
  | true =>
    obtain ⟨hframe, hport, hfalls⟩ := loseServiceable_spec n hlawful
    refine ⟨?_, fun m => ?_, hfalls.of_records hnames.symm hcards.symm rfl rfl⟩
    · show loseServiceable n u = _
      rw [hframe, hstep]
    · show (loseServiceable n u).port m = _
      rw [hport, hoff, hoff, if_pos rfl]
      split <;> rfl
  | false => exact ⟨by rw [hstep], hoff, .nil h hnames hcards⟩

/-! ## Lists of ports -/

/-- The power record once the ports of a list have left it, each with its draw as it stands before. -/
def powerWithoutAll (s : State) (l : List PortIx) (p : PowerBudget) : PowerBudget :=
  { p with
    waitList := p.waitList.filter fun x => ∀ n ∈ l, x ≠ .port n
    admitted := p.admitted - (l.map fun n => drawnBy (s.port n).power (portDraw s n)).sum }

theorem powerWithoutAll_nil (s : State) (p : PowerBudget) : powerWithoutAll s [] p = p := by
  simp [powerWithoutAll]

theorem powerWithoutAll_cons (s : State) (n : PortIx) (l : List PortIx) (p : PowerBudget) :
    powerWithoutAll s l (powerWithout n (drawnBy (s.port n).power (portDraw s n)) p) = powerWithoutAll s (n :: l) p := by
  have hlist : ((p.waitList.filter fun x => x ≠ .port n).filter fun x => ∀ m ∈ l, x ≠ .port m) =
      p.waitList.filter fun x => ∀ m ∈ n :: l, x ≠ .port m := by
    rw [List.filter_filter]
    refine List.filter_congr fun x _ => ?_
    rw [← Bool.decide_and]
    refine decide_eq_decide.2 ?_
    rw [List.forall_mem_cons, and_comm]
  unfold powerWithoutAll powerWithout
  dsimp only
  rw [hlist, List.map_cons, List.sum_cons, Nat.sub_sub]

/-- What some of a list contribute to a sum. -/
theorem sum_map_filter {α : Type} (test : α → Bool) (f : α → Nat) (l : List α) :
    ((l.filter test).map f).sum = (l.map fun x => if test x then f x else 0).sum := by
  induction l with
  | nil => rfl
  | cons x l ih =>
    rw [List.filter_cons, List.map_cons, List.sum_cons, ← ih]
    split
    · rfl
    · rw [Nat.zero_add]

/-- The draws of some ports, gone through in any order. -/
theorem drawOf_eq {s : State} {gone : PortIx → Bool} {l : List PortIx} (hl : l.Nodup) (h : ∀ n, gone n = true ↔ n ∈ l) :
    drawOf s gone = (l.map fun n => drawnBy (s.port n).power (portDraw s n)).sum := by
  have hperm : ((List.finRange 672).filter gone).Perm l :=
    (List.perm_ext_iff_of_nodup ((List.nodup_finRange 672).filter _) hl).2 fun n => by
      rw [List.mem_filter, h, and_iff_right (List.mem_finRange n)]
  rw [← (hperm.map _).sum_eq, drawOf, sum_map_filter]
  refine congrArg List.sum (List.map_congr_left fun n _ => ?_)
  cases hg : gone n with
  | false => rfl
  | true => by_cases hp : (s.port n).power = .admitted <;> simp [drawnBy, hp]

theorem powerWithoutAll_eq {s : State} {gone : PortIx → Bool} {l : List PortIx} (hl : l.Nodup) (h : ∀ n, gone n = true ↔ n ∈ l) :
    powerWithoutAll s l s.power = budgetWithout s gone := by
  have hlist : (s.power.waitList.filter fun x => ∀ n ∈ l, x ≠ .port n) = s.power.waitList.filter fun
      | .card _ => true
      | .port n => !gone n := by
    refine List.filter_congr fun x _ => ?_
    cases x with
    | card c => simp
    | port m =>
      show decide (∀ n ∈ l, WaitItem.port m ≠ .port n) = !gone m
      cases hg : gone m with
      | true => exact decide_eq_false fun (hall : ∀ n ∈ l, WaitItem.port m ≠ .port n) => hall m ((h m).1 hg) rfl
      | false =>
        refine decide_eq_true fun n hn he => ?_
        cases he
        rw [(h m).2 hn] at hg
        cases hg
  rw [powerWithoutAll, budgetWithout, drawOf_eq hl h, hlist] <;> rfl

/-- The names once some ports have lost Serviceable are those that the removals of their logins leave. -/
theorem namesWithout_eq (s : State) (gone : PortIx → Bool) :
    namesWithout s gone = namesAfter (fun n => gone n && serviceable s n) s.names := by
  refine List.filterMap_congr fun x _ => ?_
  unfold leftOf NameEntry.loggedOut
  split
  · obtain ⟨k, name, port, status⟩ := x
    cases status <;> rfl
  · rfl

end Sys2Proof.Machine

/-! PROOFS. The ports of a card that leaves service or is fenced, and the card itself as it leaves its state (R9, R31 to R37). -/

namespace Sys2Proof.Machine

/-- One port of a list after the other, those that pass a test. -/
theorem Falls.filter_cons {n : PortIx} {l : List PortIx} {test : PortIx → Bool} {s u t : State}
    (h : Falls (if test n = true then [n] else []) s u) (h' : Falls (l.filter test) u t) (hn : n ∉ l) :
    Falls ((n :: l).filter test) s t := by
  have hdisjoint : ∀ m ∈ l.filter test, m ∉ (if test n = true then [n] else []) := fun m hm hin => by
    have hne : m ≠ n := fun he => hn (he ▸ (List.mem_filter.1 hm).1)
    split at hin
    · exact hne (List.mem_singleton.1 hin)
    · cases hin
  have happend := h.append h' hdisjoint
  rw [List.filter_cons]
  split at happend
  next hs => rwa [if_pos hs]
  next hs => rwa [if_neg hs]

/-- What the ports of a list are before they follow their card out of service: as they were, and right with what was eligible. -/
structure Leaving (before : State) (l : List PortIx) (s : State) : Prop where
  nodup : l.Nodup
  lawful : NamesLawful s
  out : ∀ n ∈ l, eligible s n = false
  port : ∀ n ∈ l, s.port n = before.port n
  off : ∀ n ∈ l, eligible before n = false ↔ (before.port n).power = .off
  hold : ∀ n ∈ l, (before.port n).power = .off → (before.port n).hold = false
  list : ∀ n ∈ l, WaitItem.port n ∈ s.power.waitList ↔ (before.port n).power = .waiting

/-- The ports of a list that follow a card out of service (R5, R7, R9). -/
theorem follow_out {before : State} {l : List PortIx} {s : State} (h : Leaving before l s) :
    let t := forEach l (fun n s => reviewServiceable n (serviceable before n)
      (reviewEligible n (eligible before n) (portDraw before n) s)) s
    t = { s with ports := t.ports, cards := t.cards, names := t.names, power := powerWithoutAll before l s.power } ∧
    (∀ n, t.port n = if n ∈ l then fallenPort before n else s.port n) ∧ Falls (l.filter (serviceable before)) s t := by
  induction l generalizing s with
  | nil =>
    refine ⟨?_, fun n => rfl, .nil h.lawful rfl rfl⟩
    rw [powerWithoutAll_nil]
    rfl
  | cons n l ih =>
    obtain ⟨hn, hl⟩ := List.nodup_cons.1 h.nodup
    have hmem : n ∈ n :: l := List.mem_cons_self
    have hsame := h.port n hmem
    obtain ⟨hframe, hport, hfalls⟩ := review_lost (n := n) (was := eligible before n) (served := serviceable before n)
      (portDraw before n) h.lawful (h.out n hmem) (by rw [hsame]; exact h.off n hmem) (by rw [hsame]; exact h.hold n hmem)
      (by rw [hsame]; exact h.list n hmem)
    simp only [forEach_cons]
    rw [hsame] at hport
    have hpower : (reviewServiceable n (serviceable before n) (reviewEligible n (eligible before n) (portDraw before n) s)).power =
        powerWithout n (drawnBy (before.port n).power (portDraw before n)) s.power := by rw [hframe, hsame]
    generalize reviewServiceable n (serviceable before n) (reviewEligible n (eligible before n) (portDraw before n) s) = u
      at hframe hport hfalls hpower
    have hother (m : PortIx) (hm : m ∈ l) : u.port m = s.port m := by rw [hport, if_neg fun he : n = m => hn (he ▸ hm)]
    have hleaving : Leaving before l u := by
      refine ⟨hl, hfalls.lawful, fun m hm => ?_, fun m hm => ?_, fun m hm => h.off m (List.mem_cons_of_mem _ hm),
        fun m hm => h.hold m (List.mem_cons_of_mem _ hm), fun m hm => ?_⟩
      · rw [eligible_congr (s := s) (by rw [hother m hm]) (by rw [hother m hm]) (hfalls.state _) (hfalls.identity _)]
        exact h.out m (List.mem_cons_of_mem _ hm)
      · rw [hother m hm]
        exact h.port m (List.mem_cons_of_mem _ hm)
      · rw [← h.list m (List.mem_cons_of_mem _ hm), hpower]
        have hne : m ≠ n := fun he => hn (he ▸ hm)
        simp [powerWithout, hne]
    obtain ⟨hframe', hport', hfalls'⟩ := ih hleaving
    refine ⟨?_, fun m => ?_, ?_⟩
    · rw [hframe', hpower, powerWithoutAll_cons, hframe]
    · rw [hport', hport]
      simp only [fallenPort_eq]
      by_cases hm : n = m
      · subst hm
        simp [hn]
      · simp [hm, Ne.symm hm]
    · exact hfalls.filter_cons hfalls' hn

/-- The ports of a list whose card stays in service but is Joined no more: each that was Serviceable loses it (R7, R32). -/
theorem follow_fenced {before : State} {l : List PortIx} (hl : l.Nodup) {s : State} (h : NamesLawful s)
    (heligible : ∀ n ∈ l, eligible s n = eligible before n) (hout : ∀ n ∈ l, (s.card (slotOf n)).state ≠ .joined) :
    let t := forEach l (fun n s => reviewServiceable n (serviceable before n)
      (reviewEligible n (eligible before n) (portDraw before n) s)) s
    t = { s with ports := t.ports, cards := t.cards, names := t.names } ∧
    (∀ n, t.port n = if n ∈ l ∧ serviceable before n = true then darkened (s.port n) else s.port n) ∧
    Falls (l.filter (serviceable before)) s t := by
  induction l generalizing s with
  | nil => exact ⟨rfl, fun n => (if_neg fun hand => nomatch hand.1).symm, .nil h rfl rfl⟩
  | cons n l ih =>
    obtain ⟨hn, hl⟩ := List.nodup_cons.1 hl
    have hself := heligible n List.mem_cons_self
    have hnot : serviceable s n = false :=
      Bool.eq_false_iff.2 fun hs => hout n List.mem_cons_self (serviceable_iff.1 hs).2.1
    simp only [forEach_cons]
    rw [reviewEligible_self _ hself.symm]
    have hrest {u : State} (hframe : u = { s with ports := u.ports, cards := u.cards, names := u.names })
        (hport : ∀ m, u.port m = if n = m ∧ serviceable before n = true then darkened (s.port n) else s.port m)
        (hfalls : Falls (if serviceable before n = true then [n] else []) s u) :
        let t := forEach l (fun n s => reviewServiceable n (serviceable before n)
          (reviewEligible n (eligible before n) (portDraw before n) s)) u
        t = { s with ports := t.ports, cards := t.cards, names := t.names } ∧
        (∀ m, t.port m = if m ∈ n :: l ∧ serviceable before m = true then darkened (s.port m) else s.port m) ∧
        Falls ((n :: l).filter (serviceable before)) s t := by
      have hother (m : PortIx) (hm : m ∈ l) : u.port m = s.port m := by
        rw [hport, if_neg fun hand : n = m ∧ _ => hn (hand.1 ▸ hm)]
      obtain ⟨hframe', hport', hfalls'⟩ := ih hl hfalls.lawful (fun m hm => by
          rw [← heligible m (List.mem_cons_of_mem _ hm)]
          exact eligible_congr (by rw [hother m hm]) (by rw [hother m hm]) (hfalls.state _) (hfalls.identity _))
        fun m hm => by rw [hfalls.state]; exact hout m (List.mem_cons_of_mem _ hm)
      refine ⟨?_, fun m => ?_, ?_⟩
      · rw [hframe', hframe]
      · rw [hport']
        by_cases hm : m = n
        · subst hm
          rw [if_neg fun hand => hn hand.1, hport]
          simp
        · rw [hport, if_neg (c := n = m ∧ serviceable before n = true) fun hand => hm hand.1.symm]
          simp [hm]
      · exact hfalls.filter_cons hfalls' hn
    unfold reviewServiceable
    rw [hnot]
    cases hserved : serviceable before n with
    | true =>
      obtain ⟨hframe, hport, hfalls⟩ := loseServiceable_spec n h
      exact hrest hframe (fun m => by rw [hport, hserved]; simp) (by rw [hserved]; exact hfalls)
    | false => exact hrest rfl (fun m => by rw [hserved]; simp) (by rw [hserved]; exact .nil h rfl rfl)

end Sys2Proof.Machine

/-! PROOFS. What only grows as ports fall and passes run: a dark port without logins stays so, and a message that waits on a link goes on
waiting (R7, R38). And what a restore pass leaves where an item may stand twice on its list (R50). -/

namespace Sys2Proof.Machine

/-! ## Dark ports and waiting messages -/

/-- A port whose link is Dark and on which nothing is logged in. -/
def Dark (s : State) (n : PortIx) : Prop := (s.port n).link = .dark ∧ (s.port n).logins = 0

/-- From s to t every dark port without logins has stayed so, and every waiting message waits still. -/
structure Grows (s t : State) : Prop where
  dark : ∀ n, Dark s n → Dark t n
  mail : ∀ c m, m ∈ (s.card c).outbox → m ∈ (t.card c).outbox

namespace Grows

variable {s t u : State}

theorem refl (s : State) : Grows s s := ⟨fun _ => id, fun _ _ => id⟩

theorem trans (h : Grows s t) (h' : Grows t u) : Grows s u :=
  ⟨fun n hn => h'.dark n (h.dark n hn), fun c m hm => h'.mail c m (h.mail c m hm)⟩

theorem of_records (h : Grows s t) (hp : u.ports = t.ports) (hk : u.cards = t.cards) : Grows s u :=
  h.trans ⟨fun n hn => by unfold Dark at hn ⊢; rwa [port_of_ports hp], fun c m hm => by rwa [card_of_cards hk]⟩

theorem port (n : PortIx) (f : PortRec → PortRec) (hf : ∀ r : PortRec, r.link = .dark → r.logins = 0 →
    (f r).link = .dark ∧ (f r).logins = 0) (h : Grows s t) : Grows s (t.modPort n f) := by
  refine h.trans ⟨fun m hm => ?_, fun _ _ => id⟩
  unfold Dark at hm ⊢
  rw [modPort_port]
  split
  next he => exact hf _ (he ▸ hm.1) (he ▸ hm.2)
  next => exact hm

theorem card (slot : Slot) (f : CardRec → CardRec) (hf : ∀ (c : CardRec) (m), m ∈ c.outbox → m ∈ (f c).outbox) (h : Grows s t) :
    Grows s (t.modCard slot f) := by
  refine h.trans ⟨fun _ => id, fun c m hm => ?_⟩
  rw [modCard_card]
  split
  next he => exact hf _ m (he ▸ hm)
  next => exact hm

theorem send (slot : Slot) (m : CardMsg) (h : Grows s t) : Grows s (Machine.send slot m t) :=
  h.card slot _ fun _ _ hm => List.mem_append_left _ hm

theorem power (f : PowerBudget → PowerBudget) (h : Grows s t) : Grows s (t.modPower f) := h.of_records rfl rfl

theorem reason (r : Reason) (h : Grows s t) : Grows s (addReason r t) := h.of_records rfl rfl

theorem forEach {α : Type} {act : α → State → State} (ha : ∀ x t, Grows s t → Grows s (act x t)) (l : List α) (h : Grows s t) :
    Grows s (Machine.forEach l act t) :=
  forEach_keeps ha l h

theorem sendJoined (m : CardMsg) (h : Grows s t) : Grows s (Machine.sendJoined m t) := by
  refine h.forEach (fun slot t ht => ?_) _
  split
  · exact ht.send slot m
  · exact ht

theorem removeLogins (n : PortIx) (h : Grows s t) : Grows s (Machine.removeLogins n t) := by
  refine port n _ (fun r hd _ => ⟨hd, rfl⟩) (h.forEach (act := endLoginAt) (fun pos t ht => ?_) _)
  unfold endLoginAt
  split
  next e _ =>
    rw [endLogin_eq]
    refine sendJoined _ (port e.port (fun r => { r with logins := r.logins - 1 }) (fun r hd hl => ⟨hd, by rw [hl]⟩) ?_)
    rw [writeLogout_eq]
    exact ht.of_records rfl rfl
  next => exact ht

theorem loseServiceable (n : PortIx) (h : Grows s t) : Grows s (Machine.loseServiceable n t) := by
  have hdark := h.port n (fun r => { r with link := .dark }) fun r _ hl => ⟨rfl, hl⟩
  unfold Machine.loseServiceable
  refine removeLogins n ?_
  split
  · exact hdark.send _ _
  · exact hdark

theorem reviewServiceable (n : PortIx) (was : Bool) (h : Grows s t) : Grows s (Machine.reviewServiceable n was t) := by
  unfold Machine.reviewServiceable
  split
  · exact h.loseServiceable n
  · exact h.send _ _
  · exact h
  · exact h

theorem setPower (n : PortIx) (p : PortPower) (hold : Bool) (h : Grows s t) : Grows s (Machine.setPower n p hold t) :=
  h.port n _ fun _ hd hl => ⟨hd, hl⟩

theorem reviewEligible (n : PortIx) (was : Bool) (draw : Nat) (h : Grows s t) : Grows s (Machine.reviewEligible n was draw t) := by
  unfold Machine.reviewEligible
  split
  · unfold loseEligibility
    refine setPower n _ _ ?_
    split
    · exact h.power _
    · exact h.power _
    · exact h
  · exact (h.setPower n .waiting (atCap t n)).of_records rfl rfl
  · exact h
  · exact h

theorem portsFollowCard (slot : Slot) (before : State) (h : Grows s t) : Grows s (Machine.portsFollowCard slot before t) :=
  h.forEach (fun _ _ ht => (ht.reviewEligible _ _ _).reviewServiceable _ _) _

theorem admitPort (n : PortIx) (h : Grows s t) : Grows s (Machine.admitPort n t) := by
  rw [admitPort_eq]
  exact ((((h.power _).setPower n _ _)).power _).reviewServiceable n _

theorem admitCard (slot : Slot) (h : Grows s t) : Grows s (Machine.admitCard slot t) := by
  refine h.trans ⟨fun _ => id, fun c m hm => ?_⟩
  rw [(admitCard_spec slot t).2]
  split
  next he => exact List.mem_append_left _ (he ▸ hm)
  next => exact hm

theorem restorePass (h : Grows s t) : Grows s (Machine.restorePass t) := by
  have hloop := h.forEach (act := restoreItem) (fun x u hu => by
    cases x with
    | card c =>
      rw [restoreItem_card]
      split
      · exact hu.admitCard c
      · exact hu
    | port n =>
      rw [restoreItem_port]
      split
      · exact hu.admitPort n
      · exact hu) t.power.waitList
  unfold Machine.restorePass
  dsimp only
  split
  · exact hloop.reason _
  · exact hloop

theorem settleDeficit (h : Grows s t) : Grows s (Machine.settleDeficit t) := by
  rw [settleDeficit_eq]
  exact h.of_records rfl rfl

end Grows

/-- A port that loses Serviceable is dark, and its Revoke waits where its card is in service (R7). -/
theorem loseServiceable_dark (n : PortIx) (s : State) : Dark (loseServiceable n s) n ∧
    ((cardOf s n).state.inService = true → CardMsg.revoke (posOf n) ∈ ((loseServiceable n s).card (slotOf n)).outbox) := by
  have hport (u : State) (hu : (u.port n).link = .dark) : Dark (removeLogins n u) n := by
    have hkept : ((forEach ((entriesOn u n).map Prod.fst) endLoginAt u).port n).link = (u.port n).link :=
      forEach_keeps (P := fun t => (t.port n).link = (u.port n).link) (fun pos t ht => by
        unfold endLoginAt
        split
        next e _ =>
          rw [endLogin_eq, sendJoined_port, lowerLogins, modPort_port, writeLogout_port]
          split
          next he => subst he; exact ht
          next => rw [writeLogout_port]; exact ht
        next => exact ht) _ rfl
    rw [removeLogins_eq]
    unfold Dark
    rw [modPort_port_same]
    exact ⟨hkept.trans hu, rfl⟩
  have hdark : ((s.modPort n fun r => { r with link := .dark }).port n).link = .dark := by rw [modPort_port_same]
  unfold loseServiceable
  dsimp only
  split
  next hin =>
    refine ⟨hport _ ?_, fun _ => (Grows.removeLogins n (.refl _)).mail _ _ ?_⟩
    · exact hdark
    · rw [send, modCard_card_same]
      exact List.mem_append_right _ (List.mem_singleton.2 rfl)
  next hout =>
    exact ⟨hport _ hdark, fun hin => absurd hin hout⟩

/-! ## A restore pass over any list (R50) -/

/-- From s to t some of a list's items have been admitted: of the ports only their power has moved, of a card that is not on the list
only what waits on its link. -/
structure Restores (l : List WaitItem) (s t : State) : Prop where
  frame : t = { s with ports := t.ports, cards := t.cards, power := t.power, attn := t.attn }
  port : ∀ n, t.port n = { s.port n with power := (t.port n).power }
  power : ∀ n, (t.port n).power = (s.port n).power ∨
    ((s.port n).power = .waiting ∧ WaitItem.port n ∈ l ∧ (t.port n).power = .admitted)
  card : ∀ c, WaitItem.card c ∉ l → ∃ k, t.card c = (s.card c).behind k ∧ ((s.card c).state ≠ .joined → k = []) ∧ fallsOf k = []
  supply : t.power.supply = s.power.supply

theorem Restores.refl (s : State) : Restores [] s s :=
  ⟨rfl, fun _ => rfl, fun _ => .inl rfl, fun _ _ => ⟨[], (CardRec.behind_nil _).symm, fun _ => rfl, rfl⟩, rfl⟩

theorem fallsOf_append (l l' : List CardMsg) : fallsOf (l ++ l') = fallsOf l ++ fallsOf l' := List.filter_append ..

theorem Restores.cons {x : WaitItem} {l : List WaitItem} {s u t : State} (h : Restores [x] s u) (h' : Restores l u t) :
    Restores (x :: l) s t := by
  refine ⟨by rw [h'.frame, h.frame], fun n => ?_, fun n => ?_, fun c hc => ?_, h'.supply.trans h.supply⟩
  · rw [h'.port, h.port]
  · rcases h'.power n with he | ⟨hw, hm, ha⟩
    · rw [he]
      exact (h.power n).imp_right fun ⟨hw, hm, ha⟩ => ⟨hw, List.mem_cons.2 (.inl (List.mem_singleton.1 hm)), ha⟩
    · rcases h.power n with he | ⟨-, -, ha'⟩
      · exact .inr ⟨he ▸ hw, List.mem_cons_of_mem _ hm, ha⟩
      · rw [ha'] at hw
        cases hw
  · obtain ⟨hx, hl⟩ := not_or.1 fun hor => hc (List.mem_cons.2 hor)
    obtain ⟨k, hk, hout, hfalls⟩ := h.card c fun hm => hx (List.mem_singleton.1 hm)
    obtain ⟨k', hk', hout', hfalls'⟩ := h'.card c hl
    refine ⟨k ++ k', by rw [hk', hk, CardRec.behind_behind], fun hj => ?_, by rw [fallsOf_append, hfalls, hfalls']; rfl⟩
    rw [hout hj, hout' (by rw [hk]; exact hj)]
    rfl

theorem restores_restoreItem {x : WaitItem} {s : State} (h : WaitsLaw False False s) (hx : Restorable False s x) :
    Restores [x] s (restoreItem x s) := by
  have hself : Restores [x] s s :=
    ⟨rfl, fun _ => rfl, fun _ => .inl rfl, fun c _ => ⟨[], (CardRec.behind_nil _).symm, fun _ => rfl, rfl⟩, rfl⟩
  cases x with
  | card c =>
    rw [restoreItem_card]
    split
    · obtain ⟨hframe, hcard⟩ := admitCard_spec c s
      refine ⟨by rw [hframe], fun n => rfl, fun n => .inl rfl, fun e he => ⟨[], ?_, fun _ => rfl, rfl⟩, by rw [hframe]; rfl⟩
      rw [hcard, if_neg fun hce : c = e => he (by rw [hce]; exact List.mem_singleton.2 rfl), CardRec.behind_nil]
    · exact hself
  | port n =>
    rw [restoreItem_port]
    split
    · rcases hx with hwaiting | ⟨-, hadmitted⟩
      · obtain ⟨hframe, hcard⟩ := admitPort_spec hwaiting (h.eligible_of_power (by rw [hwaiting]; nofun))
        have hport (m : PortIx) : (admitPort n s).port m = if n = m then { s.port n with power := .admitted } else s.port m := by
          rw [hframe]
          exact modPort_port n m (fun _ => { s.port n with power := .admitted }) s
        refine ⟨by rw [hframe], fun m => ?_, fun m => ?_, fun e _ => ?_, by rw [hframe]; rfl⟩
        · rw [hport]
          split
          next he => rw [← he]
          next => rfl
        · rw [hport]
          split
          next he => exact .inr ⟨he ▸ hwaiting, by rw [he]; exact List.mem_singleton.2 rfl, rfl⟩
          next => exact .inl rfl
        · rw [hcard]
          split
          next hand => exact ⟨[.permit (posOf n)], rfl, fun hj => absurd hand.2 hj, rfl⟩
          next => exact ⟨[], (CardRec.behind_nil _).symm, fun _ => rfl, rfl⟩
      · have hport (m : PortIx) : (admitted n s).port m = s.port m := by
          by_cases hm : m = n
          · rw [hm, admitted_port_self, ← hadmitted]
          · exact admitted_port_other hm s
        have hserv : serviceable (admitted n s) n = serviceable (chargeDraw (portDraw s n) (leaveWait (.port n) s)) n :=
          serviceable_congr (by rw [hport]; rfl) (by rw [hport]; rfl) (by rw [hport]; rfl) rfl rfl
        have heq : admitPort n s = admitted n s := by
          rw [admitPort_eq, ← hserv]
          unfold reviewServiceable
          cases serviceable (admitted n s) n <;> rfl
        rw [heq]
        exact ⟨rfl, fun m => by rw [hport], fun m => .inl (by rw [hport]),
          fun c _ => ⟨[], (CardRec.behind_nil _).symm, fun _ => rfl, rfl⟩, rfl⟩
    · exact hself

theorem restores_forEach {l : List WaitItem} {s : State} (h : WaitsLaw False False s) (hx : ∀ x ∈ l, Restorable False s x) :
    Restores l s (forEach l restoreItem s) := by
  induction l generalizing s with
  | nil => exact .refl s
  | cons x l ih =>
    have hxr := hx x List.mem_cons_self
    obtain ⟨hlaw, hrest⟩ := h.restoreItem hxr
    rw [forEach_cons]
    exact (restores_restoreItem h hxr).cons (ih hlaw fun y hy => hrest y (hx y (List.mem_cons_of_mem _ hy)) (.inr id))

theorem restores_restorePass {s : State} (h : WaitsLaw False False s) : Restores s.power.waitList s (restorePass s) := by
  have hloop := restores_forEach h fun x hx => h.restorable hx
  unfold restorePass
  dsimp only
  split
  · exact ⟨by rw [hloop.frame]; rfl, hloop.port, hloop.power, hloop.card, hloop.supply⟩
  · exact hloop

/-- A restore pass with nothing waiting does nothing. -/
theorem restorePass_of_nil {s : State} (h : s.power.waitList = []) : restorePass s = s := by
  unfold restorePass
  rw [h]
  rfl

end Sys2Proof.Machine

/-! PROOFS. The timeouts of the join handshake (R24, R25, R30, R34), and what the end of an event, a restore pass and the settling of the
deficit, leaves as it was. -/

namespace Sys2Proof.Machine

/-! ## What no operation of the blocks writes -/

theorem Moves.chassis_eq {k : Scope} {s t : State} (h : Moves k s t) : t.license.chassis = s.license.chassis := by
  induction h with
  | raise r _ ih => rw [raiseAlarm_eq]; exact ih
  | clear c subject _ ih => rw [endAlarm_eq]; exact ih
  | refl => rfl
  | _ => rename_i ih; exact ih

theorem Moves.outside {k : Scope} {s t : State} (h : Moves k s t) : OutsideKept s t :=
  ⟨h.cmd_eq, h.params_eq, h.chassis_eq, h.uptime_eq, h.pending_eq⟩

/-- The Zone Store and the Commit Engine are as they were. -/
def EngineStill (s t : State) : Prop := t.zones = s.zones ∧ t.commit = s.commit

theorem EngineStill.enginesKept {s t : State} (h : EngineStill s t) (hs : SensorsKept s t) : EnginesKept s t := ⟨h.1, h.2, hs⟩

theorem EngineStill.trans {s t u : State} (h : EngineStill s t) (h' : EngineStill t u) : EngineStill s u :=
  ⟨h'.1.trans h.1, h'.2.trans h.2⟩

theorem EngineApart.still {s t : State} (h : EngineApart s t) : EngineStill s t := ⟨h.zones, h.commit⟩

theorem restoreItem_engine (x : WaitItem) (s : State) : EngineStill s (restoreItem x s) := by
  cases x with
  | card c =>
    rw [restoreItem_card]
    split <;> exact ⟨rfl, rfl⟩
  | port n =>
    rw [restoreItem_port]
    split
    · exact ((EngineApart.refl s).admitPort n).still
    · exact ⟨rfl, rfl⟩

theorem restorePass_engine (s : State) : EngineStill s (restorePass s) := by
  have hloop := forEach_keeps (P := EngineStill s) (fun x t ht => ht.trans (restoreItem_engine x t)) s.power.waitList ⟨rfl, rfl⟩
  unfold restorePass
  dsimp only
  split
  · exact ⟨hloop.1, hloop.2⟩
  · exact hloop

theorem settleDeficit_engine (s : State) : EngineStill s (settleDeficit s) := by
  rw [settleDeficit_eq]
  exact ⟨rfl, rfl⟩

theorem settleDeficit_card (s : State) (c : Slot) : (settleDeficit s).card c = s.card c := by rw [settleDeficit_eq]; rfl

theorem settleDeficit_port (s : State) (n : PortIx) : (settleDeficit s).port n = s.port n := by rw [settleDeficit_eq]; rfl

theorem settleDeficit_ports (s : State) : (settleDeficit s).ports = s.ports := by rw [settleDeficit_eq]

theorem settleDeficit_cards (s : State) : (settleDeficit s).cards = s.cards := by rw [settleDeficit_eq]

theorem settleDeficit_names (s : State) : (settleDeficit s).names = s.names := by rw [settleDeficit_eq]

theorem settleDeficit_waitList (s : State) : (settleDeficit s).power.waitList = s.power.waitList := by rw [settleDeficit_eq]

theorem settleDeficit_eligible (s : State) (n : PortIx) : eligible (settleDeficit s) n = eligible s n :=
  eligible_congr (by rw [settleDeficit_port]) (by rw [settleDeficit_port]) (by rw [cardOf, cardOf, settleDeficit_card])
    (by rw [cardOf, cardOf, settleDeficit_card])

theorem settleDeficit_serviceable (s : State) (n : PortIx) : serviceable (settleDeficit s) n = serviceable s n :=
  serviceable_congr (by rw [settleDeficit_port]) (by rw [settleDeficit_port]) (by rw [settleDeficit_port])
    (by rw [cardOf, cardOf, settleDeficit_card]) (by rw [cardOf, cardOf, settleDeficit_card])

/-- Only the deficit's own pair is claimed for as it is settled. -/
theorem settleDeficit_otherAlarms {s : State} (h : AlarmsLawful s) : OtherAlarmsKept s (settleDeficit s) .budgetDeficit 0 := by
  unfold settleDeficit
  split
  · exact otherAlarmsKept_raiseAlarm (plainRaise .budgetDeficit 0 .critical 0) (s := s.modPower fun p => { p with deficit := true }) h
  · exact otherAlarmsKept_endAlarm .budgetDeficit 0 (s := s.modPower fun p => { p with deficit := false }) h
  · exact .of_alarms rfl _ _
  · exact .of_alarms rfl _ _

/-- A card that neither waits nor is Joined is left as it is by the end of an event. -/
theorem Restores.card_eq {l : List WaitItem} {s t : State} (h : Restores l s t) {c : Slot} (hl : WaitItem.card c ∉ l)
    (hj : (s.card c).state ≠ .joined) : t.card c = s.card c := by
  obtain ⟨k, hk, hout, -⟩ := h.card c hl
  rw [hk, hout hj, CardRec.behind_nil]

/-! ## The handshake (R24, R25, R30, R34) -/

theorem modCard_modCard (slot : Slot) (f g : CardRec → CardRec) (s : State) :
    (s.modCard slot f).modCard slot g = s.modCard slot fun c => g (f c) := by
  have hcard : (s.modCard slot f).card slot = f (s.card slot) := modCard_card_same slot f s
  rw [State.modCard, hcard, State.modCard]
  simp only [Vector.set_set]
  rfl

/-- A card as it begins to probe. -/
def probingCard (attempts : Nat) (c : CardRec) : CardRec :=
  { c with
    state := .probing, identity := none, failure := .none, attempts := attempts
    retryTimeout := min (500 * 2 ^ attempts) 4000, timerOn := true, tempValid := false, powerEnable := false, outbox := [.probe] }

theorem startProbe_eq (slot : Slot) (attempts : Nat) (s : State) :
    startProbe slot attempts s = addReason .slot (s.modCard slot (probingCard attempts)) := by
  have hcards : startProbe slot attempts s = addReason .slot (((((s.modCard slot fun c => { c with tempValid := false }).modCard slot
      (CardRec.enter .probing)).modCard slot fun c => { c with attempts := attempts }).modCard slot
      fun c => { c with outbox := c.outbox ++ [.probe] }).modCard slot
      fun c => { c with timerOn := true, retryTimeout := probeTimeoutMs attempts }) := rfl
  rw [hcards]
  simp only [modCard_modCard]
  rfl

/-- A card as it fails. -/
def failedCard (reason : FailureReason) (c : CardRec) : CardRec :=
  { c with
    state := .failed, identity := none, failure := reason, timerOn := false, tempValid := false, powerEnable := false, outbox := [] }

theorem failCard_eq (slot : Slot) (reason : FailureReason) (s : State) : failCard slot reason s =
    raiseAlarm (plainRaise .cardFault (slotNumber slot) .major reason.code) (addReason .slot (s.modCard slot (failedCard reason))) := by
  have hcards : failCard slot reason s = raiseAlarm (plainRaise .cardFault (slotNumber slot) .major reason.code)
      (addReason .slot ((((s.modCard slot fun c => { c with timerOn := false }).modCard slot fun c => { c with tempValid := false }).modCard
        slot (CardRec.enter .failed)).modCard slot fun c => { c with failure := reason })) := rfl
  rw [hcards]
  simp only [modCard_modCard]
  rfl

/-- What a failure writes and claims (R34). -/
theorem failCard_spec (slot : Slot) (reason : FailureReason) {s : State} (h : AlarmsLawful s) (hroom : s.alarms.length < 128) :
    failCard slot reason s = { s with
      cards := s.cards.set slot (failedCard reason (s.card slot)), alarms := (failCard slot reason s).alarms
      attn := (failCard slot reason s).attn } ∧
    AlarmStands (failCard slot reason s) .cardFault (slot.val + 1) .major reason.code ∧
    OtherAlarmsKept s (failCard slot reason s) .cardFault (slot.val + 1) ∧ Noted .slot (failCard slot reason s) := by
  rw [failCard_eq]
  refine ⟨raiseAlarm_eq _ _, alarmStands_raiseAlarm (plainRaise .cardFault (slotNumber slot) .major reason.code) hroom, ?_,
    (noted_addReason_self .slot _).raiseAlarm _⟩
  exact otherAlarmsKept_raiseAlarm (plainRaise .cardFault (slotNumber slot) .major reason.code)
    (s := addReason .slot (s.modCard slot (failedCard reason))) h

/-- What follows an Admitting timeout: the card's new record, and the passes over the state with its draw released. -/
theorem admittingTimeout_spec {slot : Slot} {s u : State} {r : CardRec} (hw : WaitListFollows s)
    (ha : (s.card slot).state = .admitting) (hexec : exec (.admittingTimeout slot) s = .next (settleDeficit (restorePass u)))
    (hu : u = { s with
      cards := s.cards.set slot r, power := { s.power with admitted := s.power.admitted - (s.card slot).baseDraw }
      alarms := u.alarms, attn := u.attn })
    (hr : r.state ≠ .joined) (hlaw : WaitsLaw False False u) (hnoted : Noted .slot u) :
    (settleDeficit (restorePass u)).card slot = r ∧ Noted .slot (settleDeficit (restorePass u)) ∧
      (restorePass u).alarms = u.alarms ∧
      (s.power.waitList = [] →
        (settleDeficit (restorePass u)).power.admitted = s.power.admitted - (s.card slot).baseDraw ∧
        (settleDeficit (restorePass u)).ports = s.ports) ∧
      LicensesKept s (settleDeficit (restorePass u)) ∧ SettingsKept s (settleDeficit (restorePass u)) ∧
      OutsideKept s (settleDeficit (restorePass u)) ∧ EnginesKept s (settleDeficit (restorePass u)) := by
  have hcard : u.card slot = r := by
    rw [hu]
    exact modCard_card_same slot (fun _ => r) s
  have hlist : u.power.waitList = s.power.waitList := by rw [hu]
  have hres := restores_restorePass hlaw
  have hmoves : Moves .power u (settleDeficit (restorePass u)) := Moves.refl.restorePass.settleDeficit
  have hfrom : Moves .power s (settleDeficit (restorePass u)) := by
    have hnext : settleDeficit (admittingTimeout slot s) = settleDeficit (restorePass u) := by injection hexec
    rw [← hnext]
    exact (Moves.refl.admittingTimeout slot).settleDeficit
  have hstill : EngineStill s (settleDeficit (restorePass u)) :=
    EngineStill.trans ⟨by rw [hu], by rw [hu]⟩ ((restorePass_engine u).trans (settleDeficit_engine _))
  refine ⟨?_, hmoves.noted hnoted, by rw [hres.frame], fun hnil => ?_, hfrom.licensesKept rfl, hfrom.settingsKept rfl, hfrom.outside,
    hstill.enginesKept (hfrom.sensorsKept rfl)⟩
  · rw [settleDeficit_card, hres.card_eq, hcard]
    · rw [hlist, hw.1, ha]
      nofun
    · rw [hcard]
      exact hr
  · rw [restorePass_of_nil (hlist.trans hnil), settleDeficit_admitted, settleDeficit_ports]
    exact ⟨by rw [hu], by rw [hu]⟩

end Sys2Proof.Machine

section
open Sys2Proof Sys2Proof.Machine

/-- Settles O25: the start of the handshake, and its two timeouts below and at the limit. -/
theorem probingAndAdmittingTimeouts : Obligations.ProbingAndAdmittingTimeouts := by
  unfold Obligations.ProbingAndAdmittingTimeouts
  refine ⟨fun slot s hpresence hempty => ?_, fun slot s hstate htimer hbelow => ?_, fun slot s hstate htimer hlimit hlaw hroom => ?_,
    fun slot s hstate htimer hwaits => ?_⟩
  · show Host.Outcome.next (presenceRise slot s) = _
    unfold presenceRise
    rw [hpresence, if_neg Bool.false_ne_true]
    dsimp only
    rw [if_pos hempty, startProbe_eq, modCard_modCard]
    rfl
  · show Host.Outcome.next (probeTimeout slot s) = _
    unfold probeTimeout resendProbe startTimer send
    dsimp only
    rw [if_pos ⟨hstate, htimer⟩, if_pos hbelow, modCard_modCard, modCard_modCard]
    rfl
  · have hexec : exec (.probeTimeout slot) s = .next (failCard slot .noAnswer s) := by
      show Host.Outcome.next (probeTimeout slot s) = _
      unfold probeTimeout
      rw [if_pos ⟨hstate, htimer⟩, if_neg (Nat.not_lt.2 hlimit)]
    obtain ⟨hframe, hstands, hother, hnoted⟩ := failCard_spec slot .noAnswer hlaw hroom
    exact ⟨_, hexec, by rw [hframe], by rw [hframe]; rfl, hstands, hother, hnoted⟩
  · have hwl := waitsLaw_iff.2 hwaits
    dsimp only
    refine ⟨fun hbelow => ?_, fun hlimit hlaw hroom => ?_⟩
    · let u := startProbe slot ((s.card slot).attempts + 1) (releaseDraw (s.card slot).baseDraw s)
      have hexec : exec (.admittingTimeout slot) s = .next (settleDeficit (restorePass u)) := by
        show Host.Outcome.next (settleDeficit (admittingTimeout slot s)) = _
        unfold admittingTimeout
        dsimp only
        rw [if_pos ⟨hstate, htimer⟩, if_pos hbelow]
      have hstart : u = _ := startProbe_eq slot ((s.card slot).attempts + 1) (releaseDraw (s.card slot).baseDraw s)
      have hu : u = { s with
          cards := s.cards.set slot (probingCard ((s.card slot).attempts + 1) (s.card slot))
          power := { s.power with admitted := s.power.admitted - (s.card slot).baseDraw }, attn := u.attn } := by
        rw [hstart]
        rfl
      obtain ⟨hcard, hnoted, -, hnil, hlic, hset, hout, heng⟩ :=
        admittingTimeout_spec (r := probingCard ((s.card slot).attempts + 1) (s.card slot)) hwaits hstate hexec (by rw [hu]) nofun
          (hwl.enters_released (startProbe_enters slot _ _) hstate rfl nofun) (hstart ▸ noted_addReason_self .slot _)
      exact ⟨_, hexec, hcard, hnoted, ⟨u, by rw [hcard]; exact hu, rfl⟩, hnil, hlic, hset, hout, heng⟩
    · let u := failCard slot .noReady (releaseDraw (s.card slot).baseDraw s)
      have hexec : exec (.admittingTimeout slot) s = .next (settleDeficit (restorePass u)) := by
        show Host.Outcome.next (settleDeficit (admittingTimeout slot s)) = _
        unfold admittingTimeout
        dsimp only
        rw [if_pos ⟨hstate, htimer⟩, if_neg (Nat.not_lt.2 hlimit)]
      obtain ⟨hframe, hstands, -, hfailed⟩ :=
        failCard_spec slot .noReady (s := releaseDraw (s.card slot).baseDraw s) hlaw hroom
      have hu : u = { s with
          cards := s.cards.set slot (failedCard .noReady (s.card slot))
          power := { s.power with admitted := s.power.admitted - (s.card slot).baseDraw }, alarms := u.alarms, attn := u.attn } := hframe
      obtain ⟨hcard, hnoted, halarms, hnil, hlic, hset, hout, heng⟩ :=
        admittingTimeout_spec (r := failedCard .noReady (s.card slot)) hwaits hstate hexec hu nofun
          (hwl.enters_released (failCard_enters slot .noReady _) hstate rfl nofun) hfailed
      have hlawful : AlarmsLawful (restorePass u) := by
        exact ((Moves.refl (k := .power)).failCard slot .noReady |>.restorePass).alarmsLawful (s := releaseDraw (s.card slot).baseDraw s) hlaw
      exact ⟨_, hexec, hcard, (hstands.of_alarms halarms).of_other (settleDeficit_otherAlarms hlawful) nofun, hnoted,
        ⟨u, by rw [hcard]; exact hu, rfl⟩, hnil, hlic, hset, hout, heng⟩

end

/-! PROOFS. The end of an event: the restore pass where one runs, and the settling of the deficit (R50, R59); and the four port commands
(R13 to R19). -/

namespace Sys2Proof.Machine

/-! ## The end of an event (R50, R59) -/

/-- A port that a restore pass admits on a Joined card has its Permit waiting (R6, R50). -/
theorem permit_of_forEach_restoreItem {n : PortIx} {l : List WaitItem} {s : State} (h : WaitsLaw False False s)
    (hx : ∀ x ∈ l, Restorable False s x) (hwaiting : (s.port n).power = .waiting) (hjoined : (s.card (slotOf n)).state = .joined)
    (hadmitted : ((forEach l restoreItem s).port n).power = .admitted) :
    CardMsg.permit (posOf n) ∈ ((forEach l restoreItem s).card (slotOf n)).outbox := by
  induction l generalizing s with
  | nil =>
    have hstill : (s.port n).power = .admitted := hadmitted
    rw [hwaiting] at hstill
    cases hstill
  | cons x l ih =>
    have hxr := hx x List.mem_cons_self
    obtain ⟨hlaw, hrest⟩ := h.restoreItem hxr
    have hstep := restores_restoreItem h hxr
    rw [forEach_cons] at hadmitted ⊢
    rcases hstep.power n with hstays | ⟨-, hmem, hnow⟩
    · refine ih hlaw (fun y hy => hrest y (hx y (List.mem_cons_of_mem _ hy)) (.inr id)) (hstays.trans hwaiting) ?_ hadmitted
      have hother : WaitItem.card (slotOf n) ∉ [x] := fun hm => by
        rw [← List.mem_singleton.1 hm] at hxr
        rcases hxr with hw | ⟨-, ha⟩
        · rw [hjoined] at hw
          cases hw
        · rw [hjoined] at ha
          cases ha
      obtain ⟨k, hk, -, -⟩ := hstep.card _ hother
      rw [hk]
      exact hjoined
    · have hitem : x = .port n := (List.mem_singleton.1 hmem).symm
      rw [hitem, restoreItem_port] at hnow
      rw [hitem, restoreItem_port]
      split at hnow
      next hfits =>
        rw [if_pos hfits]
        refine (Grows.forEach (fun y t ht => ?_) l (.refl _)).mail _ _ ?_
        · cases y with
          | card c =>
            rw [restoreItem_card]
            split
            · exact ht.admitCard c
            · exact ht
          | port m =>
            rw [restoreItem_port]
            split
            · exact ht.admitPort m
            · exact ht
        · rw [(admitPort_spec hwaiting (h.eligible_of_power (by rw [hwaiting]; nofun))).2, if_pos ⟨rfl, hjoined⟩]
          exact List.mem_append_right _ (List.mem_singleton.2 rfl)
      next =>
        rw [hwaiting] at hnow
        cases hnow

theorem permit_of_restorePass {n : PortIx} {s : State} (h : WaitsLaw False False s) (hwaiting : (s.port n).power = .waiting)
    (hjoined : (s.card (slotOf n)).state = .joined) (hadmitted : ((restorePass s).port n).power = .admitted) :
    CardMsg.permit (posOf n) ∈ ((restorePass s).card (slotOf n)).outbox := by
  have hloop := permit_of_forEach_restoreItem h (fun x hx => h.restorable hx) hwaiting hjoined
  unfold restorePass at hadmitted ⊢
  dsimp only at hadmitted ⊢
  split
  next hless =>
    rw [if_pos hless] at hadmitted
    exact hloop hadmitted
  next hless =>
    rw [if_neg hless] at hadmitted
    exact hloop hadmitted

/-- From u to t an event has ended: a restore pass has run or not, and the deficit has been settled. -/
structure EventEnds (u t : State) : Prop where
  frame : t = { u with ports := t.ports, cards := t.cards, power := t.power, alarms := t.alarms, attn := t.attn }
  law : WaitsLaw False False t
  port : ∀ n, t.port n = { u.port n with power := (t.port n).power }
  power : ∀ n, (t.port n).power = (u.port n).power ∨ ((u.port n).power = .waiting ∧ (t.port n).power = .admitted)
  card : ∀ c, (u.card c).state ≠ .waiting →
    ∃ k, t.card c = (u.card c).behind k ∧ ((u.card c).state ≠ .joined → k = []) ∧ fallsOf k = []
  permit : ∀ n, (u.port n).power = .waiting → (u.card (slotOf n)).state = .joined → (t.port n).power = .admitted →
    CardMsg.permit (posOf n) ∈ (t.card (slotOf n)).outbox
  grows : Grows u t
  supply : t.power.supply = u.power.supply

theorem eventEnds_settled {s : State} (h : WaitsLaw False False s) : EventEnds s (settleDeficit s) where
  frame := by rw [settleDeficit_eq]
  law := h.settleDeficit
  port n := by rw [settleDeficit_port]
  power n := .inl (by rw [settleDeficit_port])
  card c _ := ⟨[], by rw [settleDeficit_card, CardRec.behind_nil], fun _ => rfl, rfl⟩
  permit n hw _ ha := by
    rw [settleDeficit_port, hw] at ha
    cases ha
  grows := (Grows.refl s).settleDeficit
  supply := settleDeficit_supply s

theorem eventEnds_restored {s : State} (h : WaitsLaw False False s) : EventEnds s (settleDeficit (restorePass s)) := by
  have hpass := restores_restorePass h
  have hend := eventEnds_settled h.restorePass
  refine ⟨by rw [hend.frame, hpass.frame], hend.law, fun n => ?_, fun n => ?_, fun c hc => ?_, fun n hw hj ha => ?_,
    (Grows.refl s).restorePass.settleDeficit, hend.supply.trans hpass.supply⟩
  · rw [settleDeficit_port]
    exact hpass.port n
  · rw [settleDeficit_port]
    exact (hpass.power n).imp_right fun hmoved => ⟨hmoved.1, hmoved.2.2⟩
  · rw [settleDeficit_card]
    exact hpass.card c fun hm => hc ((waitsLaw_iff.1 h).1 c |>.1 hm)
  · rw [settleDeficit_port] at ha
    rw [settleDeficit_card]
    exact permit_of_restorePass h hw hj ha

theorem eventEnds_restoredIf {s : State} (h : WaitsLaw False False s) (c : Prop) [Decidable c] :
    EventEnds s (settleDeficit (if c then restorePass s else s)) := by
  split
  · exact eventEnds_restored h
  · exact eventEnds_settled h

namespace EventEnds

variable {u t : State}

theorem intent (h : EventEnds u t) (n : PortIx) : (t.port n).intent = (u.port n).intent := by rw [h.port]

theorem priority (h : EventEnds u t) (n : PortIx) : (t.port n).priority = (u.port n).priority := by rw [h.port]

theorem license (h : EventEnds u t) (n : PortIx) : (t.port n).license = (u.port n).license := by rw [h.port]

theorem hold (h : EventEnds u t) (n : PortIx) : (t.port n).hold = (u.port n).hold := by rw [h.port]

/-- The pass takes no port's power but a waiting one's. -/
theorem port_eq (h : EventEnds u t) {n : PortIx} (hn : (u.port n).power ≠ .waiting) : t.port n = u.port n := by
  rw [h.port]
  rcases h.power n with he | ⟨hw, -⟩
  · rw [he]
  · exact absurd hw hn

theorem power_of_waiting (h : EventEnds u t) {n : PortIx} (hn : (u.port n).power = .waiting) :
    (t.port n).power = .waiting ∨ (t.port n).power = .admitted :=
  (h.power n).imp (·.trans hn) (·.2)

/-- What an event writes outside the Port Table, the cards, the budget and the claims stands at its end. -/
theorem outside (h : EventEnds u t) {s : State} (hu : OutsideKept s u) : OutsideKept s t := by
  unfold OutsideKept at hu ⊢
  rw [h.frame]
  exact hu

theorem engines (h : EventEnds u t) {s : State} (hu : EnginesKept s u) : EnginesKept s t := by
  unfold EnginesKept SensorsKept at hu ⊢
  rw [h.frame]
  exact hu

theorem sensors (h : EventEnds u t) {s : State} (hu : SensorsKept s u) : SensorsKept s t := by
  unfold SensorsKept at hu ⊢
  rw [h.frame]
  exact hu

theorem settings (h : EventEnds u t) {s : State} (hu : SettingsKept s u) : SettingsKept s t := fun n => by
  rw [h.intent, h.priority]
  exact hu n

theorem pools (h : EventEnds u t) : t.license = u.license := by rw [h.frame]

theorem names (h : EventEnds u t) : t.names = u.names := by rw [h.frame]

theorem licenses (h : EventEnds u t) {s : State} (hu : LicensesKept s u) : LicensesKept s t :=
  ⟨h.pools.trans hu.1, fun n => (h.license n).trans (hu.2 n)⟩

/-- A card's state but Waiting stands. -/
theorem state (h : EventEnds u t) {c : Slot} (hc : (u.card c).state ≠ .waiting) : (t.card c).state = (u.card c).state := by
  obtain ⟨k, hk, -, -⟩ := h.card c hc
  rw [hk]
  rfl

end EventEnds

/-! ## A change of a port's record (R3, R5) -/

/-- A change that makes a port no more eligible than it was is its record's alone. -/
theorem portChange_of_ineligible {n : PortIx} {f : PortRec → PortRec} {s : State} (hbefore : eligible s n = false)
    (hafter : eligible (s.modPort n f) n = false) : portChange n f s = s.modPort n f := by
  have hnot {u : State} (h : eligible u n = false) : serviceable u n = false := Bool.eq_false_iff.2 fun hs => by
    rw [(serviceable_iff.1 hs).1] at h
    cases h
  unfold portChange
  rw [reviewEligible_self _ (by rw [hbefore, hafter])]
  unfold reviewServiceable
  rw [hnot hbefore, hnot hafter]

/-- A change that makes a port eligible has it wait. -/
theorem portChange_of_gain {n : PortIx} {f : PortRec → PortRec} {s : State} (hbefore : eligible s n = false)
    (hafter : eligible (s.modPort n f) n = true) : portChange n f s = joinWait n (s.modPort n f) := by
  have hwas : serviceable s n = false := Bool.eq_false_iff.2 fun hs => by
    rw [(serviceable_iff.1 hs).1] at hbefore
    cases hbefore
  have hjoins : reviewEligible n (eligible s n) (portDraw s n) (s.modPort n f) = joinWait n (s.modPort n f) := by
    unfold reviewEligible
    rw [hbefore, hafter]
  have hnow : serviceable (joinWait n (s.modPort n f)) n = false := Bool.eq_false_iff.2 fun hs => by
    have hp := (serviceable_iff.1 hs).2.2
    have hw : ((joinWait n (s.modPort n f)).port n).power = .waiting := by
      unfold joinWait setPower
      rw [enterWait_port, modPort_port_same]
    rw [hw] at hp
    cases hp
  unfold portChange
  rw [hjoins]
  unfold reviewServiceable
  rw [hwas, hnow]

/-- A port that joins the wait list. -/
theorem joinWait_eq {n : PortIx} (f : PortRec → PortRec) {s : State} (h : WaitItem.port n ∉ s.power.waitList) :
    joinWait n (s.modPort n f) = waitWith n { f (s.port n) with
      power := .waiting, hold := decide (s.power.cap ≤ (f (s.port n)).priority.val) } s := by
  have hlist : (s.power.waitList.filter fun x => x ≠ .port n) = s.power.waitList :=
    List.filter_eq_self.2 fun x hx => decide_eq_true fun he => h (he ▸ hx)
  have hcap : atCap (s.modPort n f) n = decide (s.power.cap ≤ (f (s.port n)).priority.val) := by
    unfold atCap
    rw [modPort_port_same]
    rfl
  unfold joinWait setPower waitWith
  rw [modPort_modPort, hcap, hlist]
  rfl

end Sys2Proof.Machine

/-! PROOFS. A port that is displaced (R11, R53, R57); and Port Set Priority (R19) and Port Disable (R17). -/

namespace Sys2Proof.Machine

/-! ## Falls in the statements' terms -/

theorem ports_ext {s t : State} (h : ∀ n, t.port n = s.port n) : t.ports = s.ports := by
  refine Vector.ext fun n hn => ?_
  exact h ⟨n, hn⟩

theorem ports_eq_set {s t : State} {n : PortIx} {r : PortRec} (h : ∀ m, t.port m = if n = m then r else s.port m) :
    t.ports = s.ports.set n r :=
  ports_ext (s := s.modPort n fun _ => r) fun m => by rw [h, modPort_port]

/-- A card once the serviceable ports among some have fallen, the card's record and the names as they stood before. -/
theorem Falls.cardAfterFalls {l : List PortIx} {s u t : State} (h : Falls (l.filter (serviceable s)) u t) (hn : u.names = s.names)
    (hc : u.cards = s.cards) (c : Slot) : t.card c = Machine.cardAfterFalls s l c := by
  have hsends : ((l.filter (serviceable s)).flatMap fun n => lostSends u n c) = fallsSend s l c :=
    List.flatMap_congr fun n hmem => by
      rw [← lostSends_of_serviceable (List.mem_filter.1 hmem).2]
      simp only [lostSends, card_of_cards hc, loggedIn_of_names hn]
  rw [h.card, hsends, card_of_cards hc]
  rfl

/-- The Name Map once the serviceable ports among some have fallen. -/
theorem Falls.namesWithout {l : List PortIx} {gone : PortIx → Bool} {s u t : State} (h : Falls (l.filter (serviceable s)) u t)
    (hn : u.names = s.names) (hgone : ∀ n, gone n = decide (n ∈ l)) : t.names = Machine.namesWithout s gone := by
  rw [h.names, hn, namesWithout_eq]
  refine congrArg (fun f => namesAfter f s.names) (funext fun n => ?_)
  rw [hgone, ← Bool.decide_coe (serviceable s n), ← Bool.decide_and]
  exact decide_eq_decide.2 List.mem_filter

theorem beq_eq_mem_singleton (m n : PortIx) : (m == n) = decide (m ∈ [n]) := by
  by_cases h : m = n
  · rw [h, beq_self_eq_true, decide_eq_true (List.mem_singleton.2 rfl)]
  · rw [beq_eq_false_iff_ne.2 h, decide_eq_false fun hm => h (List.mem_singleton.1 hm)]

theorem filter_singleton {n : PortIx} {test : PortIx → Bool} : [n].filter test = if test n then [n] else [] := by
  rw [List.filter_cons, List.filter_nil]

/-! ## Displacement (R11) -/

/-- A port's record once it has been displaced. -/
def displacedPort (served : Bool) (hold : Bool) (r : PortRec) : PortRec :=
  { portFallen served r with power := .waiting, hold := hold }

/-- The budget once a port has been displaced, by the key that its priority gives. -/
def powerDisplacing (key : WaitItem → Nat) (n : PortIx) (draw : Nat) (p : PowerBudget) : PowerBudget :=
  { p with waitList := insertByKey key (.port n) p.waitList, admitted := p.admitted - draw }

/-- The state in which a displaced port stands before its Serviceable is looked at. -/
def unseated (n : PortIx) (hold : Bool) (s : State) : State :=
  enterWait (.port n) (setPower n .waiting hold (releaseDraw (portDraw s n) s))

theorem displacePort_eq (n : PortIx) (hold : Bool) (s : State) :
    displacePort n hold s = reviewServiceable n (serviceable s n) (unseated n hold s) := rfl

theorem unseated_eq (n : PortIx) (hold : Bool) (s : State) : unseated n hold s = { s with
    ports := s.ports.set n { s.port n with power := .waiting, hold := hold }
    power := powerDisplacing (waitKey s) n (portDraw s n) s.power } := by
  have hkey : waitKey (setPower n .waiting hold (releaseDraw (portDraw s n) s)) = waitKey s :=
    (((FactsKept.refl s).power _).setPower n .waiting hold).waitKey
  unfold unseated enterWait
  rw [hkey]
  rfl

theorem unseated_port (n : PortIx) (hold : Bool) (s : State) (m : PortIx) :
    (unseated n hold s).port m = if n = m then { s.port n with power := .waiting, hold := hold } else s.port m := by
  rw [unseated_eq]
  exact modPort_port n m (fun _ => { s.port n with power := .waiting, hold := hold }) s

theorem not_serviceable_unseated (n : PortIx) (hold : Bool) (s : State) : serviceable (unseated n hold s) n = false :=
  serviceable_of_not_admitted (by rw [unseated_port, if_pos rfl]; nofun)

/-- What a displacement writes (R11, R53, R57). -/
theorem displacePort_spec (n : PortIx) (hold : Bool) {s : State} (h : NamesLawful s) :
    displacePort n hold s = { s with
      ports := (displacePort n hold s).ports, cards := (displacePort n hold s).cards, names := (displacePort n hold s).names
      power := powerDisplacing (waitKey s) n (portDraw s n) s.power } ∧
    (∀ m, (displacePort n hold s).port m = if n = m then displacedPort (serviceable s n) hold (s.port n) else s.port m) ∧
    Falls ([n].filter (serviceable s)) s (displacePort n hold s) := by
  have hstep := unseated_eq n hold s
  have hport := unseated_port n hold s
  have hnot := not_serviceable_unseated n hold s
  have hnames : (unseated n hold s).names = s.names := by rw [hstep]
  have hcards : (unseated n hold s).cards = s.cards := by rw [hstep]
  have hlawful := h.of_names hnames
  rw [displacePort_eq, filter_singleton]
  generalize unseated n hold s = u at hstep hport hnot hnames hcards hlawful
  unfold reviewServiceable
  rw [hnot]
  cases serviceable s n with
  | true =>
    obtain ⟨hframe, hfallen, hfalls⟩ := loseServiceable_spec n hlawful
    refine ⟨?_, fun m => ?_, hfalls.of_records hnames.symm hcards.symm rfl rfl⟩
    · show loseServiceable n u = { s with
        ports := (loseServiceable n u).ports, cards := (loseServiceable n u).cards, names := (loseServiceable n u).names
        power := powerDisplacing (waitKey s) n (portDraw s n) s.power }
      rw [hframe, hstep]
    · show (loseServiceable n u).port m = _
      rw [hfallen, hport, hport, if_pos rfl]
      split <;> rfl
  | false => exact ⟨by rw [hstep], hport, .nil h hnames hcards⟩

/-- A serviceable port that is displaced is dark, and its Revoke waits on its card's link (R7). -/
theorem displacePort_dark {n : PortIx} (hold : Bool) {s : State} (h : serviceable s n = true) :
    Dark (displacePort n hold s) n ∧ CardMsg.revoke (posOf n) ∈ ((displacePort n hold s).card (slotOf n)).outbox := by
  have hlose : displacePort n hold s = loseServiceable n (unseated n hold s) := by
    rw [displacePort_eq, h]
    unfold reviewServiceable
    rw [not_serviceable_unseated]
  obtain ⟨hdark, hrevoke⟩ := loseServiceable_dark n (unseated n hold s)
  rw [hlose]
  refine ⟨hdark, hrevoke ?_⟩
  have hcard : cardOf (unseated n hold s) n = s.card (slotOf n) := by rw [unseated_eq]; rfl
  rw [hcard, (serviceable_iff.1 h).2.1]
  rfl

/-! ## Port Set Priority (R19) -/

theorem index?_of_eq {n v : Nat} {i : Fin n} (h : v = i.val) : index? n v = some i := index?_eq_some_iff.2 h

theorem index?_outside {n v : Nat} (h : n ≤ v) : index? n v = none := dif_neg (Nat.not_lt.2 h)

theorem exec_portSetPriority {f : Frame} {s : State} (h : MasterClear s f.port) (port : Half) (priority : Byte) :
    exec (.portSetPriority f port priority) s =
      .next (respond f (portSetPriority port priority s).2 (settleDeficit (portSetPriority port priority s).1)) := by
  change Host.Outcome.next (disarmingCommand f .master (settled (portSetPriority port priority)) s) = _
  rw [disarmingCommand_master h, settled]

/-- What an accepted Port Set Priority answers and makes of the state. -/
theorem portSetPriority_eq {port : Half} {priority : Byte} {n : PortIx} {k : Priority} (hn : port.toNat = n.val)
    (hk : priority.toNat = k.val) (s : State) : portSetPriority port priority s =
      if (s.port n).priority = k then (s, answer .noChange) else (changePriority n k s, answer .done) := by
  unfold portSetPriority
  rw [index?_of_eq hn, index?_of_eq hk]

theorem replaced_eq_waitWith (n : PortIx) (k : Priority) (held : Bool) (s : State) :
    replaced n k held s = waitWith n { s.port n with priority := k, power := .waiting, hold := held } s := by
  have hleft : leaveWait (.port n) (s.modPort n fun r => { r with priority := k }) =
      (leaveWait (.port n) s).modPort n fun r => { r with priority := k } := rfl
  unfold replaced setPower
  rw [hleft, modPort_modPort]
  rfl

theorem changePriority_of_off {n : PortIx} {s : State} (k : Priority) (h : (s.port n).power = .off) :
    changePriority n k s = s.modPort n fun r => { r with priority := k } := by
  unfold changePriority
  rw [h]

theorem changePriority_of_waiting {n : PortIx} {s : State} (k : Priority) (h : (s.port n).power = .waiting) :
    changePriority n k s = if s.power.cap ≤ k.val then
      waitWith n { s.port n with priority := k, power := .waiting, hold := true } s
    else restorePass (waitWith n { s.port n with priority := k, power := .waiting, hold := false } s) := by
  unfold changePriority
  rw [h]
  dsimp only
  by_cases hk : s.power.cap ≤ k.val
  · rw [decide_eq_true hk, if_pos rfl, if_pos hk]
    exact replaced_eq_waitWith n k true s
  · rw [decide_eq_false hk, if_neg Bool.false_ne_true, if_neg hk]
    exact congrArg restorePass (replaced_eq_waitWith n k false s)

theorem changePriority_of_admitted {n : PortIx} {s : State} (k : Priority) (h : (s.port n).power = .admitted) :
    changePriority n k s = if s.power.cap ≤ k.val then
      restorePass (displacePort n true (s.modPort n fun r => { r with priority := k }))
    else s.modPort n fun r => { r with priority := k } := by
  unfold changePriority
  rw [h]
  dsimp only
  by_cases hk : s.power.cap ≤ k.val
  · rw [decide_eq_true hk, if_pos rfl, if_pos hk]
  · rw [decide_eq_false hk, if_neg Bool.false_ne_true, if_neg hk]

theorem waitWith_port (n : PortIx) (r : PortRec) (s : State) (m : PortIx) :
    (waitWith n r s).port m = if n = m then r else s.port m :=
  modPort_port n m (fun _ => r) s

/-- The deficit is the wait list's and the holds'. -/
theorem DeficitFollows.of_holds {s t : State} (h : DeficitFollows s) (hd : t.power.deficit = s.power.deficit)
    (hw : t.power.waitList = s.power.waitList) (hh : ∀ n, (t.port n).hold = (s.port n).hold) : DeficitFollows t := by
  simp only [DeficitFollows, deficitHolds, hd, hw, hh] at h ⊢
  exact h

theorem waitKey_congr {s t : State} (h : ∀ n, (t.port n).priority = (s.port n).priority) : waitKey t = waitKey s := by
  funext x
  cases x with
  | card c => rfl
  | port n => simp only [waitKey, h n]

/-- A displaced port whose priority has just changed, in the statement's terms. -/
theorem displaceAtCap_eq {n : PortIx} {s : State} (hnames : NamesLawful s) (hlaw : WaitListFollows s)
    (hadmitted : (s.port n).power = .admitted) (k : Priority) :
    let u := displacePort n true (s.modPort n fun r => { r with priority := k })
    let w := waitWith n { fallenPort s n with priority := k, power := .waiting, hold := true } s
    u = { w with
      power := { w.power with admitted := s.power.admitted - portDraw s n }
      cards := u.cards, names := namesWithout s fun m => m == n } ∧
    ∀ c, u.card c = cardAfterFalls s [n] c := by
  let t := s.modPort n fun r => { r with priority := k }
  have hrecord : t.port n = { s.port n with priority := k } := modPort_port_same n _ s
  have hserv : serviceable t = serviceable s := funext fun m => by
    have hport := modPort_port n m (fun r => { r with priority := k }) s
    refine serviceable_congr ?_ ?_ ?_ rfl rfl
    all_goals
      rw [hport]
      split
      next he => subst he; rfl
      next => rfl
  obtain ⟨hframe, hport, hfalls⟩ := displacePort_spec n true (s := t) (hnames.of_names rfl)
  dsimp only
  rw [hserv] at hfalls
  refine ⟨?_, hfalls.cardAfterFalls rfl rfl⟩
  have hnamed : (displacePort n true t).names = namesWithout s fun m => m == n :=
    hfalls.namesWithout rfl fun m => beq_eq_mem_singleton m n
  have hports : (displacePort n true t).ports =
      s.ports.set n { fallenPort s n with priority := k, power := .waiting, hold := true } := by
    refine ports_eq_set fun m => ?_
    rw [hport]
    split
    next he =>
      rw [hserv, hrecord, fallenPort_eq]
      cases serviceable s n <;> rfl
    next he => exact modPort_port_other (fun e : m = n => he e.symm) _ s
  have hlist : (s.power.waitList.filter fun x => x ≠ .port n) = s.power.waitList :=
    List.filter_eq_self.2 fun x hx => decide_eq_true fun he => by
      rw [he, hlaw.2.1, hadmitted] at hx
      cases hx
  have hkey : waitKey (waitWith n { fallenPort s n with priority := k, power := .waiting, hold := true } s) = waitKey t :=
    waitKey_congr fun m => by
      rw [waitWith_port, modPort_port]
      split
      next he => rw [fallenPort]
      next => rfl
  rw [hframe, hnamed, hports]
  have hpower : powerDisplacing (waitKey t) n (portDraw t n) t.power = { s.power with
      waitList := (waitWith n { fallenPort s n with priority := k, power := .waiting, hold := true } s).power.waitList
      admitted := s.power.admitted - portDraw s n } := by
    unfold waitWith powerDisplacing
    rw [← hkey, hlist]
    rfl
  show _ = _
  rw [hpower]
  rfl

/-- The end of a Port Set Priority that had the port wait anew or displaced it. -/
theorem exec_portSetPriority_changed {f : Frame} {port : Half} {priority : Byte} {s : State} {n : PortIx} {k : Priority}
    (hc : MasterClear s f.port) (hn : port.toNat = n.val) (hk : priority.toNat = k.val) (hne : (s.port n).priority ≠ k) :
    exec (.portSetPriority f port priority) s = .next (respond f (answer .done) (settleDeficit (changePriority n k s))) := by
  rw [exec_portSetPriority hc, portSetPriority_eq hn hk, if_neg hne]

/-- A port waits with a new priority; the others' records and everything but the Port Table and the budget stand. -/
theorem waitWith_keeps {n : PortIx} {r : PortRec} {s : State} (hl : r.license = (s.port n).license) :
    LicensesKept s (waitWith n r s) ∧ OutsideKept s (waitWith n r s) ∧ EnginesKept s (waitWith n r s) := by
  refine ⟨⟨rfl, fun m => ?_⟩, ⟨rfl, rfl, rfl, rfl, rfl⟩, rfl, rfl, rfl, rfl⟩
  rw [waitWith_port]
  split
  next he => rw [hl, he]
  next => rfl

/-- The new priority of a port that is displaced, before and after the passes. -/
theorem displaced_keeps (n : PortIx) (k : Priority) (s : State) :
    let u := displacePort n true (s.modPort n fun r => { r with priority := k })
    (u.port n).priority = k ∧ (u.port n).hold = true ∧
      (∀ m, m ≠ n → (u.port m).intent = (s.port m).intent ∧ (u.port m).priority = (s.port m).priority) ∧
      LicensesKept s u ∧ OutsideKept s u ∧ EnginesKept s u := by
  have hmoves : Moves .power (s.modPort n fun r => { r with priority := k })
      (displacePort n true (s.modPort n fun r => { r with priority := k })) := Moves.refl.displacePort n true
  have hset := displacePort_sets n true (s.modPort n fun r => { r with priority := k })
  have hapart := (EngineApart.refl (s.modPort n fun r => { r with priority := k })).displacePort n true
  refine ⟨?_, ?_, fun m hm => ?_, ⟨hmoves.licensesKept rfl |>.1, fun m => ?_⟩, hmoves.outside, hapart.still.enginesKept (hmoves.sensorsKept rfl)⟩
  · rw [hset.priority, modPort_port_same]
  · rw [hset.hold, if_pos (List.mem_singleton.2 rfl)]
  · have hkept := hmoves.settingsKept rfl m
    rwa [modPort_port_other hm] at hkept
  · rw [(hmoves.licensesKept rfl).2, modPort_port]
    split
    next he => rw [he]
    next => rfl

end Sys2Proof.Machine

section
open Sys2Proof Sys2Proof.Machine

/-- Settles O23: the refusals, and the table of R19 by the port's power and the cap. -/
theorem portSetPriorityRule : Obligations.PortSetPriorityRule := by
  unfold Obligations.PortSetPriorityRule
  intro f port priority s hc hdeficit hlist
  have hlaw := waitsLaw_iff.2 hlist
  dsimp only
  refine ⟨fun hbig => ?_, fun hport hbig => ?_, fun n k hn hk => ⟨fun heq => ?_, fun hne hcase => ?_, fun hne hw hcap => ?_,
    fun hne hw hcap => ?_, fun hne ha hcap => ?_⟩⟩
  · have hout : portSetPriority port priority s = (s, answer .outOfRange) := by
      unfold portSetPriority
      rw [index?_outside hbig]
    rw [exec_portSetPriority hc, hout, settleDeficit_of_follows hdeficit]
  · have hout : portSetPriority port priority s = (s, answer .invalidField) := by
      unfold portSetPriority
      rw [index?_outside hbig, index?_of_eq (i := ⟨port.toNat, by omega⟩) rfl]
    rw [exec_portSetPriority hc, hout, settleDeficit_of_follows hdeficit]
  · rw [exec_portSetPriority hc, portSetPriority_eq hn hk, if_pos heq, settleDeficit_of_follows hdeficit]
  · have hsame : changePriority n k s = s.modPort n fun r => { r with priority := k } := by
      rcases hcase with hoff | ⟨ha, hbelow⟩
      · exact changePriority_of_off k hoff
      · rw [changePriority_of_admitted k ha, if_neg (Nat.not_le.2 hbelow)]
    have hstill : DeficitFollows (s.modPort n fun r => { r with priority := k }) := hdeficit.of_holds rfl rfl fun m => by
      rw [modPort_port]
      split
      next he => rw [he]
      next => rfl
    rw [exec_portSetPriority_changed hc hn hk hne, hsame, settleDeficit_of_follows hstill]
    rfl
  · have hmoved : changePriority n k s = waitWith n { s.port n with priority := k, hold := true } s := by
      rw [changePriority_of_waiting k hw, if_pos hcap, ← hw]
    refine ⟨settleDeficit (changePriority n k s), exec_portSetPriority_changed hc hn hk hne, ?_⟩
    rw [hmoved]
    have hends := settleDeficit_eq (waitWith n { s.port n with priority := k, hold := true } s)
    obtain ⟨-, hout, heng⟩ := waitWith_keeps (n := n) (r := { s.port n with priority := k, hold := true }) (s := s) rfl
    have hkey : waitKey (settleDeficit (waitWith n { s.port n with priority := k, hold := true } s)) =
        waitKey (waitWith n { s.port n with priority := k, hold := true } s) :=
      waitKey_congr fun m => by rw [settleDeficit_port]
    refine ⟨by rw [hends]; rfl, ?_, by rw [hends]; rfl, by rw [hends]; rfl, by rw [hends]; rfl, by rw [hends]; exact hout,
      by rw [hends]; exact heng⟩
    rw [hkey]
    rw [hends]
    rfl
  · have hmoved : changePriority n k s = restorePass (waitWith n { s.port n with priority := k, hold := false } s) := by
      rw [changePriority_of_waiting k hw, if_neg (Nat.not_le.2 hcap), ← hw]
    have hset := hlaw.replaced hw k (held := false) (decide_eq_false (Nat.not_le.2 hcap)).symm
    rw [replaced_eq_waitWith, ← hw] at hset
    have hends := eventEnds_restored hset
    have hport := waitWith_port n { s.port n with priority := k, hold := false } s
    have hrecord := (hport n).trans (if_pos rfl)
    refine ⟨settleDeficit (restorePass (waitWith n { s.port n with priority := k, hold := false } s)), ?_, ?_⟩
    · rw [exec_portSetPriority_changed hc hn hk hne, hmoved]
    generalize hu : waitWith n { s.port n with priority := k, hold := false } s = u at hset hends hport hrecord
    have hwaits : (u.port n).power = .waiting := by rw [hrecord]; exact hw
    have hcards : u.cards = s.cards := by rw [← hu]; rfl
    have hkeeps := waitWith_keeps (n := n) (r := { s.port n with priority := k, hold := false }) (s := s) rfl
    rw [hu] at hkeeps
    obtain ⟨hlic, hout, heng⟩ := hkeeps
    refine ⟨by rw [hends.priority, hrecord], by rw [hends.hold, hrecord], fun hoff => ?_, fun ha hj => ?_, rfl, fun m hm => ?_,
      hends.licenses hlic, hends.outside hout, hends.engines heng⟩
    · rcases hends.power_of_waiting hwaits with h | h
      · rw [h] at hoff
        cases hoff
      · rw [h] at hoff
        cases hoff
    · have hjoined : (u.card (slotOf n)).state = .joined := by rw [card_of_cards hcards]; exact hj
      refine ⟨serviceable_iff.2 ⟨hends.law.eligible_of_power (by rw [ha]; nofun), ?_, ha⟩, hends.permit n hwaits hjoined ha⟩
      rw [hends.state (by rw [hjoined]; nofun), hjoined]
    · rw [hends.intent, hends.priority, hport, if_neg fun he : n = m => hm he.symm]
      exact ⟨rfl, rfl⟩
  · have hmoved : changePriority n k s = restorePass (displacePort n true (s.modPort n fun r => { r with priority := k })) := by
      rw [changePriority_of_admitted k ha, if_pos hcap]
    have hends := eventEnds_restored (hlaw.displaceAtCap ha hcap)
    obtain ⟨hprio, hhold, hothers, hlic, hout, heng⟩ := displaced_keeps n k s
    have hwaits : ((settleDeficit (restorePass (displacePort n true (s.modPort n fun r => { r with priority := k })))).port n).power =
        .waiting := ((waitsLaw_iff.1 hends.law).2.2.2.1 n |>.1 (by rw [hends.hold, hhold])).1
    refine ⟨settleDeficit (restorePass (displacePort n true (s.modPort n fun r => { r with priority := k }))), ?_,
      by rw [hends.priority, hprio], by rw [hends.hold, hhold], hwaits, (waitsLaw_iff.1 hends.law).2.1 n |>.2 hwaits,
      fun hs => ?_, fun hnames => ?_, fun m hm => ?_, hends.licenses hlic, hends.outside hout, hends.engines heng⟩
    · rw [exec_portSetPriority_changed hc hn hk hne, hmoved]
    · have hserv : serviceable (s.modPort n fun r => { r with priority := k }) n = true := by
        rw [← hs]
        exact serviceable_congr (by rw [modPort_port_same]) (by rw [modPort_port_same]) (by rw [modPort_port_same]) rfl rfl
      obtain ⟨hdark, hrevoke⟩ := displacePort_dark true hserv
      obtain ⟨hlink, hlogins⟩ := hends.grows.dark n hdark
      exact ⟨hlink, hlogins, hends.grows.mail _ _ hrevoke⟩
    · obtain ⟨hu, hcard⟩ := displaceAtCap_eq hnames hlist ha k
      exact ⟨_, _, rfl, hu, hcard, rfl⟩
    · rw [hends.intent, hends.priority]
      exact hothers m hm

end

/-! PROOFS. A change that costs a port its eligibility (R5, R7); and Port Disable (R17). -/

namespace Sys2Proof.Machine

/-! ## A port that loses eligibility by a change of its record -/

theorem budgetWithout_single (s : State) (n : PortIx) :
    budgetWithout s (fun m => m == n) = powerWithout n (drawnBy (s.port n).power (portDraw s n)) s.power := by
  have hcons := powerWithoutAll_cons s n [] s.power
  rw [powerWithoutAll_nil] at hcons
  rw [hcons]
  refine (powerWithoutAll_eq (List.nodup_singleton n) fun m => ?_).symm
  rw [beq_iff_eq, List.mem_singleton]

/-- What a change writes that makes a port ineligible, or leaves it so (R5, R7). -/
theorem portChange_lost {n : PortIx} {f : PortRec → PortRec} {s : State} (h : NamesLawful s) (hw : WaitListFollows s)
    (hf : ∀ r, (f r).power = r.power ∧ (f r).hold = r.hold) (hnow : eligible (s.modPort n f) n = false) :
    portChange n f s = { s with
      ports := s.ports.set n (portFallen (serviceable s n) (f (s.port n))), cards := (portChange n f s).cards
      names := (portChange n f s).names, power := budgetWithout s fun m => m == n } ∧
    Falls ([n].filter (serviceable s)) s (portChange n f s) := by
  have hrecord : (s.modPort n f).port n = f (s.port n) := modPort_port_same n f s
  obtain ⟨hfp, hfh⟩ := hf (s.port n)
  have hpower : ((s.modPort n f).port n).power = (s.port n).power := by rw [hrecord, hfp]
  have hhold : ((s.modPort n f).port n).power = .off → ((s.modPort n f).port n).hold = false := fun hoff => by
    rw [hrecord, hfh]
    refine Bool.eq_false_iff.2 fun hheld => ?_
    rw [hpower, (hw.2.2.2.1 n |>.1 hheld).1] at hoff
    cases hoff
  obtain ⟨hframe, hport, hfalls⟩ := review_lost (s := s.modPort n f) (was := eligible s n) (served := serviceable s n) (portDraw s n)
    (h.of_names rfl) hnow (by rw [hpower]; exact (hw.2.2.1 n).symm) hhold (by rw [hpower]; exact hw.2.1 n)
  have hports : (portChange n f s).ports = s.ports.set n (portFallen (serviceable s n) (f (s.port n))) := by
    refine ports_eq_set fun m => (hport m).trans ?_
    rw [hrecord]
    split
    · rfl
    next he => exact modPort_port_other (fun e : m = n => he e.symm) f s
  refine ⟨?_, by rw [filter_singleton]; exact hfalls.of_records rfl rfl rfl rfl⟩
  rw [← hports, budgetWithout_single, ← hpower]
  exact hframe

/-- Where the port is serviceable before the change and not after, it goes dark, and its Revoke waits (R7). -/
theorem portChange_dark {n : PortIx} {f : PortRec → PortRec} {s : State} (hs : serviceable s n = true)
    (hnow : eligible (s.modPort n f) n = false) :
    Dark (portChange n f s) n ∧ CardMsg.revoke (posOf n) ∈ ((portChange n f s).card (slotOf n)).outbox := by
  obtain ⟨heligible, hjoined, -⟩ := serviceable_iff.1 hs
  have hreview : reviewEligible n (eligible s n) (portDraw s n) (s.modPort n f) = loseEligibility n (portDraw s n) (s.modPort n f) := by
    unfold reviewEligible
    rw [heligible, hnow]
  have hkept := (FactsKept.refl (s.modPort n f)).reviewEligible n (eligible s n) (portDraw s n)
  have hnot : serviceable (loseEligibility n (portDraw s n) (s.modPort n f)) n = false := by
    refine Bool.eq_false_iff.2 fun hserv => ?_
    rw [← hreview] at hserv
    rw [← hkept.eligible, (serviceable_iff.1 hserv).1] at hnow
    cases hnow
  have hlose : portChange n f s = loseServiceable n (loseEligibility n (portDraw s n) (s.modPort n f)) := by
    unfold portChange
    rw [hreview, hs]
    unfold reviewServiceable
    rw [hnot]
  obtain ⟨hdark, hrevoke⟩ := loseServiceable_dark n (loseEligibility n (portDraw s n) (s.modPort n f))
  rw [hlose]
  refine ⟨hdark, hrevoke ?_⟩
  have hstate : (cardOf (loseEligibility n (portDraw s n) (s.modPort n f)) n).state = (s.card (slotOf n)).state := by
    rw [← hreview]
    exact hkept.state _
  rw [hstate, hjoined]
  rfl

theorem Falls.names_of_nil {s t : State} (h : Falls [] s t) : t.names = s.names := by
  rw [h.names]
  exact namesAfter_of_none (fun _ => by simp) _

theorem Falls.cards_of_nil {s t : State} (h : Falls [] s t) : t.cards = s.cards :=
  cards_ext fun c => by rw [h.card, List.flatMap_nil, CardRec.behind_nil]

theorem loginsOn_of_falls {l : List PortIx} {s t : State} (h : Falls l s t) {n : PortIx} (hn : n ∈ l) : loginsOn t n = [] := by
  unfold loginsOn
  rw [h.names, loggedIn_namesAfter, if_pos (decide_eq_true hn)]
  rfl

/-! ## Port Disable (R17) -/

theorem exec_portDisable {f : Frame} {s : State} (h : MasterClear s f.port) (port : Half) :
    exec (.portDisable f port) s = .next (respond f (portDisable port s).2 (settleDeficit (portDisable port s).1)) := by
  change Host.Outcome.next (disarmingCommand f .master (settled (portDisable port)) s) = _
  rw [disarmingCommand_master h, settled]

theorem portDisable_of_disabled {port : Half} {n : PortIx} {s : State} (hn : port.toNat = n.val) (h : (s.port n).intent = .disabled) :
    portDisable port s = (s, answer .noChange) := by
  unfold portDisable
  rw [index?_of_eq hn]
  dsimp only
  rw [h]

theorem portDisable_of_enabled {port : Half} {n : PortIx} {s : State} (hn : port.toNat = n.val) (h : (s.port n).intent = .enabled) :
    portDisable port s = (disablePort n s, answer .done) := by
  unfold portDisable
  rw [index?_of_eq hn]
  dsimp only
  rw [h]

/-- The state of a port's disabling before the passes. -/
def disabled (n : PortIx) (s : State) : State := portChange n (fun r => { r with intent := .disabled }) s

theorem not_eligible_disabled (n : PortIx) (s : State) : eligible (s.modPort n fun r => { r with intent := .disabled }) n = false := by
  have hi : ((s.modPort n fun r => { r with intent := .disabled }).port n).intent = .disabled := by rw [modPort_port_same]
  unfold eligible
  rw [hi]
  rfl

end Sys2Proof.Machine

section
open Sys2Proof Sys2Proof.Machine

/-- Settles O21: the refusal, NO_CHANGE, and the port's loss of eligibility and Serviceable with the passes that follow. -/
theorem portDisableRule : Obligations.PortDisableRule := by
  unfold Obligations.PortDisableRule
  intro f port s hc hdeficit hlist hnames
  refine ⟨fun hbig => ?_, fun n hn => ⟨fun hdis => ?_, fun hen => ?_⟩⟩
  · have hout : portDisable port s = (s, answer .outOfRange) := by
      unfold portDisable
      rw [index?_outside hbig]
    rw [exec_portDisable hc, hout, settleDeficit_of_follows hdeficit]
  · rw [exec_portDisable hc, portDisable_of_disabled hn hdis, settleDeficit_of_follows hdeficit]
  · let u := disabled n s
    have hnow := not_eligible_disabled n s
    obtain ⟨hframe, hfalls⟩ := portChange_lost (f := fun r => { r with intent := .disabled }) hnames hlist (fun _ => ⟨rfl, rfl⟩) hnow
    have hlaw : WaitsLaw False False u := (waitsLaw_iff.2 hlist).portChange n _ (fun _ => ⟨rfl, rfl⟩) fun _ => rfl
    have hends := eventEnds_restoredIf hlaw ((s.port n).power = .admitted)
    have hnext : settleDeficit (disablePort n s) = settleDeficit (if (s.port n).power = .admitted then restorePass u else u) := rfl
    have hport : ∀ m, u.port m = if n = m then portFallen (serviceable s n) { s.port n with intent := .disabled } else s.port m :=
      fun m => by
        have hports : u.ports = s.ports.set n (portFallen (serviceable s n) { s.port n with intent := .disabled }) := by
          show (portChange n _ s).ports = _
          rw [hframe]
        rw [port_of_ports (s := s.modPort n fun _ => portFallen (serviceable s n) { s.port n with intent := .disabled }) hports,
          modPort_port]
    have hself := (hport n).trans (if_pos rfl)
    have hoff : (u.port n).power = .off ∧ (u.port n).hold = false ∧ (u.port n).intent = .disabled ∧
        (u.port n).license = (s.port n).license ∧ (u.port n).priority = (s.port n).priority := by
      rw [hself]
      cases serviceable s n <;> exact ⟨rfl, rfl, rfl, rfl, rfl⟩
    obtain ⟨hpower, hhold, hintent, hlicense, hpriority⟩ := hoff
    have hlast := hends.port_eq (n := n) (by rw [hpower]; nofun)
    have hother (m : PortIx) (hm : m ≠ n) : u.port m = s.port m := (hport m).trans (if_neg fun he : n = m => hm he.symm)
    have hwaits := waitsLaw_iff.1 hends.law
    refine ⟨settleDeficit (if (s.port n).power = .admitted then restorePass u else u), ?_, by rw [hlast, hintent], by rw [hlast, hpower],
      by rw [hlast, hhold], fun hm => ?_, by rw [hlast, hlicense], by rw [hlast, hpriority], ?_, fun hs => ?_, fun hna => ?_,
      fun m hm => ?_, fun m => ?_, ?_, ?_, ?_, ?_⟩
    · rw [exec_portDisable hc, portDisable_of_enabled hn hen, hnext]
    · rw [hwaits.2.1, hlast, hpower] at hm
      cases hm
    · exact serviceable_of_not_admitted (by rw [hlast, hpower]; nofun)
    · obtain ⟨hdark, hrevoke⟩ := portChange_dark hs hnow
      obtain ⟨hlink, hlogins⟩ := hends.grows.dark n hdark
      refine ⟨hlink, hlogins, ?_, hends.grows.mail _ _ hrevoke⟩
      have hlog : loginsOn u n = [] := loginsOn_of_falls hfalls (by rw [filter_singleton, if_pos hs]; exact List.mem_singleton.2 rfl)
      unfold loginsOn at hlog ⊢
      rw [hends.names]
      exact hlog
    · have hnot : serviceable s n = false := serviceable_of_not_admitted hna
      rw [filter_singleton, hnot, if_neg Bool.false_ne_true] at hfalls
      rw [if_neg hna]
      refine ⟨?_, ?_, fun m hm => ?_⟩
      · rw [settleDeficit_names]
        exact hfalls.names_of_nil
      · rw [settleDeficit_cards]
        exact hfalls.cards_of_nil
      · rw [settleDeficit_port, hother m hm]
    · rw [hends.intent, hends.priority, hother m hm]
      exact ⟨rfl, rfl⟩
    · rw [hends.license]
      by_cases hm : m = n
      · rw [hm, hlicense]
      · rw [hother m hm]
    · rw [hends.pools]
      show (portChange n _ s).license = _
      rw [hframe]
    · refine hends.outside ?_
      show OutsideKept s (portChange n _ s)
      rw [hframe]
      exact ⟨rfl, rfl, rfl, rfl, rfl⟩
    · refine hends.engines ?_
      show EnginesKept s (portChange n _ s)
      rw [hframe]
      exact ⟨rfl, rfl, rfl, rfl⟩
    · refine ⟨u, ?_, hfalls.cardAfterFalls rfl rfl, rfl⟩
      have hnamed : u.names = namesWithout s fun m => m == n := hfalls.namesWithout rfl fun m => beq_eq_mem_singleton m n
      have hfallen : portFallen (serviceable s n) { s.port n with intent := .disabled } = { fallenPort s n with intent := .disabled } := by
        rw [fallenPort_eq]
        cases serviceable s n <;> rfl
      rw [← hnamed, ← hfallen]
      exact hframe

end

/-! PROOFS. Port Enable (R13 to R16). -/

namespace Sys2Proof.Machine

theorem inService_iff {st : CardState} : st.inService = true ↔ st = .joined ∨ st = .fenced := by
  cases st <;> simp [CardState.inService]

theorem exec_portEnable {f : Frame} {s : State} (h : MasterClear s f.port) (port : Half) (pool priority : Byte) :
    exec (.portEnable f port pool priority) s =
      .next (respond f (portEnable port pool priority s).2 (settleDeficit (portEnable port pool priority s).1)) := by
  change Host.Outcome.next (disarmingCommand f .master (settled (portEnable port pool priority)) s) = _
  rw [disarmingCommand_master h, settled]

theorem portEnable_of_fields {port : Half} {pool priority : Byte} {n : PortIx} (hn : port.toNat = n.val)
    (hf : pool.toNat ≤ 16 ∧ (priority.toNat ≤ 7 ∨ priority = 255)) (s : State) :
    portEnable port pool priority s = enablePort n (index1? 16 pool.toNat) (index? 8 priority.toNat) s := by
  unfold portEnable
  rw [index?_of_eq hn]
  dsimp only
  refine if_neg ?_
  rintro (hpool | ⟨hlow, hhigh⟩)
  · omega
  · rcases hf.2 with h | h
    · omega
    · rw [h] at hhigh
      exact absurd hhigh (by decide)

theorem enablePort_of_keep {n : PortIx} {s : State} (h : (s.port n).intent = .enabled) (named : Option PoolIx) {prio : Option Priority}
    (hp : ∀ k, prio = some k → (s.port n).priority = k) : enablePort n named prio s = (s, answer .noChange) := by
  unfold enablePort
  rw [h]
  cases prio with
  | none => rfl
  | some k => exact if_pos (hp k rfl)

theorem enablePort_of_change {n : PortIx} {s : State} (h : (s.port n).intent = .enabled) (named : Option PoolIx) {k : Priority}
    (hk : (s.port n).priority ≠ k) : enablePort n named (some k) s = (changePriority n k s, answer .noChange) := by
  unfold enablePort
  rw [h]
  exact if_neg hk

/-- The settings that an enabling gives a port. -/
def enabledWith (prio : Option Priority) (r : PortRec) : PortRec := { r with intent := .enabled, priority := prio.getD r.priority }

theorem enablePort_of_disabled {n : PortIx} {s : State} (h : (s.port n).intent = .disabled) (named : Option PoolIx)
    (prio : Option Priority) : enablePort n named prio s = enableSteps n named (portChange n (enabledWith prio) s) := by
  unfold enablePort
  rw [h]
  rfl

theorem eligible_of_disabled {n : PortIx} {s : State} (h : (s.port n).intent = .disabled) : eligible s n = false := by
  unfold eligible
  rw [h]
  rfl

/-- The card of a port is in service and has the port's position (R15). -/
def portPresent (s : State) (n : PortIx) : Bool := (cardOf s n).state.inService && withinCount s n

theorem eligible_enabled (n : PortIx) (prio : Option Priority) (s : State) :
    eligible (s.modPort n (enabledWith prio)) n = ((s.port n).license.held && portPresent s n) := by
  have hrecord : (s.modPort n (enabledWith prio)).port n = enabledWith prio (s.port n) := modPort_port_same n _ s
  unfold eligible
  rw [hrecord]
  show (true && (s.port n).license.held && (cardOf s n).state.inService && withinCount s n) = _
  rw [Bool.true_and, Bool.and_assoc]
  rfl

theorem autoChoice_enabled (n : PortIx) (prio : Option Priority) (s : State) :
    autoChoice (s.modPort n (enabledWith prio)) n = autoChoice s n := by
  have hrecord : (s.modPort n (enabledWith prio)).port n = enabledWith prio (s.port n) := modPort_port_same n _ s
  unfold autoChoice
  rw [hrecord]
  rfl

/-- The pool of an enabling: the named one if it serves, else the automatic choice where none is named (R15). -/
theorem enablePool_eq {n : PortIx} {pool : Byte} (prio : Option Priority) (s : State) (hp : pool.toNat ≤ 16) :
    enablePool n (index1? 16 pool.toNat) (s.modPort n (enabledWith prio)) = if pool = 0 then autoChoice s n
      else (index1? 16 pool.toNat).filter fun k => poolServes s (s.card (slotOf n)).tier k := by
  by_cases hzero : pool = 0
  · rw [if_pos hzero, hzero]
    exact autoChoice_enabled n prio s
  · rw [if_neg hzero]
    have hne : pool.toNat ≠ 0 := fun h => hzero (BitVec.eq_of_toNat_eq h)
    have hsome : index1? 16 pool.toNat = some ⟨pool.toNat - 1, by omega⟩ := index1?_eq_some_iff.2 (by simp; omega)
    rw [hsome]
    unfold enablePool
    rw [Option.filter_some]
    rfl

theorem enableSteps_of_absent {n : PortIx} {s : State} (h : portPresent s n = false) (named : Option PoolIx) :
    enableSteps n named s = (s, pendingAnswer .card) := by
  unfold enableSteps
  unfold portPresent at h
  rw [h]
  rfl

theorem enableSteps_of_held {n : PortIx} {s : State} (h : portPresent s n = true) (hl : (s.port n).license.held = true)
    (named : Option PoolIx) : enableSteps n named s = enableFinish n s := by
  unfold enableSteps
  unfold portPresent at h
  rw [h, hl]
  rfl

theorem enableSteps_of_none {n : PortIx} {s : State} (h : portPresent s n = true) (hl : (s.port n).license = .unlicensed)
    {named : Option PoolIx} (hp : enablePool n named s = none) : enableSteps n named s = (s, pendingAnswer .license) := by
  unfold enableSteps
  unfold portPresent at h
  rw [h, hl, hp]
  rfl

theorem enableSteps_of_pool {n : PortIx} {s : State} (h : portPresent s n = true) (hl : (s.port n).license = .unlicensed)
    {named : Option PoolIx} {k : PoolIx} (hp : enablePool n named s = some k) :
    enableSteps n named s = enableFinish n (bindPort n k s) := by
  unfold enableSteps
  unfold portPresent at h
  rw [h, hl, hp]
  rfl

/-- What an enabled port that waits becomes: the restore pass, and the answer from the port as it stands after it (R16). -/
theorem enableFinish_spec {n : PortIx} {r : PortRec} {s v : State} (hv : v = { s with license := v.license, attn := v.attn })
    (hlaw : WaitsLaw False False (waitWith n r v)) (hr : r.power = .waiting)
    (hchassis : v.license.chassis = s.license.chassis) (hin : portPresent s n = true) :
    let t := settleDeficit (restorePass (waitWith n r v))
    let a := enableAnswer n (restorePass (waitWith n r v))
    (a = if (t.port n).power = .waiting ∧ (t.port n).hold = true then { status := .pending, detail := 4, fields := [] }
      else if (t.port n).power = .waiting then { status := .pending, detail := 3, fields := [] }
      else if (s.card (slotOf n)).state = .fenced then { status := .pending, detail := 5, fields := [] }
      else answer .done) ∧
    (t.port n).power ≠ .off ∧ (a = answer .done → serviceable t n = true) ∧ (t.port n).intent = r.intent ∧
    (t.port n).priority = r.priority ∧ (t.port n).license = r.license ∧ t.license = v.license ∧
    (∀ m, m ≠ n → (t.port m).intent = (s.port m).intent ∧ (t.port m).priority = (s.port m).priority ∧
      (t.port m).license = (s.port m).license) ∧ OutsideKept s t ∧ EnginesKept s t := by
  have hends := eventEnds_restored hlaw
  have hport := waitWith_port n r v
  have hrecord := (hport n).trans (if_pos rfl)
  have hcard (c : Slot) : (waitWith n r v).card c = s.card c := by rw [hv]; rfl
  have hother (m : PortIx) (hm : m ≠ n) : (waitWith n r v).port m = s.port m := by
    rw [hport, if_neg fun he : n = m => hm he.symm, hv]
    rfl
  have hinService : (s.card (slotOf n)).state.inService = true := (Bool.and_eq_true_iff.1 hin).1
  have hnotWaiting : ((waitWith n r v).card (slotOf n)).state ≠ .waiting := fun hw => by
    rw [hcard] at hw
    rw [hw] at hinService
    cases hinService
  have hstate := hends.state hnotWaiting
  rw [hcard] at hstate
  have hlast : (restorePass (waitWith n r v)).port n = (settleDeficit (restorePass (waitWith n r v))).port n :=
    (settleDeficit_port _ n).symm
  have hlastCard : (cardOf (restorePass (waitWith n r v)) n).state = (s.card (slotOf n)).state := by
    rw [← hstate, settleDeficit_card]
    rfl
  have hpower := hends.power_of_waiting (n := n) (by rw [hrecord]; exact hr)
  have hkeeps := (waitWith_keeps (n := n) (r := { r with license := (v.port n).license }) (s := v) rfl).2
  obtain ⟨hout, heng⟩ := hkeeps
  dsimp only
  refine ⟨?_, fun hoff => ?_, fun hdone => ?_, by rw [hends.intent, hrecord], by rw [hends.priority, hrecord],
    by rw [hends.license, hrecord], hends.pools, fun m hm => by rw [hends.intent, hends.priority, hends.license, hother m hm]; exact ⟨rfl, rfl, rfl⟩,
    hends.outside ?_, hends.engines ?_⟩
  · unfold enableAnswer
    rw [hlast, hlastCard]
    rcases hpower with hw | ha
    · rw [hw, if_pos (by nofun)]
      simp only [true_and, if_true]
      rfl
    · rw [ha, if_neg (by simp)]
      simp only [reduceCtorEq, false_and, if_false]
      rfl
  · rcases hpower with hw | ha
    · rw [hw] at hoff
      cases hoff
    · rw [ha] at hoff
      cases hoff
  · unfold enableAnswer at hdone
    rw [hlast, hlastCard] at hdone
    rcases hpower with hw | ha
    · rw [hw, if_pos (by nofun)] at hdone
      split at hdone <;> cases hdone
    · rw [ha, if_neg (by simp)] at hdone
      split at hdone
      · cases hdone
      next hfenced =>
        refine serviceable_iff.2 ⟨hends.law.eligible_of_power (by rw [ha]; nofun), ?_, ha⟩
        rw [hstate]
        exact (inService_iff.1 hinService).resolve_right hfenced
  · rw [hv] at hchassis
    rw [hv]
    exact ⟨rfl, rfl, hchassis, rfl, rfl⟩
  · rw [hv]
    exact ⟨rfl, rfl, rfl, rfl⟩

/-- A port of a pool's binding, Unlicensed before it, joins the wait list where its card is present. -/
theorem bindPort_enabled {n : PortIx} {s : State} (hlist : WaitListFollows s) (hoff : (s.port n).power = .off)
    (hl : (s.port n).license = .unlicensed) (hin : portPresent s n = true) (prio : Option Priority) (k : PoolIx) :
    bindPort n k (s.modPort n (enabledWith prio)) = waitWith n { enabledWith prio (s.port n) with
      license := .bound k, power := .waiting, hold := decide (s.power.cap ≤ (enabledWith prio (s.port n)).priority.val) }
      (changeBound k (· + 1) s) := by
  have hrecord : (s.modPort n (enabledWith prio)).port n = enabledWith prio (s.port n) := modPort_port_same n _ s
  have hfreed : PoolsLawful.freed n (s.modPort n (enabledWith prio)) = s.modPort n (enabledWith prio) := by
    unfold PoolsLawful.freed
    rw [hrecord]
    show (match (s.port n).license.pool? with
      | some old => _
      | none => _) = _
    rw [hl]
    rfl
  have hbound : ((s.modPort n (enabledWith prio)).modPort n fun r => { r with license := .bound k }) =
      s.modPort n fun r => { enabledWith prio r with license := .bound k } := modPort_modPort n _ _ s
  have hcomm : (changeBound k (· + 1) (s.modPort n (enabledWith prio))).modPort n (fun r => { r with license := .bound k }) =
      (changeBound k (· + 1) s).modPort n fun r => { enabledWith prio r with license := .bound k } :=
    congrArg (changeBound k (· + 1)) hbound
  have hbefore : eligible (changeBound k (· + 1) (s.modPort n (enabledWith prio))) n = false := by
    show eligible (s.modPort n (enabledWith prio)) n = false
    rw [eligible_enabled, hl]
    rfl
  have hafter : eligible ((changeBound k (· + 1) (s.modPort n (enabledWith prio))).modPort n fun r => { r with license := .bound k }) n
      = true := by
    rw [hcomm]
    unfold eligible
    rw [modPort_port_same]
    exact hin
  have habsent : WaitItem.port n ∉ (changeBound k (· + 1) s).power.waitList := fun hm => by
    have hw := hlist.2.1 n |>.1 hm
    rw [hoff] at hw
    cases hw
  rw [PoolsLawful.bindPort_eq, hfreed, portChange_of_gain hbefore hafter, hcomm, joinWait_eq _ habsent]
  rfl

/-- A licensed port that is enabled joins the wait list where its card is present. -/
theorem portChange_enabled {n : PortIx} {s : State} (hlist : WaitListFollows s) (hdis : (s.port n).intent = .disabled)
    (hl : (s.port n).license.held = true) (hin : portPresent s n = true) (prio : Option Priority) :
    portChange n (enabledWith prio) s = waitWith n { enabledWith prio (s.port n) with
      license := (s.port n).license, power := .waiting
      hold := decide (s.power.cap ≤ (enabledWith prio (s.port n)).priority.val) } s := by
  have hbefore := eligible_of_disabled hdis
  have habsent : WaitItem.port n ∉ s.power.waitList := fun hm => by
    rw [hlist.2.1, (hlist.2.2.1 n).2 hbefore] at hm
    cases hm
  rw [portChange_of_gain hbefore (by rw [eligible_enabled, hl, hin]; rfl), joinWait_eq _ habsent]
  rfl

end Sys2Proof.Machine

section
open Sys2Proof Sys2Proof.Machine

/-- Settles O20: the refusals, the seven answers, and the port that waits for its restore pass. -/
theorem portEnableRule : Obligations.PortEnableRule := by
  unfold Obligations.PortEnableRule
  intro f port pool priority s hc hdeficit hlist i fieldsRight
  refine ⟨fun hbig => ?_, fun hport hfields => ?_, fun n hn hfields => ?_⟩
  · have hout : portEnable port pool priority s = (s, answer .outOfRange) := by
      unfold portEnable
      rw [index?_outside hbig]
    rw [exec_portEnable hc, hout, settleDeficit_of_follows hdeficit]
  · have hout : portEnable port pool priority s = (s, answer .invalidField) := by
      unfold portEnable
      rw [index?_of_eq (i := ⟨port.toNat, by omega⟩) rfl]
      dsimp only
      refine if_pos ?_
      by_contra hno
      refine hfields ⟨by omega, ?_⟩
      by_cases hlow : priority.toNat ≤ 7
      · exact .inl hlow
      · have := priority.isLt
        exact .inr (BitVec.eq_of_toNat_eq (show priority.toNat = 255 by omega))
    rw [exec_portEnable hc, hout, settleDeficit_of_follows hdeficit]
  · intro enabled present choice waiting
    have henable := portEnable_of_fields hn hfields s
    have hexec := exec_portEnable hc port pool priority
    rw [henable] at hexec
    have hsettings : enabledWith (index? 8 priority.toNat) (s.port n) = enabled := by
      unfold enabledWith index?
      split
      next hlow => exact congrArg (fun k => { s.port n with intent := .enabled, priority := k }) (dif_pos hlow).symm
      next hlow =>
        have hdite : (if h : priority.toNat < 8 then (⟨priority.toNat, h⟩ : Priority) else (s.port n).priority) = (s.port n).priority :=
          dif_neg hlow
        exact congrArg (fun k => { s.port n with intent := .enabled, priority := k }) hdite.symm
    have hpool := enablePool_eq (n := n) (index? 8 priority.toNat) s hfields.1
    have hpresence : present ↔ portPresent s n = true := Bool.and_eq_true_iff.symm
    clear_value enabled
    subst hsettings
    have hlaw := waitsLaw_iff.2 hlist
    have hbefore (hdis : (s.port n).intent = .disabled) := eligible_of_disabled hdis
    have hoff (hdis : (s.port n).intent = .disabled) : (s.port n).power = .off := (hlist.2.2.1 n).2 (hbefore hdis)
    have hstill : settleDeficit (s.modPort n (enabledWith (index? 8 priority.toNat))) =
        s.modPort n (enabledWith (index? 8 priority.toNat)) :=
      settleDeficit_of_follows (hdeficit.of_holds rfl rfl fun m => by
        rw [modPort_port]
        split
        next he => rw [he]; rfl
        next => rfl)
    refine ⟨fun hen hkeep => ?_, fun hen hne => ?_, fun hdis habsent => ?_, fun hdis hpresent hl hchoice => ?_,
      fun hdis hpresent hcan => ?_⟩
    · rw [hexec, enablePort_of_keep hen, settleDeficit_of_follows hdeficit]
      intro k hk
      rw [index?_eq_some_iff] at hk
      rcases hkeep with h255 | hsame
      · rw [h255] at hk
        have := k.isLt
        exact absurd hk (by simp; omega)
      · exact Fin.ext (hsame.symm.trans hk)
    · cases hk : index? 8 priority.toNat with
      | none =>
        refine absurd ?_ hne
        rcases hfields.2 with hlow | h255
        · rw [index?_of_eq (i := ⟨priority.toNat, by omega⟩) rfl] at hk
          cases hk
        · exact h255
      | some k =>
        have hkv := index?_eq_some_iff.1 hk
        rw [hk] at hexec
        by_cases hsame : (s.port n).priority = k
        · refine ⟨s, .noChange, by simp, ?_, ?_⟩
          · rw [exec_portSetPriority hc, portSetPriority_eq hn hkv, if_pos hsame, settleDeficit_of_follows hdeficit]
          · rw [hexec, enablePort_of_keep hen _ fun m hm => by cases hm; exact hsame, settleDeficit_of_follows hdeficit]
        · refine ⟨settleDeficit (changePriority n k s), .done, by simp, exec_portSetPriority_changed hc hn hkv hsame, ?_⟩
          rw [hexec, enablePort_of_change hen _ hsame]
    · have habsent : portPresent s n = false := Bool.eq_false_iff.2 fun h => habsent (hpresence.2 h)
      have hplain : portChange n (enabledWith (index? 8 priority.toNat)) s = s.modPort n (enabledWith (index? 8 priority.toNat)) :=
        portChange_of_ineligible (hbefore hdis) (by rw [eligible_enabled, habsent, Bool.and_false])
      rw [hexec, enablePort_of_disabled hdis, hplain, enableSteps_of_absent (s := s.modPort n _) habsent, hstill]
      rfl
    · have hplain : portChange n (enabledWith (index? 8 priority.toNat)) s = s.modPort n (enabledWith (index? 8 priority.toNat)) :=
        portChange_of_ineligible (hbefore hdis) (by rw [eligible_enabled, hl]; rfl)
      rw [hexec, enablePort_of_disabled hdis, hplain, enableSteps_of_none (s := s.modPort n _) (hpresence.1 hpresent)
        (by rw [modPort_port_same]; exact hl) (hpool.trans hchoice), hstill]
      rfl
    · have hin := hpresence.1 hpresent
      by_cases hl : (s.port n).license = .unlicensed
      · have hplain : portChange n (enabledWith (index? 8 priority.toNat)) s = s.modPort n (enabledWith (index? 8 priority.toNat)) :=
          portChange_of_ineligible (hbefore hdis) (by rw [eligible_enabled, hl]; rfl)
        obtain ⟨k, hk⟩ := Option.ne_none_iff_exists'.1 (hcan.resolve_left fun h => h hl)
        have hbind := bindPort_enabled hlist (hoff hdis) hl hin (index? 8 priority.toNat) k
        have hsteps := enableSteps_of_pool (s := s.modPort n (enabledWith (index? 8 priority.toNat))) hin
          (by rw [modPort_port_same]; exact hl) (hpool.trans hk)
        have hlawful := (hplain ▸ hlaw.portChange n (enabledWith (index? 8 priority.toNat)) (fun _ => ⟨rfl, rfl⟩)
          fun hp => absurd (hoff hdis) hp).bindPort n k
        rw [hbind] at hsteps hlawful
        obtain ⟨ha, hon, hdone, hi, hp, hlic, hpools, hothers, hout, heng⟩ :=
          enableFinish_spec (s := s) (v := changeBound k (· + 1) s) rfl hlawful rfl rfl hin
        refine ⟨_, _, ?_, ha, hon, hdone, hi, hp, ?_, hothers, fun h => absurd hl h, fun k' _ hk' => ?_, hout, heng⟩
        · rw [hexec, enablePort_of_disabled hdis, hplain, hsteps]
          rfl
        · rw [if_pos hl]
          exact ⟨k, hk, hlic, hpools⟩
        · cases hk.symm.trans hk'
          rfl
      · have hheld : (s.port n).license.held = true := by
          cases h : (s.port n).license with
          | unlicensed => exact absurd h hl
          | bound k => rfl
          | grace k hours => rfl
        have hwaits := portChange_enabled hlist hdis hheld hin (index? 8 priority.toNat)
        have hlawful := hlaw.portChange n (enabledWith (index? 8 priority.toNat)) (fun _ => ⟨rfl, rfl⟩)
          fun hp => absurd (hoff hdis) hp
        have hrecord : (portChange n (enabledWith (index? 8 priority.toNat)) s).port n = _ :=
          hwaits ▸ (waitWith_port n _ s n).trans (if_pos rfl)
        have hsteps := enableSteps_of_held (n := n) (s := portChange n (enabledWith (index? 8 priority.toNat)) s)
          (by rw [hwaits]; exact hin) (by rw [hrecord]; exact hheld) (index1? 16 pool.toNat)
        rw [hwaits] at hsteps hlawful
        obtain ⟨ha, hon, hdone, hi, hp, hlic, hpools, hothers, hout, heng⟩ :=
          enableFinish_spec (s := s) (v := s) rfl hlawful rfl rfl hin
        refine ⟨_, _, ?_, ha, hon, hdone, hi, hp, ?_, hothers, fun _ => rfl, fun _ h => absurd h hl, hout, heng⟩
        · rw [hexec, enablePort_of_disabled hdis, hwaits, hsteps]
          rfl
        · rw [if_neg hl]
          exact ⟨hlic, hpools⟩

end

/-! PROOFS. The rebinding pass (R70, R71). -/

namespace Sys2Proof.Machine

/-! ## One binding (R10, R70) -/

/-- A change that moves neither a port's eligibility nor its power is its record's alone. -/
theorem portChange_of_same {n : PortIx} {f : PortRec → PortRec} {s : State} (hp : (f (s.port n)).power = (s.port n).power)
    (h : eligible (s.modPort n f) n = eligible s n) : portChange n f s = s.modPort n f := by
  have hserv : serviceable (s.modPort n f) n = serviceable s n := by
    have hrecord : ((s.modPort n f).port n).power = (s.port n).power := by rw [modPort_port_same, hp]
    refine Bool.eq_iff_iff.2 ?_
    rw [serviceable_iff, serviceable_iff, h, hrecord]
    rfl
  unfold portChange
  rw [reviewEligible_self _ h.symm]
  unfold reviewServiceable
  rw [hserv]
  cases serviceable s n <;> rfl

theorem eligible_iff {s : State} {n : PortIx} : eligible s n = true ↔
    (s.port n).intent = .enabled ∧ (s.port n).license.held = true ∧ portPresent s n = true := by
  unfold eligible portPresent
  simp only [Bool.and_eq_true, beq_iff_eq, and_assoc]

theorem rebindCandidate_iff {s : State} {n : PortIx} : rebindCandidate s n = true ↔
    (s.port n).intent = .enabled ∧ portPresent s n = true ∧ (s.port n).license.wanting = true := by
  unfold rebindCandidate portPresent
  simp only [Bool.and_eq_true, beq_iff_eq, and_assoc]

/-- A port's record as a binding of the pass leaves it: an Unlicensed one waits, a Grace one keeps its power and place (R70). -/
def reboundPort (cap : Nat) (k : PoolIx) (r : PortRec) : PortRec :=
  if r.license = .unlicensed then { r with license := .bound k, power := .waiting, hold := decide (cap ≤ r.priority.val) }
  else { r with license := .bound k }

/-- The items that the binding of a port puts on the wait list. -/
def reboundItems (s : State) (n : PortIx) : List WaitItem := if (s.port n).license = .unlicensed then [.port n] else []

/-- From s to t the ports of some bindings have been bound. -/
structure Rebinds (taken : List (PortIx × PoolIx)) (s t : State) : Prop where
  frame : t = { s with ports := t.ports, power := t.power, license := t.license, attn := t.attn }
  chassis : t.license.chassis = s.license.chassis
  kept : ∀ n, (∀ k, (n, k) ∉ taken) → t.port n = s.port n
  bound : ∀ n k, (n, k) ∈ taken → t.port n = reboundPort s.power.cap k (s.port n)
  power : t.power = { s.power with waitList := t.power.waitList }
  waits : t.power.waitList.Perm (taken.flatMap (fun x => reboundItems s x.1) ++ s.power.waitList)
  noted : taken ≠ [] → Noted .license t
  same : taken = [] → t = s

theorem rebinds_nil (s : State) : Rebinds [] s s :=
  ⟨rfl, rfl, fun _ _ => rfl, fun _ _ h => absurd h List.not_mem_nil, rfl, .refl _, fun h => absurd rfl h, fun _ => rfl⟩

theorem Rebinds.card {taken : List (PortIx × PoolIx)} {s t : State} (h : Rebinds taken s t) (c : Slot) : t.card c = s.card c := by
  rw [h.frame]
  rfl

theorem freed_eq (n : PortIx) (s : State) :
    PoolsLawful.freed n s = { s with license := (PoolsLawful.freed n s).license, attn := (PoolsLawful.freed n s).attn } := by
  unfold PoolsLawful.freed
  split <;> rfl

/-- The state of a binding with its counts moved, the port not yet changed (R62, R70). -/
def countedFor (n : PortIx) (k : PoolIx) (s : State) : State := changeBound k (· + 1) (PoolsLawful.freed n s)

theorem countedFor_eq (n : PortIx) (k : PoolIx) (s : State) :
    countedFor n k s = { s with license := (countedFor n k s).license, attn := (countedFor n k s).attn } := by
  have h := freed_eq n s
  unfold countedFor
  generalize PoolsLawful.freed n s = u at h
  show { u with license := _, attn := _ } = _
  rw [h]
  rfl

theorem countedFor_port (n : PortIx) (k : PoolIx) (s : State) (m : PortIx) : (countedFor n k s).port m = s.port m := by
  rw [countedFor_eq]
  rfl

theorem countedFor_chassis (n : PortIx) (k : PoolIx) (s : State) : (countedFor n k s).license.chassis = s.license.chassis := by
  unfold countedFor PoolsLawful.freed
  split <;> rfl

theorem noted_countedFor (n : PortIx) (k : PoolIx) (s : State) : Noted .license (countedFor n k s) := noted_addReason_self _ _

/-- What a binding writes, by the license that the port had. -/
theorem bindPort_candidate {n : PortIx} {s : State} (hc : rebindCandidate s n = true) (k : PoolIx) :
    bindPort n k s = if (s.port n).license = .unlicensed then
        joinWait n ((countedFor n k s).modPort n fun r => { r with license := .bound k })
      else (countedFor n k s).modPort n fun r => { r with license := .bound k } := by
  obtain ⟨hintent, hpresent, hwanting⟩ := rebindCandidate_iff.1 hc
  have hafter : eligible ((countedFor n k s).modPort n fun r => { r with license := .bound k }) n = true := by
    rw [eligible_iff, modPort_port_same, countedFor_port]
    refine ⟨hintent, rfl, ?_⟩
    rw [countedFor_eq]
    exact hpresent
  have hbefore : eligible (countedFor n k s) n = (s.port n).license.held := by
    refine Bool.eq_iff_iff.2 ?_
    rw [eligible_iff, countedFor_port]
    refine ⟨fun h => h.2.1, fun h => ⟨hintent, h, ?_⟩⟩
    rw [countedFor_eq]
    exact hpresent
  rw [PoolsLawful.bindPort_eq]
  change portChange n _ (countedFor n k s) = _
  cases hl : (s.port n).license with
  | unlicensed => rw [if_pos rfl, portChange_of_gain (by rw [hbefore, hl]; rfl) hafter]
  | bound i =>
    rw [hl] at hwanting
    cases hwanting
  | grace i hours => rw [if_neg nofun, portChange_of_same rfl (by rw [hafter, hbefore, hl]; rfl)]

/-- One binding of the pass (R70). -/
theorem rebinds_bindPort {n : PortIx} {s : State} (hc : rebindCandidate s n = true) (k : PoolIx) :
    Rebinds [(n, k)] s (bindPort n k s) := by
  have hframe := countedFor_eq n k s
  have hchassis := countedFor_chassis n k s
  have hnoted := noted_countedFor n k s
  have hcounted := countedFor_port n k s
  rw [bindPort_candidate hc]
  generalize countedFor n k s = u at hframe hchassis hnoted hcounted
  have hport (v : State) (r : PortRec) (hv : ∀ m, v.port m = if n = m then r else s.port m)
      (hr : r = reboundPort s.power.cap k (s.port n)) :
      (∀ m, (∀ j, (m, j) ∉ [(n, k)]) → v.port m = s.port m) ∧
      ∀ m j, (m, j) ∈ [(n, k)] → v.port m = reboundPort s.power.cap j (s.port m) := by
    refine ⟨fun m hm => (hv m).trans (if_neg fun he => hm k (by rw [he]; exact List.mem_singleton.2 rfl)), fun m j hmem => ?_⟩
    cases List.mem_singleton.1 hmem
    rw [hv, if_pos rfl, hr]
  split
  next hl =>
    obtain ⟨hkept, hbound⟩ := hport (joinWait n (u.modPort n fun r => { r with license := .bound k }))
      { s.port n with license := .bound k, power := .waiting, hold := decide (s.power.cap ≤ (s.port n).priority.val) } (fun m => by
        unfold joinWait setPower
        rw [enterWait_port, modPort_modPort, modPort_port]
        split
        next =>
          unfold atCap
          rw [modPort_port_same, hcounted]
          rw [hframe]
          rfl
        next => exact hcounted m) (by unfold reboundPort; rw [if_pos hl])
    refine ⟨?_, hchassis, hkept, hbound, ?_, ?_, fun _ => hnoted.of_attn rfl, fun h => absurd h (List.cons_ne_nil _ _)⟩
    · rw [hframe]
      rfl
    · rw [hframe]
      rfl
    · have hitems : reboundItems s n = [.port n] := if_pos hl
      rw [List.flatMap_singleton, hitems, hframe]
      exact insertByKey_perm _ _ _
  next hl =>
    obtain ⟨hkept, hbound⟩ := hport (u.modPort n fun r => { r with license := .bound k }) { s.port n with license := .bound k }
      (fun m => by
        rw [modPort_port, hcounted]
        split
        · rfl
        · exact hcounted m) (by unfold reboundPort; rw [if_neg hl])
    refine ⟨?_, hchassis, hkept, hbound, ?_, ?_, fun _ => hnoted.of_attn rfl, fun h => absurd h (List.cons_ne_nil _ _)⟩
    · rw [hframe]
      rfl
    · rw [hframe]
      rfl
    · have hitems : reboundItems s n = [] := if_neg hl
      rw [List.flatMap_singleton, hitems, hframe]
      exact .refl _

/-! ## The pass over its candidates (R70) -/

/-- The bindings after one: the ports that they take stand as they stood before it. -/
theorem Rebinds.cons {n : PortIx} {k : PoolIx} {taken : List (PortIx × PoolIx)} {s u t : State} (h : Rebinds [(n, k)] s u)
    (h' : Rebinds taken u t) (hn : ∀ j, (n, j) ∉ taken) : Rebinds ((n, k) :: taken) s t := by
  have hstill {m : PortIx} (hm : m ≠ n) : u.port m = s.port m := h.kept m fun j hmem => hm (by
    cases List.mem_singleton.1 hmem
    rfl)
  have hne {m : PortIx} {j : PoolIx} (hmem : (m, j) ∈ taken) : m ≠ n := fun he => hn j (he ▸ hmem)
  refine ⟨by rw [h'.frame, h.frame], h'.chassis.trans h.chassis, fun m hm => ?_, fun m j hmem => ?_, by rw [h'.power, h.power], ?_,
    fun _ => ?_, fun he => absurd he (List.cons_ne_nil _ _)⟩
  · rw [h'.kept m fun j hmem => hm j (List.mem_cons_of_mem _ hmem)]
    exact h.kept m fun j hmem => hm j (List.mem_cons.2 (.inl (List.mem_singleton.1 hmem)))
  · rcases List.mem_cons.1 hmem with he | hmem
    · cases he
      rw [h'.kept n hn, h.bound n k (List.mem_singleton.2 rfl)]
    · have hcap : u.power.cap = s.power.cap := by rw [h.power]
      rw [h'.bound m j hmem, hstill (hne hmem), hcap]
  · have hitems : (taken.flatMap fun x => reboundItems u x.1) = taken.flatMap fun x => reboundItems s x.1 :=
      List.flatMap_congr fun x hx => by
        unfold reboundItems
        rw [hstill (hne (j := x.2) hx)]
    have hfirst := h.waits
    rw [List.flatMap_singleton] at hfirst
    rw [List.flatMap_cons, List.append_assoc]
    refine h'.waits.trans ?_
    rw [hitems]
    refine (hfirst.append_left _).trans ?_
    rw [← List.append_assoc, ← List.append_assoc]
    exact List.perm_append_comm.append_right _
  · by_cases ht : taken = []
    · rw [h'.same ht]
      exact h.noted (List.cons_ne_nil _ _)
    · exact h'.noted ht

theorem autoBind_of_none {n : PortIx} {s : State} (h : autoChoice s n = none) : autoBind n s = s := by
  unfold autoBind
  rw [h]

theorem autoBind_of_some {n : PortIx} {s : State} {k : PoolIx} (h : autoChoice s n = some k) : autoBind n s = bindPort n k s := by
  unfold autoBind
  rw [h]

theorem rebindTakes_of_none {n : PortIx} {s : State} (h : autoChoice s n = none) (l : List PortIx) :
    rebindTakes s (n :: l) = rebindTakes s l := by
  rw [rebindTakes, h]

theorem rebindTakes_of_some {n : PortIx} {s : State} {k : PoolIx} (h : autoChoice s n = some k) (l : List PortIx) :
    rebindTakes s (n :: l) = (n, k) :: rebindTakes (countBinding n k s) l := by
  rw [rebindTakes, h]

/-- A pool's count moves with a binding by what the port counted and counts there (R62). -/
theorem countBinding_pool (n : PortIx) (k : PoolIx) (s : State) (j : PoolIx) :
    (countBinding n k s).pool j = (countedFor n k s).pool j := by
  unfold countBinding countedFor PoolsLawful.freed changeBound
  cases hl : (s.port n).license.pool? with
  | none => rfl
  | some old => rfl

theorem countBinding_port (n : PortIx) (k : PoolIx) (s : State) (m : PortIx) : (countBinding n k s).port m = s.port m := by
  unfold countBinding
  split <;> rfl

theorem countBinding_card (n : PortIx) (k : PoolIx) (s : State) (c : Slot) : (countBinding n k s).card c = s.card c := by
  unfold countBinding
  split <;> rfl

/-- The choice speaks of the pools, of the port's license and of its card's tier. -/
theorem autoChoice_congr {s t : State} {n : PortIx} (hp : ∀ k, t.pool k = s.pool k) (hl : (t.port n).license = (s.port n).license)
    (hc : t.card (slotOf n) = s.card (slotOf n)) : autoChoice t n = autoChoice s n := by
  have hserves (tier : Nat) (i : PoolIx) : poolServes t tier i = poolServes s tier i := by unfold poolServes; rw [hp]
  have hbetter : betterPool t = betterPool s := by
    funext best i
    unfold betterPool poolKey
    simp only [hp]
  unfold autoChoice cardOf
  simp only [hserves, hbetter, hl, hc]

theorem rebindTakes_congr {s t : State} {l : List PortIx} (hp : ∀ k, t.pool k = s.pool k)
    (hl : ∀ n ∈ l, (t.port n).license = (s.port n).license) (hc : ∀ c, t.card c = s.card c) : rebindTakes t l = rebindTakes s l := by
  induction l generalizing s t with
  | nil => rfl
  | cons n l ih =>
    have hchoice := autoChoice_congr hp (hl n List.mem_cons_self) (hc (slotOf n))
    have htail := fun m (hm : m ∈ l) => hl m (List.mem_cons_of_mem _ hm)
    cases hk : autoChoice s n with
    | none => rw [rebindTakes_of_none hk, rebindTakes_of_none (hchoice.trans hk), ih hp htail hc]
    | some k =>
      rw [rebindTakes_of_some hk, rebindTakes_of_some (hchoice.trans hk)]
      refine congrArg ((n, k) :: ·) (ih (fun j => ?_) (fun m hm => ?_) fun c => ?_)
      · rw [countBinding_pool, countBinding_pool]
        unfold countedFor changeBound
        simp only [addReason_pool, modPool_pool, PoolsLawful.freed_pool, hp, countsFor, hl n List.mem_cons_self]
      · rw [countBinding_port, countBinding_port, htail m hm]
      · rw [countBinding_card, countBinding_card, hc]

theorem mem_of_mem_rebindTakes {s : State} {l : List PortIx} {n : PortIx} {k : PoolIx} (h : (n, k) ∈ rebindTakes s l) : n ∈ l := by
  induction l generalizing s with
  | nil => exact absurd h List.not_mem_nil
  | cons m l ih =>
    cases hm : autoChoice s m with
    | none =>
      rw [rebindTakes_of_none hm] at h
      exact List.mem_cons_of_mem _ (ih h)
    | some j =>
      rw [rebindTakes_of_some hm] at h
      rcases List.mem_cons.1 h with he | h
      · cases he
        exact List.mem_cons_self
      · exact List.mem_cons_of_mem _ (ih h)

theorem rebindCandidate_congr {s t : State} {n : PortIx} (hp : t.port n = s.port n) (hc : ∀ c, t.card c = s.card c) :
    rebindCandidate t n = rebindCandidate s n := by
  unfold rebindCandidate withinCount cardOf
  rw [hp, hc]

/-- The pools after a binding are those that its counts give. -/
theorem bindPort_pool {n : PortIx} {s : State} (hc : rebindCandidate s n = true) (k j : PoolIx) :
    (bindPort n k s).pool j = (countBinding n k s).pool j := by
  rw [countBinding_pool, bindPort_candidate hc]
  split <;> rfl

/-- The bindings of a list of candidates, one after the other. -/
theorem rebinds_forEach {l : List PortIx} {s : State} (hl : l.Nodup) (hc : ∀ n ∈ l, rebindCandidate s n = true) :
    Rebinds (rebindTakes s l) s (forEach l autoBind s) := by
  induction l generalizing s with
  | nil => exact rebinds_nil s
  | cons n l ih =>
    obtain ⟨hn, hl⟩ := List.nodup_cons.1 hl
    rw [forEach_cons]
    cases hk : autoChoice s n with
    | none =>
      rw [autoBind_of_none hk, rebindTakes_of_none hk]
      exact ih hl fun m hm => hc m (List.mem_cons_of_mem _ hm)
    | some k =>
      have hcand := hc n List.mem_cons_self
      have hstep := rebinds_bindPort hcand k
      have hstill (m : PortIx) (hm : m ∈ l) : (bindPort n k s).port m = s.port m := hstep.kept m fun j hmem => hn (by
        cases List.mem_singleton.1 hmem
        exact hm)
      have htakes : rebindTakes (bindPort n k s) l = rebindTakes (countBinding n k s) l :=
        rebindTakes_congr (bindPort_pool hcand k) (fun m hm => by rw [hstill m hm, countBinding_port]) fun c => by
          rw [hstep.card, countBinding_card]
      have hrest := ih (s := bindPort n k s) hl fun m hm => by
        rw [rebindCandidate_congr (hstill m hm) hstep.card]
        exact hc m (List.mem_cons_of_mem _ hm)
      rw [htakes] at hrest
      rw [autoBind_of_some hk, rebindTakes_of_some hk]
      exact hstep.cons hrest fun j hmem => hn (mem_of_mem_rebindTakes hmem)

/-- The candidates of the pass, ascending (R70). -/
def rebindCandidates (s : State) : List PortIx := (List.finRange 672).filter (rebindCandidate s)

theorem rebindingPass_eq (s : State) : rebindingPass s = forEach (rebindCandidates s) autoBind s := by
  unfold rebindingPass
  rw [portsWhere_eq_filter]
  rfl

/-- The pass binds what its choices take (R70). -/
theorem rebinds_rebindingPass (s : State) : Rebinds (rebindTakes s (rebindCandidates s)) s (rebindingPass s) := by
  rw [rebindingPass_eq]
  exact rebinds_forEach ((List.nodup_finRange 672).filter _) fun n hn => (List.mem_filter.1 hn).2

/-- The pass leaves the ports alone that are no candidates. -/
theorem rebindingPass_port {s : State} {n : PortIx} (h : rebindCandidate s n = false) : (rebindingPass s).port n = s.port n :=
  (rebinds_rebindingPass s).kept n fun k hmem => by
    have hc := (List.mem_filter.1 (mem_of_mem_rebindTakes hmem)).2
    rw [h] at hc
    cases hc

theorem rebindingPass_of_none {s : State} (h : ∀ n, rebindCandidate s n = false) : rebindingPass s = s := by
  refine (rebinds_rebindingPass s).same ?_
  have hnil : rebindCandidates s = [] := List.filter_eq_nil_iff.2 fun n _ => by rw [h n]; exact Bool.false_ne_true
  rw [hnil]
  rfl

/-! ## The restore pass of the event (R71) -/

theorem rebindThenRestore_of {before : Nat} {s : State}
    (h : s.power.waitList.length < (rebindingPass s).power.waitList.length ∨ s.power.admitted < before) :
    rebindThenRestore before s = restorePass (rebindingPass s) := by
  unfold rebindThenRestore
  have hadmitted : (rebindingPass s).power.admitted = s.power.admitted := by rw [(rebinds_rebindingPass s).power]
  exact if_pos (by rwa [hadmitted])

theorem rebindThenRestore_of_not {before : Nat} {s : State}
    (h : ¬ (s.power.waitList.length < (rebindingPass s).power.waitList.length ∨ s.power.admitted < before)) :
    rebindThenRestore before s = rebindingPass s := by
  unfold rebindThenRestore
  have hadmitted : (rebindingPass s).power.admitted = s.power.admitted := by rw [(rebinds_rebindingPass s).power]
  exact if_neg (by rwa [hadmitted])

theorem rebindThenRestore_eq (before : Nat) (s : State) : rebindThenRestore before s =
    if s.power.waitList.length < (rebindingPass s).power.waitList.length ∨ s.power.admitted < before then
      restorePass (rebindingPass s) else rebindingPass s := by
  split
  next h => exact rebindThenRestore_of h
  next h => exact rebindThenRestore_of_not h

/-- The wait list grows exactly where an Unlicensed port is bound. -/
theorem waitList_grows_iff (s : State) : s.power.waitList.length < (rebindingPass s).power.waitList.length ↔
    ∃ n, (s.port n).license = .unlicensed ∧ ∃ k, (n, k) ∈ rebindTakes s (rebindCandidates s) := by
  have hlength := (rebinds_rebindingPass s).waits.length_eq
  rw [List.length_append] at hlength
  rw [hlength, Nat.lt_add_left_iff_pos, List.length_pos_iff_ne_nil, ne_eq, List.flatMap_eq_nil_iff]
  unfold reboundItems
  constructor
  · intro h
    by_contra hno
    exact h fun x hx => if_neg fun hl => hno ⟨x.1, hl, x.2, hx⟩
  · rintro ⟨n, hl, k, hmem⟩ h
    have hnil := h (n, k) hmem
    rw [if_pos hl] at hnil
    cases hnil

end Sys2Proof.Machine

/-! PROOFS. What a rebinding pass makes of the pools (R62, R70); the rebinding pass and Port Release License (R18). -/

namespace Sys2Proof.Machine

/-- The bindings of a list that take a pool. -/
def takenTo (k : PoolIx) (taken : List (PortIx × PoolIx)) : Nat := (taken.filter fun x => x.2 = k).length

/-- The bindings of a list whose ports leave a pool. -/
def takenFrom (s : State) (k : PoolIx) (taken : List (PortIx × PoolIx)) : Nat :=
  (taken.filter fun x => (s.port x.1).license.pool? = some k).length

theorem takenTo_cons (k : PoolIx) (x : PortIx × PoolIx) (taken : List (PortIx × PoolIx)) :
    takenTo k (x :: taken) = takenTo k taken + if x.2 = k then 1 else 0 := by
  unfold takenTo
  rw [List.filter_cons]
  by_cases h : x.2 = k
  · rw [if_pos h, if_pos (decide_eq_true h)]
    rfl
  · rw [if_neg h, if_neg (by rw [decide_eq_false h]; exact Bool.false_ne_true)]
    rfl

theorem takenFrom_cons (s : State) (k : PoolIx) (x : PortIx × PoolIx) (taken : List (PortIx × PoolIx)) :
    takenFrom s k (x :: taken) = takenFrom s k taken + countsFor s k x.1 := by
  unfold takenFrom countsFor
  rw [List.filter_cons]
  by_cases h : (s.port x.1).license.pool? = some k
  · rw [if_pos h, if_pos (decide_eq_true h)]
    rfl
  · rw [if_neg h, if_neg (by rw [decide_eq_false h]; exact Bool.false_ne_true)]
    rfl

theorem takenFrom_congr {s t : State} {taken : List (PortIx × PoolIx)} (k : PoolIx)
    (h : ∀ x ∈ taken, (t.port x.1).license = (s.port x.1).license) : takenFrom t k taken = takenFrom s k taken := by
  unfold takenFrom
  exact congrArg List.length (List.filter_congr fun x hx => by rw [h x hx])

theorem countsFor_le_bound {s : State} (h : PoolsLawful s) (k : PoolIx) (n : PortIx) : countsFor s k n ≤ (s.pool k).bound := by
  rw [(h k).1, boundTo_eq_sum]
  exact List.single_le_sum (fun _ _ => Nat.zero_le _) _ (List.mem_map.2 ⟨n, List.mem_finRange n, rfl⟩)

/-- One binding's counts. -/
theorem countedFor_pool (n : PortIx) (k : PoolIx) (s : State) (j : PoolIx) : (countedFor n k s).pool j =
    { s.pool j with bound := (s.pool j).bound - countsFor s j n + if k = j then 1 else 0 } := by
  unfold countedFor changeBound
  rw [addReason_pool, modPool_pool]
  split
  next he =>
    subst he
    rw [PoolsLawful.freed_pool]
  next => exact PoolsLawful.freed_pool n s j

/-- The pools once a list of candidates has been gone through (R62, R70). -/
theorem forEach_autoBind_pool {l : List PortIx} {s : State} (h : PoolsLawful s) (hl : l.Nodup)
    (hc : ∀ n ∈ l, rebindCandidate s n = true) (j : PoolIx) : (forEach l autoBind s).pool j = { s.pool j with
      bound := (s.pool j).bound + takenTo j (rebindTakes s l) - takenFrom s j (rebindTakes s l) } := by
  induction l generalizing s with
  | nil => rfl
  | cons n l ih =>
    obtain ⟨hn, hl⟩ := List.nodup_cons.1 hl
    have hlaw := h.autoBind n
    rw [forEach_cons]
    cases hk : autoChoice s n with
    | none =>
      rw [autoBind_of_none hk, rebindTakes_of_none hk]
      exact ih h hl fun m hm => hc m (List.mem_cons_of_mem _ hm)
    | some k =>
      have hcand := hc n List.mem_cons_self
      have hstep := rebinds_bindPort hcand k
      have hstill (m : PortIx) (hm : m ∈ l) : (bindPort n k s).port m = s.port m := hstep.kept m fun j hmem => hn (by
        cases List.mem_singleton.1 hmem
        exact hm)
      have htakes : rebindTakes (bindPort n k s) l = rebindTakes (countBinding n k s) l :=
        rebindTakes_congr (bindPort_pool hcand k) (fun m hm => by rw [hstill m hm, countBinding_port]) fun c => by
          rw [hstep.card, countBinding_card]
      rw [autoBind_of_some hk] at hlaw ⊢
      have hrest := ih hlaw hl fun m hm => by
        rw [rebindCandidate_congr (hstill m hm) hstep.card]
        exact hc m (List.mem_cons_of_mem _ hm)
      have hfrom := takenFrom_congr (s := s) (t := bindPort n k s) (taken := rebindTakes (countBinding n k s) l) j fun x hx => by
        rw [hstill x.1 (mem_of_mem_rebindTakes (k := x.2) hx)]
      have hle := countsFor_le_bound h j n
      rw [hrest, htakes, bindPort_pool hcand, countBinding_pool, countedFor_pool, hfrom, rebindTakes_of_some hk, takenTo_cons,
        takenFrom_cons]
      refine congrArg (fun b => { s.pool j with bound := b }) ?_
      dsimp only
      omega

theorem rebindingPass_pool {s : State} (h : PoolsLawful s) (j : PoolIx) : (rebindingPass s).pool j = { s.pool j with
    bound := (s.pool j).bound + takenTo j (rebindTakes s (rebindCandidates s)) -
      takenFrom s j (rebindTakes s (rebindCandidates s)) } := by
  rw [rebindingPass_eq]
  exact forEach_autoBind_pool h ((List.nodup_finRange 672).filter _) (fun n hn => (List.mem_filter.1 hn).2) j

theorem decide_eq_of_candidate {b : Bool} {p : Prop} [Decidable p] (h : p ↔ b = true) : decide p = b := by
  rw [decide_eq_decide.2 h, Bool.decide_coe]

theorem License.wanting_iff {l : License} : l.wanting = true ↔ ∀ k, l ≠ .bound k := by
  cases l with
  | unlicensed => simp [License.wanting]
  | bound k => simp [License.wanting]
  | grace k hours => simp [License.wanting]

/-- The candidates as R70 lists their conditions. -/
theorem filter_rebindCandidate (s : State) (l : List PortIx) : (l.filter fun n => (s.port n).intent = .enabled ∧
      ((s.card (slotOf n)).state = .joined ∨ (s.card (slotOf n)).state = .fenced) ∧
      posOf n < (s.card (slotOf n)).portCount ∧ ∀ k, (s.port n).license ≠ .bound k) = l.filter (rebindCandidate s) := by
  refine List.filter_congr fun n _ => decide_eq_of_candidate ?_
  rw [rebindCandidate_iff, portPresent, Bool.and_eq_true, inService_iff, and_assoc]
  refine and_congr_right' (and_congr_right' (and_congr ?_ License.wanting_iff.symm))
  exact decide_eq_true_iff.symm

end Sys2Proof.Machine

section
open Sys2Proof Sys2Proof.Machine

/-- Settles O4: the candidates bound by the choice in turn, and the restore pass that follows where the event calls for it. -/
theorem rebindingRule : Obligations.RebindingRule := by
  unfold Obligations.RebindingRule
  intro s hlist hpools candidates taken t joins
  have hcandidates : candidates = rebindCandidates s := filter_rebindCandidate s (List.finRange 672)
  have htaken : taken = rebindTakes s (rebindCandidates s) := congrArg (rebindTakes s) hcandidates
  have ht : t = rebindingPass s := rfl
  clear_value t taken candidates
  have hpass := rebinds_rebindingPass s
  rw [← htaken, ← ht] at hpass
  have hjoins : (∃ n, joins n) ↔ s.power.waitList.length < (rebindingPass s).power.waitList.length := by
    rw [waitList_grows_iff, ← htaken]
  refine ⟨hpass.kept, fun n k hmem => ⟨?_, fun hl => ?_, fun hl => ?_⟩, hpass.chassis, fun k => ?_, hpass.power,
    fun x => ?_, fun ho => ?_, fun hne => hpass.noted hne, hpass.same, hpass.frame, fun drawn => ⟨fun h => ?_, fun hno hdrawn => ?_⟩⟩
  · rw [htaken] at hmem
    rw [hcandidates]
    exact mem_of_mem_rebindTakes hmem
  · rw [hpass.bound n k hmem, reboundPort, if_pos hl]
  · rw [hpass.bound n k hmem, reboundPort, if_neg hl]
  · rw [htaken, ht]
    exact rebindingPass_pool hpools k
  · rw [hpass.waits.mem_iff, List.mem_append, or_comm, List.mem_flatMap]
    refine or_congr_right ⟨?_, ?_⟩
    · rintro ⟨⟨n, k⟩, hmem, hx⟩
      unfold reboundItems at hx
      split at hx
      next hl => exact ⟨n, ⟨hl, k, hmem⟩, List.mem_singleton.1 hx⟩
      next => exact absurd hx List.not_mem_nil
    · rintro ⟨n, ⟨hl, k, hmem⟩, hx⟩
      refine ⟨(n, k), hmem, ?_⟩
      unfold reboundItems
      rw [if_pos hl, hx]
      exact List.mem_singleton.2 rfl
  · rw [ht]
    exact (waitsLaw_ordered_iff.1 (waitsLaw_ordered_iff.2 ⟨hlist, ho⟩).rebindingPass).2
  · rw [ht]
    exact rebindThenRestore_of (h.imp_left hjoins.1)
  · rw [ht]
    refine rebindThenRestore_of_not ?_
    rintro (hgrows | hless)
    · obtain ⟨n, hn⟩ := hjoins.2 hgrows
      exact hno n hn
    · exact Nat.not_lt.2 hdrawn hless

end

/-! PROOFS. Port Release License (R18). -/

namespace Sys2Proof.Machine

theorem exec_portReleaseLicense {f : Frame} {s : State} (h : MasterClear s f.port) (port : Half) :
    exec (.portReleaseLicense f port) s =
      .next (respond f (portReleaseLicense port s).2 (settleDeficit (portReleaseLicense port s).1)) := by
  change Host.Outcome.next (disarmingCommand f .master (settled (portReleaseLicense port)) s) = _
  rw [disarmingCommand_master h, settled]

theorem portReleaseLicense_of_port {port : Half} {n : PortIx} (hn : port.toNat = n.val) (s : State) : portReleaseLicense port s =
    if (s.port n).intent = .enabled then (s, answer .portActive)
    else if (s.port n).license = .unlicensed then (s, answer .noChange)
    else (rebindThenRestore s.power.admitted (unbindPort n s), answer .done) := by
  unfold portReleaseLicense
  rw [index?_of_eq hn]

/-- A port whose intent is Disabled loses its license and nothing else (R18). -/
theorem unbindPort_of_disabled {n : PortIx} {s : State} (hdis : (s.port n).intent = .disabled) {k : PoolIx}
    (hk : (s.port n).license.pool? = some k) :
    unbindPort n s = (changeBound k (· - 1) s).modPort n fun r => { r with license := .unlicensed } := by
  have hfreed : PoolsLawful.freed n s = changeBound k (· - 1) s := by
    unfold PoolsLawful.freed
    rw [hk]
  have hafter : eligible ((changeBound k (· - 1) s).modPort n fun r => { r with license := .unlicensed }) n = false :=
    eligible_of_disabled (by rw [modPort_port_same]; exact hdis)
  rw [PoolsLawful.unbindPort_eq, hfreed, portChange_of_same rfl]
  rw [hafter]
  exact (eligible_of_disabled (s := changeBound k (· - 1) s) hdis).symm

end Sys2Proof.Machine

section
open Sys2Proof Sys2Proof.Machine

/-- Settles O22: the checks in order, the license given up, and the rebinding pass that follows. -/
theorem portReleaseLicenseRule : Obligations.PortReleaseLicenseRule := by
  unfold Obligations.PortReleaseLicenseRule
  intro f port s hc hdeficit hlist i
  refine ⟨fun hbig => ?_, fun n hn => ⟨fun hen => ?_, fun hdis hl => ?_, fun k hdis hk => ?_⟩⟩
  · have hout : portReleaseLicense port s = (s, answer .outOfRange) := by
      unfold portReleaseLicense
      rw [index?_outside hbig]
    rw [exec_portReleaseLicense hc, hout, settleDeficit_of_follows hdeficit]
  · rw [exec_portReleaseLicense hc, portReleaseLicense_of_port hn, if_pos hen, settleDeficit_of_follows hdeficit]
  · rw [exec_portReleaseLicense hc, portReleaseLicense_of_port hn, hdis, if_neg nofun, if_pos hl, settleDeficit_of_follows hdeficit]
  · have hl : (s.port n).license ≠ .unlicensed := fun hl => by
      rw [hl] at hk
      cases hk
    have hunbound := unbindPort_of_disabled hdis hk
    let u := (changeBound k (· - 1) s).modPort n fun r => { r with license := .unlicensed }
    have hlaw : WaitsLaw False False u := by
      have hkept := (waitsLaw_iff.2 hlist).unbindPort n
      rwa [hunbound] at hkept
    have hport (m : PortIx) : u.port m = if n = m then { s.port n with license := .unlicensed } else s.port m :=
      modPort_port n m (fun r => { r with license := .unlicensed }) (changeBound k (· - 1) s)
    have hself := (hport n).trans (if_pos rfl)
    have hother {m : PortIx} (hm : m ≠ n) : u.port m = s.port m := (hport m).trans (if_neg fun he : n = m => hm he.symm)
    have hpass := rebinds_rebindingPass u
    have hnone : rebindCandidate u n = false := Bool.eq_false_iff.2 fun hcand => by
      have hi := (rebindCandidate_iff.1 hcand).1
      rw [hself] at hi
      exact absurd (hdis.symm.trans hi) nofun
    have hends : EventEnds (rebindingPass u) (settleDeficit (rebindThenRestore s.power.admitted u)) := by
      rw [rebindThenRestore_eq]
      exact eventEnds_restoredIf hlaw.rebindingPass _
    have hstays := (rebindingPass_port hnone).trans hself
    have hoff : (s.port n).power = .off := (hlist.2.2.1 n).2 (eligible_of_disabled hdis)
    have hmoves : Moves { settings := false, licences := true, sensors := false } s
        (settleDeficit (rebindThenRestore s.power.admitted (unbindPort n s))) :=
      ((Moves.refl.unbindPort n rfl).rebindThenRestore _ rfl).settleDeficit
    rw [hunbound] at hmoves
    refine ⟨settleDeficit (rebindThenRestore s.power.admitted u), ?_, ?_, fun hno => ?_, rfl, hmoves.settingsKept rfl, hmoves.outside,
      hends.engines ?_⟩
    · rw [exec_portReleaseLicense hc, portReleaseLicense_of_port hn, hdis, if_neg nofun, if_neg hl, hunbound]
    · rw [hends.port_eq, hstays]
      rw [hstays, hoff]
      nofun
    · have hplain : rebindThenRestore s.power.admitted u = u := by
        have hquiet : rebindingPass u = u := rebindingPass_of_none fun m => by
          by_cases hm : m = n
          · rw [hm]
            exact hnone
          · rw [rebindCandidate_congr (hother hm) fun _ => rfl]
            exact hno m
        rw [rebindThenRestore_of_not, hquiet]
        rw [hquiet]
        rintro (h | h)
        · exact Nat.lt_irrefl _ h
        · exact Nat.lt_irrefl _ h
      have hstill : DeficitFollows u := hdeficit.of_holds rfl rfl fun m => by
        rw [hport]
        split
        next he => rw [he]
        next => rfl
      rw [hplain, settleDeficit_of_follows hstill]
      exact ⟨rfl, rfl, rfl, rfl, fun m hm => hother hm⟩
    · rw [hpass.frame]
      exact ⟨rfl, rfl, rfl, rfl⟩

end

/-! PROOFS. What the operations on ports write and what they leave, in any state; the claims that an operation may make; and what the
Commit Engine sends where a card leaves it (R108 to R111, R116). -/

namespace Sys2Proof.Machine

/-! ## Operations on ports -/

/-- From s to t only the ports, the cards, the budget, the names and the attention sets may have been written. -/
def PortWork (s t : State) : Prop :=
  t = { s with ports := t.ports, cards := t.cards, power := t.power, names := t.names, attn := t.attn }

namespace PortWork

variable {s t u : State}

theorem refl (s : State) : PortWork s s := rfl

theorem trans (h : PortWork s t) (h' : PortWork t u) : PortWork s u := by
  unfold PortWork at h h' ⊢
  rw [h', h]

theorem modPort (n : PortIx) (f : PortRec → PortRec) (h : PortWork s t) : PortWork s (t.modPort n f) := h.trans rfl

theorem modCard (slot : Slot) (f : CardRec → CardRec) (h : PortWork s t) : PortWork s (t.modCard slot f) := h.trans rfl

theorem modPower (f : PowerBudget → PowerBudget) (h : PortWork s t) : PortWork s (t.modPower f) := h.trans rfl

theorem reason (r : Reason) (h : PortWork s t) : PortWork s (addReason r t) := h.trans rfl

theorem forEach {α : Type} {act : α → State → State} (ha : ∀ x t, PortWork s t → PortWork s (act x t)) (l : List α)
    (h : PortWork s t) : PortWork s (Machine.forEach l act t) :=
  forEach_keeps ha l h

theorem send (slot : Slot) (m : CardMsg) (h : PortWork s t) : PortWork s (Machine.send slot m t) := h.modCard slot _

theorem sendJoined (m : CardMsg) (h : PortWork s t) : PortWork s (Machine.sendJoined m t) := by
  refine h.forEach (fun slot t ht => ?_) _
  split
  · exact ht.send slot m
  · exact ht

theorem removeLogins (n : PortIx) (h : PortWork s t) : PortWork s (Machine.removeLogins n t) := by
  refine modPort n _ (h.forEach (fun pos t ht => ?_) _)
  unfold endLoginAt
  split
  next e _ =>
    rw [endLogin_eq]
    refine sendJoined _ (modPort _ _ ?_)
    rw [writeLogout_eq]
    exact ht.trans rfl
  next => exact ht

theorem loseServiceable (n : PortIx) (h : PortWork s t) : PortWork s (Machine.loseServiceable n t) := by
  unfold Machine.loseServiceable
  dsimp only
  refine removeLogins n ?_
  split
  · exact (h.modPort n _).send _ _
  · exact h.modPort n _

theorem reviewServiceable (n : PortIx) (was : Bool) (h : PortWork s t) : PortWork s (Machine.reviewServiceable n was t) := by
  unfold Machine.reviewServiceable
  split
  · exact h.loseServiceable n
  · exact h.send _ _
  · exact h
  · exact h

theorem enterWait (x : WaitItem) (h : PortWork s t) : PortWork s (Machine.enterWait x t) := h.modPower _

theorem leaveWait (x : WaitItem) (h : PortWork s t) : PortWork s (Machine.leaveWait x t) := h.modPower _

theorem setPower (n : PortIx) (p : PortPower) (hold : Bool) (h : PortWork s t) : PortWork s (Machine.setPower n p hold t) :=
  h.modPort n _

theorem reviewEligible (n : PortIx) (was : Bool) (draw : Nat) (h : PortWork s t) :
    PortWork s (Machine.reviewEligible n was draw t) := by
  unfold Machine.reviewEligible
  split
  · unfold loseEligibility
    refine setPower n _ _ ?_
    split
    · exact h.leaveWait _
    · exact h.modPower _
    · exact h
  · exact (h.setPower n _ _).enterWait _
  · exact h
  · exact h

theorem portChange (n : PortIx) (f : PortRec → PortRec) (h : PortWork s t) : PortWork s (Machine.portChange n f t) :=
  ((h.modPort n f).reviewEligible n _ _).reviewServiceable n _

theorem portsFollowCard (slot : Slot) (before : State) (h : PortWork s t) : PortWork s (Machine.portsFollowCard slot before t) :=
  h.forEach (fun n _ ht => (ht.reviewEligible n _ _).reviewServiceable n _) _

theorem displacePort (n : PortIx) (hold : Bool) (h : PortWork s t) : PortWork s (Machine.displacePort n hold t) :=
  (((h.modPower _).setPower n _ _).enterWait _).reviewServiceable n _

theorem restorePass (h : PortWork s t) : PortWork s (Machine.restorePass t) := by
  have hloop := h.forEach (act := restoreItem) (fun x t ht => by
    cases x with
    | card c =>
      rw [restoreItem_card]
      split
      · rw [(admitCard_spec c t).1]
        exact ht.trans rfl
      · exact ht
    | port n =>
      rw [restoreItem_port]
      split
      · exact ((ht.leaveWait _).modPower _).portChange n _
      · exact ht) t.power.waitList
  unfold Machine.restorePass
  dsimp only
  split
  · exact hloop.reason _
  · exact hloop

theorem alarms (h : PortWork s t) : t.alarms = s.alarms := by rw [h]

end PortWork

/-! ## Claims (R145 to R149) -/

/-- From s to t no claims but those of some causes have been made. -/
def ClaimsOnly (C : Cause → Prop) (s t : State) : Prop :=
  AlarmsLawful s → AlarmsLawful t ∧ ∀ x : Nat × AlarmEntry, ¬ C x.2.cause → (x ∈ t.alarms ↔ x ∈ s.alarms)

namespace ClaimsOnly

variable {C : Cause → Prop} {s t u : State}

theorem of_alarms (C : Cause → Prop) (h : t.alarms = s.alarms) : ClaimsOnly C s t := fun hs =>
  ⟨hs.of_alarms h, fun _ _ => by rw [h]⟩

theorem refl (C : Cause → Prop) (s : State) : ClaimsOnly C s s := .of_alarms C rfl

theorem trans (h : ClaimsOnly C s t) (h' : ClaimsOnly C t u) : ClaimsOnly C s u := fun hs =>
  have ht := h hs
  have hu := h' ht.1
  ⟨hu.1, fun x hx => (hu.2 x hx).trans (ht.2 x hx)⟩

theorem mono {D : Cause → Prop} (h : ClaimsOnly C s t) (hCD : ∀ c, C c → D c) : ClaimsOnly D s t := fun hs =>
  ⟨(h hs).1, fun x hx => (h hs).2 x fun hc => hx (hCD _ hc)⟩

theorem raise {r : Raise} (hr : C r.cause) (h : ClaimsOnly C s t) : ClaimsOnly C s (raiseAlarm r t) :=
  h.trans fun ht => ⟨ht.raiseAlarm r, fun x hx => otherAlarmsKept_raiseAlarm r ht x fun he => hx (he.1 ▸ hr)⟩

theorem clear {c : Cause} (k : Nat) (hc : C c) (h : ClaimsOnly C s t) : ClaimsOnly C s (endAlarm c k t) :=
  h.trans fun ht => ⟨ht.endAlarm c k, fun x hx => otherAlarmsKept_endAlarm c k ht x fun he => hx (he.1 ▸ hc)⟩

theorem stands (h : ClaimsOnly C s t) (hs : AlarmsLawful s) {c : Cause} (hc : ¬ C c) {k : Nat} {sev : Severity} {d : Nat}
    (ha : AlarmStands s c k sev d) : AlarmStands t c k sev d := by
  obtain ⟨pos, e, hmem, rfl, hrest⟩ := ha
  exact ⟨pos, e, ((h hs).2 (pos, e) hc).2 hmem, rfl, hrest⟩

theorem staysOver (h : ClaimsOnly C s t) (hs : AlarmsLawful s) {c : Cause} (hc : ¬ C c) {k : Nat} (ha : AlarmOver s c k) :
    AlarmOver t c k := fun x hx hxc hxk =>
  ha x (((h hs).2 x (by rw [hxc]; exact hc)).1 hx) hxc hxk

theorem forEach {α : Type} {act : α → State → State} (ha : ∀ x t, ClaimsOnly C s t → ClaimsOnly C s (act x t)) (l : List α)
    (h : ClaimsOnly C s t) : ClaimsOnly C s (Machine.forEach l act t) :=
  forEach_keeps ha l h

end ClaimsOnly

theorem PortWork.claims {s t : State} (h : PortWork s t) (C : Cause → Prop) : ClaimsOnly C s t := .of_alarms C h.alarms

theorem settleDeficit_claims (s : State) : ClaimsOnly (· = .budgetDeficit) s (settleDeficit s) := by
  unfold settleDeficit
  split
  · exact (ClaimsOnly.of_alarms (s := s) (t := s.modPower fun p => { p with deficit := true }) (· = .budgetDeficit) rfl).raise rfl
  · exact (ClaimsOnly.of_alarms (s := s) (t := s.modPower fun p => { p with deficit := false }) (· = .budgetDeficit) rfl).clear 0 rfl
  · exact .refl _ s
  · exact .refl _ s

/-! ## What the Commit Engine sends (R105, R109) -/

/-- From s to t the Commit Engine has gone on: no card has been sent a Revoke or a Purge, a card that is not Joined and is Outside has
been sent nothing and is Outside still, and no claim has been made but that a commit ended degraded. -/
structure EngineMail (s t : State) : Prop where
  frame : EngineFrame s t
  card : ∀ c, ∃ k, t.card c = (s.card c).behind k ∧ fallsOf k = []
  outside : ∀ c, (s.card c).state ≠ .joined → (s.phaseRec c).phase = .outside → t.card c = s.card c ∧ (t.phaseRec c).phase = .outside
  claims : ClaimsOnly (· = .commitDegraded) s t

namespace EngineMail

variable {s t u : State}

theorem refl (s : State) : EngineMail s s :=
  ⟨.refl s, fun _ => ⟨[], (CardRec.behind_nil _).symm, rfl⟩, fun _ _ h => ⟨rfl, h⟩, .refl _ s⟩

theorem state (h : EngineMail s t) (c : Slot) : (t.card c).state = (s.card c).state := by
  obtain ⟨k, hk, -⟩ := h.card c
  rw [hk]
  rfl

theorem identity (h : EngineMail s t) (c : Slot) : (t.card c).identity = (s.card c).identity := by
  obtain ⟨k, hk, -⟩ := h.card c
  rw [hk]
  rfl

theorem trans (h : EngineMail s t) (h' : EngineMail t u) : EngineMail s u := by
  refine ⟨h.frame.trans h'.frame, fun c => ?_, fun c hj ho => ?_, h.claims.trans h'.claims⟩
  · obtain ⟨k, hk, hf⟩ := h.card c
    obtain ⟨k', hk', hf'⟩ := h'.card c
    exact ⟨k ++ k', by rw [hk', hk, CardRec.behind_behind], by rw [fallsOf_append, hf, hf']; rfl⟩
  · obtain ⟨hcard, hphase⟩ := h.outside c hj ho
    obtain ⟨hcard', hphase'⟩ := h'.outside c (by rw [hcard]; exact hj) hphase
    exact ⟨hcard'.trans hcard, hphase'⟩

/-- The cards that a loop tells get one message each. -/
theorem of_told {told : Slot → Prop} {p : Phase} {m : CardMsg} (hframe : EngineFrame s t) (h : Told told p m s t)
    (hm : fallsOf [m] = []) (hnot : ∀ c, (s.card c).state ≠ .joined → (s.phaseRec c).phase = .outside → ¬ told c)
    (halarms : t.alarms = s.alarms) : EngineMail s t := by
  refine ⟨hframe, fun c => ?_, fun c hj ho => ?_, .of_alarms _ halarms⟩
  · by_cases hc : told c
    · exact ⟨[m], h.card c hc, hm⟩
    · exact ⟨[], by rw [h.card_other c hc, CardRec.behind_nil], rfl⟩
  · have hc := hnot c hj ho
    exact ⟨h.card_other c hc, by rw [h.phase_other c hc]; exact ho⟩

theorem beginCommit (number : Half) (s : State) : EngineMail s (Machine.beginCommit number s) := by
  have hbegun := begun_beginCommit number s
  exact of_told (EngineFrame.beginCommit number (.refl s)) hbegun.told rfl (fun _ hj _ => hj) (by rw [hbegun.frame])

theorem switchLive (s : State) : EngineMail s (Machine.switchLive s) := by
  have hswitched := switched_switchLive s
  refine of_told (EngineFrame.switchLive (.refl s)) hswitched.told rfl (fun c _ ho => ?_) (by rw [hswitched.frame])
  rw [ho]
  exact not_or.2 ⟨nofun, nofun⟩

theorem closeCommit (s : State) : EngineMail s (Machine.closeCommit s) := by
  have hclosed := closed_closeCommit s
  have hcard (c : Slot) : (Machine.closeCommit s).card c = s.card c := by
    rw [hclosed.frame]
    rfl
  refine ⟨EngineFrame.closeCommit (.refl s), fun c => ⟨[], by rw [hcard, CardRec.behind_nil], rfl⟩,
    fun c _ _ => ⟨hcard c, hclosed.outside c⟩, ?_⟩
  by_cases ho : endOutcome s.commit = .passedDegraded
  · obtain ⟨u, hu, ht⟩ := hclosed.raised ho
    have hraise := ClaimsOnly.raise (C := fun c => c = .commitDegraded) (r := plainRaise .commitDegraded 0 .major s.commit.tally) rfl
      (.of_alarms _ hu)
    exact hraise.trans (.of_alarms _ ht)
  · exact .of_alarms _ (hclosed.quiet ho)

theorem switchIfDue (s : State) : EngineMail s (Machine.switchIfDue s) := by
  unfold Machine.switchIfDue
  split
  · exact switchLive s
  · exact .refl s

theorem endIfDue (s : State) : EngineMail s (Machine.endIfDue s) := by
  unfold Machine.endIfDue
  split
  · exact closeCommit s
  · exact .refl s

theorem startQueued (s : State) : EngineMail s (Machine.startQueued s) := by
  unfold Machine.startQueued
  split
  · exact ((beginCommit _ s).trans (switchIfDue _)).trans (endIfDue _)
  · exact .refl s
  · exact .refl s
  · exact .refl s

theorem commitFollows (s : State) : EngineMail s (Machine.commitFollows s) :=
  ((switchIfDue s).trans (endIfDue _)).trans (startQueued _)

end EngineMail

/-- A card out of service leaves the engine's sets: it is sent nothing, and is Outside (R108, R110, R116). -/
theorem cardLeft_spec (slot : Slot) {s : State} (h : (s.card slot).state ≠ .joined) :
    EngineFrame s (cardLeft slot s) ∧ (∀ c, ∃ k, (cardLeft slot s).card c = (s.card c).behind k ∧ fallsOf k = []) ∧
      (cardLeft slot s).card slot = s.card slot ∧ ((cardLeft slot s).phaseRec slot).phase = .outside ∧
      ClaimsOnly (· = .commitDegraded) s (cardLeft slot s) := by
  unfold cardLeft
  split
  next ho => exact ⟨.refl s, fun c => ⟨[], (CardRec.behind_nil _).symm, rfl⟩, rfl, ho, .refl _ s⟩
  next =>
    have hmail := EngineMail.commitFollows (setPhase slot .outside s)
    obtain ⟨hcard, hphase⟩ := hmail.outside slot h (setPhase_phase_same slot .outside s)
    exact ⟨(EngineFrame.setPhase slot .outside (.refl s)).trans hmail.frame, hmail.card, hcard, hphase, hmail.claims⟩

end Sys2Proof.Machine

/-! PROOFS. A card that leaves the states it holds (R31, R33, R35, R37): its record, its ports, the budget, the names, its phase and its
alarm. -/

namespace Sys2Proof.Machine

/-! ## The card and the budget -/

/-- A card's record as it leaves its state for one out of service. -/
def departedCard (st : CardState) (c : CardRec) : CardRec := { CardRec.enter st c with timerOn := false, tempValid := false }

/-- The budget once a card has left it, with what it drew. -/
def powerWithoutCard (slot : Slot) (draw : Nat) (p : PowerBudget) : PowerBudget :=
  { p with waitList := p.waitList.filter fun x => x ≠ .card slot, admitted := p.admitted - draw }

/-- What a card draws of the budget. -/
def cardDraw (c : CardRec) : Nat := if c.state.powered then c.baseDraw else 0

theorem filter_card_of_absent {slot : Slot} {l : List WaitItem} (h : WaitItem.card slot ∉ l) :
    l.filter (fun x => x ≠ .card slot) = l :=
  List.filter_eq_self.2 fun _ hx => decide_eq_true fun he => h (he ▸ hx)

theorem releaseCard_eq {slot : Slot} {s : State} (hw : WaitListFollows s) :
    releaseCard slot s = s.modPower (powerWithoutCard slot (cardDraw (s.card slot))) := by
  unfold releaseCard State.modPower powerWithoutCard cardDraw
  have habsent (hs : (s.card slot).state ≠ .waiting) : (s.power.waitList.filter fun x => x ≠ .card slot) = s.power.waitList :=
    filter_card_of_absent fun hm => hs ((hw.1 slot).1 hm)
  by_cases hp : (s.card slot).state.powered = true
  · rw [if_pos hp, if_pos hp, habsent fun he => by rw [he] at hp; cases hp]
    rfl
  · rw [if_neg hp, if_neg hp]
    split
    next => rfl
    next hs =>
      rw [habsent hs]
      rfl

/-- The state of a card's departure before the other blocks are told. -/
def departing (slot : Slot) (st : CardState) (s : State) : State :=
  clearTemp slot (stopTimer slot (enterCard slot st (releaseCard slot s)))

theorem leaveCard_eq (slot : Slot) (st : CardState) (s : State) :
    leaveCard slot st s = endCardFault slot s (tellDeparture slot s (departing slot st s)) := rfl

theorem departing_eq {slot : Slot} {s : State} (hw : WaitListFollows s) (st : CardState) : departing slot st s =
    addReason .slot { s with
      cards := s.cards.set slot (departedCard st (s.card slot)), power := powerWithoutCard slot (cardDraw (s.card slot)) s.power } := by
  have hcards : departing slot st s = addReason .slot ((((releaseCard slot s).modCard slot (CardRec.enter st)).modCard slot
    fun c => { c with timerOn := false }).modCard slot fun c => { c with tempValid := false }) := rfl
  rw [hcards, modCard_modCard, modCard_modCard, releaseCard_eq hw]
  rfl

theorem departing_card (slot : Slot) (st : CardState) {s : State} (hw : WaitListFollows s) (c : Slot) :
    (departing slot st s).card c = if slot = c then departedCard st (s.card slot) else s.card c := by
  rw [departing_eq hw, addReason_card]
  exact modCard_card slot c (fun _ => departedCard st (s.card slot)) s

theorem endCardFault_eq (slot : Slot) (before s : State) :
    endCardFault slot before s = { s with alarms := (endCardFault slot before s).alarms, attn := (endCardFault slot before s).attn } := by
  unfold endCardFault
  split
  · rw [endAlarm_eq]
  · rfl

/-! ## The ports of a card out of service -/

/-- Ports that are Off have nothing to leave behind. -/
theorem powerWithoutAll_of_off {s : State} (hw : WaitListFollows s) {l : List PortIx} (h : ∀ n ∈ l, (s.port n).power = .off) :
    powerWithoutAll s l s.power = s.power := by
  have hlist : (s.power.waitList.filter fun x => ∀ n ∈ l, x ≠ .port n) = s.power.waitList :=
    List.filter_eq_self.2 fun x hx => decide_eq_true fun n hn he => by
      rw [he, hw.2.1, h n hn] at hx
      cases hx
  have hsum : (l.map fun n => drawnBy (s.port n).power (portDraw s n)).sum = 0 := by
    refine List.sum_eq_zero fun d hd => ?_
    obtain ⟨n, hn, rfl⟩ := List.mem_map.1 hd
    rw [h n hn]
    rfl
  unfold powerWithoutAll
  rw [hlist, hsum]
  rfl

theorem fallenPort_of_off {s : State} (hw : WaitListFollows s) {n : PortIx} (h : (s.port n).power = .off) : fallenPort s n = s.port n := by
  have hserv : serviceable s n = false := serviceable_of_not_admitted (by rw [h]; nofun)
  have hhold : (s.port n).hold = false := Bool.eq_false_iff.2 fun hh => by
    rw [(hw.2.2.2.1 n |>.1 hh).1] at h
    cases h
  rw [fallenPort_eq, hserv]
  show ({ s.port n with power := .off, hold := false } : PortRec) = s.port n
  rw [← h, ← hhold]

theorem off_of_out {s : State} (hw : WaitListFollows s) {slot : Slot} (hout : (s.card slot).state.inService = false) {n : PortIx}
    (hn : slotOf n = slot) : (s.port n).power = .off :=
  (hw.2.2.1 n).2 (eligible_of_out (by rw [cardOf, hn]; exact hout))

/-- The ports that have gone with a card, by the positions on its list. -/
theorem budgetWithoutCard_eq (s : State) (slot : Slot) : budgetWithoutCard s slot =
    powerWithoutAll s (slotPorts slot) (powerWithoutCard slot (cardDraw (s.card slot)) s.power) := by
  have hports : powerWithoutAll s (slotPorts slot) s.power = budgetWithout s fun n => slotOf n == slot :=
    powerWithoutAll_eq (slotPorts_nodup slot) fun n => by rw [beq_iff_eq, mem_slotPorts]
  have hlist : ((s.power.waitList.filter fun x => ∀ n ∈ slotPorts slot, x ≠ .port n).filter fun x => x ≠ .card slot) =
      (s.power.waitList.filter fun x => x ≠ .card slot).filter fun x => ∀ n ∈ slotPorts slot, x ≠ .port n := by
    rw [List.filter_filter, List.filter_filter]
    exact List.filter_congr fun x _ => Bool.and_comm _ _
  unfold budgetWithoutCard
  rw [← hports]
  unfold powerWithoutAll powerWithoutCard cardDraw
  dsimp only
  rw [hlist, Nat.sub_right_comm]

/-- From s to t a card has left the states it holds. -/
structure LeavesCard (slot : Slot) (st : CardState) (s t : State) : Prop where
  frame : t = { s with
    cards := t.cards, ports := t.ports, power := budgetWithoutCard s slot, names := namesWithout s fun n => slotOf n == slot
    zones := t.zones, commit := t.commit, alarms := t.alarms, attn := t.attn }
  self : t.card slot = departedCard st (s.card slot)
  other : ∀ c, c ≠ slot → ∃ k, t.card c = (s.card c).behind k ∧ fallsOf k = fallsSend s (slotPorts slot) c
  port : ∀ n, t.port n = if slotOf n = slot then fallenPort s n else s.port n

theorem departed_out {slot : Slot} {st : CardState} {s t : State} (hst : st.inService = false)
    (h : t.card slot = departedCard st (s.card slot)) : (t.card slot).state.inService = false := by
  rw [h]
  exact hst

theorem not_joined_of_out {st : CardState} (h : st.inService = false) : st ≠ .joined := fun he => by
  rw [he] at h
  cases h

/-- The messages of ports that fall are all falls. -/
theorem fallsOf_fallsSend (s : State) (l : List PortIx) (c : Slot) : fallsOf (fallsSend s l c) = fallsSend s l c := by
  refine List.filter_eq_self.2 fun m hm => ?_
  obtain ⟨n, -, hm⟩ := List.mem_flatMap.1 hm
  rcases List.mem_append.1 hm with hm | hm
  · split at hm
    · rw [List.mem_singleton.1 hm]
    · exact absurd hm List.not_mem_nil
  · split at hm
    · obtain ⟨x, -, rfl⟩ := List.mem_map.1 hm
      rfl
    · exact absurd hm List.not_mem_nil

/-- A card that was in service takes its ports with it (R5, R7, R9). -/
theorem tellDeparture_spec {slot : Slot} {st : CardState} {s : State} (hw : WaitListFollows s) (hn : NamesLawful s)
    (hst : st.inService = false) : LeavesCard slot st s (tellDeparture slot s (departing slot st s)) := by
  have hdep := departing_eq hw st (slot := slot)
  have hcard := departing_card slot st hw
  generalize departing slot st s = v at hdep hcard
  have hself := (hcard slot).trans (if_pos rfl)
  have hvout := departed_out hst hself
  unfold tellDeparture
  by_cases hin : (s.card slot).state.inService = true
  · rw [if_pos hin]
    obtain ⟨hframe, hmail, hkept, -, -⟩ := cardLeft_spec slot (not_joined_of_out hvout)
    generalize cardLeft slot v = w at hframe hmail hkept
    have hwcard (c : Slot) (hc : c ≠ slot) : ∃ k, w.card c = (s.card c).behind k ∧ fallsOf k = [] := by
      obtain ⟨k, hk, hf⟩ := hmail c
      exact ⟨k, by rw [hk, hcard, if_neg fun he : slot = c => hc he.symm], hf⟩
    have hports : w.ports = s.ports := by rw [hframe, hdep]; rfl
    have hnames : w.names = s.names := by rw [hframe, hdep]; rfl
    have hpower : w.power = powerWithoutCard slot (cardDraw (s.card slot)) s.power := by rw [hframe, hdep]; rfl
    have hwout : (w.card slot).state.inService = false := by rw [hkept]; exact hvout
    have hleaving : Leaving s (slotPorts slot) w := by
      refine ⟨slotPorts_nodup slot, hn.of_names hnames, fun n hmem => ?_, fun n _ => port_of_ports hports n, fun n _ => (hw.2.2.1 n).symm,
        fun n _ hoff => ?_, fun n _ => ?_⟩
      · rw [mem_slotPorts] at hmem
        exact eligible_of_out (by rw [cardOf, hmem]; exact hwout)
      · refine Bool.eq_false_iff.2 fun hh => ?_
        rw [(hw.2.2.2.1 n |>.1 hh).1] at hoff
        cases hoff
      · rw [hpower, ← hw.2.1 n]
        unfold powerWithoutCard
        simp
    obtain ⟨hfollowed, hport, hfalls⟩ := follow_out hleaving
    have hfallen (c : Slot) : ((slotPorts slot).filter (serviceable s)).flatMap (fun n => lostSends w n c) =
        if c = slot then [] else fallsSend s (slotPorts slot) c := by
      split
      next he =>
        subst he
        refine List.flatMap_eq_nil_iff.2 fun n _ => ?_
        unfold lostSends
        rw [if_neg fun hand => by rw [hwout] at hand; exact absurd hand.2 Bool.false_ne_true, if_neg (not_joined_of_out hwout)]
        rfl
      next he =>
        refine List.flatMap_congr fun n hmem => ?_
        obtain ⟨hmem, hserv⟩ := List.mem_filter.1 hmem
        obtain ⟨k, hk, -⟩ := hwcard c he
        have hstate : (w.card c).state = (s.card c).state := by rw [hk]; rfl
        rw [← lostSends_of_serviceable hserv]
        unfold lostSends
        rw [hstate, loggedIn_of_names hnames]
    refine ⟨?_, ?_, fun c hc => ?_, fun n => ?_⟩
    · have hleft : (portsFollowCard slot s w).names = namesWithout s fun n => slotOf n == slot :=
        Falls.namesWithout hfalls hnames fun n => by
          rw [← Bool.decide_coe (slotOf n == slot)]
          exact decide_eq_decide.2 (by rw [beq_iff_eq, mem_slotPorts])
      rw [← hleft, budgetWithoutCard_eq, ← hpower]
      have hwritten : portsFollowCard slot s w = { w with
          ports := (portsFollowCard slot s w).ports, cards := (portsFollowCard slot s w).cards
          names := (portsFollowCard slot s w).names, power := powerWithoutAll s (slotPorts slot) w.power } := hfollowed
      generalize portsFollowCard slot s w = t at hwritten
      have hzones : t.zones = w.zones := by rw [hwritten]
      have hcommit : t.commit = w.commit := by rw [hwritten]
      have halarms : t.alarms = w.alarms := by rw [hwritten]
      have hattn : t.attn = w.attn := by rw [hwritten]
      rw [hzones, hcommit, halarms, hattn]
      refine hwritten.trans ?_
      rw [hframe, hdep]
      rfl
    · refine (hfalls.card slot).trans ?_
      rw [hfallen, if_pos rfl, CardRec.behind_nil, hkept, hself]
    · obtain ⟨k, hk, hf⟩ := hwcard c hc
      refine ⟨k ++ fallsSend s (slotPorts slot) c, (hfalls.card c).trans ?_, ?_⟩
      · rw [hfallen, if_neg hc, hk, CardRec.behind_behind]
      · rw [fallsOf_append, hf, fallsOf_fallsSend]
        rfl
    · refine (hport n).trans ?_
      rw [port_of_ports hports]
      by_cases hs : slotOf n = slot
      · rw [if_pos hs, if_pos (mem_slotPorts.2 hs)]
      · rw [if_neg hs, if_neg fun hm => hs (mem_slotPorts.1 hm)]
  · have hout : (s.card slot).state.inService = false := Bool.eq_false_iff.2 hin
    have hoff (n : PortIx) (hs : slotOf n = slot) : (s.port n).power = .off := off_of_out hw hout hs
    have hnone (n : PortIx) (hs : slotOf n = slot) : serviceable s n = false :=
      serviceable_of_not_admitted (by rw [hoff n hs]; nofun)
    rw [if_neg hin]
    refine ⟨?_, hself, fun c hc => ⟨[], ?_, ?_⟩, fun n => ?_⟩
    · have hnames : namesWithout s (fun n => slotOf n == slot) = s.names := by
        rw [namesWithout_eq]
        refine namesAfter_of_none (fun n => ?_) s.names
        by_cases hs : slotOf n = slot
        · rw [hnone n hs, Bool.and_false]
        · rw [beq_eq_false_iff_ne.2 hs, Bool.false_and]
      have hpower : budgetWithoutCard s slot = powerWithoutCard slot (cardDraw (s.card slot)) s.power := by
        have hports : budgetWithout s (fun n => slotOf n == slot) = s.power := by
          rw [← powerWithoutAll_eq (slotPorts_nodup slot) fun n => by rw [beq_iff_eq, mem_slotPorts]]
          exact powerWithoutAll_of_off hw fun n hm => hoff n (mem_slotPorts.1 hm)
        unfold budgetWithoutCard
        rw [hports]
        rfl
      rw [hnames, hpower, hdep]
      rfl
    · rw [hcard, if_neg fun he : slot = c => hc he.symm, CardRec.behind_nil]
    · have hnil : (slotPorts slot).filter (serviceable s) = [] := List.filter_eq_nil_iff.2 fun n hm => by
        rw [hnone n (mem_slotPorts.1 hm)]
        exact Bool.false_ne_true
      unfold fallsSend
      rw [hnil]
      rfl
    · have hport : v.port n = s.port n := by rw [hdep]; rfl
      rw [hport]
      split
      next hs => rw [fallenPort_of_off hw (hoff n hs)]
      next => rfl

/-- What a departure writes (R31, R33, R35, R37). -/
theorem leaveCard_spec {slot : Slot} {st : CardState} {s : State} (hw : WaitListFollows s) (hn : NamesLawful s)
    (hst : st.inService = false) : LeavesCard slot st s (leaveCard slot st s) := by
  have htold := tellDeparture_spec hw hn hst (slot := slot)
  rw [leaveCard_eq]
  generalize tellDeparture slot s (departing slot st s) = u at htold
  have hfault := endCardFault_eq slot s u
  have hcard (c : Slot) : (endCardFault slot s u).card c = u.card c := by rw [hfault]; rfl
  have hport (n : PortIx) : (endCardFault slot s u).port n = u.port n := by rw [hfault]; rfl
  refine ⟨?_, (hcard slot).trans htold.self, fun c hc => ?_, fun n => (hport n).trans (htold.port n)⟩
  · have hframe := htold.frame
    generalize endCardFault slot s u = t at hfault
    have hz : t.zones = u.zones := by rw [hfault]
    have hc : t.commit = u.commit := by rw [hfault]
    have hk : t.cards = u.cards := by rw [hfault]
    have hp : t.ports = u.ports := by rw [hfault]
    rw [hz, hc, hk, hp, hfault, hframe]
  · rw [hcard]
    exact htold.other c hc

/-! ## What holds in any state -/

/-- A serviceable port that follows a card out of Joined goes dark, and its Revoke waits where the card stays in service (R7). -/
theorem portsFollowCard_fallen {slot : Slot} {before s : State} {n : PortIx} (hs : serviceable before n = true) (hn : slotOf n = slot)
    (hj : (s.card slot).state ≠ .joined) : Dark (portsFollowCard slot before s) n ∧
      ((s.card slot).state.inService = true → CardMsg.revoke (posOf n) ∈ ((portsFollowCard slot before s).card slot).outbox) := by
  have hmem := mem_slotPorts.2 hn
  unfold portsFollowCard
  generalize slotPorts slot = l at hmem
  induction l generalizing s with
  | nil => exact absurd hmem List.not_mem_nil
  | cons m l ih =>
    have hfacts : FactsKept s (reviewServiceable m (serviceable before m) (reviewEligible m (eligible before m) (portDraw before m) s)) :=
      ((FactsKept.refl s).reviewEligible m _ _).trans ((CoreKept.refl _).reviewServiceable m _).facts
    rw [forEach_cons]
    rcases List.mem_cons.1 hmem with rfl | hmem
    · have hgrows := Grows.forEach (fun m t ht => (ht.reviewEligible m (eligible before m) (portDraw before m)).reviewServiceable m
        (serviceable before m)) l (.refl (reviewServiceable n (serviceable before n)
          (reviewEligible n (eligible before n) (portDraw before n) s)))
      have hstate : (cardOf (reviewEligible n (eligible before n) (portDraw before n) s) n).state = (s.card slot).state := by
        rw [cardOf, ((FactsKept.refl s).reviewEligible n _ _).state, hn]
      have hnot : serviceable (reviewEligible n (eligible before n) (portDraw before n) s) n = false :=
        serviceable_of_not_joined (by rw [hstate]; exact hj)
      have hfallen := loseServiceable_dark n (reviewEligible n (eligible before n) (portDraw before n) s)
      have hlost : reviewServiceable n (serviceable before n) (reviewEligible n (eligible before n) (portDraw before n) s) =
          loseServiceable n (reviewEligible n (eligible before n) (portDraw before n) s) := by
        unfold reviewServiceable
        rw [hs, hnot]
      rw [hlost] at hgrows ⊢
      rw [hstate, hn] at hfallen
      exact ⟨hgrows.dark n hfallen.1, fun hin => hgrows.mail slot _ (hfallen.2 hin)⟩
    · have hrest := ih (by rw [hfacts.state]; exact hj) hmem
      rwa [hfacts.state] at hrest

theorem portsFollowCard_dark {slot : Slot} {before s : State} {n : PortIx} (hs : serviceable before n = true) (hn : slotOf n = slot)
    (hj : (s.card slot).state ≠ .joined) : Dark (portsFollowCard slot before s) n :=
  (portsFollowCard_fallen hs hn hj).1

end Sys2Proof.Machine

/-! PROOFS. Removal and Slot Reset (R35, R37). -/

namespace Sys2Proof.Machine

/-! ## A card out of service is sent nothing -/

/-- From s to t a card's record stands. -/
def CardStands (c : Slot) (s t : State) : Prop := t.card c = s.card c

theorem CardStands.sendJoined {c : Slot} {s t : State} (m : CardMsg) (hout : (s.card c).state.inService = false)
    (h : CardStands c s t) : CardStands c s (Machine.sendJoined m t) := by
  refine forEach_keeps (P := CardStands c s) (fun slot u hu => ?_) _ h
  unfold CardStands at hu ⊢
  split
  next hj =>
    have hne : slot ≠ c := fun he => by
      rw [he, hu] at hj
      exact not_joined_of_out hout hj
    rw [send, modCard_card, if_neg hne, hu]
  next => exact hu

theorem CardStands.removeLogins {c : Slot} {s t : State} (n : PortIx) (hout : (s.card c).state.inService = false)
    (h : CardStands c s t) : CardStands c s (Machine.removeLogins n t) := by
  have hloop := forEach_keeps (P := CardStands c s) (act := endLoginAt) (fun pos u hu => by
    unfold endLoginAt
    split
    next e _ =>
      rw [endLogin_eq]
      refine CardStands.sendJoined _ hout ?_
      rw [writeLogout_eq]
      exact hu
    next => exact hu) ((entriesOn t n).map Prod.fst) h
  rw [removeLogins_eq]
  exact hloop

theorem CardStands.reviewServiceable {c : Slot} {s t : State} (n : PortIx) (was : Bool) (hout : (s.card c).state.inService = false)
    (h : CardStands c s t) : CardStands c s (Machine.reviewServiceable n was t) := by
  have hne (hin : (t.card (slotOf n)).state.inService = true) : slotOf n ≠ c := fun he => by
    rw [he, h, hout] at hin
    cases hin
  unfold Machine.reviewServiceable
  split
  · unfold loseServiceable
    dsimp only
    refine CardStands.removeLogins n hout ?_
    unfold CardStands at h ⊢
    split
    next hin => rw [send, modCard_card, if_neg (hne hin), modPort_card, h]
    next => exact h
  next hs =>
    unfold CardStands at h ⊢
    unfold gainServiceable
    rw [send, modCard_card, if_neg (hne (by rw [(serviceable_iff.1 hs).2.1]; rfl)), h]
  · exact h
  · exact h

theorem CardStands.reviewEligible {c : Slot} {s t : State} (n : PortIx) (was : Bool) (draw : Nat)
    (h : CardStands c s t) : CardStands c s (Machine.reviewEligible n was draw t) := by
  have hcards : (Machine.reviewEligible n was draw t).card c = t.card c := by
    unfold Machine.reviewEligible loseEligibility
    split
    · split <;> rfl
    · rfl
    · rfl
    · rfl
  exact hcards.trans h

theorem CardStands.portsFollowCard {c : Slot} {s : State} (slot : Slot) (before : State) (hout : (s.card c).state.inService = false) :
    (Machine.portsFollowCard slot before s).card c = s.card c :=
  forEach_keeps (P := CardStands c s) (fun n _ hu => (hu.reviewEligible n _ _).reviewServiceable n _ hout) (slotPorts slot) rfl

/-! ## A departure in any state -/

/-- The causes of the claims that a departure makes. -/
def departureCause (c : Cause) : Prop := c = .commitDegraded ∨ c = .cardFault

/-- What a card has left behind, whatever the names (R35, R37). -/
structure LeftBehind (slot : Slot) (st : CardState) (s t : State) : Prop where
  self : t.card slot = departedCard st (s.card slot)
  phase : (s.card slot).state.inService = true → (t.phaseRec slot).phase = .outside
  dark : ∀ n, slotOf n = slot → serviceable s n = true → Dark t n
  fault : AlarmsLawful s → (s.card slot).state = .failed ∨ (s.card slot).state = .fenced → AlarmOver t .cardFault (slot.val + 1)
  claims : ClaimsOnly departureCause s t
  unpowered : (s.card slot).state.powered = false → t.ports = s.ports ∧ t.power.admitted = s.power.admitted ∧
    ∀ c, c ≠ slot → t.card c = s.card c
  noted : Noted .slot t
  moves : Moves .power s t

theorem moves_leaveCard (slot : Slot) (st : CardState) (s : State) : Moves .power s (leaveCard slot st s) :=
  Moves.refl.leaveCard slot st

theorem departing_noted (slot : Slot) (st : CardState) (s : State) : Noted .slot (departing slot st s) :=
  Noted.of_attn (noted_addReason_self .slot ((releaseCard slot s).modCard slot (CardRec.enter st))) rfl

theorem endCardFault_claims (slot : Slot) (before s : State) : ClaimsOnly departureCause s (endCardFault slot before s) := by
  unfold endCardFault
  split
  · exact ClaimsOnly.clear _ (.inr rfl) (.refl _ s)
  · exact .refl _ s

theorem leaveCard_left {slot : Slot} {st : CardState} {s : State} (hw : WaitListFollows s) (hst : st.inService = false) :
    LeftBehind slot st s (leaveCard slot st s) := by
  have hdep := departing_eq hw st (slot := slot)
  have hcard := departing_card slot st hw
  have hnotedDeparting := departing_noted slot st s
  have hmoves := moves_leaveCard slot st s
  rw [leaveCard_eq] at hmoves ⊢
  generalize departing slot st s = v at hdep hcard hnotedDeparting hmoves ⊢
  have hself := (hcard slot).trans (if_pos rfl)
  have hvout := departed_out hst hself
  have hvclaims : ClaimsOnly departureCause s v := .of_alarms _ (by rw [hdep]; rfl)
  obtain ⟨hframe, -, hkept, hphase, hclaims⟩ := cardLeft_spec slot (not_joined_of_out hvout)
  have hmoved : Moves .power v (endCardFault slot s (tellDeparture slot s v)) :=
    (Moves.refl.tellDeparture slot s).endCardFault slot s
  have hend := endCardFault_eq slot s (tellDeparture slot s v)
  have hendClaims := endCardFault_claims slot s (tellDeparture slot s v)
  have htold : ClaimsOnly departureCause s (tellDeparture slot s v) := by
    unfold tellDeparture
    split
    · exact (hvclaims.trans (hclaims.mono fun c hc => .inl hc)).trans (((PortWork.refl _).portsFollowCard slot s).claims _)
    · exact hvclaims
  refine ⟨?_, fun hin => ?_, fun n hn hs => ?_, fun ha hfault => ?_, htold.trans hendClaims, fun hp => ?_, hmoved.noted hnotedDeparting,
    hmoves⟩
  · rw [hend]
    show (tellDeparture slot s v).card slot = _
    unfold tellDeparture
    split
    · rw [CardStands.portsFollowCard slot s (by rw [hkept]; exact hvout), hkept, hself]
    · exact hself
  · rw [hend]
    show ((tellDeparture slot s v).phaseRec slot).phase = _
    have hcommit : (portsFollowCard slot s (cardLeft slot v)).commit = (cardLeft slot v).commit := by
      rw [(PortWork.refl (cardLeft slot v)).portsFollowCard slot s]
    unfold tellDeparture
    rw [if_pos hin, phaseRec_of_commit hcommit]
    exact hphase
  · have hdark : Dark (tellDeparture slot s v) n := by
      unfold tellDeparture
      rw [if_pos (by rw [← hn, (serviceable_iff.1 hs).2.1]; rfl)]
      exact portsFollowCard_dark hs hn (by rw [hkept]; exact not_joined_of_out hvout)
    rw [hend]
    exact hdark
  · unfold endCardFault
    rw [if_pos hfault]
    exact alarmOver_endAlarm .cardFault (slotNumber slot) (htold ha).1
  · have hplain : tellDeparture slot s v = v := by
      unfold tellDeparture
      rw [inService_powered hp, if_neg Bool.false_ne_true]
    rw [hplain] at hend ⊢
    refine ⟨by rw [hend, hdep]; rfl, ?_, fun c hc => ?_⟩
    · rw [hend, hdep]
      show s.power.admitted - cardDraw (s.card slot) = _
      unfold cardDraw
      rw [hp]
      rfl
    · rw [hend]
      exact (hcard c).trans (if_neg fun he : slot = c => hc he.symm)

/-! ## The end of a departure -/

theorem restoredIf_claims (u : State) (c : Prop) [Decidable c] :
    ClaimsOnly (· = .budgetDeficit) u (settleDeficit (if c then restorePass u else u)) := by
  refine ClaimsOnly.trans ?_ (settleDeficit_claims _)
  split
  · exact (PortWork.refl u).restorePass.claims _
  · exact .refl _ u

theorem moves_restoredIf {k : Scope} {s u : State} (h : Moves k s u) (c : Prop) [Decidable c] :
    Moves k s (settleDeficit (if c then restorePass u else u)) := by
  split
  · exact h.restorePass.settleDeficit
  · exact h.settleDeficit

/-- From s to u a slot's card has gone, and the slot holds a record out of service that does not wait. -/
structure SlotCleared (slot : Slot) (r : CardRec) (s u : State) : Prop where
  frame : u = { leaveCard slot .empty s with cards := (leaveCard slot .empty s).cards.set slot r, attn := u.attn }
  state : r.state.inService = false ∧ r.state ≠ .waiting
  noted : Noted .slot u
  law : WaitsLaw False False u
  moves : Moves .power s u

/-- What is left of a card once it has gone, at the end of the event. -/
theorem SlotCleared.left {slot : Slot} {r : CardRec} {s u : State} (h : SlotCleared slot r s u) (hw : WaitListFollows s) :
    let t := settleDeficit (if (s.card slot).state.powered = true then restorePass u else u)
    t.card slot = r ∧ WaitItem.card slot ∉ t.power.waitList ∧
      ((s.card slot).state.inService = true → (t.phaseRec slot).phase = .outside) ∧
      (∀ n, slotOf n = slot → (t.port n).power = .off ∧ (t.port n).hold = false ∧ serviceable t n = false ∧
        (serviceable s n = true → (t.port n).link = .dark ∧ (t.port n).logins = 0)) ∧
      (AlarmsLawful s → ((s.card slot).state = .failed ∨ (s.card slot).state = .fenced) → AlarmOver t .cardFault (slot.val + 1)) ∧
      ((s.card slot).state.powered = false → t.ports = s.ports ∧ t.power.admitted = s.power.admitted ∧
        ∀ c, c ≠ slot → t.card c = s.card c) ∧
      (∀ p, (t.attention p).set.slot = true) ∧
      LicensesKept s t ∧ SettingsKept s t ∧ SensorsKept s t ∧ t.params = s.params ∧ t.pending = s.pending := by
  have hleft := leaveCard_left (slot := slot) (st := .empty) hw rfl
  have hframe := h.frame
  have hcard (c : Slot) : u.card c = if slot = c then r else (leaveCard slot .empty s).card c := by
    rw [hframe]
    exact modCard_card slot c (fun _ => r) (leaveCard slot .empty s)
  have hself := (hcard slot).trans (if_pos rfl)
  have hports : u.ports = (leaveCard slot .empty s).ports := by rw [hframe]
  have halarms : u.alarms = (leaveCard slot .empty s).alarms := by rw [hframe]
  have hcommit : u.commit = (leaveCard slot .empty s).commit := by rw [hframe]
  have hadmitted : u.power = (leaveCard slot .empty s).power := by rw [hframe]
  have hends := eventEnds_restoredIf h.law ((s.card slot).state.powered = true)
  have hclaims := restoredIf_claims u ((s.card slot).state.powered = true)
  have hmoves := moves_restoredIf h.moves ((s.card slot).state.powered = true)
  have hnoted := (moves_restoredIf (k := .power) Moves.refl ((s.card slot).state.powered = true)).noted h.noted
  have hplain (hp : (s.card slot).state.powered = false) :
      settleDeficit (if (s.card slot).state.powered = true then restorePass u else u) = settleDeficit u := by
    rw [hp, if_neg Bool.false_ne_true]
  dsimp only
  generalize settleDeficit (if (s.card slot).state.powered = true then restorePass u else u) = t at hends hclaims hmoves hnoted hplain
  obtain ⟨hlic, hset, hsens, hout⟩ : LicensesKept s t ∧ SettingsKept s t ∧ SensorsKept s t ∧ OutsideKept s t :=
    ⟨hmoves.licensesKept rfl, hmoves.settingsKept rfl, hmoves.sensorsKept rfl, hmoves.outside⟩
  have hlast : t.card slot = r := by
    obtain ⟨k, hk, hnil, -⟩ := hends.card slot (by rw [hself]; exact h.state.2)
    rw [hk, hnil (by rw [hself]; exact not_joined_of_out h.state.1), CardRec.behind_nil, hself]
  have hlaw := waitsLaw_iff.1 hends.law
  have hoff (n : PortIx) (hn : slotOf n = slot) : (t.port n).power = .off :=
    off_of_out hlaw (by rw [hlast]; exact h.state.1) hn
  refine ⟨hlast, fun hm => ?_, fun hin => ?_, fun n hn => ⟨hoff n hn, ?_, ?_, fun hs => ?_⟩, fun ha hfault => ?_, fun hp => ?_, hnoted,
    hlic, hset, hsens, hout.2.1, hout.2.2.2.2⟩
  · rw [hlaw.1, hlast] at hm
    exact h.state.2 hm
  · have hstill : t.commit = u.commit := by rw [hends.frame]
    rw [phaseRec_of_commit (hstill.trans hcommit)]
    exact hleft.phase hin
  · exact Bool.eq_false_iff.2 fun hh => by
      have hwaits := (hlaw.2.2.2.1 n |>.1 hh).1
      rw [hoff n hn] at hwaits
      cases hwaits
  · exact serviceable_of_not_admitted (by rw [hoff n hn]; nofun)
  · refine hends.grows.dark n ?_
    have hdark := hleft.dark n hn hs
    unfold Dark at hdark ⊢
    rwa [port_of_ports hports]
  · have hover := (hleft.fault ha hfault).of_alarms halarms
    have hlawful : AlarmsLawful u := (hleft.claims ha).1.of_alarms halarms
    exact hclaims.staysOver (c := .cardFault) hlawful nofun hover
  · obtain ⟨hp', ha', hc'⟩ := hleft.unpowered hp
    rw [hplain hp, settleDeficit_ports, settleDeficit_admitted, hports, hadmitted]
    refine ⟨hp', ha', fun c hc => ?_⟩
    rw [settleDeficit_card, hcard, if_neg fun he : slot = c => hc he.symm, hc' c hc]

/-- The state of a departure before the passes, in the statement's terms. -/
theorem SlotCleared.spec {slot : Slot} {r : CardRec} {s u : State} (h : SlotCleared slot r s u) (hw : WaitListFollows s)
    (hn : NamesLawful s) :
    u = { s with
      cards := u.cards, ports := u.ports, power := budgetWithoutCard s slot
      names := namesWithout s fun n => slotOf n == slot, zones := u.zones, commit := u.commit, alarms := u.alarms
      attn := u.attn } ∧
    u.card slot = r ∧
    (∀ c, c ≠ slot → u.card c = { s.card c with outbox := (u.card c).outbox } ∧
      fallsOf (u.card c).outbox = fallsOf (s.card c).outbox ++ fallsSend s (slotPorts slot) c) ∧
    ∀ n, u.port n = if slotOf n = slot then fallenPort s n else s.port n := by
  have hleft := leaveCard_spec (slot := slot) (st := .empty) hw hn rfl
  have hframe := h.frame
  have hcard (c : Slot) : u.card c = if slot = c then r else (leaveCard slot .empty s).card c := by
    rw [hframe]
    exact modCard_card slot c (fun _ => r) (leaveCard slot .empty s)
  have hport (n : PortIx) : u.port n = (leaveCard slot .empty s).port n := port_of_ports (by rw [hframe]) n
  generalize leaveCard slot .empty s = v at hleft hframe hcard hport
  refine ⟨?_, (hcard slot).trans (if_pos rfl), fun c hc => ?_, fun n => (hport n).trans (hleft.port n)⟩
  · have hz : u.zones = v.zones := by rw [hframe]
    have hc : u.commit = v.commit := by rw [hframe]
    have hp : u.ports = v.ports := by rw [hframe]
    have ha : u.alarms = v.alarms := by rw [hframe]
    have hk : u.cards = v.cards.set slot r := by rw [hframe]
    rw [hz, hc, hp, ha, hk]
    refine hframe.trans ?_
    rw [hleft.frame]
  · obtain ⟨k, hk, hf⟩ := hleft.other c hc
    rw [hcard, if_neg fun he : slot = c => hc he.symm, hk]
    refine ⟨rfl, ?_⟩
    show fallsOf ((s.card c).outbox ++ k) = _
    rw [fallsOf_append, hf]

end Sys2Proof.Machine

/-! PROOFS. Removal and Slot Reset (R35, R37): the commands. -/

namespace Sys2Proof.Machine

theorem slotCleared_removal {slot : Slot} {s : State} (hw : WaitListFollows s) :
    SlotCleared slot { departedCard .empty (s.card slot) with presence := false, attempts := 0 } s
      ((leaveCard slot .empty s).modCard slot fun c => { c with presence := false, attempts := 0 }) := by
  have hleft := leaveCard_left (slot := slot) (st := .empty) hw rfl
  have hlaw := ((waitsLaw_iff.2 hw).leaveCard (slot := slot) (st := .empty) rfl).law_of_ne rfl nofun
  refine ⟨?_, ⟨rfl, nofun⟩, hleft.noted.of_attn rfl, hlaw.card slot _ fun _ => ⟨rfl, rfl⟩, hleft.moves.card slot _ fun _ => ⟨rfl, rfl⟩⟩
  rw [State.modCard, hleft.self]

theorem slotCleared_probe {slot : Slot} {s : State} (hw : WaitListFollows s) :
    SlotCleared slot (probingCard 0 (departedCard .empty (s.card slot))) s (startProbe slot 0 (leaveCard slot .empty s)) := by
  have hleft := leaveCard_left (slot := slot) (st := .empty) hw rfl
  have hdeparted := (waitsLaw_iff.2 hw).leaveCard (slot := slot) (st := .empty) rfl
  refine ⟨?_, ⟨rfl, nofun⟩, ?_, (hdeparted.law_of_ne rfl nofun).startProbe 0 hdeparted.state, hleft.moves.startProbe slot 0⟩
  · rw [startProbe_eq, State.modCard, hleft.self]
    rfl
  · rw [startProbe_eq]
    exact noted_addReason_self .slot _

theorem exec_removal {slot : Slot} {s : State} (h : (s.card slot).presence = true) : exec (.removal slot) s =
    .next (settleDeficit (if (s.card slot).state.powered = true then
      restorePass ((leaveCard slot .empty s).modCard slot fun c => { c with presence := false, attempts := 0 })
    else (leaveCard slot .empty s).modCard slot fun c => { c with presence := false, attempts := 0 })) := by
  show Host.Outcome.next (settleDeficit (removal slot s)) = _
  unfold removal restoreIfReleased
  rw [if_pos h]

theorem exec_confirmSlotReset {f : Frame} {s : State} {slot : Slot} {parameter : Byte} (ht : PortTakes s f.port)
    (hm : s.cmd.mastership = some f.port) (ha : (s.cmdPort f.port).armed = .slotReset slot) (hp : parameter.toNat = slot.val + 1) :
    exec (.confirmSlotReset f parameter) s = .next (respond f (answer .done) (settleDeficit (slotResetBody slot (disarm f.port s)))) := by
  have hmatches : confirmMatches (.slotReset slot) 0x18#8 parameter = true := by
    unfold confirmMatches
    simp [Armed.code, Armed.parameter, hp]
  have hconfirm : confirm f.port 0x18#8 parameter s = (slotResetBody slot (disarm f.port s), answer .done) := by
    unfold confirm
    rw [ha]
    exact if_pos hmatches
  refine (congrArg Host.Outcome.next (keepingCommand_master ht hm .master (settled (confirm f.port 0x18#8 parameter)))).trans ?_
  rw [settled, hconfirm]

/-- Disarming anything but a Commit writes the port alone. -/
theorem disarm_of_slotReset {p : PortId} {slot : Slot} {s : State} (h : (s.cmdPort p).armed = .slotReset slot) :
    disarm p s = { s with cmd := (disarm p s).cmd } := by
  have hzones : (disarm p s).zones = s.zones := by
    rw [disarm_zones, disarmedZones, if_neg]
    rw [h]
    nofun
  have heq := disarm_eq p s
  rw [hzones] at heq
  exact heq

end Sys2Proof.Machine

section
open Sys2Proof Sys2Proof.Machine

/-- Settles O29: a card that leaves its slot, by its removal or by a Slot Reset. -/
theorem cardLeavesRule : Obligations.CardLeavesRule := by
  unfold Obligations.CardLeavesRule
  intro slot s hw left passed
  refine ⟨fun hpresence => ?_, fun f parameter ht hm ha hp => ⟨fun hpresence => ?_, fun hpresence hempty hdeficit => ?_⟩⟩
  · have hcleared := slotCleared_removal (slot := slot) hw
    obtain ⟨hcard, hlist, hphase, hports, hfault, hunpowered, hnoted, hrest⟩ := hcleared.left hw
    refine ⟨_, exec_removal hpresence, ⟨hlist, hphase, hports, hfault, hunpowered, fun _ => hnoted, hrest⟩, ?_, hcard, fun hn => ?_⟩
    · exact ((moves_restoredIf hcleared.moves _).outside).1
    · obtain ⟨hframe, hself, hothers, hport⟩ := hcleared.spec hw hn
      exact ⟨_, hframe, hself, hothers, hport, rfl⟩
  · have hdisarmed := disarm_of_slotReset ha
    have hexec := exec_confirmSlotReset ht hm ha hp
    generalize (disarm f.port s).cmd = cmd at hdisarmed
    rw [hdisarmed] at hexec
    have hw' : WaitListFollows { s with cmd := cmd } := hw
    have hcleared := slotCleared_probe (slot := slot) hw'
    obtain ⟨hcard, hlist, hphase, hports, hfault, hunpowered, hnoted, hrest⟩ := hcleared.left hw'
    have hbody : slotResetBody slot { s with cmd := cmd } = if (s.card slot).state.powered = true then
        restorePass (startProbe slot 0 (leaveCard slot .empty { s with cmd := cmd }))
        else startProbe slot 0 (leaveCard slot .empty { s with cmd := cmd }) := by
      unfold slotResetBody restoreIfReleased
      exact if_pos hpresence
    rw [hbody] at hexec
    refine ⟨_, hexec, ⟨hlist, hphase, hports, hfault, hunpowered, fun _ => hnoted, hrest⟩, ?_, hcard, fun hn => ?_⟩
    · exact ((moves_restoredIf hcleared.moves _).outside).1
    · obtain ⟨hframe, hself, hothers, hport⟩ := hcleared.spec hw' hn
      exact ⟨_, hframe, hself, hothers, hport, rfl⟩
  · have hstill : DeficitFollows (disarm f.port s) := hdeficit.of_power_ports (by rw [disarm_eq]) (by rw [disarm_eq]) (by rw [disarm_eq])
    have hbody : slotResetBody slot (disarm f.port s) = disarm f.port s := by
      have hcard : (disarm f.port s).card slot = s.card slot := by rw [disarm_eq]; rfl
      unfold slotResetBody
      rw [hcard, hpresence, if_neg Bool.false_ne_true, if_pos hempty]
    rw [exec_confirmSlotReset ht hm ha hp, hbody, settleDeficit_of_follows hstill]

end

/-! PROOFS. The passes of a budget change in any state (R47), the turn of a scan round (R132), and the presence of a unit (R133, R135). -/

namespace Sys2Proof.Machine

/-! ## The passes of a budget change (R47) -/

theorem budgetFollows_eq_pass (before s : State) : budgetFollows before s = budgetPass (allowanceOf before.power) s := by
  unfold budgetFollows budgetPass overdrawn
  by_cases hless : allowanceOf s.power < allowanceOf before.power
  · rw [if_pos hless, if_neg (Nat.lt_asymm hless)]
    by_cases hover : allowanceOf s.power < s.power.admitted
    · rw [decide_eq_true hover, if_pos rfl, if_pos ⟨hless, hover⟩]
    · rw [decide_eq_false hover, if_neg Bool.false_ne_true, if_neg fun hand => hover hand.2]
  · rw [if_neg hless]
    split
    · rfl
    · exact (if_neg fun hand => hless hand.1).symm

theorem budgetChange_pass (g : PowerBudget → PowerBudget) (s : State) :
    budgetChange g s = budgetPass (allowanceOf s.power) (budgetSet g s) := by
  rw [budgetChange_eq, budgetFollows_eq_pass]

theorem moves_budgetPass (a : Nat) (s : State) : Moves .power s (budgetPass a s) := by
  unfold budgetPass
  split
  · exact Moves.refl.restorePass
  · split
    · exact Moves.refl.shedPass
    · exact .refl

theorem budgetPass_supply (a : Nat) (s : State) : (budgetPass a s).power.supply = s.power.supply := by
  unfold budgetPass
  split
  · exact (restorePass_staysWithin s).supply
  · split
    · exact shedPass_supply s
    · rfl

/-- An allowance that has not fallen sheds nothing, so that no claim is made. -/
theorem budgetPass_alarms {a : Nat} {s : State} (h : a ≤ allowanceOf s.power) : (budgetPass a s).alarms = s.alarms := by
  unfold budgetPass
  split
  · exact ((PortWork.refl s).restorePass).alarms
  · rw [if_neg fun hand => Nat.not_lt.2 h hand.1]

theorem leaveCard_claims (slot : Slot) (st : CardState) (s : State) : ClaimsOnly departureCause s (leaveCard slot st s) := by
  have hdeparting : (departing slot st s).alarms = s.alarms := by
    unfold departing releaseCard
    split
    · rfl
    · split <;> rfl
  have htold : ClaimsOnly departureCause (departing slot st s) (tellDeparture slot s (departing slot st s)) := by
    unfold tellDeparture
    split
    · refine ClaimsOnly.trans ?_ (((PortWork.refl _).portsFollowCard slot s).claims _)
      unfold cardLeft
      split
      · exact .refl _ _
      · exact (EngineMail.commitFollows (setPhase slot .outside (departing slot st s))).claims.mono fun c hc => .inl hc
    · exact .refl _ _
  rw [leaveCard_eq]
  exact ((ClaimsOnly.of_alarms _ hdeparting).trans htold).trans (endCardFault_claims slot s _)

theorem shedPass_claims (s : State) : ClaimsOnly departureCause s (shedPass s) := by
  have hports := forEach_keeps (P := ClaimsOnly departureCause s) (act := shedPortStep) (fun n t ht => by
    unfold shedPortStep
    split
    · exact ht.trans (((PortWork.refl t).displacePort n false).claims _)
    · exact ht) (shedPorts s) (.refl _ s)
  have hcards := forEach_keeps (P := ClaimsOnly departureCause s) (act := shedCardStep) (fun c t ht => by
    unfold shedCardStep shedCard
    split
    · exact ht.trans ((leaveCard_claims c .waiting t).trans (.of_alarms _ rfl))
    · exact ht) allSlots.reverse hports
  unfold shedPass
  generalize Machine.forEach allSlots.reverse shedCardStep _ = t at hcards
  exact hcards.trans (.of_alarms _ rfl)

/-- The passes of a budget change claim for no cause but a commit's and a card's. -/
theorem budgetPass_claims (a : Nat) (s : State) : ClaimsOnly departureCause s (budgetPass a s) := by
  unfold budgetPass
  split
  · exact ((PortWork.refl s).restorePass).claims _
  · split
    · exact shedPass_claims s
    · exact .refl _ s

/-! ## The turn (R132) -/

theorem turnFrom_standsNext (s : State) (n : Nat) : StandsNext s n (turnFrom s n) := by
  have habsent {v : UnitIx} (h : ¬ (decide (n ≤ v.val) && isPresent s v) = true) (hn : n ≤ v.val) : (s.unit v).state = .absent := by
    by_contra hne
    exact h (by simp [hn, isPresent, hne])
  unfold turnFrom
  split
  next u hu =>
    obtain ⟨hread, before, rest, hsplit, hbefore⟩ := List.find?_eq_some_iff_append.1 hu
    rw [Bool.and_eq_true, decide_eq_true_eq] at hread
    refine ⟨hread.1, fun he => by simp [isPresent, he] at hread, fun v hv hlt => ?_⟩
    have hmem : v ∈ before := by
      have hall : v ∈ before ++ u :: rest := hsplit ▸ List.mem_finRange v
      rcases List.mem_append.1 hall with h | h
      · exact h
      · have hsorted : (before ++ u :: rest).Pairwise (· < ·) := hsplit ▸ List.pairwise_lt_finRange 10
        rcases List.mem_cons.1 h with rfl | h
        · exact absurd hlt (lt_irrefl _)
        · have hlater := (List.pairwise_cons.1 (List.pairwise_append.1 hsorted).2.1).1 v h
          exact absurd (hlt.trans hlater) (lt_irrefl _)
    exact habsent (fun hread => by simpa [hread] using hbefore v hmem) hv
  next hnone =>
    intro v hv
    exact habsent (List.find?_eq_none.1 hnone v (List.mem_finRange v)) hv

theorem StandsNext.congr {s t : State} {n : Nat} {x : Turn} (h : StandsNext t n x)
    (hu : ∀ v : UnitIx, n ≤ v.val → (t.unit v).state = (s.unit v).state) : StandsNext s n x := by
  cases x with
  | unit u =>
    obtain ⟨hle, hpresent, hnone⟩ := h
    exact ⟨hle, by rw [← hu u hle]; exact hpresent, fun v hv hlt => by rw [← hu v hv]; exact hnone v hv hlt⟩
  | inlet => exact fun v hv => by rw [← hu v hv]; exact h v hv
  | outlet => exact h

/-! ## A unit goes (R133) -/

theorem isRead_iff {s : State} {u : UnitIx} : isRead s u = true ↔ s.scanner.turn = some (.unit u) ∧ (s.unit u).state ≠ .absent := by
  simp [isRead, isPresent]

/-- What a departing unit writes: its record, and the turn where it was being read. -/
theorem departUnit_spec (u : UnitIx) {s : State} (h : (s.unit u).state ≠ .absent) :
    departUnit u s = { s with scanner := (departUnit u s).scanner } ∧
    (∀ w, (departUnit u s).unit w = if u = w then (s.unit u).depart else s.unit w) ∧
    (s.scanner.turn ≠ some (.unit u) → (departUnit u s).scanner.turn = s.scanner.turn) ∧
    (s.scanner.turn = some (.unit u) → ∃ x, (departUnit u s).scanner.turn = some x ∧ StandsNext s (u.val + 1) x) ∧
    (departUnit u s).scanner.firstRound = s.scanner.firstRound ∧ (departUnit u s).scanner.boosts = s.scanner.boosts := by
  have hunit (w : UnitIx) : (s.modUnit u UnitRec.depart).unit w = if u = w then (s.unit u).depart else s.unit w := by
    rw [modUnit_unit]
  unfold departUnit
  dsimp only
  by_cases hturn : s.scanner.turn = some (.unit u)
  · rw [if_pos (isRead_iff.2 ⟨hturn, h⟩)]
    refine ⟨rfl, hunit, fun hne => absurd hturn hne, fun _ => ⟨_, rfl, ?_⟩, rfl, rfl⟩
    refine (turnFrom_standsNext (s.modUnit u UnitRec.depart) (u.val + 1)).congr fun v hv => ?_
    rw [hunit, if_neg fun he : u = v => by rw [he] at hv; omega]
  · rw [if_neg fun hread => hturn (isRead_iff.1 hread).1]
    exact ⟨rfl, hunit, fun _ => rfl, fun he => absurd he hturn, rfl, rfl⟩

end Sys2Proof.Machine

/-! PROOFS. The presence of a unit (R133, R135): the commands. -/

namespace Sys2Proof.Machine

theorem settleDeficit_scanner (s : State) : (settleDeficit s).scanner = s.scanner := by rw [settleDeficit_eq]

theorem settleDeficit_counted_trays (s : State) :
    (settleDeficit s).power.counted = s.power.counted ∧ (settleDeficit s).power.trays = s.power.trays := by
  obtain ⟨hc, ht, -⟩ := PowerBudget.supply_eq_iff.1 (settleDeficit_supply s)
  exact ⟨hc, ht⟩

/-- The fan duty speaks of the scanner's own record. -/
theorem boosted_of_scanner {s t : State} (h : DutyFollows s) (hs : t.scanner = s.scanner) :
    t.scanner.duty = .normal ↔ t.scanner.firstRound = true ∧ t.scanner.boosts = [] ∧
      ∀ w : UnitIx, 6 ≤ w.val → (t.unit w).state = .starting ∨ (t.unit w).state = .online := by
  rw [hs, h.1]
  simp only [unit_of_scanner hs]

/-- The duty and its drive. -/
theorem recomputeDuty_eq (s : State) : recomputeDuty s = { s with scanner := { s.scanner with
    duty := (recomputeDuty s).scanner.duty, fanPct := (recomputeDuty s).scanner.fanPct } } := rfl

/-- A change of the supply, its passes, and a duty recomputed, at the end of the event. -/
theorem supplyMoved_spec {g : PowerBudget → PowerBudget} {s w : State} (hw : w = { s with scanner := w.scanner }) :
    let v := budgetSet g w
    let p := budgetPass (allowanceOf s.power) v
    v = { s with scanner := v.scanner, power := g s.power, attn := v.attn } ∧ budgetChange g w = p ∧
      p.scanner = w.scanner ∧ p.power.supply = (g s.power).supply := by
  have hpower : w.power = s.power := by rw [hw]
  have hset := budgetSet_eq g w
  have hpass := (moves_budgetPass (allowanceOf s.power) (budgetSet g w)).scanner_eq rfl
  dsimp only
  refine ⟨?_, ?_, ?_, ?_⟩
  · rw [hpower] at hset
    have hscanner : (budgetSet g w).scanner = w.scanner := by rw [hset]
    rw [hscanner]
    refine hset.trans ?_
    rw [hw]
  · rw [budgetChange_pass, hpower]
  · rw [hpass, hset]
  · rw [budgetPass_supply, budgetSet_power, hpower]

theorem isPsu_iff {u : UnitIx} : isPsu u = true ↔ u.val < 6 := decide_eq_true_iff

theorem isPsu_false {u : UnitIx} (h : 6 ≤ u.val) : isPsu u = false := decide_eq_false (Nat.not_lt.2 h)

theorem psuOf_of {u : UnitIx} {i : Fin 6} (h : i.val = u.val) : psuOf u = some i := index?_of_eq h.symm

theorem exec_unitPresenceRise {u : UnitIx} {s : State} (hp : (s.unit u).presence = false) (ha : (s.unit u).state = .absent) :
    exec (.unitPresenceRise u) s = .next (settleDeficit (if isPsu u then s.modUnit u UnitRec.start
      else recomputeDuty (trayArrives (s.modUnit u UnitRec.start)))) := by
  show Host.Outcome.next (settleDeficit (unitPresenceRise u s)) = _
  unfold unitPresenceRise
  rw [if_neg]
  rintro (h | h)
  · rw [hp] at h
    cases h
  · exact h ha

theorem exec_unitPresenceFall {u : UnitIx} {s : State} (hp : (s.unit u).presence = true) (ha : (s.unit u).state ≠ .absent) :
    exec (.unitPresenceFall u) s = .next (settleDeficit (if isPsu u then psuDeparts u (s.unit u).state (departUnit u s)
      else trayDeparts u (departUnit u s))) := by
  show Host.Outcome.next (settleDeficit (unitPresenceFall u s)) = _
  unfold unitPresenceFall
  rw [if_neg]
  rintro (h | h)
  · rw [hp] at h
    cases h
  · exact ha h

/-- Fewer trays take no allowance away (R46). -/
theorem allowance_le_of_trays {p q : PowerBudget} (hc : q.counted = p.counted) (hm : q.mode = p.mode) (ht : q.trays ≤ p.trays) :
    allowanceOf p ≤ allowanceOf q := by
  have hbudget : availableOf q = availableOf p := by
    unfold availableOf ratingSum countedRating
    rw [hm, hc]
  unfold allowanceOf fixedLoads
  rw [hbudget]
  omega

theorem unit_settleDeficit (s : State) (u : UnitIx) : (settleDeficit s).unit u = s.unit u := unit_of_scanner (settleDeficit_scanner s) u

/-- A supply is its parts. -/
theorem PowerBudget.counted_trays_of_supply {p q : PowerBudget} (h : p.supply = q.supply) :
    p.counted = q.counted ∧ p.trays = q.trays ∧ p.mode = q.mode := by
  obtain ⟨hc, ht, hm, -⟩ := PowerBudget.supply_eq_iff.1 h
  exact ⟨hc, ht, hm⟩

/-! ## A tray comes (R133) -/

theorem trayArrives_spec (u : UnitIx) (s : State) :
    let w := s.modUnit u UnitRec.start
    let t := settleDeficit (recomputeDuty (trayArrives w))
    t.scanner.units = w.scanner.units ∧ t.scanner.turn = s.scanner.turn ∧ t.power.trays = s.power.trays + 1 ∧
      t.power.counted = s.power.counted ∧ DutyFollows (recomputeDuty (trayArrives w)) ∧
      ∃ v q, v = { s with
          scanner := v.scanner, power := { s.power with trays := s.power.trays + 1 }, attn := v.attn } ∧
        q = { budgetPass (allowanceOf s.power) v with scanner := q.scanner } ∧ t = settleDeficit q := by
  obtain ⟨hv, hp, hscanner, hsupply⟩ := supplyMoved_spec (g := fun p => { p with trays := p.trays + 1 }) (s := s)
    (w := s.modUnit u UnitRec.start) rfl
  have hq : recomputeDuty (trayArrives (s.modUnit u UnitRec.start)) = recomputeDuty (budgetPass (allowanceOf s.power)
      (budgetSet (fun p => { p with trays := p.trays + 1 }) (s.modUnit u UnitRec.start))) := congrArg recomputeDuty hp
  obtain ⟨hcounted, htrays, -⟩ := PowerBudget.counted_trays_of_supply hsupply
  dsimp only
  rw [hq]
  obtain ⟨hsc, hst⟩ := settleDeficit_counted_trays (recomputeDuty (budgetPass (allowanceOf s.power)
      (budgetSet (fun p => { p with trays := p.trays + 1 }) (s.modUnit u UnitRec.start))))
  refine ⟨?_, ?_, hst.trans htrays, hsc.trans hcounted, dutyFollows_recomputeDuty _, _, _, hv, recomputeDuty_eq _, rfl⟩
  · rw [settleDeficit_scanner]
    exact (congrArg SensorScanner.units hscanner :)
  · rw [settleDeficit_scanner]
    exact (congrArg SensorScanner.turn hscanner :)

/-! ## A tray goes (R133, R135) -/

/-- The record of a tray that is gone, its FanFault condition holding (R135). -/
def UnitRec.gone (r : UnitRec) : UnitRec := { r.depart with fanFault := true }

theorem raiseFanFault_eq (u : UnitIx) (detail : Nat) (s : State) : raiseFanFault u detail s =
    { s.modUnit u (fun r => { r with fanFault := true }) with
        alarms := (raiseFanFault u detail s).alarms, attn := (raiseFanFault u detail s).attn } :=
  raiseAlarm_eq _ _

theorem trayDeparts_spec {u : UnitIx} {s : State} (hne : (s.unit u).state ≠ .absent) (hu : 6 ≤ u.val) :
    let t := settleDeficit (trayDeparts u (departUnit u s))
    (∀ w, t.unit w = if u = w then (s.unit u).gone else s.unit w) ∧ t.scanner.turn = (departUnit u s).scanner.turn ∧
      t.power.trays = s.power.trays - 1 ∧ t.power.counted = s.power.counted ∧ DutyFollows (trayDeparts u (departUnit u s)) ∧
      (∃ v q, v = { s with
          scanner := v.scanner, power := { s.power with trays := s.power.trays - 1 }, attn := v.attn } ∧
        q = { budgetPass (allowanceOf s.power) v with scanner := q.scanner, alarms := q.alarms, attn := q.attn } ∧
        t = settleDeficit q) ∧
      (AlarmsLawful s → s.alarms.length < 128 → AlarmStands t .fanFault (u.val - 5) .major 2) := by
  obtain ⟨hframe, hunit, -⟩ := departUnit_spec u hne
  obtain ⟨hv, hp, hscanner, hsupply⟩ := supplyMoved_spec (g := fun p => { p with trays := p.trays - 1 }) hframe
  obtain ⟨hcounted, htrays, -⟩ := PowerBudget.counted_trays_of_supply hsupply
  generalize hvd : budgetSet (fun p => { p with trays := p.trays - 1 }) (departUnit u s) = v at hv hp hscanner hcounted htrays
  have hleaves : trayLeaves (departUnit u s) = budgetPass (allowanceOf s.power) v := hp
  have hvpower : v.power = { s.power with trays := s.power.trays - 1 } := by rw [hv]
  have halarms : (budgetPass (allowanceOf s.power) v).alarms = s.alarms := by
    rw [budgetPass_alarms (by rw [hvpower]; exact allowance_le_of_trays rfl rfl (Nat.sub_le _ _)), hv]
  have hq : trayDeparts u (departUnit u s) = recomputeDuty (raiseFanFault u 2 (budgetPass (allowanceOf s.power) v)) := by
    rw [← hleaves]
    rfl
  generalize hpd : budgetPass (allowanceOf s.power) v = p at hp hscanner hcounted htrays hleaves halarms hq
  have hfan := raiseFanFault_eq u 2 p
  have hsubject : unitSubject u = u.val - 5 := if_neg (by rw [isPsu_false hu]; exact Bool.false_ne_true)
  have hlawful : ClaimsOnly (fun c => c = .fanFault) s (recomputeDuty (raiseFanFault u 2 p)) :=
    ((ClaimsOnly.of_alarms (t := p.modUnit u fun r => { r with fanFault := true }) (fun c => c = .fanFault) halarms).raise (C := fun c => c = .fanFault)
      (r := plainRaise .fanFault (unitSubject u) .major 2) rfl).trans (.of_alarms _ rfl)
  have hgone (w : UnitIx) : (raiseFanFault u 2 p).unit w = if u = w then (s.unit u).gone else s.unit w := by
    have hpw (w : UnitIx) : p.unit w = (departUnit u s).unit w := unit_of_scanner hscanner w
    rw [unit_of_scanner (show (raiseFanFault u 2 p).scanner = (p.modUnit u fun r => { r with fanFault := true }).scanner by rw [hfan]),
      modUnit_unit, hpw, hpw, hunit, hunit, if_pos rfl]
    split <;> rfl
  have hraised : AlarmsLawful s → s.alarms.length < 128 → AlarmStands (raiseFanFault u 2 p) .fanFault (u.val - 5) .major 2 :=
    fun _ hroom => by
      rw [← hsubject]
      exact alarmStands_raiseAlarm (plainRaise .fanFault (unitSubject u) .major 2)
        (by rw [show (p.modUnit u _).alarms = s.alarms from halarms]; exact hroom)
  have hpower : (raiseFanFault u 2 p).power = p.power := by
    rw [hfan]
    rfl
  have hturn : (raiseFanFault u 2 p).scanner.turn = (departUnit u s).scanner.turn := by
    rw [hfan, ← hscanner]
    rfl
  have hframed : recomputeDuty (raiseFanFault u 2 p) = { p with
      scanner := (recomputeDuty (raiseFanFault u 2 p)).scanner, alarms := (recomputeDuty (raiseFanFault u 2 p)).alarms,
      attn := (recomputeDuty (raiseFanFault u 2 p)).attn } := by
    rw [recomputeDuty_eq, hfan]
    rfl
  dsimp only
  rw [hq]
  obtain ⟨hsc, hst⟩ := settleDeficit_counted_trays (recomputeDuty (raiseFanFault u 2 p))
  refine ⟨fun w => (unit_settleDeficit _ w).trans (hgone w), ?_, ?_, ?_, dutyFollows_recomputeDuty _, ?_, fun ha hroom => ?_⟩
  · rw [settleDeficit_scanner]
    exact hturn
  · exact hst.trans ((congrArg PowerBudget.trays hpower).trans htrays)
  · exact hsc.trans ((congrArg PowerBudget.counted hpower).trans hcounted)
  · exact ⟨v, _, hv, by rw [hpd]; exact hframed, rfl⟩
  · exact (settleDeficit_claims _).stands (hlawful ha).1 (by decide) ((hraised ha hroom).of_alarms rfl)

/-! ## A PSU goes (R133, R135) -/

theorem psuDeparts_online {u : UnitIx} {i : Fin 6} (hi : i.val = u.val) (s : State) :
    psuDeparts u .online s = setCounted i none s := by
  show reportPsu u none s = _
  unfold reportPsu
  rw [psuOf_of hi]

/-- The going of a PSU that is not Online writes alarms alone. -/
theorem psuDeparts_eq (u : UnitIx) {st : UnitState} (hst : st ≠ .online) (s : State) : psuDeparts u st s =
    { s with alarms := (psuDeparts u st s).alarms, attn := (psuDeparts u st s).attn } := by
  cases st with
  | online => exact absurd rfl hst
  | faulted => exact endAlarm_eq _ _ s
  | starting => rfl
  | absent => rfl

/-- Where the deficit already follows, a settling after changes of the scanner and of alarms finds it so. -/
theorem settleDeficit_still {s t : State} (h : DeficitFollows s) (hp : t.power = s.power) (hports : t.ports = s.ports) :
    settleDeficit t = t :=
  settleDeficit_of_follows (h.of_power_ports (by rw [hp]) (by rw [hp]) hports)

theorem psuDeparts_spec {u : UnitIx} {i : Fin 6} {s : State} (hd : DeficitFollows s) (hi : i.val = u.val)
    (hne : (s.unit u).state ≠ .absent) :
    let t := settleDeficit (psuDeparts u (s.unit u).state (departUnit u s))
    t.scanner = (departUnit u s).scanner ∧ t.power.trays = s.power.trays ∧
      ((s.unit u).state = .online → t.power.counted = s.power.counted.set i none ∧
        ∃ v, v = { s with
            scanner := v.scanner, power := { s.power with counted := s.power.counted.set i none }, attn := v.attn } ∧
          t = settleDeficit (budgetPass (allowanceOf s.power) v)) ∧
      ((s.unit u).state ≠ .online → t.power = s.power ∧ t.ports = s.ports ∧ t.cards = s.cards) ∧
      (AlarmsLawful s → (s.unit u).state = .faulted → AlarmOver t .psuFault (u.val + 1)) := by
  obtain ⟨hframe, -⟩ := departUnit_spec u hne
  have hpower : (departUnit u s).power = s.power := by rw [hframe]
  have hports : (departUnit u s).ports = s.ports := by rw [hframe]
  have hcards : (departUnit u s).cards = s.cards := by rw [hframe]
  have halarms : (departUnit u s).alarms = s.alarms := by rw [hframe]
  dsimp only
  by_cases hon : (s.unit u).state = .online
  · obtain ⟨hv, hp, hscanner, hsupply⟩ := supplyMoved_spec (g := fun p => { p with counted := p.counted.set i none }) hframe
    obtain ⟨hcounted, htrays, -⟩ := PowerBudget.counted_trays_of_supply hsupply
    have hleaves : psuDeparts u (s.unit u).state (departUnit u s) = budgetPass (allowanceOf s.power)
        (budgetSet (fun p => { p with counted := p.counted.set i none }) (departUnit u s)) := by
      rw [hon]
      exact (psuDeparts_online hi _).trans hp
    rw [hleaves]
    obtain ⟨hsc, hst⟩ := settleDeficit_counted_trays (budgetPass (allowanceOf s.power)
      (budgetSet (fun p => { p with counted := p.counted.set i none }) (departUnit u s)))
    exact ⟨(settleDeficit_scanner _).trans hscanner, hst.trans htrays, fun _ => ⟨hsc.trans hcounted, _, hv, rfl⟩,
      fun hoff => absurd hon hoff, fun _ hf => by rw [hon] at hf; cases hf⟩
  · have heq := psuDeparts_eq u hon (departUnit u s)
    have hstill : settleDeficit (psuDeparts u (s.unit u).state (departUnit u s)) =
        psuDeparts u (s.unit u).state (departUnit u s) :=
      settleDeficit_still hd (by rw [heq, hpower]) (by rw [heq, hports])
    rw [hstill]
    refine ⟨by rw [heq], by rw [heq, hpower], fun h => absurd h hon, fun _ => ⟨by rw [heq, hpower], by rw [heq, hports],
      by rw [heq, hcards]⟩, fun ha hf => ?_⟩
    have hsubject : unitSubject u = u.val + 1 := if_pos (isPsu_iff.2 (by omega))
    rw [hf, ← hsubject]
    exact alarmOver_endAlarm .psuFault (unitSubject u) (by unfold AlarmsLawful; rw [halarms]; exact ha)

end Sys2Proof.Machine

section
open Sys2Proof Sys2Proof.Machine

/-- Settles O37: a rise is the record's and, for a tray, one supply change and the duty; a fall is `departUnit_spec` followed by
`psuDeparts_spec` or `trayDeparts_spec`. -/
theorem unitPresenceRule : Obligations.UnitPresenceRule := by
  unfold Obligations.UnitPresenceRule
  intro u s hd boosted gone
  refine ⟨fun hp ha => ?_, fun hp ha => ?_⟩
  · have hmoves : Moves ⟨false, false, true⟩ s (settleDeficit (unitPresenceRise u s)) :=
      (Moves.refl.unitPresenceRise u rfl).settleDeficit
    have hexec := exec_unitPresenceRise hp ha
    have hsame : settleDeficit (unitPresenceRise u s) = _ := Host.Outcome.next.inj hexec
    refine ⟨_, hexec, ?_⟩
    rw [hsame] at hmoves
    have hkept := And.intro (hmoves.licensesKept rfl) (And.intro (hmoves.settingsKept rfl) hmoves.outside)
    clear hexec hsame
    by_cases hu : u.val < 6
    · rw [if_pos (isPsu_iff.2 hu), settleDeficit_still (t := s.modUnit u UnitRec.start) hd rfl rfl] at hkept ⊢
      exact ⟨modUnit_unit_same u _ s, fun w hw => (modUnit_unit u w _ s).trans (if_neg hw.symm), fun _ => rfl, rfl,
        fun h6 => absurd hu (Nat.not_lt.2 h6), hkept⟩
    · rw [if_neg (fun h => hu (isPsu_iff.1 h))] at hkept ⊢
      obtain ⟨hunits, hturn, htrays, hcounted, hduty, hpass⟩ := trayArrives_spec u s
      have hunit (w : UnitIx) : (settleDeficit (recomputeDuty (trayArrives (s.modUnit u UnitRec.start)))).unit w =
          (s.modUnit u UnitRec.start).unit w := congrArg (fun v => v[w]) hunits
      exact ⟨(hunit u).trans (modUnit_unit_same u _ s), fun w hw => (hunit w).trans ((modUnit_unit u w _ s).trans (if_neg hw.symm)),
        fun h => absurd h hu, hturn, fun _ => ⟨htrays, hcounted, boosted_of_scanner hduty (settleDeficit_scanner _), hpass⟩, hkept⟩
  · have hmoves : Moves ⟨false, false, true⟩ s (settleDeficit (unitPresenceFall u s)) :=
      (Moves.refl.unitPresenceFall u rfl).settleDeficit
    have hexec := exec_unitPresenceFall hp ha
    have hsame : settleDeficit (unitPresenceFall u s) = _ := Host.Outcome.next.inj hexec
    refine ⟨_, hexec, ?_⟩
    rw [hsame] at hmoves
    have hkept := And.intro (hmoves.licensesKept rfl) (And.intro (hmoves.settingsKept rfl) hmoves.outside)
    clear hexec hsame
    obtain ⟨-, hunit, hturn, hnext, -⟩ := departUnit_spec u ha
    by_cases hu : u.val < 6
    · rw [if_pos (isPsu_iff.2 hu)] at hkept ⊢
      obtain ⟨hscanner, -⟩ := psuDeparts_spec (i := ⟨u.val, hu⟩) hd rfl ha
      have hw (w : UnitIx) := (unit_of_scanner hscanner w).trans (hunit w)
      refine ⟨fun w hne => (hw w).trans (if_neg hne.symm), fun h => ?_, fun h => ?_, fun i hi => ?_,
        fun h6 => absurd hu (Nat.not_lt.2 h6), hkept⟩
      · rw [hscanner]
        exact hturn h
      · rw [hscanner]
        exact hnext h
      · obtain ⟨-, htrays, honline, hoff, hover⟩ := psuDeparts_spec hd hi ha
        exact ⟨(hw u).trans (if_pos rfl), htrays, honline, hoff, hover⟩
    · rw [if_neg (fun h => hu (isPsu_iff.1 h))] at hkept ⊢
      obtain ⟨hw, ht, htrays, hcounted, hduty, hpass, hstands⟩ := trayDeparts_spec ha (Nat.not_lt.1 hu)
      refine ⟨fun w hne => (hw w).trans (if_neg hne.symm), fun h => ht.trans (hturn h), fun h => ?_,
        fun i hi => absurd i.isLt (by omega), fun _ => ⟨(hw u).trans (if_pos rfl), htrays, hcounted,
          boosted_of_scanner hduty (settleDeficit_scanner _), hpass, hstands⟩, hkept⟩
      rw [ht]
      exact hnext h

end

/-! PROOFS. The read of a unit (R132, R134, R135). -/

namespace Sys2Proof.Machine

/-! ## The record of a unit under a read (R132, R134) -/

/-- How a read of a class can move a unit's state (R134). -/
inductive UnitStep : UnitState → ReadClass → UnitState → Prop
  | stays (a : UnitState) (c : ReadClass) : UnitStep a c a
  | comes {a : UnitState} (h : a = .starting ∨ a = .faulted) : UnitStep a .good .online
  | fails {a : UnitState} {c : ReadClass} (h : a = .starting ∨ a = .online) (hc : c ≠ .good) : UnitStep a c .faulted

theorem UnitRec.strike_step {r : UnitRec} {c : ReadClass} (h : r.state = .starting ∨ r.state = .online) (hc : c ≠ .good) :
    UnitStep r.state c r.strike.state := by
  unfold UnitRec.strike
  split
  · exact .fails h hc
  · exact .stays _ _

theorem UnitRec.mend_step {r : UnitRec} (h : r.state = .faulted) : UnitStep r.state .good r.mend.state := by
  unfold UnitRec.mend
  split
  · exact .comes (.inr h)
  · exact .stays _ _

theorem UnitRec.move_step (c : ReadClass) (r : UnitRec) : UnitStep r.state c (r.move c).state := by
  unfold UnitRec.move
  split
  next h => exact .comes (.inl h)
  next h => exact strike_step (.inl h) (by decide)
  next => exact .stays _ _
  next => exact .stays _ _
  next h => exact strike_step (.inr h) (by decide)
  next h => exact strike_step (.inr h) (by decide)
  next h => exact mend_step h
  next => exact .stays _ _
  next => exact .stays _ _
  next => exact .stays _ _

/-- The read that has been recorded in a unit's record leaves its state and its counts to the table. -/
theorem UnitRec.move_eq (c : ReadClass) (r : UnitRec) :
    r.move c = { r with state := (r.move c).state, good := (r.move c).good, bad := (r.move c).bad } := by
  unfold UnitRec.move UnitRec.strike UnitRec.mend
  split <;> (try split) <;> rfl

theorem UnitRec.record_eq (x : UnitReading) (c : ReadClass) (r : UnitRec) : r.record x c =
    { r with readOk := (r.record x c).readOk, rating := (r.record x c).rating, output := (r.record x c).output,
             inlet := (r.record x c).inlet, outputGood := (r.record x c).outputGood, speed := (r.record x c).speed } := by
  cases c <;> cases x <;> rfl

/-- The record of a unit after a read of a class (R132, R134). -/
def UnitRec.read (x : UnitReading) (c : ReadClass) (r : UnitRec) : UnitRec := (r.record x c).move c

theorem UnitRec.read_step (x : UnitReading) (c : ReadClass) (r : UnitRec) : UnitStep r.state c (r.read x c).state := by
  have hstate : (r.record x c).state = r.state := by rw [record_eq]
  have hstep := move_step c (r.record x c)
  rwa [hstate] at hstep

theorem UnitRec.read_fanFault (x : UnitReading) (c : ReadClass) (r : UnitRec) : (r.read x c).fanFault = r.fanFault := by
  rw [read, move_eq, record_eq]

/-- The table of the states and counts (R134). -/
theorem UnitRec.read_table (x : UnitReading) (c : ReadClass) (r : UnitRec) :
    ((r.read x c).state, (r.read x c).good, (r.read x c).bad) = (match r.state, c with
        | .starting, .good => (UnitState.online, 0, 0)
        | .starting, .failed => if 3 ≤ r.bad + 1 then (.faulted, 0, 0) else (.starting, r.good, r.bad + 1)
        | .starting, .weak => (.starting, r.good, 0)
        | .online, .good => (.online, r.good, 0)
        | .online, _ => if 3 ≤ r.bad + 1 then (.faulted, 0, 0) else (.online, r.good, r.bad + 1)
        | .faulted, .good => if 3 ≤ r.good + 1 then (.online, 0, 0) else (.faulted, r.good + 1, r.bad)
        | .faulted, _ => (.faulted, 0, r.bad)
        | .absent, _ => (.absent, r.good, r.bad)) := by
  have hstate : (r.record x c).state = r.state := by rw [record_eq]
  have hgood : (r.record x c).good = r.good := by rw [record_eq]
  have hbad : (r.record x c).bad = r.bad := by rw [record_eq]
  unfold read move strike mend
  rw [hstate, hgood, hbad]
  cases hst : r.state <;> cases c <;> dsimp only <;> (try split) <;> simp only [hstate, hgood, hbad, hst]

/-- The readings that a read leaves (R132). -/
theorem UnitRec.read_readings (x : UnitReading) (c : ReadClass) (r : UnitRec) :
    (r.read x c).readOk = (r.record x c).readOk ∧ (r.read x c).rating = (r.record x c).rating ∧
      (r.read x c).output = (r.record x c).output ∧ (r.read x c).inlet = (r.record x c).inlet ∧
      (r.read x c).outputGood = (r.record x c).outputGood ∧ (r.read x c).speed = (r.record x c).speed := by
  unfold read
  rw [move_eq]
  exact ⟨rfl, rfl, rfl, rfl, rfl, rfl⟩

theorem UnitRec.read_failed (x : UnitReading) (r : UnitRec) : (r.read x .failed).readOk = false ∧
    (r.read x .failed).rating = r.rating ∧ (r.read x .failed).output = r.output ∧ (r.read x .failed).inlet = r.inlet ∧
    (r.read x .failed).outputGood = r.outputGood ∧ (r.read x .failed).speed = r.speed := read_readings x .failed r

theorem UnitRec.record_psu {rating output : Half} {inlet : Half} {good : Bool} {c : ReadClass} (hc : c ≠ .failed) (r : UnitRec) :
    r.record (.psu rating output inlet good) c =
      { r with readOk := true, rating := rating, output := output, inlet := inlet, outputGood := good } := by
  cases c with
  | failed => exact absurd rfl hc
  | good => rfl
  | weak => rfl

theorem UnitRec.record_fan {speed : Half} {c : ReadClass} (hc : c ≠ .failed) (r : UnitRec) :
    r.record (.fan speed) c = { r with readOk := true, speed := speed } := by
  cases c with
  | failed => exact absurd rfl hc
  | good => rfl
  | weak => rfl

/-- The class of a read (R132, log 22). -/
theorem readClass_eq (u : UnitIx) (floor : Nat) (x : UnitReading) : readClass u floor x = (match x with
        | .failed => ReadClass.failed
        | .psu rating _ _ good => if 6 ≤ u.val ∨ rating.toNat < 500 ∨ 3000 < rating.toNat then .failed
            else if good then .good else .weak
        | .fan speed => if u.val < 6 then .failed else if floor ≤ speed.toNat then .good else .weak) := by
  have hpsu : isPsu u = true ↔ u.val < 6 := isPsu_iff
  cases x with
  | failed => rfl
  | psu rating output inlet good =>
    show (if isPsu u then psuClass rating good else .failed) = ite _ _ _
    by_cases h : u.val < 6
    · rw [if_pos (hpsu.2 h), psuClass]
      simp only [Nat.not_le.2 h, false_or]
    · rw [if_neg fun hp => h (hpsu.1 hp), if_pos (.inl (Nat.not_lt.1 h))]
  | fan speed =>
    show (if isPsu u then _ else _) = ite _ _ _
    simp only [hpsu]

/-! ## What a PSU's read hands on (R135) -/

/-- What a change of the counted rating, its passes and the settling may claim for. -/
def supplyCause (c : Cause) : Prop := departureCause c ∨ c = .budgetDeficit

/-- From w, which differs from s in the scanner's records and in alarms alone, to t: the counted ratings and the pass that their change
calls for. -/
structure Recounts (s w t : State) : Prop where
  scanner : t.scanner = w.scanner
  pass : ∃ v, v = { s with
      scanner := v.scanner, power := { s.power with counted := t.power.counted }, alarms := v.alarms, attn := v.attn } ∧
    t = settleDeficit (budgetPass (allowanceOf s.power) v)
  claims : ClaimsOnly supplyCause w t

/-- A state that is another but for the scanner's records and the alarms. -/
def ReadFrame (s w : State) : Prop := w = { s with scanner := w.scanner, alarms := w.alarms, attn := w.attn }

theorem ReadFrame.raise {s w : State} (h : ReadFrame s w) (r : Raise) : ReadFrame s (raiseAlarm r w) := by
  unfold ReadFrame at h ⊢
  rw [h, raiseAlarm_eq]

theorem ReadFrame.clear {s w : State} (h : ReadFrame s w) (c : Cause) (k : Nat) : ReadFrame s (endAlarm c k w) := by
  unfold ReadFrame at h ⊢
  rw [h, endAlarm_eq]

theorem ReadFrame.power {s w : State} (h : ReadFrame s w) : w.power = s.power := by rw [h]

theorem ReadFrame.still {s w : State} (h : ReadFrame s w) (hd : DeficitFollows s) : settleDeficit w = w :=
  settleDeficit_still hd h.power (by rw [h])

theorem recounts_still {s w : State} (h : ReadFrame s w) (hd : DeficitFollows s) :
    Recounts s w (settleDeficit w) ∧ (settleDeficit w).power = s.power := by
  have hpass : budgetPass (allowanceOf s.power) w = w := by
    unfold budgetPass
    rw [h.power, if_neg (lt_irrefl _), if_neg fun hand => lt_irrefl _ hand.1]
  have hsettled := h.still hd
  refine ⟨⟨settleDeficit_scanner w, ⟨w, ?_, by rw [hpass]⟩, ?_⟩, by rw [hsettled, h.power]⟩
  · rw [hsettled, h.power]
    exact h
  · rw [hsettled]
    exact .refl _ w

theorem recounts_setCounted {s w : State} (h : ReadFrame s w) (i : Fin 6) (r : Option Nat) :
    Recounts s w (settleDeficit (setCounted i r w)) ∧
      (settleDeficit (setCounted i r w)).power.counted = s.power.counted.set i r := by
  have hpower := h.power
  have hset := budgetSet_eq (fun p => { p with counted := p.counted.set i r }) w
  have heq : setCounted i r w = budgetPass (allowanceOf s.power) (budgetSet (fun p => { p with counted := p.counted.set i r }) w) := by
    rw [setCounted, budgetChange_pass, hpower]
  generalize budgetSet (fun p => { p with counted := p.counted.set i r }) w = v at hset heq
  rw [heq]
  have hvpower : v.power = { s.power with counted := s.power.counted.set i r } := by rw [hset, hpower]
  have hcounted : (settleDeficit (budgetPass (allowanceOf s.power) v)).power.counted = s.power.counted.set i r := by
    rw [(settleDeficit_counted_trays _).1,
      (PowerBudget.counted_trays_of_supply (budgetPass_supply (allowanceOf s.power) v)).1, hvpower]
  refine ⟨⟨?_, ⟨v, ?_, rfl⟩, ?_⟩, hcounted⟩
  · rw [settleDeficit_scanner, (moves_budgetPass _ v).scanner_eq rfl, hset]
  · rw [hcounted, ← hvpower]
    unfold ReadFrame at h
    have hrest : v = { w with power := v.power, attn := v.attn } := hset.trans (by rw [hset])
    rw [hrest, h]
  · have hv : ClaimsOnly supplyCause w v := .of_alarms _ (by rw [hset])
    exact (hv.trans ((budgetPass_claims _ v).mono fun c hc => .inl hc)).trans
      ((settleDeficit_claims _).mono fun c hc => .inr hc)

theorem recounts_reportRating {u : UnitIx} {i : Fin 6} (hi : i.val = u.val) {s w : State} (h : ReadFrame s w)
    (hd : DeficitFollows s) : Recounts s w (settleDeficit (reportRating u w)) ∧
      (settleDeficit (reportRating u w)).power.counted = s.power.counted.set i (some (w.unit u).rating.toNat) := by
  unfold reportRating
  rw [psuOf_of hi]
  dsimp only
  split
  next hsame =>
    obtain ⟨hre, hp⟩ := recounts_still h hd
    refine ⟨hre, ?_⟩
    rw [hp, ← hsame, h.power]
    exact (Vector.set_getElem_self i.isLt).symm
  next => exact recounts_setCounted h i _

/-- The alarms of a unit that a read of it has moved from one state to another: raised, ended, or as they were (R135). -/
structure UnitAlarms (c : Cause) (k : Nat) (a b : UnitState) (held : Prop) (s t : State) : Prop where
  raised : AlarmsLawful s → s.alarms.length < 128 → a ≠ .faulted → b = .faulted → AlarmStands t c k .major 1
  ended : AlarmsLawful s → held → b = .online → AlarmOver t c k
  same : AlarmsLawful s → b = a → ∀ y : Nat × AlarmEntry, y.2.cause = .psuFault ∨ y.2.cause = .fanFault →
    (y ∈ t.alarms ↔ y ∈ s.alarms)

/-! ### The rows of a PSU's read -/

theorem psuFollows_stays {u : UnitIx} {w : State} {a : UnitState} {c : ReadClass} (h : (w.unit u).state = a)
    (hno : ¬ (a = .online ∧ c = .good)) : psuFollows u a c w = w := by
  unfold psuFollows
  rw [h]
  cases a with
  | online => exact if_neg fun hc => hno ⟨rfl, hc⟩
  | absent => rfl
  | starting => rfl
  | faulted => rfl

theorem psuFollows_online_good {u : UnitIx} {w : State} (h : (w.unit u).state = .online) :
    psuFollows u .online .good w = reportRating u w := by
  unfold psuFollows
  rw [h]
  exact if_pos rfl

theorem psuFollows_starting_online {u : UnitIx} {w : State} (h : (w.unit u).state = .online) (c : ReadClass) :
    psuFollows u .starting c w = reportRating u w := by
  simp only [psuFollows, h]

theorem psuFollows_faulted_online {u : UnitIx} {w : State} (h : (w.unit u).state = .online) (c : ReadClass) :
    psuFollows u .faulted c w = reportRating u (endAlarm .psuFault (unitSubject u) w) := by
  simp only [psuFollows, h]

theorem psuFollows_online_faulted {u : UnitIx} {i : Fin 6} (hi : i.val = u.val) {w : State} (h : (w.unit u).state = .faulted)
    (c : ReadClass) : psuFollows u .online c w = setCounted i none (raiseAlarm (plainRaise .psuFault (unitSubject u) .major 1) w) := by
  unfold psuFollows
  rw [h]
  exact psuDeparts_online hi _

theorem psuFollows_starting_faulted {u : UnitIx} {w : State} (h : (w.unit u).state = .faulted) (c : ReadClass) :
    psuFollows u .starting c w = raiseAlarm (plainRaise .psuFault (unitSubject u) .major 1) w := by
  simp only [psuFollows, h]

theorem UnitAlarms.of_stays {s w t : State} {c : Cause} (k : Nat) {a : UnitState} {held : Prop} (ha : a ≠ .online ∨ ¬ held)
    (hw : w.alarms = s.alarms) (h : ClaimsOnly supplyCause w t) : UnitAlarms c k a a held s t where
  raised _ _ hne he := absurd he hne
  ended _ hheld he := absurd hheld (ha.resolve_left fun hne => hne he)
  same hl _ y hy := by
    rw [← hw]
    exact ((h (by unfold AlarmsLawful; rw [hw]; exact hl)).2 y (by rcases hy with hy | hy <;> rw [hy] <;> simp [supplyCause, departureCause]))

theorem UnitAlarms.of_raise {s w t : State} {c : Cause} (k : Nat) {a : UnitState} {held : Prop} (ha : a ≠ .faulted)
    (hc : ¬ supplyCause c) (hw : w.alarms = s.alarms) (h : ClaimsOnly supplyCause (raiseAlarm (plainRaise c k .major 1) w) t) :
    UnitAlarms c k a .faulted held s t where
  raised hl hroom _ _ := by
    have hlw : AlarmsLawful w := by unfold AlarmsLawful; rw [hw]; exact hl
    have hraised := alarmStands_raiseAlarm (plainRaise c k .major 1) (s := w) (by rw [hw]; exact hroom)
    exact h.stands (((ClaimsOnly.refl (fun _ => True) w).raise (C := fun _ => True) trivial) hlw).1 hc hraised
  ended _ _ he := by cases he
  same _ he := absurd he.symm ha

theorem UnitAlarms.of_clear {s w t : State} {c : Cause} (k : Nat) {a : UnitState} {held : Prop} (ha : a ≠ .online)
    (hc : ¬ supplyCause c) (hw : w.alarms = s.alarms) (h : ClaimsOnly supplyCause (endAlarm c k w) t) :
    UnitAlarms c k a .online held s t where
  raised _ _ _ he := by cases he
  ended hl _ _ := by
    have hlw : AlarmsLawful w := by unfold AlarmsLawful; rw [hw]; exact hl
    exact h.staysOver (((ClaimsOnly.refl (fun _ => True) w).clear (C := fun _ => True) k trivial) hlw).1 hc (alarmOver_endAlarm c k hlw)
  same _ he := absurd he.symm ha

theorem UnitAlarms.of_comes {s t : State} {c : Cause} (k : Nat) {a : UnitState} {held : Prop} (ha : a ≠ .online)
    (hheld : ¬ held) : UnitAlarms c k a .online held s t where
  raised _ _ _ he := by cases he
  ended _ h _ := absurd h hheld
  same _ he := absurd he.symm ha

/-- What the end of the read of a PSU does once the unit has moved (R135). -/
theorem psuFollows_spec {u : UnitIx} {i : Fin 6} (hi : i.val = u.val) {s w : State} (hd : DeficitFollows s)
    (hw : w = { s with scanner := w.scanner }) {a : UnitState} {c : ReadClass} (hstep : UnitStep a c (w.unit u).state) :
    let t := settleDeficit (psuFollows u a c w)
    t.scanner = w.scanner ∧
      (∃ v, v = { s with
          scanner := v.scanner, power := { s.power with counted := t.power.counted }, alarms := v.alarms, attn := v.attn } ∧
        t = settleDeficit (budgetPass (allowanceOf s.power) v)) ∧
      ((w.unit u).state = .online → c = .good → t.power.counted = s.power.counted.set i (some (w.unit u).rating.toNat)) ∧
      ((w.unit u).state = .online → c ≠ .good → t.power = s.power) ∧
      (a = .online → (w.unit u).state = .faulted → t.power.counted = s.power.counted.set i none) ∧
      (a ≠ .online → (w.unit u).state ≠ .online → t.power = s.power) ∧
      UnitAlarms .psuFault (unitSubject u) a (w.unit u).state (a = .faulted) s t := by
  have halarms : w.alarms = s.alarms := by rw [hw]
  have hframe : ReadFrame s w := hw.trans (by rw [hw])
  have hraise := hframe.raise (plainRaise .psuFault (unitSubject u) .major 1)
  have hclear := hframe.clear .psuFault (unitSubject u)
  have hnot : ¬ supplyCause .psuFault := by simp [supplyCause, departureCause]
  dsimp only
  generalize hb : (w.unit u).state = b at hstep
  cases hstep with
  | stays =>
    by_cases hgood : a = .online ∧ c = .good
    · obtain ⟨rfl, rfl⟩ := hgood
      rw [psuFollows_online_good hb]
      obtain ⟨hre, hcounted⟩ := recounts_reportRating hi hframe hd
      exact ⟨hre.scanner, hre.pass, fun _ _ => hcounted, fun _ h => absurd rfl h, fun _ h => (nomatch h),
        fun h => absurd rfl h, .of_stays _ (.inr nofun) halarms hre.claims⟩
    · rw [psuFollows_stays hb hgood]
      obtain ⟨hre, hpower⟩ := recounts_still hframe hd
      exact ⟨hre.scanner, hre.pass, fun h hc => absurd ⟨h, hc⟩ hgood, fun _ _ => hpower, fun h h' => (by rw [h] at h'; cases h'),
        fun _ _ => hpower, .of_stays _ (by cases a <;> decide) halarms hre.claims⟩
  | comes h =>
    rcases h with rfl | rfl
    · rw [psuFollows_starting_online hb]
      obtain ⟨hre, hcounted⟩ := recounts_reportRating hi hframe hd
      exact ⟨hre.scanner, hre.pass, fun _ _ => hcounted, fun _ h => absurd rfl h, fun _ h => (nomatch h),
        fun _ h => absurd rfl h, .of_comes _ (by decide) nofun⟩
    · rw [psuFollows_faulted_online hb]
      obtain ⟨hre, hcounted⟩ := recounts_reportRating hi hclear hd
      have hunit : (endAlarm .psuFault (unitSubject u) w).unit u = w.unit u := unit_of_scanner (by rw [endAlarm_eq]) u
      have hscanner : (endAlarm .psuFault (unitSubject u) w).scanner = w.scanner := by rw [endAlarm_eq]
      rw [hunit] at hcounted
      exact ⟨hre.scanner.trans hscanner, hre.pass, fun _ _ => hcounted, fun _ h => absurd rfl h, fun _ h => (nomatch h),
        fun _ h => absurd rfl h, .of_clear _ (by decide) hnot halarms hre.claims⟩
  | fails h hc =>
    have hscanner : (raiseAlarm (plainRaise .psuFault (unitSubject u) .major 1) w).scanner = w.scanner := by rw [raiseAlarm_eq]
    rcases h with rfl | rfl
    · rw [psuFollows_starting_faulted hb]
      obtain ⟨hre, hpower⟩ := recounts_still hraise hd
      exact ⟨hre.scanner.trans hscanner, hre.pass, fun h => (nomatch h), fun h => (nomatch h), fun h => (nomatch h), fun _ _ => hpower,
        .of_raise _ (by decide) hnot halarms hre.claims⟩
    · rw [psuFollows_online_faulted hi hb]
      obtain ⟨hre, hcounted⟩ := recounts_setCounted hraise i none
      exact ⟨hre.scanner.trans hscanner, hre.pass, fun h => (nomatch h), fun h => (nomatch h), fun _ _ => hcounted, fun h => absurd rfl h,
        .of_raise _ (by decide) hnot halarms hre.claims⟩

/-! ## What a tray's read hands on (R135, R137) -/

/-- A unit's record with its FanFault condition set (R135). -/
def UnitRec.withFault (b : Bool) (r : UnitRec) : UnitRec := { r with fanFault := b }

theorem endFanFault_frame (u : UnitIx) (s : State) : endFanFault u s =
    { s with scanner := (endFanFault u s).scanner, alarms := (endFanFault u s).alarms, attn := (endFanFault u s).attn } := by
  unfold endFanFault
  split
  · rw [endAlarm_eq]
    rfl
  · rfl

/-- A tray whose condition is over: its record without the condition. -/
theorem endFanFault_scanner (u : UnitIx) (s : State) : (endFanFault u s).scanner.turn = s.scanner.turn ∧
    ∀ v, (endFanFault u s).unit v = if u = v then (s.unit u).withFault false else s.unit v := by
  unfold endFanFault
  split
  next h =>
    have hscanner : (endAlarm .fanFault (unitSubject u) (s.modUnit u fun r => { r with fanFault := false })).scanner =
        (s.modUnit u fun r => { r with fanFault := false }).scanner := by rw [endAlarm_eq]
    exact ⟨(congrArg SensorScanner.turn hscanner :), fun v => (unit_of_scanner hscanner v).trans (modUnit_unit u v _ s)⟩
  next h =>
    refine ⟨rfl, fun v => ?_⟩
    split
    next he =>
      rw [← he, UnitRec.withFault, ← Bool.eq_false_iff.2 h]
    next => rfl

theorem raiseFanFault_scanner (u : UnitIx) (d : Nat) (s : State) : (raiseFanFault u d s).scanner.turn = s.scanner.turn ∧
    ∀ v, (raiseFanFault u d s).unit v = if u = v then (s.unit u).withFault true else s.unit v := by
  have hscanner : (raiseFanFault u d s).scanner = (s.modUnit u fun r => { r with fanFault := true }).scanner := by
    rw [raiseFanFault_eq]
  exact ⟨(congrArg SensorScanner.turn hscanner :), fun v => (unit_of_scanner hscanner v).trans (modUnit_unit u v _ s)⟩

theorem trayFollows_stays {u : UnitIx} {w : State} {a : UnitState} (h : (w.unit u).state = a) : trayFollows u a w = w :=
  if_pos h

theorem trayFollows_online {u : UnitIx} {w : State} {a : UnitState} (h : (w.unit u).state = .online) (ha : a ≠ .online) :
    trayFollows u a w = recomputeDuty (endFanFault u w) := by
  unfold trayFollows
  rw [if_neg fun he => ha (he.symm.trans h)]
  simp only [h]

theorem trayFollows_faulted {u : UnitIx} {w : State} {a : UnitState} (h : (w.unit u).state = .faulted) (ha : a ≠ .faulted) :
    trayFollows u a w = recomputeDuty (raiseFanFault u 1 w) := by
  unfold trayFollows
  rw [if_neg fun he => ha (he.symm.trans h)]
  simp only [h]

/-- What the end of the read of a tray does once the unit has moved (R135, R137). -/
theorem trayFollows_spec {u : UnitIx} {s w : State} (hw : w = { s with scanner := w.scanner }) {a : UnitState} {c : ReadClass}
    (hstep : UnitStep a c (w.unit u).state) :
    let t := trayFollows u a w
    ReadFrame s t ∧ t.scanner.turn = w.scanner.turn ∧
      (∀ v, t.unit v = if u = v then (w.unit u).withFault (if (w.unit u).state ≠ a then
        decide ((w.unit u).state = .faulted) else (w.unit u).fanFault) else w.unit v) ∧
      ((w.unit u).state ≠ a → DutyFollows t) ∧
      ((w.unit u).state = a → t.scanner = w.scanner) ∧
      UnitAlarms .fanFault (unitSubject u) a (w.unit u).state ((a = .starting ∨ a = .faulted) ∧ (w.unit u).fanFault = true) s t := by
  have halarms : w.alarms = s.alarms := by rw [hw]
  have hframe : ReadFrame s w := hw.trans (by rw [hw])
  have hnot : ¬ supplyCause .fanFault := by simp [supplyCause, departureCause]
  dsimp only
  generalize hb : (w.unit u).state = b at hstep
  cases hstep with
  | stays =>
    rw [trayFollows_stays hb]
    refine ⟨hframe, rfl, fun v => ?_, fun h => absurd rfl h, fun _ => rfl,
      .of_stays _ (by cases a <;> simp) halarms (.refl _ w)⟩
    rw [if_neg (not_not.2 rfl)]
    split
    next he =>
      rw [he]
      rfl
    next => rfl
  | comes h =>
    have hne : a ≠ .online := by rcases h with rfl | rfl <;> decide
    rw [trayFollows_online hb hne]
    obtain ⟨hturn, hunit⟩ := endFanFault_scanner u w
    refine ⟨?_, hturn, fun v => ?_, fun _ => dutyFollows_recomputeDuty _, fun he => absurd he.symm hne, ?_⟩
    · unfold ReadFrame
      rw [recomputeDuty_eq, endFanFault_frame, hw]
    · rw [if_pos (Ne.symm hne)]
      exact hunit v
    · by_cases hheld : (w.unit u).fanFault = true
      · have hended : endFanFault u w = endAlarm .fanFault (unitSubject u) (w.modUnit u fun r => { r with fanFault := false }) :=
          if_pos hheld
        rw [hended]
        exact .of_clear (w := w.modUnit u fun r => { r with fanFault := false }) _ hne hnot halarms (.of_alarms _ rfl)
      · exact .of_comes _ hne fun hand => hheld hand.2
  | fails h hc =>
    have hne : a ≠ .faulted := by rcases h with rfl | rfl <;> decide
    rw [trayFollows_faulted hb hne]
    obtain ⟨hturn, hunit⟩ := raiseFanFault_scanner u 1 w
    refine ⟨?_, hturn, fun v => ?_, fun _ => dutyFollows_recomputeDuty _, fun he => absurd he.symm hne, ?_⟩
    · unfold ReadFrame
      rw [recomputeDuty_eq, raiseFanFault_eq, hw]
      rfl
    · rw [if_pos (Ne.symm hne)]
      exact hunit v
    · exact .of_raise (w := w.modUnit u fun r => { r with fanFault := true }) _ hne hnot halarms (.of_alarms _ rfl)

/-! ## The read (R132) -/

/-- The state in which a read has moved its unit and passed the turn on, before it hands anything on (R132, R134). -/
def readMoved (u : UnitIx) (x : UnitReading) (c : ReadClass) (s : State) : State := (passTurn u s).modUnit u (UnitRec.read x c)

theorem readMoved_spec (u : UnitIx) (x : UnitReading) (c : ReadClass) (s : State) :
    let w := readMoved u x c s
    w = { s with scanner := w.scanner } ∧ (∀ v, w.unit v = if u = v then (s.unit u).read x c else s.unit v) ∧
      (∃ y, w.scanner.turn = some y ∧ StandsNext s (u.val + 1) y) ∧
      w.scanner.duty = s.scanner.duty ∧ w.scanner.fanPct = s.scanner.fanPct :=
  ⟨rfl, fun v => modUnit_unit u v _ (passTurn u s), ⟨_, rfl, turnFrom_standsNext s (u.val + 1)⟩, rfl, rfl⟩

theorem unitReadComplete_of_read {u : UnitIx} {s : State} (ha : (s.unit u).state ≠ .absent)
    (ht : s.scanner.turn = some (.unit u)) (x : UnitReading) :
    unitReadComplete u x s = let c := readClass u s.params.fanFloor x
      if isPsu u then psuFollows u (s.unit u).state c (readMoved u x c s)
      else trayFollows u (s.unit u).state (readMoved u x c s) :=
  if_pos (isRead_iff.2 ⟨ht, ha⟩)

theorem unitReadComplete_of_not_read {u : UnitIx} {s : State}
    (h : (s.unit u).state = .absent ∨ s.scanner.turn ≠ some (.unit u)) (x : UnitReading) : unitReadComplete u x s = s :=
  if_neg fun hread => h.elim (fun ha => (isRead_iff.1 hread).2 ha) fun ht => ht (isRead_iff.1 hread).1

/-- What a unit's record shows after a read whatever its FanFault condition (R132). -/
def ReadShown (x : UnitReading) (c : ReadClass) (r r' : UnitRec) : Prop :=
  (c = .failed → r'.readOk = false ∧ r'.rating = r.rating ∧ r'.output = r.output ∧ r'.inlet = r.inlet ∧
    r'.outputGood = r.outputGood ∧ r'.speed = r.speed) ∧
  (∀ rating output inlet good, x = .psu rating output inlet good → c ≠ .failed → r'.readOk = true ∧ r'.rating = rating ∧
    r'.output = output ∧ r'.inlet = inlet ∧ r'.outputGood = good) ∧
  (∀ speed, x = .fan speed → c ≠ .failed → r'.readOk = true ∧ r'.speed = speed)

theorem readShown_read (x : UnitReading) (c : ReadClass) (r : UnitRec) : ReadShown x c r (r.read x c) := by
  obtain ⟨hok, hrating, houtput, hinlet, hgood, hspeed⟩ := UnitRec.read_readings x c r
  refine ⟨fun hc => ?_, fun rating output inlet good hx hc => ?_, fun speed hx hc => ?_⟩
  · rw [hc]
    exact UnitRec.read_failed x r
  · have hrecord := UnitRec.record_psu (rating := rating) (output := output) (inlet := inlet) (good := good) hc r
    rw [← hx] at hrecord
    rw [hok, hrating, houtput, hinlet, hgood, hrecord]
    exact ⟨rfl, rfl, rfl, rfl, rfl⟩
  · have hrecord := UnitRec.record_fan (speed := speed) hc r
    rw [← hx] at hrecord
    rw [hok, hspeed, hrecord]
    exact ⟨rfl, rfl⟩

end Sys2Proof.Machine

section
open Sys2Proof Sys2Proof.Machine

/-- Settles O38: the read moves the unit (`UnitRec.read_table`) and passes the turn; a PSU hands its rating and its PsuFault on
(`psuFollows_spec`), a tray its FanFault and the duty (`trayFollows_spec`). -/
theorem unitReadRule : Obligations.UnitReadRule := by
  unfold Obligations.UnitReadRule
  intro u x s hd
  refine ⟨fun h => ?_, fun ha hturn => ?_⟩
  · show Host.Outcome.next (settleDeficit (unitReadComplete u x s)) = _
    rw [unitReadComplete_of_not_read h, settleDeficit_of_follows hd]
  · have hmoves : Moves ⟨false, false, true⟩ s (settleDeficit (unitReadComplete u x s)) :=
      (Moves.refl.unitReadComplete u x rfl).settleDeficit
    refine ⟨_, readClass u s.params.fanFloor x, rfl, ?_, ?_⟩
    · rw [readClass_eq]
      cases x <;> rfl
    have hread := unitReadComplete_of_read ha hturn x
    dsimp only at hread
    generalize readClass u s.params.fanFloor x = c at hread ⊢
    rw [hread] at hmoves ⊢
    have hkept := And.intro (hmoves.licensesKept rfl) (And.intro (hmoves.settingsKept rfl) hmoves.outside)
    have htable := UnitRec.read_table x c (s.unit u)
    have hshown := readShown_read x c (s.unit u)
    obtain ⟨hframe, hunit, hnext, hduty, hpct⟩ := readMoved_spec u x c s
    have hself := (hunit u).trans (if_pos rfl)
    have hstep : UnitStep (s.unit u).state c ((readMoved u x c s).unit u).state := by
      rw [hself]
      exact UnitRec.read_step x c (s.unit u)
    by_cases hu : u.val < 6
    · rw [if_pos (isPsu_iff.2 hu)] at hkept ⊢
      have hpsu (i : Fin 6) (hi : i.val = u.val) := psuFollows_spec (c := c) hi hd hframe hstep
      dsimp only at hpsu
      obtain ⟨hscanner, hsupply, -, -, -, -, halarms⟩ := hpsu ⟨u.val, hu⟩ rfl
      rw [show unitSubject u = u.val + 1 from if_pos (isPsu_iff.2 hu)] at halarms
      generalize settleDeficit (psuFollows u (s.unit u).state c (readMoved u x c s)) = t at *
      have hrules : t.rules = s.rules := by
        obtain ⟨v, hv, ht⟩ := hsupply
        rw [ht, (moves_budgetPass _ v).settleDeficit.rules_eq rfl, hv]
      have hsame := unit_of_scanner hscanner
      have ht : t.unit u = (s.unit u).read x c := (hsame u).trans hself
      have hnot : ¬ 6 ≤ u.val := Nat.not_le.2 hu
      rw [← hsame u, hself] at *
      rw [ht, hscanner, if_pos hu, if_pos hu, if_neg fun hand : 6 ≤ u.val ∧ _ => hnot hand.1]
      refine ⟨hshown.1, hshown.2.1, hshown.2.2, htable, fun v hv => ?_, halarms.raised, fun hl _ => halarms.ended hl,
        fun _ h => absurd h hnot, halarms.same, UnitRec.read_fanFault x c _, fun i hi => ?_, fun h => absurd h hnot, hnext,
        fun h => absurd h hnot, fun _ => ⟨hduty, hpct⟩, hrules, hkept⟩
      · exact ((hsame v).trans (hunit v)).trans (if_neg hv.symm)
      · obtain ⟨-, hpass, hgood, hbad, hleft, hoff, -⟩ := hpsu i hi
        exact ⟨hgood, hbad, hleft, hoff, hpass⟩
    · rw [if_neg fun h => hu (isPsu_iff.1 h)] at hkept ⊢
      have htray := trayFollows_spec (c := c) hframe hstep
      dsimp only at htray
      obtain ⟨hread, hto, hunits, hfollows, hsame, halarms⟩ := htray
      rw [show unitSubject u = u.val - 5 from if_neg fun h => hu (isPsu_iff.1 h)] at halarms
      rw [hread.still hd] at hkept ⊢
      generalize trayFollows u (s.unit u).state (readMoved u x c s) = t at *
      have ht := (hunits u).trans (if_pos rfl)
      have hnot : 6 ≤ u.val := Nat.not_lt.1 hu
      have hstate : (t.unit u).state = ((s.unit u).read x c).state := by
        rw [ht, hself]
        rfl
      have hpower : t.power = s.power := by rw [hread]
      have hrules : t.rules = s.rules := by rw [hread]
      rw [hself, UnitRec.read_fanFault] at ht
      have hfault : (t.unit u).fanFault = _ := congrArg UnitRec.fanFault ht
      rw [hself] at hfollows hsame halarms
      rw [UnitRec.read_fanFault] at halarms
      rw [hfault, hstate, if_neg hu, if_neg hu]
      refine ⟨?_, ?_, ?_, ?_, fun v hv => ?_, halarms.raised, fun _ h => absurd h hu, fun hl _ ha hb hf => halarms.ended hl ⟨ha, hf⟩ hb,
        halarms.same, ?_, fun i hi => absurd i.isLt (by omega), fun _ => hpower, ?_, fun _ => hfollows, fun h => ?_, hrules, hkept⟩
      · rw [ht]
        exact hshown.1
      · rw [ht]
        exact hshown.2.1
      · rw [ht]
        exact hshown.2.2
      · rw [ht]
        exact htable
      · exact (hunits v).trans ((if_neg hv.symm).trans ((hunit v).trans (if_neg hv.symm)))
      · simp only [hnot, true_and]
        rfl
      · rw [hto]
        exact hnext
      · rw [hsame (h.resolve_left hu)]
        exact ⟨hduty, hpct⟩

end

/-! PROOFS. What the deeds of a rule keep: the supply of the budget and the park claims of the cards under the passes, and the frame of a
rule's action (R137, R143). -/

namespace Sys2Proof.Machine

/-! ## The claims of rules under the passes (R33, R56) -/

/-- From s to t the thermal claims and the park claims stand, and no card has been parked. -/
structure ClaimsKept (s t : State) : Prop where
  supply : t.power.supply = s.power.supply
  park : ∀ c, (t.card c).parkClaims = (s.card c).parkClaims
  parked : ∀ c, (t.card c).state = .parked → (s.card c).state = .parked

namespace ClaimsKept

variable {s t u : State}

theorem refl (s : State) : ClaimsKept s s := ⟨rfl, fun _ => rfl, fun _ => id⟩

theorem trans (h : ClaimsKept s t) (h' : ClaimsKept t u) : ClaimsKept s u :=
  ⟨h'.supply.trans h.supply, fun c => (h'.park c).trans (h.park c), fun c hc => h.parked c (h'.parked c hc)⟩

theorem of_records (h : ClaimsKept s t) (hp : u.power.supply = t.power.supply) (hc : u.cards = t.cards) : ClaimsKept s u :=
  h.trans ⟨hp, fun c => by rw [card_of_cards hc], fun c => by rw [card_of_cards hc]; exact id⟩

theorem modPort (n : PortIx) (f : PortRec → PortRec) (h : ClaimsKept s t) : ClaimsKept s (t.modPort n f) := h.of_records rfl rfl

theorem modCard (slot : Slot) (f : CardRec → CardRec) (hf : ∀ c : CardRec, (f c).parkClaims = c.parkClaims)
    (hst : ∀ c : CardRec, (f c).state = .parked → c.state = .parked) (h : ClaimsKept s t) : ClaimsKept s (t.modCard slot f) := by
  refine h.trans ⟨rfl, fun c => ?_, fun c => ?_⟩ <;> rw [modCard_card] <;> split
  next he => rw [← he]; exact hf _
  next => rfl
  next he => rw [← he]; exact hst _
  next => exact id

theorem forEach {α : Type} {act : α → State → State} (ha : ∀ x t, ClaimsKept s t → ClaimsKept s (act x t)) (l : List α)
    (h : ClaimsKept s t) : ClaimsKept s (Machine.forEach l act t) :=
  forEach_keeps ha l h

theorem send (slot : Slot) (m : CardMsg) (h : ClaimsKept s t) : ClaimsKept s (Machine.send slot m t) :=
  h.modCard slot _ (fun _ => rfl) fun _ => id

theorem sendJoined (m : CardMsg) (h : ClaimsKept s t) : ClaimsKept s (Machine.sendJoined m t) := by
  refine h.forEach (fun slot t ht => ?_) _
  split
  · exact ht.send slot m
  · exact ht

theorem removeLogins (n : PortIx) (h : ClaimsKept s t) : ClaimsKept s (Machine.removeLogins n t) := by
  refine modPort n _ (h.forEach (fun pos t ht => ?_) _)
  unfold endLoginAt
  split
  next e _ =>
    rw [endLogin_eq]
    refine sendJoined _ (modPort _ _ ?_)
    rw [writeLogout_eq]
    exact ht.of_records rfl rfl
  next => exact ht

theorem reviewServiceable (n : PortIx) (was : Bool) (h : ClaimsKept s t) : ClaimsKept s (Machine.reviewServiceable n was t) := by
  unfold Machine.reviewServiceable loseServiceable
  split
  · refine removeLogins n ?_
    split
    · exact (h.modPort n _).send _ _
    · exact h.modPort n _
  · exact h.send _ _
  · exact h
  · exact h

theorem setPower (n : PortIx) (p : PortPower) (hold : Bool) (h : ClaimsKept s t) : ClaimsKept s (Machine.setPower n p hold t) :=
  h.modPort n _

theorem reviewEligible (n : PortIx) (was : Bool) (draw : Nat) (h : ClaimsKept s t) :
    ClaimsKept s (Machine.reviewEligible n was draw t) := by
  unfold Machine.reviewEligible
  split
  · unfold loseEligibility
    refine setPower n _ _ ?_
    split
    · exact h.of_records rfl rfl
    · exact h.of_records rfl rfl
    · exact h
  · exact (h.setPower n _ _).of_records rfl rfl
  · exact h
  · exact h

theorem portChange (n : PortIx) (f : PortRec → PortRec) (h : ClaimsKept s t) : ClaimsKept s (Machine.portChange n f t) :=
  ((h.modPort n f).reviewEligible n _ _).reviewServiceable n _

theorem portsFollowCard (slot : Slot) (before : State) (h : ClaimsKept s t) : ClaimsKept s (Machine.portsFollowCard slot before t) :=
  h.forEach (fun n _ ht => (ht.reviewEligible n _ _).reviewServiceable n _) _

theorem admitCard (slot : Slot) (h : ClaimsKept s t) : ClaimsKept s (Machine.admitCard slot t) := by
  obtain ⟨hframe, hcard⟩ := admitCard_spec slot t
  refine h.trans ⟨by rw [hframe]; rfl, fun c => ?_, fun c => ?_⟩ <;> rw [hcard] <;> split
  next he => rw [← he]; rfl
  next => rfl
  next => exact fun hst => by cases hst
  next => exact id

theorem restorePass (h : ClaimsKept s t) : ClaimsKept s (Machine.restorePass t) := by
  have hloop := h.forEach (act := restoreItem) (fun x t ht => by
    cases x with
    | card c =>
      rw [restoreItem_card]
      split
      · exact ht.admitCard c
      · exact ht
    | port n =>
      rw [restoreItem_port]
      split
      · exact ((ht.of_records (u := Machine.leaveWait (.port n) t) rfl rfl).of_records
          (u := chargeDraw (portDraw t n) (Machine.leaveWait (.port n) t)) rfl rfl).portChange n _
      · exact ht) t.power.waitList
  unfold Machine.restorePass
  dsimp only
  split
  · exact hloop.of_records rfl rfl
  · exact hloop

theorem settleDeficit (h : ClaimsKept s t) : ClaimsKept s (Machine.settleDeficit t) :=
  h.of_records (settleDeficit_supply t) (settleDeficit_cards t)

end ClaimsKept

/-- A departure leaves the park claims of every card (R33). -/
theorem leaveCard_parkClaims (slot : Slot) (st : CardState) (s : State) (c : Slot) :
    ((leaveCard slot st s).card c).parkClaims = (s.card c).parkClaims := by
  have hreleased : (releaseCard slot s).cards = s.cards := by
    unfold releaseCard
    split
    · rfl
    · split <;> rfl
  have hdeparting : ((departing slot st s).card c).parkClaims = (s.card c).parkClaims := by
    unfold departing clearTemp stopTimer enterCard
    simp only [modCard_card, addReason_card, card_of_cards hreleased]
    split
    next he => rw [he]; rfl
    next => rfl
  have htold (v : State) : ((tellDeparture slot s v).card c).parkClaims = (v.card c).parkClaims := by
    unfold tellDeparture
    split
    · refine ((((ClaimsKept.refl _).portsFollowCard slot s).park c)).trans ?_
      unfold cardLeft
      split
      · rfl
      · obtain ⟨k, hk, -⟩ := (EngineMail.commitFollows (setPhase slot .outside v)).card c
        rw [hk]
        rfl
    · rfl
  have hfault : (leaveCard slot st s).card c = (tellDeparture slot s (departing slot st s)).card c := by
    rw [leaveCard_eq, endCardFault_eq]
    rfl
  rw [hfault, htold, hdeparting]

/-! ## A change of the thermal claims (R56) -/

theorem capHeld_capDisplaced_work (c : Nat) {s t : State} (h : PortWork s t) : PortWork s (capHeld c (capDisplaced c t)) :=
  (h.forEach (fun n _ ht => ht.displacePort n true) _).forEach (fun n _ ht => ht.setPower n _ _) _

theorem capFreed_work (c : Nat) {s t : State} (h : PortWork s t) : PortWork s (capFreed c t) :=
  h.forEach (fun n _ ht => ht.setPower n _ _) _

/-- What a change of the thermal claims writes of the budget before any port moves (R56). -/
def withClaims (l : List ThermalClaim) (s : State) : State := s.modPower fun p => { p with claims := l, cap := capOf l }

theorem setClaims_eq (l : List ThermalClaim) (s : State) : setClaims l s =
    if capOf l < s.power.cap then addReason .power (capFell (capOf l) (withClaims l s))
    else if s.power.cap < capOf l then addReason .power (restorePass (capFreed (capOf l) (withClaims l s)))
    else withClaims l s := rfl

theorem setClaims_work (l : List ThermalClaim) (s : State) : PortWork s (setClaims l s) := by
  have hset : PortWork s (withClaims l s) := (PortWork.refl s).modPower _
  rw [setClaims_eq]
  generalize withClaims l s = w at hset
  split
  · refine PortWork.reason _ ?_
    rw [capFell_eq]
    split
    · exact capHeld_capDisplaced_work _ hset
    · exact (capHeld_capDisplaced_work _ hset).restorePass
  · split
    · exact ((capFreed_work _ hset).restorePass).reason _
    · exact hset

namespace ClaimsKept

variable {s t : State}

theorem displacePort (n : PortIx) (hold : Bool) (h : ClaimsKept s t) : ClaimsKept s (Machine.displacePort n hold t) := by
  refine reviewServiceable n _ (of_records (t := Machine.setPower n .waiting hold (releaseDraw (portDraw t n) t)) ?_ rfl rfl)
  exact (h.of_records (u := releaseDraw (portDraw t n) t) rfl rfl).setPower n _ _

theorem capHeld_capDisplaced (c : Nat) (h : ClaimsKept s t) : ClaimsKept s (capHeld c (capDisplaced c t)) :=
  (h.forEach (fun n _ ht => ht.displacePort n true) _).forEach (fun n _ ht => ht.setPower n _ _) _

theorem capFreed (c : Nat) (h : ClaimsKept s t) : ClaimsKept s (Machine.capFreed c t) :=
  h.forEach (fun n _ ht => ht.setPower n _ _) _

theorem reason (r : Reason) (h : ClaimsKept s t) : ClaimsKept s (addReason r t) := h.of_records rfl rfl

theorem setClaims (l : List ThermalClaim) (s : State) : ClaimsKept (withClaims l s) (setClaims l s) := by
  have hset := ClaimsKept.refl (withClaims l s)
  rw [setClaims_eq]
  generalize withClaims l s = w at hset
  split
  · refine reason _ ?_
    rw [capFell_eq]
    split
    · exact hset.capHeld_capDisplaced _
    · exact (hset.capHeld_capDisplaced _).restorePass
  · split
    · exact ((hset.capFreed _).restorePass).reason _
    · exact hset

end ClaimsKept

/-- The claims that stand after a change of the thermal claims, and the cap that they give (R56). -/
theorem setClaims_kept (l : List ThermalClaim) (s : State) : (setClaims l s).power.claims = l ∧ (setClaims l s).power.cap = capOf l ∧
    ∀ c, ((setClaims l s).card c).parkClaims = (s.card c).parkClaims := by
  have hkept := ClaimsKept.setClaims l s
  obtain ⟨-, -, -, hclaims, hcap⟩ := PowerBudget.supply_eq_iff.1 hkept.supply
  exact ⟨hclaims, hcap, hkept.park⟩

/-! ## The deeds of a rule (R143) -/

/-- The causes that a rule's deeds claim for. -/
def ruleCause (c : Cause) : Prop := departureCause c ∨ c = .rule

theorem ClaimsOnly.restorePass {C : Cause → Prop} {s t : State} (h : ClaimsOnly C s t) : ClaimsOnly C s (Machine.restorePass t) :=
  h.trans (((PortWork.refl t).restorePass).claims C)

/-- From s to t a rule has acted, claiming for some causes: no rule has moved, and of the scanner's records only the boost claims and
the duty. -/
structure RuleActs (C : Cause → Prop) (s t : State) : Prop where
  moves : Moves ⟨false, false, true⟩ s t
  rules : t.rules = s.rules
  scanner : t.scanner = { s.scanner with boosts := t.scanner.boosts, duty := t.scanner.duty, fanPct := t.scanner.fanPct }
  duty : DutyFollows s → DutyFollows t
  claims : ClaimsOnly C s t

namespace RuleActs

variable {C : Cause → Prop} {s t u : State}

theorem refl (s : State) : RuleActs C s s := ⟨.refl, rfl, rfl, id, .refl _ s⟩

theorem trans (h : RuleActs C s t) (h' : RuleActs C t u) : RuleActs C s u :=
  ⟨h.moves.trans h'.moves, h'.rules.trans h.rules, by rw [h'.scanner, h.scanner], fun hs => h'.duty (h.duty hs),
    h.claims.trans h'.claims⟩

theorem mono {D : Cause → Prop} (h : RuleActs C s t) (hCD : ∀ c, C c → D c) : RuleActs D s t :=
  ⟨h.moves, h.rules, h.scanner, h.duty, h.claims.mono hCD⟩

theorem of_moves (h : Moves .power s t) (hwide : Moves ⟨false, false, true⟩ s t) (hc : ClaimsOnly C s t) : RuleActs C s t :=
  ⟨hwide, h.rules_eq rfl, by rw [h.scanner_eq rfl], fun hs => hs.congr (by rw [h.scanner_eq rfl]) (by rw [h.scanner_eq rfl])
    (by rw [h.scanner_eq rfl]) (by rw [h.scanner_eq rfl]) (fun u _ => by rw [unit_of_scanner (h.scanner_eq rfl)])
    (by rw [h.params_eq]), hc⟩

theorem raise (r : RuleIx) (rule : RuleRec) (s : State) : RuleActs (· = .rule) s (raiseAlarm (ruleRaise r rule) s) :=
  .of_moves (Moves.refl.raise _) (Moves.refl.raise _) ((ClaimsOnly.refl (· = .rule) s).raise rfl)

theorem clear (r : RuleIx) (s : State) : RuleActs (· = .rule) s (endAlarm .rule r.val s) :=
  .of_moves (Moves.refl.clear _ _) (Moves.refl.clear _ _) ((ClaimsOnly.refl (· = .rule) s).clear _ rfl)

theorem setBoosts (l : List RuleIx) (s : State) : RuleActs C s (Machine.setBoosts l s) :=
  ⟨Moves.refl.setBoosts l rfl, rfl, rfl, fun _ => dutyFollows_recomputeDuty _, .of_alarms _ rfl⟩

theorem setClaims (l : List ThermalClaim) (s : State) : RuleActs C s (Machine.setClaims l s) :=
  .of_moves (Moves.refl.setClaims l) (Moves.refl.setClaims l) ((setClaims_work l s).claims _)

theorem parkClaim (slot : Slot) (r : RuleIx) (s : State) : RuleActs departureCause s (Machine.parkClaim slot r s) := by
  refine .of_moves (Moves.refl.parkClaim slot r) (Moves.refl.parkClaim slot r) ?_
  unfold Machine.parkClaim
  dsimp only
  split
  · refine ClaimsOnly.restorePass (ClaimsOnly.trans ?_ (leaveCard_claims slot .parked _))
    exact .of_alarms _ rfl
  · exact .of_alarms _ rfl

theorem parkWithdraw (slot : Slot) (r : RuleIx) (s : State) : RuleActs C s (Machine.parkWithdraw slot r s) := by
  refine .of_moves (Moves.refl.parkWithdraw slot r) (Moves.refl.parkWithdraw slot r) ?_
  unfold Machine.parkWithdraw
  dsimp only
  split
  · refine ClaimsOnly.restorePass ?_
    exact .of_alarms _ rfl
  · exact .of_alarms _ rfl

theorem applyAction (r : RuleIx) (rule : RuleRec) (s : State) : RuleActs departureCause s (Machine.applyAction r rule s) := by
  unfold Machine.applyAction
  split
  · exact .refl s
  · exact .setBoosts _ s
  · exact .setClaims _ s
  · split
    · exact .parkClaim _ r s
    · exact .refl s

theorem withdrawAction (r : RuleIx) (rule : RuleRec) (s : State) : RuleActs C s (Machine.withdrawAction r rule s) := by
  unfold Machine.withdrawAction
  split
  · exact .refl s
  · exact .setBoosts _ s
  · exact .setClaims _ s
  · split
    · exact .parkWithdraw _ r s
    · exact .refl s

theorem beginCondition (r : RuleIx) (rule : RuleRec) (s : State) : RuleActs ruleCause s (Machine.beginCondition r rule s) :=
  ((raise r rule s).mono fun _ hc => .inr hc).trans ((applyAction r rule _).mono fun _ hc => .inl hc)

theorem endCondition (r : RuleIx) (rule : RuleRec) (s : State) : RuleActs ruleCause s (Machine.endCondition r rule s) :=
  ((clear r s).mono fun _ hc => .inr hc).trans (withdrawAction r rule _)

theorem ruleClaims (r : RuleIx) (before after : RuleRec) (s : State) : RuleActs ruleCause s (Machine.ruleClaims r before after s) := by
  unfold Machine.ruleClaims
  split
  · exact .beginCondition r after s
  · exact .endCondition r after s
  · exact .refl s
  · exact .refl s

theorem source (h : RuleActs C s t) (k : SourceIx) : t.source k = s.source k := by
  unfold State.source
  rw [h.scanner]

theorem rule (h : RuleActs C s t) (r : RuleIx) : t.rule r = s.rule r := by
  unfold State.rule
  rw [h.rules]

end RuleActs

/-! ## The withdrawal of an action (R143) -/

theorem parkSlot_eq_some_iff {source : SourceIx} {slot : Slot} : parkSlot source = some slot ↔ source.val = slot.val + 16 := by
  unfold parkSlot
  split
  · constructor
    · nofun
    · omega
  · rw [index?_eq_some_iff]
    omega

/-- What the withdrawal of a rule's action leaves of the claims, whatever the action (R137, R143). -/
structure Withdrawn (r : RuleIx) (rule : RuleRec) (s t : State) : Prop where
  boosts : t.scanner.boosts = if rule.action = .fanBoost then s.scanner.boosts.filter fun q => q ≠ r else s.scanner.boosts
  duty : rule.action = .fanBoost → DutyFollows t
  thermal : t.power.claims = if ∃ n, rule.action = .shed n then s.power.claims.filter fun c => c.rule ≠ r else s.power.claims
  park : ∀ slot : Slot, (t.card slot).parkClaims = if rule.action = .cardOff ∧ rule.source.val = slot.val + 16 then
    (s.card slot).parkClaims.filter fun q => q ≠ r else (s.card slot).parkClaims
  unparked : ∀ slot : Slot, rule.action = .cardOff → rule.source.val = slot.val + 16 → (t.card slot).parkClaims = [] →
    (t.card slot).state ≠ .parked

/-- The park claims of a slot without a rule's. -/
def withoutPark (slot : Slot) (r : RuleIx) (s : State) : State := s.modCard slot fun c => { c with parkClaims := dropRule r c.parkClaims }

theorem parkWithdraw_eq (slot : Slot) (r : RuleIx) (s : State) : parkWithdraw slot r s =
    if (dropRule r (s.card slot).parkClaims).isEmpty && (s.card slot).state == .parked then
      restorePass (placeCard slot (withoutPark slot r s))
    else withoutPark slot r s := by
  have hcard : (withoutPark slot r s).card slot = { s.card slot with parkClaims := dropRule r (s.card slot).parkClaims } :=
    modCard_card_same slot _ s
  have hclaims : ((withoutPark slot r s).card slot).parkClaims = dropRule r (s.card slot).parkClaims := by rw [hcard]
  have hstate : ((withoutPark slot r s).card slot).state = (s.card slot).state := by rw [hcard]
  show (if ((withoutPark slot r s).card slot).parkClaims.isEmpty && ((withoutPark slot r s).card slot).state == .parked then _
    else _) = _
  rw [hclaims, hstate]
  rfl

theorem withoutPark_card (slot : Slot) (r : RuleIx) (s : State) (c : Slot) : (withoutPark slot r s).card c =
    if slot = c then { s.card slot with parkClaims := dropRule r (s.card slot).parkClaims } else s.card c :=
  modCard_card slot c _ s

/-- A card that is placed in Waiting keeps its park claims, and is not parked; the others stand. -/
theorem placeCard_card (slot : Slot) (s : State) (c : Slot) : (placeCard slot s).card c =
    if slot = c then CardRec.enter .waiting (s.card slot) else s.card c :=
  modCard_card slot c _ s

theorem withdrawn_parkWithdraw {r : RuleIx} {rule : RuleRec} {slot : Slot} (ha : rule.action = .cardOff)
    (hs : rule.source.val = slot.val + 16) (s : State) : Withdrawn r rule s (parkWithdraw slot r s) := by
  have hmoves : Moves .power s (parkWithdraw slot r s) := Moves.refl.parkWithdraw slot r
  have hat (c : Slot) : rule.action = .cardOff ∧ rule.source.val = c.val + 16 ↔ slot = c := by
    rw [Fin.ext_iff]
    exact ⟨fun h => by omega, fun h => ⟨ha, by omega⟩⟩
  have hpark (c : Slot) : ((withoutPark slot r s).card c).parkClaims =
      if rule.action = .cardOff ∧ rule.source.val = c.val + 16 then (s.card c).parkClaims.filter fun q => q ≠ r
      else (s.card c).parkClaims := by
    rw [withoutPark_card]
    simp only [hat]
    split
    next he => rw [he]; rfl
    next => rfl
  have hnoBoost : ¬ rule.action = .fanBoost := by rw [ha]; nofun
  have hnoShed : ¬ ∃ n, rule.action = .shed n := fun ⟨n, hn⟩ => by rw [ha] at hn; cases hn
  rw [parkWithdraw_eq] at hmoves ⊢
  by_cases hgone : ((dropRule r (s.card slot).parkClaims).isEmpty && (s.card slot).state == .parked) = true
  · rw [if_pos hgone] at hmoves ⊢
    have hplaced (c : Slot) : ((placeCard slot (withoutPark slot r s)).card c).parkClaims = ((withoutPark slot r s).card c).parkClaims ∧
        (slot = c → ((placeCard slot (withoutPark slot r s)).card c).state = .waiting) := by
      rw [placeCard_card]
      split
      next he => rw [← he]; exact ⟨rfl, fun _ => rfl⟩
      next he => exact ⟨rfl, fun h => absurd h he⟩
    have hsupply : (placeCard slot (withoutPark slot r s)).power.supply = s.power.supply := rfl
    generalize placeCard slot (withoutPark slot r s) = u at *
    have hkept := (ClaimsKept.refl u).restorePass
    obtain ⟨-, -, -, hclaims, -⟩ := PowerBudget.supply_eq_iff.1 (hkept.supply.trans hsupply)
    refine ⟨by rw [hmoves.scanner_eq rfl, if_neg hnoBoost], fun h => absurd h hnoBoost, by rw [if_neg hnoShed, hclaims], fun c => ?_,
      fun c _ hc _ hst => ?_⟩
    · rw [hkept.park, (hplaced c).1, hpark]
    · have hparked := hkept.parked c hst
      rw [(hplaced c).2 ((hat c).1 ⟨ha, hc⟩)] at hparked
      cases hparked
  · rw [if_neg hgone] at hmoves ⊢
    refine ⟨by rw [hmoves.scanner_eq rfl, if_neg hnoBoost], fun h => absurd h hnoBoost, by rw [if_neg hnoShed]; rfl, hpark,
      fun c _ hc hnil hst => hgone ?_⟩
    have he := (hat c).1 ⟨ha, hc⟩
    subst he
    rw [withoutPark_card, if_pos rfl] at hnil hst
    have hnil : dropRule r (s.card slot).parkClaims = [] := hnil
    have hst : (s.card slot).state = .parked := hst
    rw [hnil, hst]
    rfl

theorem withdrawn_withdrawAction (r : RuleIx) (rule : RuleRec) (s : State) : Withdrawn r rule s (withdrawAction r rule s) := by
  unfold withdrawAction
  split
  next ha =>
    refine ⟨?_, fun h => ?_, ?_, fun slot => ?_, fun slot h => ?_⟩ <;> simp_all
  next ha =>
    refine ⟨by rw [if_pos ha]; rfl, fun _ => dutyFollows_recomputeDuty _, ?_, fun slot => ?_, fun slot h => ?_⟩
    · rw [if_neg fun ⟨n, hn⟩ => by rw [ha] at hn; cases hn]
      rfl
    · rw [if_neg fun hand => by rw [ha] at hand; cases hand.1]
      rfl
    · rw [ha] at h
      cases h
  next n ha =>
    obtain ⟨hclaims, -, hpark⟩ := setClaims_kept (dropClaim r s.power.claims) s
    have hmoves : Moves .power s (setClaims (dropClaim r s.power.claims) s) := Moves.refl.setClaims _
    refine ⟨?_, fun h => ?_, ?_, fun slot => ?_, fun slot h => ?_⟩
    · rw [if_neg (by rw [ha]; nofun)]
      exact congrArg SensorScanner.boosts (hmoves.scanner_eq rfl)
    · rw [ha] at h
      cases h
    · rw [if_pos ⟨n, ha⟩]
      exact hclaims
    · rw [if_neg fun hand => by rw [ha] at hand; cases hand.1]
      exact hpark slot
    · rw [ha] at h
      cases h
  next ha =>
    split
    next slot hs => exact withdrawn_parkWithdraw ha (parkSlot_eq_some_iff.1 hs) s
    next hnone =>
      have hno (slot : Slot) (h : rule.source.val = slot.val + 16) : False := by
        rw [parkSlot_eq_some_iff.2 h] at hnone
        cases hnone
      refine ⟨by rw [if_neg (by rw [ha]; nofun)], fun h => ?_, ?_, fun slot => ?_, fun slot _ h => (hno slot h).elim⟩
      · rw [ha] at h
        cases h
      · rw [if_neg fun ⟨n, hn⟩ => by rw [ha] at hn; cases hn]
      · rw [if_neg fun hand => hno slot hand.2]

/-! ## Evaluation (R141, R142) -/

/-- A rule once its source has been presented: moved by the reading where it is enabled (R141). -/
def RuleRec.presented (src : Source) (rule : RuleRec) : RuleRec := if rule.enabled then rule.after (readingOf rule src) else rule

/-- A rule's evaluation moves its record, and then acts. -/
theorem evaluateRule_acts (r : RuleIx) (s : State) :
    RuleActs ruleCause (s.modRule r (RuleRec.presented (s.source (s.rule r).source))) (evaluateRule r s) := by
  unfold evaluateRule
  dsimp only
  by_cases hen : (s.rule r).enabled = true
  · have hmod : s.modRule r (RuleRec.presented (s.source (s.rule r).source)) =
        s.modRule r fun _ => (s.rule r).after (readingOf (s.rule r) (s.source (s.rule r).source)) := by
      unfold State.modRule RuleRec.presented
      rw [if_pos hen]
    rw [if_pos hen, hmod]
    exact .ruleClaims r _ _ _
  · have hmod : s.modRule r (RuleRec.presented (s.source (s.rule r).source)) = s := by
      unfold State.modRule RuleRec.presented
      rw [if_neg hen]
      show { s with rules := s.rules.set r.val s.rules[r.val] } = s
      rw [Vector.set_getElem_self]
    rw [if_neg hen, hmod]
    exact .refl s

/-- What the evaluation of some rules, each once, leaves: each of them has been presented to once, the others stand (R141). -/
structure Evaluated (l : List RuleIx) (s t : State) : Prop where
  moves : Moves ⟨false, false, true⟩ s t
  scanner : t.scanner = { s.scanner with boosts := t.scanner.boosts, duty := t.scanner.duty, fanPct := t.scanner.fanPct }
  duty : DutyFollows s → DutyFollows t
  rule : ∀ r, t.rule r = if r ∈ l then (s.rule r).presented (s.source (s.rule r).source) else s.rule r

theorem evaluated_one (r : RuleIx) (s : State) : Evaluated [r] s (evaluateRule r s) := by
  have hacts := evaluateRule_acts r s
  have hset : Moves ⟨false, false, true⟩ s (s.modRule r (RuleRec.presented (s.source (s.rule r).source))) := Moves.refl.rule r _ rfl
  refine ⟨hset.trans hacts.moves, hacts.scanner, fun hd => hacts.duty hd, fun q => ?_⟩
  rw [hacts.rule, modRule_rule]
  simp only [List.mem_singleton, eq_comm (a := q)]
  split
  next he => rw [he]
  next => rfl

theorem Evaluated.source {l : List RuleIx} {s t : State} (h : Evaluated l s t) (k : SourceIx) : t.source k = s.source k := by
  unfold State.source
  rw [h.scanner]

theorem evaluated_forEach {l : List RuleIx} (hl : l.Nodup) (s : State) : Evaluated l s (forEach l evaluateRule s) := by
  induction l generalizing s with
  | nil => exact ⟨.refl, rfl, id, fun r => (if_neg List.not_mem_nil).symm⟩
  | cons q l ih =>
    obtain ⟨hq, hl⟩ := List.nodup_cons.1 hl
    have hone := evaluated_one q s
    have hrest := ih hl (evaluateRule q s)
    rw [forEach_cons]
    generalize evaluateRule q s = u at hone hrest
    refine ⟨hone.moves.trans hrest.moves, by rw [hrest.scanner, hone.scanner], fun hd => hrest.duty (hone.duty hd), fun r => ?_⟩
    rw [hrest.rule, hone.rule, hone.source]
    by_cases hr : r = q
    · rw [hr, if_neg hq, if_pos List.mem_cons_self, if_pos List.mem_cons_self]
    · simp only [List.mem_cons, hr, List.not_mem_nil, or_false, false_or, if_false]

end Sys2Proof.Machine

/-! PROOFS. The scan round (R132, R136, R137, R141, R142). -/

namespace Sys2Proof.Machine

/-! ## A rule at a presentation (R141, R142) -/

/-- A comparator matches as its type says (R141). -/
def Comparator.Matches (c : Comparator) (v : Int) : Prop := match c.type with
  | .equal => v = c.threshold.toInt
  | .below => v < c.threshold.toInt
  | .atOrAbove => c.threshold.toInt ≤ v

theorem Comparator.test_iff (c : Comparator) (v : Int) : c.test v = true ↔ c.Matches v := by
  unfold test Matches
  cases c.type <;> simp

/-- A rule reads a value as its combine says (R141). -/
def RuleRec.Reads (rule : RuleRec) (v : Int) : Prop := match rule.combine with
  | .aOnly => rule.cmpA.Matches v
  | .aOrB => rule.cmpA.Matches v ∨ rule.cmpB.Matches v
  | .aAndB => rule.cmpA.Matches v ∧ rule.cmpB.Matches v

theorem RuleRec.test_iff (rule : RuleRec) (v : Int) : rule.test v = true ↔ rule.Reads v := by
  unfold test Reads
  cases rule.combine <;> simp [Comparator.test_iff]

theorem RuleRec.presented_of_disabled {rule : RuleRec} (h : rule.enabled = false) (src : Source) : rule.presented src = rule :=
  if_neg (by rw [h]; exact Bool.false_ne_true)

theorem RuleRec.presented_of_invalid {rule : RuleRec} (h : rule.enabled = true) {src : Source} (hv : src.valid = false) :
    rule.presented src = { rule with state := .idle } := by
  rw [presented, if_pos h, readingOf, hv]
  show rule.after .invalid = _
  unfold after nextState
  rw [show (rule.sticky || Reading.invalid == Reading.matched) = rule.sticky from Bool.or_false _]

theorem RuleRec.presented_of_matched {rule : RuleRec} (h : rule.enabled = true) {src : Source} (hv : src.valid = true)
    (hr : rule.Reads src.value) : rule.presented src = { rule with
      sticky := true
      state := match rule.state with
        | .idle => if rule.holdOff ≤ 1 then .active else .counting 1
        | .counting k => if rule.holdOff ≤ k + 1 then .active else .counting (k + 1)
        | .active => .active
        | .releasing _ => .active } := by
  rw [presented, if_pos h, readingOf, hv, (rule.test_iff src.value).2 hr]
  show rule.after .matched = _
  unfold after nextState
  rw [show (rule.sticky || Reading.matched == Reading.matched) = true from Bool.or_true _]
  cases rule.state <;> rfl

theorem RuleRec.presented_of_unmatched {rule : RuleRec} (h : rule.enabled = true) {src : Source} (hv : src.valid = true)
    (hr : ¬ rule.Reads src.value) : rule.presented src = { rule with
      state := match rule.state with
        | .idle => .idle
        | .counting _ => .idle
        | .active => if rule.release ≤ 1 then .idle else .releasing 1
        | .releasing k => if rule.release ≤ k + 1 then .idle else .releasing (k + 1) } := by
  rw [presented, if_pos h, readingOf, hv, Bool.eq_false_iff.2 fun ht => hr ((rule.test_iff src.value).1 ht)]
  show rule.after .unmatched = _
  unfold after nextState
  rw [show (rule.sticky || Reading.unmatched == Reading.matched) = rule.sticky from Bool.or_false _]
  cases rule.state <;> rfl

/-! ## The end of a round (R132, R136) -/

/-- The state at the end of a round, the outlet read, before the sources are presented. -/
def roundEnds (v : Option Half) (s : State) : State :=
  recomputeDuty (s.modScanner fun x => { x with outlet := x.outlet.record v, firstRound := true, turn := none })

/-- The state to which a round presents its sources and evaluates its rules. -/
def roundPresented (v : Option Half) (s : State) : State := presentSources (roundEnds v s)

theorem ChassisReading.record_eq (r : ChassisReading) (v : Option Half) :
    r.record v = { value := v.getD r.value, readOk := v.isSome } := by
  cases v <;> rfl

theorem exec_outlet {s : State} (h : s.scanner.turn = some .outlet) (v : Option Half) :
    exec (.chassisSensorReadComplete .outlet v) s = .next (settleDeficit (evaluateRules (roundPresented v s))) := by
  show Host.Outcome.next (settleDeficit (chassisSensorReadComplete .outlet v s)) = _
  unfold chassisSensorReadComplete
  rw [show s.scanner.turn = some (sensorTurn .outlet) from h, if_pos rfl]
  rfl

theorem exec_inlet {s : State} (hd : DeficitFollows s) (h : s.scanner.turn = some .inlet) (v : Option Half) :
    exec (.chassisSensorReadComplete .inlet v) s = .next (s.modScanner fun x =>
      { x with inlet := x.inlet.record v, turn := some .outlet }) := by
  show Host.Outcome.next (settleDeficit (chassisSensorReadComplete .inlet v s)) = _
  unfold chassisSensorReadComplete
  rw [show s.scanner.turn = some (sensorTurn .inlet) from h, if_pos rfl]
  exact congrArg Host.Outcome.next (settleDeficit_still hd rfl rfl)

theorem presentSources_eq (s : State) : presentSources s =
    { s with scanner := { s.scanner with sources := (presentSources s).scanner.sources } } := rfl

theorem roundPresented_eq (v : Option Half) (s : State) : roundPresented v s = { roundEnds v s with
    scanner := { (roundEnds v s).scanner with sources := (roundPresented v s).scanner.sources } } := presentSources_eq _

theorem DutyFollows.settled {s : State} (h : DutyFollows s) : DutyFollows (settleDeficit s) :=
  h.congr (by rw [settleDeficit_scanner]) (by rw [settleDeficit_scanner]) (by rw [settleDeficit_scanner])
    (by rw [settleDeficit_scanner]) (fun u _ => by rw [unit_settleDeficit]) (by rw [settleDeficit_eq])

theorem DutyFollows.withSources {s : State} (h : DutyFollows s) (x : Vector Source 50) :
    DutyFollows { s with scanner := { s.scanner with sources := x } } :=
  h.congr rfl rfl rfl rfl (fun _ _ => rfl) rfl

/-- The duty of the state to which a round presents. -/
theorem dutyFollows_roundPresented (v : Option Half) (s : State) : DutyFollows (roundPresented v s) := by
  have hduty : DutyFollows (roundEnds v s) := dutyFollows_recomputeDuty _
  rw [roundPresented_eq]
  exact hduty.withSources _

theorem roundPresented_source (v : Option Half) (s : State) (k : SourceIx) :
    (roundPresented v s).source k = presentSource (roundEnds v s) k := by
  show (Vector.ofFn (presentSource (roundEnds v s)))[k] = _
  rw [Fin.getElem_fin, Vector.getElem_ofFn]

/-- The value and flag of each source in a state, the outlet's reading given (R136). -/
def sourceShown (s : State) (outlet : ChassisReading) (k : SourceIx) : Int × Bool :=
  if h : k.val < 6 then (((s.unit ⟨k.val, by omega⟩).output.toNat : Int), (s.unit ⟨k.val, by omega⟩).shows)
  else if h : k.val < 12 then ((s.unit ⟨k.val - 6, by omega⟩).inlet.toInt, (s.unit ⟨k.val - 6, by omega⟩).shows)
  else if h : k.val < 16 then
    (((s.unit ⟨k.val - 6, by omega⟩).speed.toNat : Int), (s.unit ⟨k.val - 6, by omega⟩).shows)
  else if h : k.val < 30 then ((s.card ⟨k.val - 16, by omega⟩).temperature.toInt,
    (s.card ⟨k.val - 16, by omega⟩).state.powered && (s.card ⟨k.val - 16, by omega⟩).tempValid)
  else if k.val = 30 then (s.scanner.inlet.value.toInt, s.scanner.inlet.readOk)
  else if k.val = 31 then (outlet.value.toInt, outlet.readOk)
  else if k.val = 32 then (headroomOf s.power, true)
  else if k.val = 33 then ((s.names.length : Int), true)
  else if h : 34 ≤ k.val then (((s.pool ⟨k.val - 34, by omega⟩).hours : Int),
    (s.pool ⟨k.val - 34, by omega⟩).state != .vacant && (s.pool ⟨k.val - 34, by omega⟩).kind == .term)
  else (0, false)

theorem sourceNow_eq_shown (s : State) (k : SourceIx) : sourceNow s k =
    { value := (sourceShown s s.scanner.outlet k).1, valid := (sourceShown s s.scanner.outlet k).2 } := by
  unfold sourceNow sourceShown
  by_cases houtput : k.val < 6
  · rw [dif_pos houtput, dif_pos houtput]
    rfl
  rw [dif_neg houtput, dif_neg houtput]
  by_cases hinlet : k.val < 12
  · rw [dif_pos hinlet, dif_pos hinlet]
    rfl
  rw [dif_neg hinlet, dif_neg hinlet]
  by_cases hspeed : k.val < 16
  · rw [dif_pos hspeed, dif_pos hspeed]
    rfl
  rw [dif_neg hspeed, dif_neg hspeed]
  by_cases hcard : k.val < 30
  · rw [dif_pos hcard, dif_pos hcard]
    rfl
  rw [dif_neg hcard, dif_neg hcard]
  by_cases hin : k.val = 30
  · rw [if_pos hin, if_pos hin]
    rfl
  rw [if_neg hin, if_neg hin]
  by_cases hout : k.val = 31
  · rw [if_pos hout, if_pos hout]
    rfl
  rw [if_neg hout, if_neg hout]
  by_cases hroom : k.val = 32
  · rw [if_pos hroom, if_pos hroom]
    rfl
  rw [if_neg hroom, if_neg hroom]
  by_cases hnames : k.val = 33
  · rw [if_pos hnames, if_pos hnames]
    rfl
  have hpool : 34 ≤ k.val := by omega
  rw [if_neg hnames, if_neg hnames, dif_pos hpool, dif_pos hpool]
  rfl

/-- What a round records of the scanner before it presents (R132). -/
structure RoundEnded (v : Option Half) (s w : State) : Prop where
  frame : w = { s with scanner := w.scanner }
  units : w.scanner.units = s.scanner.units
  boosts : w.scanner.boosts = s.scanner.boosts
  inlet : w.scanner.inlet = s.scanner.inlet
  outlet : w.scanner.outlet = { value := v.getD s.scanner.outlet.value, readOk := v.isSome }
  firstRound : w.scanner.firstRound = true
  turn : w.scanner.turn = none

theorem roundEnded_roundPresented (v : Option Half) (s : State) : RoundEnded v s (roundPresented v s) := by
  have hends : RoundEnded v s (roundEnds v s) := ⟨rfl, rfl, rfl, rfl, ChassisReading.record_eq _ v, rfl, rfl⟩
  rw [roundPresented_eq]
  generalize roundEnds v s = w at hends
  generalize (roundPresented v s).scanner.sources = x
  exact ⟨by rw [hends.frame], hends.units, hends.boosts, hends.inlet, hends.outlet,
    hends.firstRound, hends.turn⟩

end Sys2Proof.Machine

section
open Sys2Proof Sys2Proof.Machine

/-- Settles O39: the outlet's end presents the sources in the state `roundPresented` and evaluates each rule once
(`evaluated_forEach`). -/
theorem scanRoundRule : Obligations.ScanRoundRule := by
  unfold Obligations.ScanRoundRule
  intro s hd recorded
  refine ⟨⟨_, rfl, turnFrom_standsNext s 0⟩, fun v hv => ?_, fun v hv => ?_⟩
  · rw [exec_inlet hd hv v]
    show Host.Outcome.next { s with scanner := { s.scanner with inlet := s.scanner.inlet.record v, turn := some .outlet } } = _
    rw [ChassisReading.record_eq]
  · have hround := evaluated_forEach (List.nodup_finRange 64) (roundPresented v s)
    have hduty := dutyFollows_roundPresented v s
    have hsource := roundPresented_source v s
    have hw := roundEnded_roundPresented v s
    have hmoves : Moves ⟨false, false, true⟩ s (settleDeficit (forEach (List.finRange 64) evaluateRule (roundPresented v s))) := by
      refine (Moves.trans ?_ hround.moves).settleDeficit
      rw [hw.frame]
      exact Moves.refl.scanner (fun _ => (roundPresented v s).scanner) rfl
    refine ⟨_, roundPresented v s, exec_outlet hv v, ?_⟩
    have hlist : evaluateRules (roundPresented v s) = forEach (List.finRange 64) evaluateRule (roundPresented v s) := rfl
    rw [hlist]
    generalize hwd : roundPresented v s = w at *
    generalize htd : forEach (List.finRange 64) evaluateRule w = t at *
    have hscanner := (settleDeficit_scanner t).trans hround.scanner
    have hsources : (settleDeficit t).scanner.sources = w.scanner.sources := by rw [hscanner]
    have hsame (k : SourceIx) : (settleDeficit t).source k = w.source k := congrArg (fun x => x[k]) hsources
    have hrules : w.rules = s.rules := by rw [hw.frame]
    have hrule (r : RuleIx) : (settleDeficit t).rule r = (s.rule r).presented ((settleDeficit t).source (s.rule r).source) := by
      have hsettled : (settleDeficit t).rule r = t.rule r := congrArg (fun x => x[r]) ((Moves.refl (k := .power)).settleDeficit.rules_eq rfl)
      have hbefore : w.rule r = s.rule r := congrArg (fun x => x[r]) hrules
      rw [hsettled, hround.rule, if_pos (List.mem_finRange r), hbefore, hsame]
    refine ⟨hw.frame, hw.units, hw.boosts, by rw [hscanner], hw.firstRound, hduty, htd ▸ rfl, (hround.duty hduty).settled, by rw [hscanner]; exact hw.outlet,
      by rw [hscanner]; exact hw.firstRound, by rw [hscanner]; exact hw.turn, by rw [hscanner]; exact hw.units,
      by rw [hscanner]; exact hw.inlet, ?_, ?_, ?_, hmoves.licensesKept rfl, hmoves.settingsKept rfl, hmoves.outside, hmoves.working_eq⟩
    · intro k now
      have houtlet : (settleDeficit t).scanner.outlet = (roundEnds v s).scanner.outlet := by
        rw [hscanner]
        exact hw.outlet.trans (ChassisReading.record_eq _ v).symm
      have hshown : sourceShown (roundEnds v s) (roundEnds v s).scanner.outlet k = now :=
        congrArg (fun o => sourceShown s o k) houtlet.symm
      have hnow := sourceNow_eq_shown (roundEnds v s) k
      rw [hshown] at hnow
      rw [hsame, hsource, presentSource, hnow]
      clear_value now
      obtain ⟨value, valid⟩ := now
      cases valid <;> rfl
    · intro r hr
      rw [hrule, RuleRec.presented_of_disabled hr]
    · intro r hr rule src matched reads
      rw [hrule]
      exact ⟨fun hv => RuleRec.presented_of_invalid hr hv, fun hv hreads => RuleRec.presented_of_matched hr hv hreads,
        fun hv hreads => RuleRec.presented_of_unmatched hr hv hreads⟩

end

/-! PROOFS. The rule commands (R139, R140). -/

namespace Sys2Proof.Machine

/-! ## The fields of a Rule Write (R139) -/

theorem cmpTypeOf_isSome {b : Byte} : (cmpTypeOf b).isSome = true ↔ b.toNat ≤ 2 := by
  unfold cmpTypeOf
  split
  next h => simp [h]
  next h => simp [h]
  next h => simp [h]
  next h0 h1 h2 =>
    refine ⟨nofun, fun hle => ?_⟩
    rcases Nat.le_iff_lt_or_eq.1 hle with hlt | he
    · interval_cases b.toNat
      · exact (h0 rfl).elim
      · exact (h1 rfl).elim
    · exact (h2 he).elim

theorem combineOf_isSome {b : Byte} : (combineOf b).isSome = true ↔ b.toNat ≤ 2 := by
  unfold combineOf
  split
  next h => simp [h]
  next h => simp [h]
  next h => simp [h]
  next h0 h1 h2 =>
    refine ⟨nofun, fun hle => ?_⟩
    rcases Nat.le_iff_lt_or_eq.1 hle with hlt | he
    · interval_cases b.toNat
      · exact (h0 rfl).elim
      · exact (h1 rfl).elim
    · exact (h2 he).elim

theorem severityOf_isSome {b : Byte} : (severityOf b).isSome = true ↔ b.toNat ≤ 2 := by
  unfold severityOf
  split
  next h => simp [h]
  next h => simp [h]
  next h => simp [h]
  next h0 h1 h2 =>
    refine ⟨nofun, fun hle => ?_⟩
    rcases Nat.le_iff_lt_or_eq.1 hle with hlt | he
    · interval_cases b.toNat
      · exact (h0 rfl).elim
      · exact (h1 rfl).elim
    · exact (h2 he).elim

theorem countOf_eq_some_iff {b : Byte} {n : Nat} : countOf b = some n ↔ (1 ≤ b.toNat ∧ b.toNat ≤ 15) ∧ b.toNat = n := by
  unfold countOf
  split
  next h => simp [h]
  next h => simp [h]

theorem actionOf_eq_some_iff {n : Byte} {source : Nat} {action : Byte} {x : RuleAction} : actionOf action n source = some x ↔
    (action.toNat = 0 ∧ x = .none) ∨ (action.toNat = 1 ∧ x = .fanBoost) ∨
      (action.toNat = 2 ∧ ∃ k : Priority, n.toNat = k.val ∧ x = .shed k) ∨
      (action.toNat = 3 ∧ (16 ≤ source ∧ source ≤ 29) ∧ x = .cardOff) := by
  unfold actionOf
  split
  next h => simp [h, eq_comm]
  next h => simp [h, eq_comm]
  next h => simp [h, index?_eq_some_iff, eq_comm (b := x)]
  next h =>
    split
    next hs => simp [h, hs, eq_comm]
    next hs => simp [h, hs]
  next h0 h1 h2 h3 =>
    refine ⟨nofun, ?_⟩
    rintro (⟨h, -⟩ | ⟨h, -⟩ | ⟨h, -⟩ | ⟨h, -⟩)
    · exact (h0 h).elim
    · exact (h1 h).elim
    · exact (h2 h).elim
    · exact (h3 h).elim

/-- What a Rule Write writes (R139). -/
structure WrittenAs (x : RuleFields) (enabled : Bool) (w : RuleRec) : Prop where
  written : w.written = true
  enabled : w.enabled = enabled
  source : x.source.toNat = w.source.val
  typeA : cmpTypeOf x.typeA = some w.cmpA.type
  thresholdA : w.cmpA.threshold = x.thresholdA
  typeB : cmpTypeOf x.typeB = some w.cmpB.type
  thresholdB : w.cmpB.threshold = x.thresholdB
  combine : combineOf x.combine = some w.combine
  severity : severityOf x.severity = some w.severity
  holdOff : countOf x.holdOff = some w.holdOff
  release : countOf x.release = some w.release
  action : actionOf x.action x.n x.source.toNat = some w.action
  silent : w.silent = flagOf x.silent
  sticky : w.sticky = false
  state : w.state = .idle

theorem writtenAs_of_writtenRule {x : RuleFields} {enabled : Bool} {w : RuleRec} (h : writtenRule x enabled = some w) :
    WrittenAs x enabled w := by
  unfold writtenRule at h
  split at h
  next source ta tb combine severity holdOff release action hsource hta htb hcombine hseverity hholdOff hrelease haction =>
    cases h
    exact ⟨rfl, rfl, index?_eq_some_iff.1 hsource, hta, rfl, htb, rfl, hcombine, hseverity, hholdOff, hrelease, haction, rfl, rfl, rfl⟩
  next => cases h

/-- The checks on the fields of a Rule Write (R139). -/
def FieldsRight (x : RuleFields) : Prop :=
  x.source.toNat ≤ 49 ∧ x.typeA.toNat ≤ 2 ∧ x.typeB.toNat ≤ 2 ∧ x.combine.toNat ≤ 2 ∧ x.severity.toNat ≤ 2 ∧
    1 ≤ x.holdOff.toNat ∧ x.holdOff.toNat ≤ 15 ∧ 1 ≤ x.release.toNat ∧ x.release.toNat ≤ 15 ∧ x.action.toNat ≤ 3 ∧
    (x.action = 2 → x.n.toNat ≤ 7) ∧ (x.action = 3 → 16 ≤ x.source.toNat ∧ x.source.toNat ≤ 29)

/-- The action that is written, by its field (R139). -/
theorem WrittenAs.action_eq {x : RuleFields} {enabled : Bool} {w : RuleRec} (h : WrittenAs x enabled w) :
    (x.action = 0 → w.action = .none) ∧ (x.action = 1 → w.action = .fanBoost) ∧
      (∀ k : Priority, x.action = 2 → x.n.toNat = k.val → w.action = .shed k) ∧ (x.action = 3 → w.action = .cardOff) := by
  have haction := actionOf_eq_some_iff.1 h.action
  refine ⟨fun h0 => ?_, fun h1 => ?_, fun k h2 hk => ?_, fun h3 => ?_⟩
  · have hval : x.action.toNat = 0 := by rw [h0]; rfl
    simp only [hval] at haction
    simpa using haction
  · have hval : x.action.toNat = 1 := by rw [h1]; rfl
    simp only [hval] at haction
    simpa using haction
  · have hval : x.action.toNat = 2 := by rw [h2]; rfl
    simp only [hval] at haction
    obtain ⟨k', hk', he⟩ : ∃ k' : Priority, x.n.toNat = k'.val ∧ w.action = .shed k' := by simpa using haction
    rw [he, Fin.ext (hk'.symm.trans hk)]
  · have hval : x.action.toNat = 3 := by rw [h3]; rfl
    simp only [hval] at haction
    exact (show _ ∧ w.action = .cardOff by simpa using haction).2

theorem fieldsRight_of_writtenAs {x : RuleFields} {enabled : Bool} {w : RuleRec} (h : WrittenAs x enabled w) : FieldsRight x := by
  obtain ⟨⟨hh1, hh2⟩, -⟩ := countOf_eq_some_iff.1 h.holdOff
  obtain ⟨⟨hr1, hr2⟩, -⟩ := countOf_eq_some_iff.1 h.release
  have haction := actionOf_eq_some_iff.1 h.action
  have hs := h.source
  refine ⟨by omega, cmpTypeOf_isSome.1 (by rw [h.typeA]; rfl), cmpTypeOf_isSome.1 (by rw [h.typeB]; rfl),
    combineOf_isSome.1 (by rw [h.combine]; rfl), severityOf_isSome.1 (by rw [h.severity]; rfl), hh1, hh2, hr1, hr2, ?_,
    fun h2 => ?_, fun h3 => ?_⟩
  · omega
  · have hval : x.action.toNat = 2 := by rw [h2]; rfl
    obtain ⟨-, k, hk, -⟩ : x.action.toNat = 2 ∧ ∃ k : Priority, x.n.toNat = k.val ∧ w.action = .shed k := by
      rcases haction with h | h | h | h
      · omega
      · omega
      · exact h
      · omega
    omega
  · have hval : x.action.toNat = 3 := by rw [h3]; rfl
    omega

theorem writtenRule_of_right {x : RuleFields} (h : FieldsRight x) (enabled : Bool) : ∃ w, writtenRule x enabled = some w := by
  obtain ⟨hsource, hta, htb, hcombine, hseverity, hh1, hh2, hr1, hr2, haction, hn, hslot⟩ := h
  obtain ⟨ta, hta⟩ := Option.isSome_iff_exists.1 (cmpTypeOf_isSome.2 hta)
  obtain ⟨tb, htb⟩ := Option.isSome_iff_exists.1 (cmpTypeOf_isSome.2 htb)
  obtain ⟨combine, hcombine⟩ := Option.isSome_iff_exists.1 (combineOf_isSome.2 hcombine)
  obtain ⟨severity, hseverity⟩ := Option.isSome_iff_exists.1 (severityOf_isSome.2 hseverity)
  have hs : index? 50 x.source.toNat = some ⟨x.source.toNat, by omega⟩ := index?_of_eq rfl
  have hholdOff : countOf x.holdOff = some x.holdOff.toNat := countOf_eq_some_iff.2 ⟨⟨hh1, hh2⟩, rfl⟩
  have hrelease : countOf x.release = some x.release.toNat := countOf_eq_some_iff.2 ⟨⟨hr1, hr2⟩, rfl⟩
  have hact : ∃ a, actionOf x.action x.n x.source.toNat = some a := by
    have hcases : x.action.toNat = 0 ∨ x.action.toNat = 1 ∨ x.action.toNat = 2 ∨ x.action.toNat = 3 := by omega
    rcases hcases with h | h | h | h
    · exact ⟨_, actionOf_eq_some_iff.2 (.inl ⟨h, rfl⟩)⟩
    · exact ⟨_, actionOf_eq_some_iff.2 (.inr (.inl ⟨h, rfl⟩))⟩
    · have hle := hn (BitVec.eq_of_toNat_eq h)
      exact ⟨_, actionOf_eq_some_iff.2 (.inr (.inr (.inl ⟨h, ⟨x.n.toNat, by omega⟩, rfl, rfl⟩)))⟩
    · exact ⟨_, actionOf_eq_some_iff.2 (.inr (.inr (.inr ⟨h, hslot (BitVec.eq_of_toNat_eq h), rfl⟩)))⟩
  obtain ⟨a, ha⟩ := hact
  refine Option.isSome_iff_exists.1 ?_
  unfold writtenRule
  simp only [hs, hta, htb, hcombine, hseverity, hholdOff, hrelease, ha]
  rfl

theorem writtenRule_of_not_right {x : RuleFields} (h : ¬ FieldsRight x) (enabled : Bool) : writtenRule x enabled = none := by
  cases hw : writtenRule x enabled with
  | none => rfl
  | some w => exact absurd (fieldsRight_of_writtenAs (writtenAs_of_writtenRule hw)) h

/-! ## The end of a condition by a command (R139, R140) -/

/-- A rule is rewritten and its condition, where it held, ends; the deficit is settled (R139, R140). -/
def ruleRewritten (r : RuleIx) (f : RuleRec → RuleRec) (s : State) : State := settleDeficit ((endIfHolds r s).modRule r f)

structure Rewritten (r : RuleIx) (f : RuleRec → RuleRec) (s t : State) : Prop where
  self : t.rule r = f (s.rule r)
  others : ∀ q, q ≠ r → t.rule q = s.rule q
  ended : (s.rule r).state.holds = true → AlarmsLawful s → AlarmOver t .rule r.val
  withdrawn : (s.rule r).state.holds = true → Withdrawn r (s.rule r) s t
  still : (s.rule r).state.holds = false → t = { s with rules := t.rules }
  settings : SettingsKept s t
  licenses : LicensesKept s t
  outside : OutsideKept s t

theorem Withdrawn.of_records {r : RuleIx} {rule : RuleRec} {s t u v : State} (h : Withdrawn r rule u t)
    (hus : u.scanner = s.scanner) (hup : u.power = s.power) (huc : u.cards = s.cards) (hs : v.scanner = t.scanner)
    (hd : DutyFollows t → DutyFollows v) (hp : v.power.claims = t.power.claims) (hc : v.cards = t.cards) : Withdrawn r rule s v where
  boosts := by rw [hs, h.boosts, hus]
  duty ha := hd (h.duty ha)
  thermal := by rw [hp, h.thermal, hup]
  park slot := by rw [card_of_cards hc, h.park, card_of_cards huc]
  unparked slot ha hsrc := by
    rw [card_of_cards hc]
    exact h.unparked slot ha hsrc

theorem rewritten_ruleRewritten (r : RuleIx) (f : RuleRec → RuleRec) {s : State} (hd : DeficitFollows s) :
    Rewritten r f s (ruleRewritten r f s) := by
  have hacts : RuleActs ruleCause s (endIfHolds r s) := by
    unfold endIfHolds
    split
    · exact .endCondition r _ s
    · exact .refl s
  have hmoves : Moves ⟨false, false, true⟩ s (ruleRewritten r f s) := (hacts.moves.rule r f rfl).settleDeficit
  have hrule (q : RuleIx) : (ruleRewritten r f s).rule q = if r = q then f (s.rule r) else s.rule q := by
    have hsettled : (ruleRewritten r f s).rule q = ((endIfHolds r s).modRule r f).rule q :=
      congrArg (fun x => x[q]) ((Moves.refl (k := .power)).settleDeficit.rules_eq rfl)
    rw [hsettled, modRule_rule, hacts.rule, hacts.rule]
  refine ⟨(hrule r).trans (if_pos rfl), fun q hq => (hrule q).trans (if_neg hq.symm), fun hh ha => ?_, fun hh => ?_, fun hh => ?_,
    hmoves.settingsKept rfl, hmoves.licensesKept rfl, hmoves.outside⟩
  · have hend : endIfHolds r s = withdrawAction r (s.rule r) (endAlarm .rule r.val s) := if_pos hh
    unfold ruleRewritten
    rw [hend]
    have hlawful := (RuleActs.clear r s).claims ha
    have hacts := (RuleActs.withdrawAction (C := fun _ => False) r (s.rule r) (endAlarm .rule r.val s)).claims
    have hover := hacts.staysOver hlawful.1 not_false (alarmOver_endAlarm .rule r.val ha)
    have hmod : AlarmOver ((withdrawAction r (s.rule r) (endAlarm .rule r.val s)).modRule r f) .rule r.val := hover.of_alarms rfl
    exact (settleDeficit_claims ((withdrawAction r (s.rule r) (endAlarm .rule r.val s)).modRule r f)).staysOver ((hacts hlawful.1).1.of_alarms rfl) (by decide) hmod
  · have hend : endIfHolds r s = withdrawAction r (s.rule r) (endAlarm .rule r.val s) := if_pos hh
    have hclear := endAlarm_eq .rule r.val s
    have hwithdrawn := withdrawn_withdrawAction r (s.rule r) (endAlarm .rule r.val s)
    unfold ruleRewritten
    rw [hend]
    generalize endAlarm .rule r.val s = u at hclear hwithdrawn
    refine hwithdrawn.of_records (by rw [hclear]) (by rw [hclear]) (by rw [hclear]) (settleDeficit_scanner _) (fun h => ?_) ?_
      (settleDeficit_cards _)
    · exact DutyFollows.settled (h.congr rfl rfl rfl rfl (fun _ _ => rfl) rfl)
    · exact (PowerBudget.supply_eq_iff.1 (settleDeficit_supply _)).2.2.2.1
  · have hend : endIfHolds r s = s := if_neg (by rw [hh]; exact Bool.false_ne_true)
    have hstill : ruleRewritten r f s = s.modRule r f := by
      unfold ruleRewritten
      rw [hend]
      exact settleDeficit_still hd rfl rfl
    rw [hstill]
    rfl

/-! ## The commands (R139, R140) -/

theorem exec_ruleWrite {f : Frame} {s : State} (h : MasterClear s f.port) (rule source typeA : Byte) (thresholdA : Half)
    (typeB : Byte) (thresholdB : Half) (combine holdOff release severity action n silent : Byte) :
    let x := RuleFields.mk source typeA thresholdA typeB thresholdB combine holdOff release severity action n silent
    exec (.ruleWrite f rule source typeA thresholdA typeB thresholdB combine holdOff release severity action n silent) s =
      .next (respond f (ruleWrite rule x s).2 (settleDeficit (ruleWrite rule x s).1)) := by
  intro x
  change Host.Outcome.next (disarmingCommand f .master (settled (ruleWrite rule x)) s) = _
  rw [disarmingCommand_master h, settled]

theorem exec_ruleEnable {f : Frame} {s : State} (h : MasterClear s f.port) (rule : Byte) :
    exec (.ruleEnable f rule) s = .next (respond f (ruleEnable rule s).2 (ruleEnable rule s).1) := by
  change Host.Outcome.next (disarmingCommand f .master (ruleEnable rule) s) = _
  rw [disarmingCommand_master h]

theorem exec_ruleDisable {f : Frame} {s : State} (h : MasterClear s f.port) (rule : Byte) :
    exec (.ruleDisable f rule) s = .next (respond f (ruleDisable rule s).2 (settleDeficit (ruleDisable rule s).1)) := by
  change Host.Outcome.next (disarmingCommand f .master (settled (ruleDisable rule)) s) = _
  rw [disarmingCommand_master h, settled]

section
variable {rule : Byte} {r : RuleIx} {s : State} (hr : rule.toNat = r.val)
include hr

theorem ruleEnable_of_unwritten (h : (s.rule r).written = false) : ruleEnable rule s = (s, answer .notFound) := by
  unfold ruleEnable
  rw [index?_of_eq hr]
  exact if_pos (by rw [h]; rfl)

theorem ruleEnable_of_enabled (hw : (s.rule r).written = true) (h : (s.rule r).enabled = true) :
    ruleEnable rule s = (s, answer .noChange) := by
  unfold ruleEnable
  rw [index?_of_eq hr]
  exact (if_neg (by rw [hw]; decide)).trans (if_pos h)

theorem ruleEnable_of_disabled (hw : (s.rule r).written = true) (h : (s.rule r).enabled = false) :
    ruleEnable rule s = (s.modRule r fun x => { x with enabled := true }, answer .done) := by
  unfold ruleEnable
  rw [index?_of_eq hr]
  exact (if_neg (by rw [hw]; decide)).trans (if_neg (by rw [h]; exact Bool.false_ne_true))

theorem ruleDisable_of_disabled (h : (s.rule r).enabled = false) : ruleDisable rule s = (s, answer .noChange) := by
  unfold ruleDisable
  rw [index?_of_eq hr]
  exact if_pos (by rw [h]; rfl)

theorem ruleDisable_of_enabled (h : (s.rule r).enabled = true) : ruleDisable rule s =
    ((endIfHolds r s).modRule r fun x => { x with enabled := false, state := .idle }, answer .done) := by
  unfold ruleDisable
  rw [index?_of_eq hr]
  exact if_neg (by rw [h]; decide)

end

end Sys2Proof.Machine

section
open Sys2Proof Sys2Proof.Machine

/-- Settles O41: a written or disabled rule is rewritten and its condition ended (`rewritten_ruleRewritten`). -/
theorem ruleCommandsRule : Obligations.RuleCommandsRule := by
  unfold Obligations.RuleCommandsRule
  intro f s hclear hd withdrawn
  have hstands := settleDeficit_of_follows hd
  refine ⟨?_, fun rule hbig => ?_, fun rule r hr => ⟨fun hno => ?_, fun hw hen => ?_, fun hw hen => ?_, fun hen => ?_, fun hen => ?_⟩⟩
  · intro rule source typeA thresholdA typeB thresholdB combine holdOff release severity action n silent i right
    have hexec := exec_ruleWrite hclear rule source typeA thresholdA typeB thresholdB combine holdOff release severity action n silent
    generalize hx : RuleFields.mk source typeA thresholdA typeB thresholdB combine holdOff release severity action n silent = x at hexec
    have hiff : right ↔ FieldsRight x := by rw [← hx]; rfl
    change exec i s = _ at hexec
    rw [hexec, hiff]
    unfold ruleWrite
    refine ⟨fun hbig => ?_, fun hle hnot => ?_, fun r src hr hright hsrc => ?_⟩
    · simp only [index?_outside hbig, hstands]
    · rw [index?_of_eq (i := ⟨rule.toNat, by omega⟩) rfl]
      simp only [writtenRule_of_not_right hnot, hstands]
    · rw [index?_of_eq hr]
      obtain ⟨w, hw⟩ := writtenRule_of_right hright (s.rule r).enabled
      have has := writtenAs_of_writtenRule hw
      have hre := rewritten_ruleRewritten r (fun _ => w) hd
      simp only [hw]
      refine ⟨_, rfl, ⟨w, hre.self, has.written, has.enabled, ?_⟩, hre.others, hre.ended, fun hh => ?_, hre.still, hre.settings,
        hre.licenses, hre.outside⟩
      · subst hx
        obtain ⟨-, hhold⟩ := countOf_eq_some_iff.1 has.holdOff
        obtain ⟨-, hrel⟩ := countOf_eq_some_iff.1 has.release
        refine ⟨Fin.ext (has.source.symm.trans hsrc), has.typeA, has.thresholdA, has.typeB, has.thresholdB, has.combine, has.severity,
          hhold.symm, hrel.symm, ?_, has.sticky, has.state, has.action_eq⟩
        rw [has.silent]
        simp [flagOf]
      · have hgone := hre.withdrawn hh
        exact ⟨hgone.boosts, hgone.duty, hgone.thermal, hgone.park, hgone.unparked⟩
  · rw [exec_ruleEnable hclear, exec_ruleDisable hclear]
    unfold ruleEnable ruleDisable
    rw [index?_outside hbig]
    exact ⟨rfl, by rw [hstands]⟩
  · rw [exec_ruleEnable hclear, ruleEnable_of_unwritten hr hno]
  · rw [exec_ruleEnable hclear, ruleEnable_of_enabled hr hw hen]
  · rw [exec_ruleEnable hclear, ruleEnable_of_disabled hr hw hen]
    rfl
  · rw [exec_ruleDisable hclear, ruleDisable_of_disabled hr hen, hstands]
  · have hre := rewritten_ruleRewritten r (fun x => { x with enabled := false, state := .idle }) hd
    rw [exec_ruleDisable hclear, ruleDisable_of_enabled hr hen]
    refine ⟨_, rfl, hre.self, hre.others, hre.ended, fun hh => ?_, hre.still, hre.settings, hre.licenses, hre.outside⟩
    have hgone := hre.withdrawn hh
    exact ⟨hgone.boosts, hgone.duty, hgone.thermal, hgone.park, hgone.unparked⟩

end

/-! PROOFS. Ports displaced one after the other (R11, R53, R57), and a change of the thermal cap (R56 to R58). -/

namespace Sys2Proof.Machine

/-! ## Ports displaced one after the other -/

/-- From s to t the ports of a list have been displaced, one after the other (R11). -/
structure Displaced (l : List PortIx) (hold : Bool) (s t : State) : Prop where
  frame : t = { s with
    ports := t.ports, cards := t.cards, names := t.names
    power := { s.power with
      waitList := t.power.waitList, admitted := s.power.admitted - (l.map (portDraw s)).sum } }
  port : ∀ n, t.port n = if n ∈ l then displacedPort (serviceable s n) hold (s.port n) else s.port n
  waits : ∀ x, x ∈ t.power.waitList ↔ x ∈ s.power.waitList ∨ ∃ n ∈ l, x = .port n
  falls : Falls (l.filter (serviceable s)) s t

theorem displaced_forEach {l : List PortIx} (hl : l.Nodup) (hold : Bool) {s : State} (h : NamesLawful s) :
    Displaced l hold s (forEach l (fun n => displacePort n hold) s) := by
  induction l generalizing s with
  | nil =>
    refine ⟨rfl, fun n => (if_neg List.not_mem_nil).symm, fun x => ?_, .nil h rfl rfl⟩
    exact ⟨.inl, fun hor => hor.elim id fun ⟨n, hn, _⟩ => absurd hn List.not_mem_nil⟩
  | cons n l ih =>
    obtain ⟨hn, hl⟩ := List.nodup_cons.1 hl
    obtain ⟨hframe, hport, hfalls⟩ := displacePort_spec n hold h
    rw [forEach_cons]
    have hpower : (displacePort n hold s).power = powerDisplacing (waitKey s) n (portDraw s n) s.power := by rw [hframe]
    generalize displacePort n hold s = u at hframe hport hfalls hpower
    have hrest := ih hl hfalls.lawful
    generalize forEach l (fun n => displacePort n hold) u = t at hrest
    have hother (m : PortIx) (hm : m ≠ n) : u.port m = s.port m := (hport m).trans (if_neg fun he : n = m => hm he.symm)
    have hserv (m : PortIx) (hm : m ≠ n) : serviceable u m = serviceable s m := by
      refine serviceable_congr ?_ ?_ ?_ (hfalls.state _) (hfalls.identity _) <;> rw [hother m hm]
    have hdraw (m : PortIx) : portDraw u m = portDraw s m := portDraw_congr (hfalls.identity _)
    have hne (m : PortIx) (hm : m ∈ l) : m ≠ n := fun he => hn (he ▸ hm)
    refine ⟨?_, fun m => ?_, fun x => ?_, ?_⟩
    · have hsum : (l.map (portDraw u)).sum = (l.map (portDraw s)).sum := by rw [show portDraw u = portDraw s from funext hdraw]
      rw [hrest.frame, hsum, hpower, hframe, List.map_cons, List.sum_cons, ← Nat.sub_sub]
      rfl
    · rw [hrest.port, hport]
      by_cases hm : m = n
      · subst hm
        rw [if_neg hn, if_pos rfl, if_pos List.mem_cons_self]
      · simp only [List.mem_cons, hm, false_or, hserv m hm]
        rw [if_neg fun he : n = m => hm he.symm]
    · have hwaits : x ∈ u.power.waitList ↔ x = .port n ∨ x ∈ s.power.waitList := by
        rw [hpower]
        exact mem_insertByKey
      rw [hrest.waits, hwaits]
      simp only [List.mem_cons, exists_eq_or_imp]
      rw [or_comm (a := x = .port n), or_assoc]
    · have hfilter : l.filter (serviceable u) = l.filter (serviceable s) := List.filter_congr fun m hm => hserv m (hne m hm)
      have hrestFalls := hrest.falls
      rw [hfilter] at hrestFalls
      refine Falls.filter_cons ?_ hrestFalls hn
      rwa [filter_singleton] at hfalls

/-! ## The holds of ports (R57, R58) -/

/-- Some Waiting ports take or lose the thermal hold: only their records move (R57, R58). -/
theorem setHolds_spec (l : List PortIx) (hold : Bool) (s : State) :
    let t := forEach l (fun n s => setPower n .waiting hold s) s
    t = { s with ports := t.ports } ∧
      ∀ n, t.port n = if n ∈ l then { s.port n with power := .waiting, hold := hold } else s.port n := by
  induction l generalizing s with
  | nil => exact ⟨rfl, fun n => (if_neg List.not_mem_nil).symm⟩
  | cons n l ih =>
    obtain ⟨hframe, hport⟩ := ih (setPower n .waiting hold s)
    simp only [forEach_cons]
    refine ⟨by rw [hframe]; rfl, fun m => ?_⟩
    have hset : (setPower n .waiting hold s).port m =
        if n = m then { s.port n with power := .waiting, hold := hold } else s.port m := modPort_port n m _ s
    rw [hport, hset]
    by_cases hm : m = n
    · subst hm
      simp
    · simp [hm, Ne.symm hm]

/-! ## The cap (R56) -/

/-- The cap is the least priority that is claimed, and eight where none is. -/
theorem capOf_foldl (l : List ThermalClaim) (b : Nat) : l.foldl (fun c x => min c x.n.val) b ≤ b ∧
    (∀ d ∈ l, l.foldl (fun c x => min c x.n.val) b ≤ d.n.val) ∧
    (l.foldl (fun c x => min c x.n.val) b = b ∨ ∃ d ∈ l, d.n.val = l.foldl (fun c x => min c x.n.val) b) := by
  induction l generalizing b with
  | nil => exact ⟨le_rfl, nofun, .inl rfl⟩
  | cons x l ih =>
    obtain ⟨hb, hall, hsome⟩ := ih (min b x.n.val)
    rw [List.foldl_cons]
    refine ⟨hb.trans (min_le_left _ _), fun d hd => ?_, ?_⟩
    · rcases List.mem_cons.1 hd with rfl | hd
      · exact hb.trans (min_le_right _ _)
      · exact hall d hd
    · rcases hsome with he | ⟨d, hd, he⟩
      · rw [he]
        rcases le_total b x.n.val with hle | hle
        · exact .inl (min_eq_left hle)
        · exact .inr ⟨x, List.mem_cons_self, (min_eq_right hle).symm⟩
      · exact .inr ⟨d, List.mem_cons_of_mem _ hd, he⟩

theorem capOf_spec (l : List ThermalClaim) : (∀ d ∈ l, capOf l ≤ d.n.val) ∧ ((l = [] ∧ capOf l = 8) ∨ ∃ d ∈ l, d.n.val = capOf l) := by
  obtain ⟨-, hall, hsome⟩ := capOf_foldl l 8
  refine ⟨hall, ?_⟩
  cases l with
  | nil => exact .inl ⟨rfl, rfl⟩
  | cons x l =>
    rcases hsome with he | hd
    · have hle : capOf (x :: l) ≤ x.n.val := hall x List.mem_cons_self
      have hlt := x.n.isLt
      have he : capOf (x :: l) = 8 := he
      omega
    · exact .inr hd

/-! ## The cap moves (R57, R58) -/

/-- The ports that a fall of the cap displaces (R57). -/
def capTakes (s : State) (c : Nat) (m : PortIx) : Bool := decide ((s.port m).power = .admitted ∧ c ≤ (s.port m).priority.val)

theorem portsAtCap_mem {s : State} {c : Nat} {n : PortIx} : n ∈ portsAtCap s c .admitted ↔ capTakes s c n = true := by
  rw [mem_portsAtCap, capTakes, decide_eq_true_iff]

theorem portsAtCap_eq (s : State) (c : Nat) : portsAtCap s c .admitted = (List.finRange 672).filter (capTakes s c) := by
  rw [portsAtCap, portsWhere_eq_filter]
  refine List.filter_congr fun n _ => ?_
  rw [capTakes, Bool.decide_and, ← beq_eq_decide]

theorem portsAtCap_nodup (s : State) (c : Nat) (x : PortPower) : (portsAtCap s c x).Nodup := portsWhere_nodup s _

/-- The record of a port after a fall of the cap to c (R57). -/
def cappedPort (s : State) (c : Nat) (m : PortIx) : PortRec :=
  if capTakes s c m then
    (if serviceable s m then { s.port m with power := .waiting, hold := true, link := .dark, logins := 0 }
     else { s.port m with power := .waiting, hold := true })
  else if (s.port m).power = .waiting ∧ c ≤ (s.port m).priority.val then { s.port m with hold := true }
  else s.port m

/-- What a fall of the cap makes of the ports before any of them is admitted anew (R57). -/
structure Capped (l : List ThermalClaim) (s u : State) : Prop where
  frame : u = { s with
    ports := u.ports, cards := u.cards, names := namesWithout s (capTakes s (capOf l))
    power := { s.power with
      claims := l, cap := capOf l, waitList := u.power.waitList
      admitted := s.power.admitted -
        ((List.finRange 672).map fun m => if capTakes s (capOf l) m then portDraw s m else 0).sum } }
  port : ∀ m, u.port m = cappedPort s (capOf l) m
  waits : ∀ x, x ∈ u.power.waitList ↔ x ∈ s.power.waitList ∨ ∃ m, capTakes s (capOf l) m = true ∧ x = .port m
  card : ∀ q, u.card q = cardAfterFalls s ((List.finRange 672).filter (capTakes s (capOf l))) q

theorem capped_capHeld (l : List ThermalClaim) {s : State} (h : NamesLawful s) :
    Capped l s (capHeld (capOf l) (capDisplaced (capOf l) (withClaims l s))) := by
  have hout := displaced_forEach (portsAtCap_nodup (withClaims l s) (capOf l) .admitted) true (s := withClaims l s) (h.of_names rfl)
  have hlist : portsAtCap (withClaims l s) (capOf l) .admitted = (List.finRange 672).filter (capTakes s (capOf l)) :=
    portsAtCap_eq (withClaims l s) (capOf l)
  have hmem (m : PortIx) : m ∈ (List.finRange 672).filter (capTakes s (capOf l)) ↔ capTakes s (capOf l) m = true := by
    rw [List.mem_filter, and_iff_right (List.mem_finRange m)]
  unfold capDisplaced
  rw [hlist] at hout ⊢
  generalize forEach ((List.finRange 672).filter (capTakes s (capOf l))) (fun n => displacePort n true) (withClaims l s) = d at hout
  obtain ⟨hframe, hport⟩ := setHolds_spec (portsAtCap d (capOf l) .waiting) true d
  have hheld : capHeld (capOf l) d = forEach (portsAtCap d (capOf l) .waiting) (fun n s => setPower n .waiting true s) d := rfl
  rw [hheld]
  generalize forEach (portsAtCap d (capOf l) .waiting) (fun n s => setPower n .waiting true s) d = u at hframe hport
  have hnames : d.names = namesWithout s (capTakes s (capOf l)) :=
    Falls.namesWithout (s := withClaims l s) (l := (List.finRange 672).filter (capTakes s (capOf l))) hout.falls rfl fun n =>
      (Bool.decide_coe _).symm.trans (decide_eq_decide.2 (hmem n).symm)
  have hsum : (((List.finRange 672).filter (capTakes s (capOf l))).map (portDraw (withClaims l s))).sum =
      ((List.finRange 672).map fun m => if capTakes s (capOf l) m then portDraw s m else 0).sum := sum_map_filter _ _ _
  have hpower : u.power = d.power := by rw [hframe]
  refine ⟨?_, fun m => ?_, fun x => ?_, fun q => ?_⟩
  · rw [← hnames, ← hsum, hpower, hframe, hout.frame]
    rfl
  · have hd : d.port m = if capTakes s (capOf l) m = true then displacedPort (serviceable s m) true (s.port m) else s.port m := by
      refine (hout.port m).trans ?_
      simp only [hmem]
      rfl
    have hwaits := mem_portsAtCap (s := d) (c := capOf l) (x := .waiting) (n := m)
    rw [hport, cappedPort]
    by_cases htaken : capTakes s (capOf l) m = true
    · obtain ⟨-, hle⟩ := of_decide_eq_true htaken
      rw [if_pos htaken] at hd
      have hpower : (d.port m).power = .waiting := by rw [hd]; rfl
      have hpriority : (d.port m).priority = (s.port m).priority := by
        rw [hd]
        unfold displacedPort portFallen
        split <;> rfl
      rw [if_pos (hwaits.2 ⟨hpower, by rw [hpriority]; exact hle⟩), if_pos htaken, hd]
      unfold displacedPort portFallen
      split <;> rfl
    · rw [if_neg htaken] at hd
      rw [hd] at hwaits
      rw [if_neg htaken, hd]
      by_cases hheld : (s.port m).power = .waiting ∧ capOf l ≤ (s.port m).priority.val
      · rw [if_pos (hwaits.2 hheld), if_pos hheld, ← hheld.1]
      · rw [if_neg fun hm => hheld (hwaits.1 hm), if_neg hheld]
  · rw [hpower, hout.waits]
    simp only [hmem]
    rfl
  · have hcard : u.card q = d.card q := card_of_cards (by rw [hframe]) q
    rw [hcard]
    exact Falls.cardAfterFalls (s := withClaims l s) hout.falls rfl rfl q

/-- A change of the thermal claims that makes the cap fall (R57). -/
theorem setClaims_of_fall {l : List ThermalClaim} {s : State} (h : NamesLawful s) (hlt : capOf l < s.power.cap) :
    ∃ u, Capped l s u ∧
      setClaims l s = addReason .power (if ∃ m, capTakes s (capOf l) m = true then restorePass u else u) := by
  refine ⟨_, capped_capHeld l h, ?_⟩
  have hempty : (portsAtCap (withClaims l s) (capOf l) .admitted).isEmpty = true ↔ ¬ ∃ m, capTakes s (capOf l) m = true := by
    rw [List.isEmpty_iff, List.eq_nil_iff_forall_not_mem, not_exists]
    exact forall_congr' fun m => not_congr portsAtCap_mem
  rw [setClaims_eq, if_pos hlt, capFell_eq]
  by_cases hsome : ∃ m, capTakes s (capOf l) m = true
  · rw [if_neg fun he => hempty.1 he hsome, if_pos hsome]
  · rw [if_pos (hempty.2 hsome), if_neg hsome]

/-- A change of the thermal claims that makes the cap rise (R58). -/
theorem setClaims_of_rise {l : List ThermalClaim} {s : State} (hlt : s.power.cap < capOf l) :
    ∃ u, u = { s with ports := u.ports, power := { s.power with claims := l, cap := capOf l } } ∧
      (∀ m, u.port m = if (s.port m).power = .waiting ∧ (s.port m).priority.val < capOf l then { s.port m with hold := false }
        else s.port m) ∧
      setClaims l s = addReason .power (restorePass u) := by
  obtain ⟨hframe, hport⟩ := setHolds_spec (portsWhere (withClaims l s) fun _ r => r.power == .waiting && r.priority.val < capOf l)
    false (withClaims l s)
  refine ⟨capFreed (capOf l) (withClaims l s), hframe, fun m => ?_, by rw [setClaims_eq, if_neg (Nat.lt_asymm hlt), if_pos hlt]⟩
  have hmem : m ∈ portsWhere (withClaims l s) (fun _ r => r.power == .waiting && r.priority.val < capOf l) ↔
      (s.port m).power = .waiting ∧ (s.port m).priority.val < capOf l := by
    rw [mem_portsWhere, Bool.and_eq_true, beq_iff_eq, decide_eq_true_iff]
    rfl
  refine (hport m).trans ?_
  by_cases hheld : (s.port m).power = .waiting ∧ (s.port m).priority.val < capOf l
  · rw [if_pos (hmem.2 hheld), if_pos hheld, ← hheld.1]
    rfl
  · rw [if_neg fun hm => hheld (hmem.1 hm), if_neg hheld]
    rfl

/-- A change of the thermal claims that leaves the cap where it is. -/
theorem setClaims_of_stands {l : List ThermalClaim} {s : State} (h : capOf l = s.power.cap) :
    setClaims l s = { s with power := { s.power with claims := l } } := by
  rw [setClaims_eq, if_neg (by omega), if_neg (by omega), withClaims, h]
  rfl

theorem mem_insertClaim_self (c : ThermalClaim) (l : List ThermalClaim) : c ∈ insertClaim c l := by
  induction l with
  | nil => exact List.mem_singleton.2 rfl
  | cons d l ih =>
    unfold insertClaim
    split
    · exact List.mem_cons_self
    · split
      · exact List.mem_cons_self
      · exact List.mem_cons_of_mem _ ih

theorem mem_insertClaim_other {c d : ThermalClaim} (hne : d.rule ≠ c.rule) (l : List ThermalClaim) : d ∈ insertClaim c l ↔ d ∈ l := by
  have hdc : d ≠ c := fun he => hne (by rw [he])
  induction l with
  | nil => simp [insertClaim, hdc]
  | cons e l ih =>
    unfold insertClaim
    split
    · simp [hdc]
    · split
      next he =>
        have hde : d ≠ e := fun hde => hne (by rw [hde, he])
        simp [hdc, hde]
      next => simp [ih]

theorem mem_addRule_self (r : RuleIx) (l : List RuleIx) : r ∈ addRule r l := by
  induction l with
  | nil => exact List.mem_singleton.2 rfl
  | cons q l ih =>
    unfold addRule
    split
    · exact List.mem_cons_self
    · split
      next he => rw [he]; exact List.mem_cons_self
      next => exact List.mem_cons_of_mem _ ih

end Sys2Proof.Machine

/-! PROOFS. Park claims (R33, R34), and what a rule does when it is evaluated (R143). -/

namespace Sys2Proof.Machine

/-! ## A slot that takes a park claim (R33) -/

/-- A slot with a rule's park claim. -/
def withPark (slot : Slot) (r : RuleIx) (s : State) : State := s.modCard slot fun c => { c with parkClaims := addRule r c.parkClaims }

theorem withPark_card (slot : Slot) (r : RuleIx) (s : State) (c : Slot) : (withPark slot r s).card c =
    if slot = c then { s.card slot with parkClaims := addRule r (s.card slot).parkClaims } else s.card c :=
  modCard_card slot c _ s

/-- A state that differs in the park claims of its cards alone. -/
structure SameButParks (s t : State) : Prop where
  frame : t = { s with cards := t.cards }
  card : ∀ c, t.card c = { s.card c with parkClaims := (t.card c).parkClaims }

theorem sameButParks_withPark (slot : Slot) (r : RuleIx) (s : State) : SameButParks s (withPark slot r s) := by
  refine ⟨rfl, fun c => ?_⟩
  rw [withPark_card]
  split
  next he => rw [he]
  next => rfl

namespace SameButParks

variable {s t : State} (h : SameButParks s t)
include h

theorem port (n : PortIx) : t.port n = s.port n := port_of_ports (by rw [h.frame]) n

theorem state (c : Slot) : (t.card c).state = (s.card c).state := by rw [h.card]

theorem identity (c : Slot) : (t.card c).identity = (s.card c).identity := by rw [h.card]

theorem serviceable : serviceable t = Machine.serviceable s := funext fun n =>
  serviceable_congr (by rw [h.port]) (by rw [h.port]) (by rw [h.port]) (h.state _) (h.identity _)

theorem fallenPort (n : PortIx) : fallenPort t n = Machine.fallenPort s n := by
  unfold Machine.fallenPort
  rw [h.serviceable, h.port]

theorem namesWithout (gone : PortIx → Bool) : namesWithout t gone = Machine.namesWithout s gone := by
  unfold Machine.namesWithout
  rw [h.serviceable, h.frame]

theorem budgetWithoutCard (slot : Slot) : budgetWithoutCard t slot = Machine.budgetWithoutCard s slot := by
  have hpower : t.power = s.power := by rw [h.frame]
  have hdraw : portDraw t = portDraw s := funext fun n => portDraw_congr (h.identity _)
  have hgone (gone : PortIx → Bool) : drawOf t gone = drawOf s gone := by
    unfold drawOf
    simp only [hdraw, h.port]
  have hbase : (t.card slot).baseDraw = (s.card slot).baseDraw := by rw [h.card]; rfl
  unfold Machine.budgetWithoutCard budgetWithout
  rw [hpower, hgone, h.state, hbase]

theorem fallsSend (l : List PortIx) (c : Slot) : fallsSend t l c = Machine.fallsSend s l c := by
  have hnames : t.names = s.names := by rw [h.frame]
  unfold Machine.fallsSend fallSends
  simp only [h.serviceable, h.state, loggedIn_of_names hnames]

end SameButParks

/-- What the parking of a card leaves before the restore pass (R33). -/
structure Parked (slot : Slot) (r : RuleIx) (s u : State) : Prop where
  frame : u = { s with
    cards := u.cards, ports := u.ports, power := budgetWithoutCard s slot
    names := namesWithout s fun n => slotOf n == slot, zones := u.zones, commit := u.commit
    alarms := u.alarms, attn := u.attn }
  port : ∀ n, u.port n = if slotOf n = slot then fallenPort s n else s.port n
  self : u.card slot = { s.card slot with
    state := .parked, failure := .none, timerOn := false, tempValid := false, powerEnable := false, outbox := []
    parkClaims := [r] }
  other : ∀ c, c ≠ slot → u.card c = { s.card c with outbox := (u.card c).outbox } ∧
    fallsOf (u.card c).outbox = fallsOf (s.card c).outbox ++ fallsSend s (slotPorts slot) c
  noted : Noted .slot u
  law : WaitsLaw False False u

theorem parkClaim_of_first {slot : Slot} (r : RuleIx) {s : State} (hnone : (s.card slot).parkClaims = [])
    (hp : (s.card slot).state.powered = true) :
    parkClaim slot r s = restorePass (leaveCard slot .parked (withPark slot r s)) :=
  if_pos (by rw [hnone, hp]; rfl)

theorem parkClaim_of_not_first {slot : Slot} (r : RuleIx) {s : State}
    (h : (s.card slot).parkClaims ≠ [] ∨ (s.card slot).state.powered = false) : parkClaim slot r s = withPark slot r s := by
  refine if_neg fun hand => ?_
  obtain ⟨hnone, hp⟩ := Bool.and_eq_true_iff.1 hand
  rcases h with h | h
  · exact h (List.isEmpty_iff.1 hnone)
  · rw [h] at hp
    cases hp

theorem parked_leaveCard {slot : Slot} (r : RuleIx) {s : State} (hw : WaitListFollows s) (hn : NamesLawful s)
    (hnone : (s.card slot).parkClaims = []) : Parked slot r s (leaveCard slot .parked (withPark slot r s)) := by
  have hsame := sameButParks_withPark slot r s
  have hself := (withPark_card slot r s slot).trans (if_pos rfl)
  have hother (c : Slot) (hc : c ≠ slot) : (withPark slot r s).card c = s.card c :=
    (withPark_card slot r s c).trans (if_neg fun he : slot = c => hc he.symm)
  have hlaw : WaitsLaw False False (withPark slot r s) :=
    (waitsLaw_iff.2 hw).card slot (fun c => { c with parkClaims := addRule r c.parkClaims }) fun _ => ⟨rfl, rfl⟩
  have hleft := leaveCard_spec (slot := slot) (st := .parked) (waitsLaw_iff.1 hlaw) (hn.of_names rfl) rfl
  have hbehind := leaveCard_left (slot := slot) (st := .parked) (waitsLaw_iff.1 hlaw) rfl
  have hgone := (hlaw.leaveCard (slot := slot) (st := .parked) rfl).law_of_ne rfl nofun
  generalize withPark slot r s = v at hsame hself hother hleft hbehind hgone
  refine ⟨?_, fun n => ?_, ?_, fun c hc => ?_, hbehind.noted, hgone⟩
  · rw [← hsame.budgetWithoutCard, ← hsame.namesWithout]
    have hframe := hleft.frame
    generalize leaveCard slot .parked v = u at hframe
    rw [hframe, hsame.frame]
  · rw [hleft.port, hsame.port, hsame.fallenPort]
  · rw [hleft.self, hself, hnone]
    rfl
  · obtain ⟨k, hk, hf⟩ := hleft.other c hc
    rw [hk, hother c hc, ← hsame.fallsSend]
    exact ⟨rfl, by rw [CardRec.behind, fallsOf_append, hf]⟩

/-- A card that is parked and its ports, after the restore pass (R33). -/
theorem Parked.restored {slot : Slot} {r : RuleIx} {s u : State} (h : Parked slot r s u) :
    let t := restorePass u
    (t.card slot).state = .parked ∧ (t.card slot).powerEnable = false ∧
      (∀ n, slotOf n = slot → (t.port n).power = .off ∧ serviceable t n = false) ∧ ∀ p, (t.attention p).set.slot = true := by
  have hres := restores_restorePass h.law
  have hlaw := waitsLaw_iff.1 h.law
  have hmoves : Moves .power u (restorePass u) := Moves.refl.restorePass
  have hcard : (restorePass u).card slot = u.card slot := by
    obtain ⟨k, hk, hnil, -⟩ := hres.card slot (by rw [hlaw.1, h.self]; nofun)
    rw [hk, hnil (by rw [h.self]; nofun), CardRec.behind_nil]
  have hoff (n : PortIx) (hn : slotOf n = slot) : ((restorePass u).port n).power = .off := by
    have hu : (u.port n).power = .off := by
      rw [h.port, if_pos hn, fallenPort]
      split <;> rfl
    rcases hres.power n with he | ⟨hw, -⟩
    · rw [he, hu]
    · rw [hu] at hw
      cases hw
  refine ⟨by rw [hcard, h.self], by rw [hcard, h.self], fun n hn => ⟨hoff n hn, ?_⟩, hmoves.noted h.noted⟩
  exact serviceable_of_not_admitted (by rw [hoff n hn]; nofun)

/-! ## A slot that loses its last park claim (R34) -/

theorem parkWithdraw_of_last {slot : Slot} {r : RuleIx} {s : State} (h : dropRule r (s.card slot).parkClaims = [])
    (hp : (s.card slot).state = .parked) : ∃ u, u = { s with
      cards := s.cards.set slot { s.card slot with
        state := .waiting, failure := .none, powerEnable := false, outbox := [], parkClaims := [] }
      power := { s.power with waitList := insertByKey (waitKey s) (.card slot) s.power.waitList }, attn := u.attn } ∧
      Noted .slot u ∧ parkWithdraw slot r s = restorePass u := by
  refine ⟨placeCard slot (withoutPark slot r s), ?_, ?_, ?_⟩
  · have hplaced : placeCard slot (withoutPark slot r s) = { (s.modCard slot fun c => { c with parkClaims := dropRule r c.parkClaims }).modCard
        slot (CardRec.enter .waiting) with
          power := { s.power with waitList := insertByKey (waitKey s) (.card slot) s.power.waitList }
          attn := (placeCard slot (withoutPark slot r s)).attn } := rfl
    rw [modCard_modCard] at hplaced
    have hcard : CardRec.enter .waiting { s.card slot with parkClaims := dropRule r (s.card slot).parkClaims } = { s.card slot with
        state := .waiting, failure := .none, powerEnable := false, outbox := [], parkClaims := [] } := by
      rw [h]
      rfl
    rw [← hcard]
    exact hplaced
  · exact Noted.of_attn (noted_addReason_self .slot ((withoutPark slot r s).modCard slot (CardRec.enter .waiting))) rfl
  · rw [parkWithdraw_eq, h, hp]
    rfl

/-! ## The thermal cap in the terms of a rule's condition (R56 to R58) -/

/-- A state that is another but for the rules and the alarms. -/
def RuleFrame (s v : State) : Prop := v = { s with rules := v.rules, alarms := v.alarms, attn := v.attn }

/-- What a change of the thermal claims makes of the state (R56 to R58). -/
def ThermalMoves (s t : State) : Prop :=
  (∀ d ∈ t.power.claims, t.power.cap ≤ d.n.val) ∧
  ((t.power.claims = [] ∧ t.power.cap = 8) ∨ ∃ d ∈ t.power.claims, d.n.val = t.power.cap) ∧
  (t.power.cap = s.power.cap → t = { s with
    power := { s.power with claims := t.power.claims }, rules := t.rules, alarms := t.alarms, attn := t.attn }) ∧
  (t.power.cap < s.power.cap → ∃ u, u = { s with
      ports := u.ports, cards := u.cards, names := namesWithout s (capTakes s t.power.cap), rules := t.rules, alarms := t.alarms
      attn := u.attn, power := { s.power with
        claims := t.power.claims, cap := t.power.cap, waitList := u.power.waitList
        admitted := s.power.admitted -
          ((List.finRange 672).map fun m => if capTakes s t.power.cap m then portDraw s m else 0).sum } } ∧
    (∀ m, u.port m = cappedPort s t.power.cap m) ∧
    (∀ x, x ∈ u.power.waitList ↔ x ∈ s.power.waitList ∨ ∃ m, capTakes s t.power.cap m = true ∧ x = .port m) ∧
    (∀ q, u.card q = cardAfterFalls s ((List.finRange 672).filter (capTakes s t.power.cap)) q) ∧
    t = addReason .power (if ∃ m, capTakes s t.power.cap m = true then restorePass u else u)) ∧
  (s.power.cap < t.power.cap → ∃ u, u = { s with
      ports := u.ports, power := { s.power with claims := t.power.claims, cap := t.power.cap }
      rules := t.rules, alarms := t.alarms, attn := u.attn } ∧
    (∀ m, u.port m = if (s.port m).power = .waiting ∧ (s.port m).priority.val < t.power.cap then { s.port m with hold := false }
      else s.port m) ∧
    t = addReason .power (restorePass u))

theorem thermalMoves_setClaims {s v : State} (hv : RuleFrame s v) (hn : NamesLawful s) (l : List ThermalClaim) :
    ThermalMoves s (setClaims l v) := by
  obtain ⟨hclaims, hcap, -⟩ := setClaims_kept l v
  obtain ⟨hle, hsome⟩ := capOf_spec l
  have hwork := setClaims_work l v
  have hrules : (setClaims l v).rules = v.rules := by rw [hwork]
  have halarms : (setClaims l v).alarms = v.alarms := by rw [hwork]
  unfold ThermalMoves
  rw [hclaims, hcap, hrules, halarms]
  obtain ⟨R, A, B, rfl⟩ : ∃ R A B, v = { s with rules := R, alarms := A, attn := B } := ⟨_, _, _, hv⟩
  refine ⟨hle, hsome, fun he => ?_, fun hlt => ?_, fun hlt => ?_⟩
  · rw [setClaims_of_stands (s := { s with rules := R, alarms := A, attn := B }) he]
  · obtain ⟨u, hu, ht⟩ := setClaims_of_fall (s := { s with rules := R, alarms := A, attn := B }) (hn.of_names rfl) hlt
    exact ⟨u, by rw [hu.frame]; rfl, hu.port, hu.waits, hu.card, ht⟩
  · obtain ⟨u, hu, hport, ht⟩ := setClaims_of_rise (s := { s with rules := R, alarms := A, attn := B }) hlt
    exact ⟨u, by rw [hu], hport, ht⟩

/-! ## A rule that parks and unparks (R33, R34, R143) -/

theorem parkClaim_claimed (slot : Slot) (r : RuleIx) (s : State) : r ∈ ((parkClaim slot r s).card slot).parkClaims := by
  have hmem : r ∈ ((withPark slot r s).card slot).parkClaims := by
    rw [withPark_card, if_pos rfl]
    exact mem_addRule_self r _
  by_cases hfirst : (s.card slot).parkClaims = [] ∧ (s.card slot).state.powered = true
  · rwa [parkClaim_of_first r hfirst.1 hfirst.2, ((ClaimsKept.refl _).restorePass).park, leaveCard_parkClaims]
  · rw [parkClaim_of_not_first r]
    · exact hmem
    · by_cases hnone : (s.card slot).parkClaims = []
      · exact .inr (Bool.eq_false_iff.2 fun hp => hfirst ⟨hnone, hp⟩)
      · exact .inl hnone

/-- What a park claim that is a slot's first makes of a powered card (R33). -/
theorem parkClaim_parks {slot : Slot} {r : RuleIx} {s v : State} (hv : RuleFrame s v) (hn : NamesLawful s)
    (hnone : (s.card slot).parkClaims = []) (hp : (s.card slot).state.powered = true) (hw : WaitListFollows s) :
    let t := parkClaim slot r v
    (t.card slot).state = .parked ∧ (t.card slot).powerEnable = false ∧
      (∀ n, slotOf n = slot → (t.port n).power = .off ∧ serviceable t n = false) ∧
      ∃ u, u = { s with
          cards := u.cards, ports := u.ports, power := budgetWithoutCard s slot
          names := namesWithout s fun n => slotOf n == slot, zones := u.zones, commit := u.commit, rules := t.rules
          alarms := u.alarms, attn := u.attn } ∧
        (∀ n, u.port n = if slotOf n = slot then fallenPort s n else s.port n) ∧
        u.card slot = { s.card slot with
          state := .parked, failure := .none, timerOn := false, tempValid := false, powerEnable := false, outbox := []
          parkClaims := [r] } ∧
        (∀ c, c ≠ slot → u.card c = { s.card c with outbox := (u.card c).outbox } ∧
          fallsOf (u.card c).outbox = fallsOf (s.card c).outbox ++ fallsSend s (slotPorts slot) c) ∧
        (∀ p, (t.attention p).set.slot = true) ∧ t = restorePass u := by
  obtain ⟨R, A, B, rfl⟩ : ∃ R A B, v = { s with rules := R, alarms := A, attn := B } := ⟨_, _, _, hv⟩
  have hparked := parked_leaveCard (slot := slot) r (s := { s with rules := R, alarms := A, attn := B }) hw (hn.of_names rfl) hnone
  dsimp only
  rw [parkClaim_of_first (s := { s with rules := R, alarms := A, attn := B }) r hnone hp]
  generalize leaveCard slot .parked (withPark slot r { s with rules := R, alarms := A, attn := B }) = u at hparked
  obtain ⟨hstate, hpower, hoff, hnoted⟩ := hparked.restored
  have hrules : (restorePass u).rules = R := by
    rw [(Moves.refl (k := .power)).restorePass.rules_eq rfl, hparked.frame]
  exact ⟨hstate, hpower, hoff, u, by rw [hrules]; exact hparked.frame, hparked.port, hparked.self, hparked.other, hnoted, rfl⟩

/-- A further park claim, or one of a card without power, is noted alone (R33). -/
theorem parkClaim_notes {slot : Slot} {r : RuleIx} {s v : State} (hv : RuleFrame s v)
    (h : (s.card slot).parkClaims ≠ [] ∨ (s.card slot).state.powered = false) :
    let t := parkClaim slot r v
    t = { s with
      cards := s.cards.set slot { s.card slot with parkClaims := (t.card slot).parkClaims }
      rules := t.rules, alarms := t.alarms, attn := t.attn } := by
  obtain ⟨R, A, B, rfl⟩ : ∃ R A B, v = { s with rules := R, alarms := A, attn := B } := ⟨_, _, _, hv⟩
  dsimp only
  rw [parkClaim_of_not_first (s := { s with rules := R, alarms := A, attn := B }) r h, withPark_card, if_pos rfl]
  rfl

/-- The withdrawal of the last park claim of a parked card (R34). -/
theorem parkWithdraw_unparks {slot : Slot} {r : RuleIx} {s v : State} (hv : RuleFrame s v)
    (hnil : dropRule r (s.card slot).parkClaims = []) (hp : (s.card slot).state = .parked) :
    let t := parkWithdraw slot r v
    ∃ u, u = { s with
        cards := s.cards.set slot { s.card slot with
          state := .waiting, failure := .none, powerEnable := false, outbox := [], parkClaims := [] }
        power := { s.power with waitList := insertByKey (waitKey s) (.card slot) s.power.waitList }
        rules := t.rules, alarms := u.alarms, attn := u.attn } ∧
      (∀ p, (t.attention p).set.slot = true) ∧ t = restorePass u := by
  obtain ⟨R, A, B, rfl⟩ : ∃ R A B, v = { s with rules := R, alarms := A, attn := B } := ⟨_, _, _, hv⟩
  obtain ⟨u, hu, hnoted, ht⟩ := parkWithdraw_of_last (s := { s with rules := R, alarms := A, attn := B }) hnil hp
  have hmoves : Moves .power u (restorePass u) := Moves.refl.restorePass
  dsimp only
  rw [ht]
  exact ⟨u, by rw [hmoves.rules_eq rfl, hu]; rfl, hmoves.noted hnoted, rfl⟩

/-! ## Evaluation -/

/-- A rule that is evaluated: the record that it becomes, and its claims. -/
theorem evaluateRule_of_enabled {r : RuleIx} {s : State} (h : (s.rule r).enabled = true) : ∃ a : RuleRec,
    a.action = (s.rule r).action ∧ a.source = (s.rule r).source ∧ a.severity = (s.rule r).severity ∧
      evaluateRule r s = ruleClaims r (s.rule r) a (s.modRule r fun _ => a) :=
  ⟨(s.rule r).after (readingOf (s.rule r) (s.source (s.rule r).source)), rfl, rfl, rfl, if_pos h⟩

theorem ruleClaims_of_same {r : RuleIx} {b a : RuleRec} (h : b.state.holds = a.state.holds) (s : State) : ruleClaims r b a s = s := by
  unfold ruleClaims
  rw [h]
  cases a.state.holds <;> rfl

theorem ruleClaims_of_begin {r : RuleIx} {b a : RuleRec} (hb : b.state.holds = false) (ha : a.state.holds = true) (s : State) :
    ruleClaims r b a s = applyAction r a (raiseAlarm (ruleRaise r a) s) := by
  unfold ruleClaims
  rw [hb, ha]
  rfl

theorem ruleClaims_of_end {r : RuleIx} {b a : RuleRec} (hb : b.state.holds = true) (ha : a.state.holds = false) (s : State) :
    ruleClaims r b a s = withdrawAction r a (endAlarm .rule r.val s) := by
  unfold ruleClaims
  rw [hb, ha]
  rfl

theorem applyAction_fanBoost {r : RuleIx} {a : RuleRec} (h : a.action = .fanBoost) (s : State) :
    applyAction r a s = setBoosts (addRule r s.scanner.boosts) s := by simp only [applyAction, h]

theorem applyAction_shed {r : RuleIx} {a : RuleRec} {n : Priority} (h : a.action = .shed n) (s : State) :
    applyAction r a s = setClaims (insertClaim { rule := r, n := n } s.power.claims) s := by simp only [applyAction, h, thermalClaim]

theorem applyAction_cardOff {r : RuleIx} {a : RuleRec} {slot : Slot} (h : a.action = .cardOff) (hs : a.source.val = slot.val + 16)
    (s : State) : applyAction r a s = parkClaim slot r s := by
  simp only [applyAction, h, parkSlot_eq_some_iff.2 hs]

theorem withdrawAction_shed {r : RuleIx} {a : RuleRec} {n : Priority} (h : a.action = .shed n) (s : State) :
    withdrawAction r a s = setClaims (dropClaim r s.power.claims) s := by simp only [withdrawAction, h, thermalWithdraw]

theorem withdrawAction_cardOff {r : RuleIx} {a : RuleRec} {slot : Slot} (h : a.action = .cardOff) (hs : a.source.val = slot.val + 16)
    (s : State) : withdrawAction r a s = parkWithdraw slot r s := by
  simp only [withdrawAction, h, parkSlot_eq_some_iff.2 hs]

/-- A boost claim makes the duty boost (R137). -/
theorem setBoosts_boosted (r : RuleIx) (s : State) : let t := setBoosts (addRule r s.scanner.boosts) s
    r ∈ t.scanner.boosts ∧ t.scanner.duty = .boost ∧ t.scanner.fanPct = 100 := by
  have hmem := mem_addRule_self r s.scanner.boosts
  have hduty : DutyFollows (setBoosts (addRule r s.scanner.boosts) s) := dutyFollows_recomputeDuty _
  have hboost : (setBoosts (addRule r s.scanner.boosts) s).scanner.duty = .boost := by
    cases he : (setBoosts (addRule r s.scanner.boosts) s).scanner.duty with
    | boost => rfl
    | normal =>
      have hnil : addRule r s.scanner.boosts = [] := (hduty.1.1 he).2.1
      rw [hnil] at hmem
      cases hmem
  refine ⟨hmem, hboost, ?_⟩
  rw [hduty.2, hboost]

end Sys2Proof.Machine

section
open Sys2Proof Sys2Proof.Machine

/-- Settles O40: a rule's evaluation is the alarm's claim and the action's, each by its own lemma (`thermalMoves_setClaims`,
`parked_leaveCard`, `parkWithdraw_of_last`). -/
theorem ruleConditionRule : Obligations.RuleConditionRule := by
  unfold Obligations.RuleConditionRule
  intro r s hen ha hn rule t before after c displaced
  obtain ⟨a, haction, hsource, hseverity, heval⟩ := evaluateRule_of_enabled hen
  have hacts : RuleActs ruleCause (s.modRule r fun _ => a) t := by
    change RuleActs ruleCause (s.modRule r fun _ => a) (evaluateRule r s)
    rw [heval]
    exact .ruleClaims r _ a _
  have hself : t.rule r = a := by rw [hacts.rule, modRule_rule, if_pos rfl]
  have hother (q : RuleIx) (hq : q ≠ r) : t.rule q = s.rule q := by rw [hacts.rule, modRule_rule, if_neg hq.symm]
  have hafter : after = a.state.holds := congrArg (fun x : RuleRec => x.state.holds) hself
  have ht : t = ruleClaims r (s.rule r) a (s.modRule r fun _ => a) := heval
  have hruleEq : rule = s.rule r := rfl
  have hbeforeEq : before = (s.rule r).state.holds := rfl
  have hcEq : c = t.power.cap := rfl
  have hdisplaced : displaced = capTakes s c := rfl
  clear_value t displaced c after before rule
  subst hruleEq hbeforeEq hdisplaced hcEq hafter
  clear heval
  have hbegins (hb : (s.rule r).state.holds = false) (hh : a.state.holds = true) :
      t = applyAction r a (raiseAlarm (ruleRaise r a) (s.modRule r fun _ => a)) := ht.trans (ruleClaims_of_begin hb hh _)
  have hends (hb : (s.rule r).state.holds = true) (hh : a.state.holds = false) :
      t = withdrawAction r a (endAlarm .rule r.val (s.modRule r fun _ => a)) := ht.trans (ruleClaims_of_end hb hh _)
  have hraised : RuleFrame s (raiseAlarm (ruleRaise r a) (s.modRule r fun _ => a)) := by
    unfold RuleFrame
    rw [raiseAlarm_eq]
    rfl
  have hended : RuleFrame s (endAlarm .rule r.val (s.modRule r fun _ => a)) := by
    unfold RuleFrame
    rw [endAlarm_eq]
    rfl
  refine ⟨fun he => ?_, hother, fun hb hh => ?_, fun hb hh => ?_, fun n hshed hne => ?_⟩
  · rw [ht, ruleClaims_of_same he]
    rfl
  · have hstands : s.alarms.length < 128 → AlarmStands (raiseAlarm (ruleRaise r a) (s.modRule r fun _ => a)) .rule r.val
        (s.rule r).severity (s.rule r).source.val := fun hroom => by
      rw [← hseverity, ← hsource]
      exact alarmStands_raiseAlarm (ruleRaise r a) hroom
    have hlawful : AlarmsLawful (raiseAlarm (ruleRaise r a) (s.modRule r fun _ => a)) := AlarmsLawful.raiseAlarm _ (ha.of_alarms rfl)
    have hrules := congrArg State.rules (hbegins hb hh)
    have hclaims := (RuleActs.applyAction r a (raiseAlarm (ruleRaise r a) (s.modRule r fun _ => a))).claims
    have hbegun := hbegins hb hh
    have hscanner : (raiseAlarm (ruleRaise r a) (s.modRule r fun _ => a)).scanner = s.scanner := by rw [hraised]
    have hpower : (raiseAlarm (ruleRaise r a) (s.modRule r fun _ => a)).power = s.power := by rw [hraised]
    generalize raiseAlarm (ruleRaise r a) (s.modRule r fun _ => a) = v at hraised hstands hlawful hclaims hbegun hscanner hpower
    subst hbegun
    rw [← haction, ← hsource]
    refine ⟨fun hroom => ?_, fun hboost => ?_, fun n hshed => ?_, fun slot hoff hslot => ?_⟩
    · exact hclaims.stands hlawful (by simp [departureCause]) (hsource ▸ hstands hroom)
    · rw [applyAction_fanBoost hboost]
      exact setBoosts_boosted r v
    · rw [applyAction_shed hshed, (setClaims_kept _ v).1, hpower]
      exact ⟨mem_insertClaim_self _ _, fun d hd => mem_insertClaim_other hd _⟩
    · rw [applyAction_cardOff hoff hslot]
      exact ⟨parkClaim_claimed slot r v, parkClaim_parks hraised hn, parkClaim_notes hraised⟩
  · have hover : AlarmOver (endAlarm .rule r.val (s.modRule r fun _ => a)) .rule r.val :=
      alarmOver_endAlarm .rule r.val (ha.of_alarms rfl)
    have hlawful : AlarmsLawful (endAlarm .rule r.val (s.modRule r fun _ => a)) := AlarmsLawful.endAlarm _ _ (ha.of_alarms rfl)
    have hclaims := (RuleActs.withdrawAction (C := fun _ => False) r a (endAlarm .rule r.val (s.modRule r fun _ => a))).claims
    have hwithdrawn := withdrawn_withdrawAction r a (endAlarm .rule r.val (s.modRule r fun _ => a))
    have hdone := hends hb hh
    have hscanner : (endAlarm .rule r.val (s.modRule r fun _ => a)).scanner = s.scanner := by rw [hended]
    have hpower : (endAlarm .rule r.val (s.modRule r fun _ => a)).power = s.power := by rw [hended]
    have hcards : (endAlarm .rule r.val (s.modRule r fun _ => a)).cards = s.cards := by rw [hended]
    generalize endAlarm .rule r.val (s.modRule r fun _ => a) = v at hended hover hlawful hclaims hwithdrawn hdone hscanner hpower hcards
    subst hdone
    rw [← haction, ← hsource]
    refine ⟨hclaims.staysOver hlawful not_false hover, fun hboost => ⟨?_, hwithdrawn.duty hboost⟩, fun n hshed => ?_,
      fun slot hoff hslot => ⟨fun hmem => ?_, hwithdrawn.unparked slot hoff hslot, fun hnil hparked => ?_⟩⟩
    · rw [hwithdrawn.boosts, if_pos hboost, hscanner]
    · rw [hwithdrawn.thermal, if_pos ⟨n, hshed⟩, hpower]
    · rw [hwithdrawn.park, if_pos ⟨hoff, hslot⟩] at hmem
      exact absurd rfl (of_decide_eq_true (List.mem_filter.1 hmem).2)
    · rw [hwithdrawn.park, if_pos ⟨hoff, hslot⟩, card_of_cards hcards] at hnil
      rw [withdrawAction_cardOff hoff hslot]
      exact parkWithdraw_unparks hended hnil hparked
  · rw [← haction] at hshed
    cases hb : (s.rule r).state.holds <;> cases hh : a.state.holds
    · exact absurd (hb.trans hh.symm) hne
    · rw [hbegins hb hh, applyAction_shed hshed]
      exact thermalMoves_setClaims hraised hn _
    · rw [hends hb hh, withdrawAction_shed hshed]
      exact thermalMoves_setClaims hended hn _
    · exact absurd (hb.trans hh.symm) hne

end

/-! PROOFS. The shed pass, port by port and card by card (R52, R53). -/

namespace Sys2Proof.Machine

/-! ## The order of the ports (R52) -/

/-- A port is shed before another: its priority is higher, or equal and its number greater (R52). -/
def ShedsBefore (s : State) (m n : PortIx) : Prop :=
  (s.port n).priority < (s.port m).priority ∨ ((s.port n).priority = (s.port m).priority ∧ n < m)

theorem mem_shedPorts_iff {s : State} {n : PortIx} : n ∈ shedPorts s ↔ (s.port n).power = .admitted := by
  simp [shedPorts, mem_portsWhere]

theorem shedPorts_pairwise (s : State) : (shedPorts s).Pairwise (ShedsBefore s) := by
  have hpriority (k : Fin 8) (n : PortIx) (h : n ∈ (portsWhere s fun _ r => r.power == .admitted && r.priority == k).reverse) :
      (s.port n).priority = k := by
    rw [List.mem_reverse, mem_portsWhere, Bool.and_eq_true, beq_iff_eq, beq_iff_eq] at h
    exact h.2
  refine List.pairwise_flatMap.2 ⟨fun k _ => ?_, ?_⟩
  · have hsorted : (portsWhere s fun _ r => r.power == .admitted && r.priority == k).Pairwise (· < ·) := by
      rw [portsWhere_eq_filter]
      exact (List.pairwise_lt_finRange 672).filter _
    refine (List.pairwise_reverse.2 hsorted).imp_of_mem fun hm hn hlt => .inr ⟨?_, hlt⟩
    rw [hpriority k _ hm, hpriority k _ hn]
  · refine (List.pairwise_reverse.2 (List.pairwise_lt_finRange 8)).imp fun hlt m hm n hn => .inl ?_
    rw [hpriority _ _ hm, hpriority _ _ hn]
    exact hlt

theorem shedsBefore_asymm {s : State} {m n : PortIx} (h : ShedsBefore s m n) : ¬ ShedsBefore s n m := by
  unfold ShedsBefore at h ⊢
  simp only [Fin.lt_def, Fin.ext_iff] at h ⊢
  omega

theorem shedsBefore_nodup {s : State} {l : List PortIx} (h : l.Pairwise (ShedsBefore s)) : l.Nodup :=
  List.Pairwise.imp (fun {m n} hb (he : m = n) => by
    subst he
    exact shedsBefore_asymm hb hb) h

/-- The ports of a shed pass are the Admitted ones, in their order. -/
theorem eq_shedPorts {s : State} {ports : List PortIx} (hmem : ∀ n, n ∈ ports ↔ (s.port n).power = .admitted)
    (hsorted : ports.Pairwise (ShedsBefore s)) : shedPorts s = ports := by
  have hperm : (shedPorts s).Perm ports :=
    (List.perm_ext_iff_of_nodup (shedsBefore_nodup (shedPorts_pairwise s)) (shedsBefore_nodup hsorted)).2 fun n => by
      rw [mem_shedPorts_iff, hmem]
  exact hperm.eq_of_pairwise (fun m n _ _ hmn hnm => absurd hnm (shedsBefore_asymm hmn)) (shedPorts_pairwise s) hsorted

/-! ## The ports (R52, R53) -/

/-- What is shed of a list is an initial part of it. -/
theorem shedTakes_prefix {α : Type} (draw : α → Nat) (a : Nat) (l : List α) (d : Nat) : shedTakes draw a d l <+: l := by
  induction l generalizing d with
  | nil => exact List.nil_prefix
  | cons x l ih =>
    unfold shedTakes
    split
    · exact List.cons_prefix_cons.2 ⟨rfl, ih _⟩
    · exact List.nil_prefix

/-- If the draw is still too much at the end, all have been shed. -/
theorem shedTakes_all {α : Type} (draw : α → Nat) (a : Nat) (l : List α) (d : Nat)
    (h : a < d - ((shedTakes draw a d l).map draw).sum) : shedTakes draw a d l = l := by
  induction l generalizing d with
  | nil => rfl
  | cons x l ih =>
    unfold shedTakes at h ⊢
    split
    next hlt =>
      rw [if_pos hlt, List.map_cons, List.sum_cons, ← Nat.sub_sub] at h
      rw [ih _ h]
    next hle =>
      rw [if_neg hle] at h
      simp at h
      exact absurd h hle

theorem shedTakes_congr {α : Type} {f g : α → Nat} {l : List α} (h : ∀ x ∈ l, f x = g x) {a d : Nat} :
    shedTakes f a d l = shedTakes g a d l := by
  induction l generalizing d with
  | nil => rfl
  | cons x l ih => rw [shedTakes, shedTakes, h x List.mem_cons_self, ih fun y hy => h y (List.mem_cons_of_mem _ hy)]

theorem shedTakes_of_within {α : Type} (draw : α → Nat) {a d : Nat} (h : ¬ a < d) (l : List α) : shedTakes draw a d l = [] := by
  cases l with
  | nil => rfl
  | cons x l => exact if_neg h

theorem overdrawn_iff {s : State} : overdrawn s = true ↔ allowanceOf s.power < s.power.admitted := decide_eq_true_iff

/-- The loop over the ports displaces what `shedTakes` says. -/
theorem forEach_shedPortStep_eq {l : List PortIx} {s : State} (h : NamesLawful s) : forEach l shedPortStep s =
    forEach (shedTakes (portDraw s) (allowanceOf s.power) s.power.admitted l) (fun n => displacePort n false) s := by
  induction l generalizing s with
  | nil => rfl
  | cons n l ih =>
    by_cases ho : overdrawn s = true
    · obtain ⟨hframe, -, hfalls⟩ := displacePort_spec n false h
      have hpower : (displacePort n false s).power = powerDisplacing (waitKey s) n (portDraw s n) s.power := by rw [hframe]
      have hdraw : portDraw (displacePort n false s) = portDraw s := funext fun m => portDraw_congr (hfalls.identity _)
      have hrest := ih hfalls.lawful
      rw [hdraw, hpower] at hrest
      rw [forEach_cons, shedPortStep_of_overdrawn ho, hrest, shedTakes, if_pos (overdrawn_iff.1 ho), forEach_cons]
      rfl
    · have hin := Bool.eq_false_iff.2 ho
      rw [forEach_of_fixed fun m => shedPortStep_of_within hin m, shedTakes_of_within _ (fun hlt => ho (overdrawn_iff.2 hlt))]
      rfl

/-! ## A card that is shed once no port is Admitted (R53) -/

/-- What the shedding of some cards leaves, one after the other, where no port is Admitted (R53). -/
structure CardsShed (out : List Slot) (s t : State) : Prop where
  power : t.power = { s.power with
    waitList := t.power.waitList, admitted := s.power.admitted - (out.map fun c => (s.card c).baseDraw).sum }
  cards : ∀ c, WaitItem.card c ∈ t.power.waitList ↔ WaitItem.card c ∈ s.power.waitList ∨ c ∈ out
  ports : ∀ n, WaitItem.port n ∈ t.power.waitList ↔ slotOf n ∉ out ∧ WaitItem.port n ∈ s.power.waitList
  port : ∀ n, t.port n = if slotOf n ∈ out then { s.port n with power := .off, hold := false } else s.port n
  gone : ∀ c ∈ out, t.card c = { s.card c with
    state := .waiting, failure := .none, timerOn := false, tempValid := false, powerEnable := false, outbox := [] }
  stays : ∀ c, c ∉ out → ∃ k, t.card c = (s.card c).behind k ∧ fallsOf k = []
  names : t.names = s.names
  left : ∀ c ∈ out, (s.card c).state.inService = true ∨ (s.phaseRec c).phase = .outside → (t.phaseRec c).phase = .outside
  outside : ∀ c, (s.card c).state.inService = false → (s.phaseRec c).phase = .outside →
    (t.phaseRec c).phase = .outside ∧ (c ∉ out → t.card c = s.card c)
  fault : ∀ c ∈ out, AlarmsLawful s → (s.card c).state = .fenced → AlarmOver t .cardFault (c.val + 1)
  ended : AlarmsLawful s → ∀ k, AlarmOver s .cardFault k → AlarmOver t .cardFault k
  noted : (out ≠ [] ∨ Noted .slot s) → Noted .slot t
  lawful : AlarmsLawful s → AlarmsLawful t

theorem CardsShed.nil (s : State) : CardsShed [] s s where
  power := rfl
  cards c := by simp
  ports n := by simp
  port n := (if_neg List.not_mem_nil).symm
  gone c hc := absurd hc List.not_mem_nil
  stays c _ := ⟨[], (CardRec.behind_nil _).symm, rfl⟩
  names := rfl
  left c hc := absurd hc List.not_mem_nil
  outside _ _ h := ⟨h, fun _ => rfl⟩
  fault c hc := absurd hc List.not_mem_nil
  ended _ _ h := h
  noted h := h.resolve_left fun hne => hne rfl
  lawful h := h

/-- Every card is in service, or Outside of the commit (R104). -/
def PhasesOut (s : State) : Prop := ∀ c, (s.card c).state.inService = true ∨ (s.phaseRec c).phase = .outside

section
variable {c : Slot} {l : List Slot} {s u t : State}

theorem CardsShed.same (h : CardsShed [c] s u) {d : Slot} (hd : d ≠ c) : ∃ k, u.card d = (s.card d).behind k ∧ fallsOf k = [] :=
  h.stays d fun hm => hd (List.mem_singleton.1 hm)

theorem CardsShed.phasesOut (h : CardsShed [c] s u) (hs : PhasesOut s) : PhasesOut u := fun d => by
  by_cases hd : d = c
  · rw [hd]
    exact .inr (h.left c (List.mem_singleton.2 rfl) (hs c))
  · obtain ⟨k, hk, -⟩ := h.same hd
    rw [hk]
    by_cases hin : (s.card d).state.inService = true
    · exact .inl hin
    · have hout := Bool.eq_false_iff.2 hin
      exact .inr (h.outside d hout ((hs d).resolve_left hin)).1

theorem CardsShed.cons (h : CardsShed [c] s u) (h' : CardsShed l u t) (hc : c ∉ l) (hs : PhasesOut s) : CardsShed (c :: l) s t := by
  have hone (d : Slot) : d ∈ [c] ↔ d = c := List.mem_singleton
  have hne (d : Slot) (hd : d ∈ l) : d ≠ c := fun he => hc (he ▸ hd)
  have hbase : (l.map fun d => (u.card d).baseDraw) = l.map fun d => (s.card d).baseDraw :=
    List.map_congr_left fun d hd => by
      obtain ⟨k, hk, -⟩ := h.same (hne d hd)
      rw [hk]
      rfl
  have hself := h.gone c ((hone c).2 rfl)
  have hwaiting : (u.card c).state.inService = false := by rw [hself]; rfl
  have hphase := h.left c ((hone c).2 rfl) (hs c)
  refine ⟨?_, fun d => ?_, fun n => ?_, fun n => ?_, fun d hd => ?_, fun d hd => ?_, h'.names.trans h.names, fun d hd hor => ?_,
    fun d hj ho => ?_, fun d hd ha hf => ?_,
    fun ha k hk => h'.ended (h.lawful ha) k (h.ended ha k hk), fun hor => ?_, fun ha => h'.lawful (h.lawful ha)⟩
  · have hfirst := h.power
    rw [List.map_cons, List.map_nil, List.sum_singleton] at hfirst
    rw [h'.power, hbase, hfirst, List.map_cons, List.sum_cons, ← Nat.sub_sub]
  · rw [h'.cards, h.cards, hone, List.mem_cons, or_assoc]
  · rw [h'.ports, h.ports, hone, List.mem_cons, not_or]
    tauto
  · rw [h'.port, h.port]
    simp only [List.mem_cons, List.not_mem_nil, or_false]
    by_cases hn : slotOf n = c
    · simp [hn, hc]
    · simp [hn]
  · rcases List.mem_cons.1 hd with rfl | hd
    · rw [(h'.outside d hwaiting hphase).2 hc, hself]
    · obtain ⟨k, hk, -⟩ := h.same (hne d hd)
      rw [h'.gone d hd, hk]
      rfl
  · obtain ⟨hdc, hdl⟩ := not_or.1 fun hor => hd (List.mem_cons.2 hor)
    obtain ⟨k, hk, hf⟩ := h.same hdc
    obtain ⟨k', hk', hf'⟩ := h'.stays d hdl
    exact ⟨k ++ k', by rw [hk', hk, CardRec.behind_behind], by rw [fallsOf_append, hf, hf']; rfl⟩
  · rcases List.mem_cons.1 hd with rfl | hd
    · exact (h'.outside d hwaiting hphase).1
    · exact h'.left d hd (h.phasesOut hs d)
  · by_cases hd : d = c
    · rw [hd]
      exact ⟨(h'.outside c hwaiting hphase).1, fun hm => absurd List.mem_cons_self hm⟩
    · obtain ⟨hout, hcard⟩ := h.outside d hj ho
      have hcard := hcard fun hm => hd ((hone d).1 hm)
      obtain ⟨hout', hcard'⟩ := h'.outside d (by rw [hcard]; exact hj) hout
      exact ⟨hout', fun hm => (hcard' fun hml => hm (List.mem_cons_of_mem _ hml)).trans hcard⟩
  · rcases List.mem_cons.1 hd with rfl | hd
    · exact h'.ended (h.lawful ha) _ (h.fault d ((hone d).2 rfl) ha hf)
    · obtain ⟨k, hk, -⟩ := h.same (hne d hd)
      exact h'.fault d hd (h.lawful ha) (by rw [hk]; exact hf)
  · exact h'.noted (.inr (h.noted (.inl (List.cons_ne_nil c []))))

end

/-! ### One card -/

/-- No port is Admitted, so that none is Serviceable and none draws (R5, R46). -/
def NoneAdmitted (s : State) : Prop := ∀ n, (s.port n).power ≠ .admitted

theorem NoneAdmitted.serviceable {s : State} (h : NoneAdmitted s) (n : PortIx) : serviceable s n = false :=
  serviceable_of_not_admitted (h n)

theorem NoneAdmitted.namesWithout {s : State} (h : NoneAdmitted s) (gone : PortIx → Bool) : namesWithout s gone = s.names := by
  rw [namesWithout_eq]
  exact namesAfter_of_none (fun n => by rw [h.serviceable, Bool.and_false]) s.names

theorem NoneAdmitted.fallsSend {s : State} (h : NoneAdmitted s) (l : List PortIx) (c : Slot) : fallsSend s l c = [] := by
  have hnil : l.filter (Machine.serviceable s) = [] := List.filter_eq_nil_iff.2 fun n _ => by
    rw [h.serviceable]
    exact Bool.false_ne_true
  unfold Machine.fallsSend
  rw [hnil]
  rfl

theorem NoneAdmitted.drawOf {s : State} (h : NoneAdmitted s) (gone : PortIx → Bool) : drawOf s gone = 0 := by
  unfold Machine.drawOf
  refine List.sum_eq_zero_iff.2 fun x hx => ?_
  obtain ⟨n, -, rfl⟩ := List.mem_map.1 hx
  exact if_neg fun hand => h n (beq_iff_eq.1 (Bool.and_eq_true_iff.1 hand).2)

theorem NoneAdmitted.fallenPort {s : State} (h : NoneAdmitted s) (n : PortIx) :
    fallenPort s n = { s.port n with power := .off, hold := false } := by
  unfold Machine.fallenPort
  rw [h.serviceable]
  rfl

theorem tellDeparture_claims (slot : Slot) (before s : State) : ClaimsOnly (· = .commitDegraded) s (tellDeparture slot before s) := by
  unfold tellDeparture
  split
  · refine ClaimsOnly.trans ?_ (((PortWork.refl _).portsFollowCard slot before).claims _)
    unfold cardLeft
    split
    · exact .refl _ _
    · exact (EngineMail.commitFollows (setPhase slot .outside s)).claims
  · exact .refl _ _

/-- A CardFault that is over stays over where a card leaves (R35, R37). -/
theorem leaveCard_staysOver (slot : Slot) (st : CardState) {s : State} (ha : AlarmsLawful s) {k : Nat} (h : AlarmOver s .cardFault k) :
    AlarmOver (leaveCard slot st s) .cardFault k := by
  have hdeparting : (departing slot st s).alarms = s.alarms := by
    unfold departing releaseCard
    split
    · rfl
    · split <;> rfl
  have hclaims := tellDeparture_claims slot s (departing slot st s)
  have hlawful := ha.of_alarms hdeparting
  have hover := hclaims.staysOver hlawful (by decide) (h.of_alarms hdeparting)
  rw [leaveCard_eq]
  unfold endCardFault
  split
  · by_cases hk : k = slotNumber slot
    · rw [hk]
      exact alarmOver_endAlarm _ _ (hclaims hlawful).1
    · exact hover.of_other (otherAlarmsKept_endAlarm _ _ (hclaims hlawful).1) fun hand => hk hand.2
  · exact hover

/-- A card out of service that is Outside is left alone where another leaves (R7, R110, R116). -/
theorem leaveCard_outside {slot : Slot} {st : CardState} {s : State} (hw : WaitListFollows s) (hst : st.inService = false) {d : Slot}
    (hout : (s.card d).state.inService = false) (hphase : (s.phaseRec d).phase = .outside) :
    ((leaveCard slot st s).phaseRec d).phase = .outside ∧ (d ≠ slot → (leaveCard slot st s).card d = s.card d) := by
  have hcard := departing_card slot st hw d
  have hcommit : (departing slot st s).commit = s.commit := by rw [departing_eq hw]; rfl
  have hstate : ((departing slot st s).card d).state.inService = false := by
    rw [hcard]
    split
    · exact hst
    · exact hout
  have htold : ((tellDeparture slot s (departing slot st s)).phaseRec d).phase = .outside ∧
      (tellDeparture slot s (departing slot st s)).card d = (departing slot st s).card d := by
    have hbefore : ((departing slot st s).phaseRec d).phase = .outside := by rw [phaseRec_of_commit hcommit]; exact hphase
    generalize departing slot st s = v at hstate hbefore
    unfold tellDeparture
    split
    · have hleft : ((cardLeft slot v).phaseRec d).phase = .outside ∧ (cardLeft slot v).card d = v.card d := by
        unfold cardLeft
        split
        · exact ⟨hbefore, rfl⟩
        · have hset : ((setPhase slot .outside v).phaseRec d).phase = .outside := by
            rw [setPhase_phaseRec]
            split
            · rfl
            · exact hbefore
          obtain ⟨hc, hp⟩ := (EngineMail.commitFollows (setPhase slot .outside v)).outside d (not_joined_of_out hstate) hset
          exact ⟨hp, hc⟩
      have hstill : (portsFollowCard slot s (cardLeft slot v)).commit = (cardLeft slot v).commit := by
        rw [(PortWork.refl (cardLeft slot v)).portsFollowCard slot s]
      exact ⟨by rw [phaseRec_of_commit hstill]; exact hleft.1,
        (CardStands.portsFollowCard slot s (by rw [hleft.2]; exact hstate)).trans hleft.2⟩
    · exact ⟨hbefore, rfl⟩
  have hend := endCardFault_eq slot s (tellDeparture slot s (departing slot st s))
  rw [← leaveCard_eq] at hend
  have hlast : (leaveCard slot st s).commit = (tellDeparture slot s (departing slot st s)).commit := by rw [hend]
  have hcards : (leaveCard slot st s).cards = (tellDeparture slot s (departing slot st s)).cards := by rw [hend]
  refine ⟨by rw [phaseRec_of_commit hlast]; exact htold.1, fun hd => ?_⟩
  rw [card_of_cards hcards, htold.2, hcard, if_neg fun he : slot = d => hd he.symm]

/-- A powered card is shed (R53). -/
theorem cardsShed_shedCard {c : Slot} {s : State} (hw : WaitListFollows s) (hn : NamesLawful s) (hnone : NoneAdmitted s)
    (hp : (s.card c).state.powered = true) : CardsShed [c] s (shedCard c s) := by
  have hleft := leaveCard_spec (slot := c) (st := .waiting) hw hn rfl
  have hbehind := leaveCard_left (slot := c) (st := .waiting) hw rfl
  have hover := fun ha k => leaveCard_staysOver c .waiting (s := s) ha (k := k)
  have houtside := fun d => leaveCard_outside (slot := c) (st := .waiting) (d := d) hw rfl
  have hentered : shedCard c s = (leaveCard c .waiting s).modPower fun p =>
      { p with waitList := insertByKey (waitKey (leaveCard c .waiting s)) (.card c) p.waitList } := rfl
  rw [hentered]
  generalize leaveCard c .waiting s = u at hleft hbehind hover houtside
  have hpower : u.power = { s.power with
      waitList := (s.power.waitList.filter fun
        | .card _ => true
        | .port n => !(slotOf n == c)).filter fun x => x ≠ .card c
      admitted := s.power.admitted - (s.card c).baseDraw } := by
    have hbudget := congrArg State.power hleft.frame
    refine hbudget.trans ?_
    show budgetWithoutCard s c = _
    unfold budgetWithoutCard budgetWithout
    rw [hnone.drawOf, if_pos hp] <;> rfl
  have hwaits (x : WaitItem) : x ∈ insertByKey (waitKey u) (.card c) u.power.waitList ↔ x = .card c ∨ x ∈ u.power.waitList :=
    mem_insertByKey
  refine ⟨?_, fun d => ?_, fun n => ?_, fun n => ?_, fun d hd => ?_, fun d hd => ?_, ?_, fun d hd hor => ?_, fun d hout ho => ?_,
    fun d hd ha hf => ?_, fun ha k hk => (hover ha k hk).of_alarms rfl, fun _ => hbehind.noted.of_attn rfl,
    fun ha => (hbehind.claims ha).1.of_alarms rfl⟩
  · rw [modPower_power, hpower, List.map_cons, List.map_nil, List.sum_singleton]
  · refine (hwaits _).trans ?_
    rw [hpower, List.mem_singleton]
    by_cases hd : d = c
    · simp [hd]
    · simp [hd]
  · refine (hwaits _).trans ?_
    rw [hpower, List.mem_singleton]
    simp [and_comm]
  · refine (hleft.port n).trans ?_
    simp only [List.mem_singleton, hnone.fallenPort]
  · rw [List.mem_singleton.1 hd]
    exact hleft.self
  · obtain ⟨k, hk, hf⟩ := hleft.other d fun he => hd (List.mem_singleton.2 he)
    exact ⟨k, hk, by rw [hf, hnone.fallsSend]⟩
  · have hnames := congrArg State.names hleft.frame
    exact hnames.trans (hnone.namesWithout fun n => slotOf n == c)
  · obtain rfl := List.mem_singleton.1 hd
    by_cases hin : (s.card d).state.inService = true
    · exact hbehind.phase hin
    · exact (houtside d (Bool.eq_false_iff.2 hin) (hor.resolve_left hin)).1
  · obtain ⟨hphase, hcard⟩ := houtside d hout ho
    exact ⟨hphase, fun hd => hcard fun he => hd (List.mem_singleton.2 he)⟩
  · obtain rfl := List.mem_singleton.1 hd
    exact (hbehind.fault ha (.inr hf)).of_alarms rfl

/-- The cards' part of a shed pass, where no port is Admitted (R52, R53). -/
theorem cardsShed_forEach {l : List Slot} (hl : l.Nodup) {s : State} (hw : WaitListFollows s) (hn : NamesLawful s)
    (hnone : NoneAdmitted s) (hs : PhasesOut s) :
    CardsShed (shedTakes (fun c => (s.card c).baseDraw) (allowanceOf s.power) s.power.admitted
      (l.filter fun c => (s.card c).state.powered)) s (forEach l shedCardStep s) := by
  induction l generalizing s with
  | nil => exact .nil s
  | cons c l ih =>
    obtain ⟨hc, hl⟩ := List.nodup_cons.1 hl
    rw [forEach_cons]
    by_cases ho : overdrawn s = true
    · by_cases hp : (s.card c).state.powered = true
      · have hstep : shedCardStep c s = shedCard c s := by
          unfold shedCardStep
          rw [ho, hp]
          rfl
        have hone := cardsShed_shedCard hw hn hnone hp
        have hlaw : WaitsLaw False False (shedCardStep c s) := (waitsLaw_iff.2 hw).shedCardStep c
        rw [hstep] at hlaw ⊢
        have hfilter : ((c :: l).filter fun c => (s.card c).state.powered) = c :: l.filter fun c => (s.card c).state.powered := by
          rw [List.filter_cons, if_pos hp]
        rw [hfilter, shedTakes, if_pos (overdrawn_iff.1 ho)]
        generalize shedCard c s = u at hone hlaw
        have hnoneU : NoneAdmitted u := fun n => by
          rw [hone.port]
          split
          · nofun
          · exact hnone n
        have hrest := ih hl (waitsLaw_iff.1 hlaw) (hn.of_names hone.names) hnoneU (hone.phasesOut hs)
        have hpoweredSame : (l.filter fun d => (u.card d).state.powered) = l.filter fun d => (s.card d).state.powered :=
          List.filter_congr fun d hd => by
            obtain ⟨k, hk, -⟩ := hone.same fun he => hc (he ▸ hd)
            rw [hk]
            rfl
        have hallow : allowanceOf u.power = allowanceOf s.power := allowanceOf_of_supply (by rw [hone.power]; rfl)
        have hadmitted : u.power.admitted = s.power.admitted - (s.card c).baseDraw := by
          rw [hone.power, List.map_cons, List.map_nil, List.sum_singleton]
        have hdraws : ∀ d ∈ l.filter fun d => (s.card d).state.powered, (u.card d).baseDraw = (s.card d).baseDraw := fun d hd => by
          obtain ⟨k, hk, -⟩ := hone.same fun he => hc (he ▸ (List.mem_filter.1 hd).1)
          rw [hk]
          rfl
        rw [hpoweredSame, hallow, hadmitted, shedTakes_congr hdraws] at hrest
        exact hone.cons hrest (fun hm => hc (List.mem_filter.1 ((shedTakes_prefix _ _ _ _).subset hm)).1) hs
      · have hstep : shedCardStep c s = s := by
          unfold shedCardStep
          rw [Bool.eq_false_iff.2 hp, Bool.and_false]
          rfl
        rw [hstep, List.filter_cons, if_neg hp]
        exact ih hl hw hn hnone hs
    · have hin := Bool.eq_false_iff.2 ho
      rw [shedCardStep_of_within hin, forEach_of_fixed fun d => shedCardStep_of_within hin d,
        shedTakes_of_within _ (fun hlt => ho (overdrawn_iff.2 hlt))]
      exact .nil s

end Sys2Proof.Machine

/-! PROOFS. The two passes and the deficit in the statement's terms (R50, R52, R53, R59). -/

namespace Sys2Proof.Machine

/-! ## The shed pass (R52, R53) -/

theorem Displaced.power_eq {l : List PortIx} {hold : Bool} {s t : State} (h : Displaced l hold s t) : t.power = { s.power with
    waitList := t.power.waitList, admitted := s.power.admitted - (l.map (portDraw s)).sum } :=
  congrArg State.power h.frame

theorem Displaced.admitted_eq {l : List PortIx} {hold : Bool} {s t : State} (h : Displaced l hold s t) :
    t.power.admitted = s.power.admitted - (l.map (portDraw s)).sum :=
  congrArg PowerBudget.admitted h.power_eq

theorem Displaced.allowance_eq {l : List PortIx} {hold : Bool} {s t : State} (h : Displaced l hold s t) :
    allowanceOf t.power = allowanceOf s.power :=
  allowanceOf_of_supply (by rw [h.power_eq]; rfl)

theorem phasesOut_of_lawful {s : State} (h : CommitLawful s) : PhasesOut s := fun c => by
  obtain ⟨-, -, -, -, -, -, hjoined⟩ := h
  by_cases hphase : (s.phaseRec c).phase = .outside
  · exact .inr hphase
  · exact .inl (by rw [hjoined c hphase]; rfl)

/-- What a shed pass makes of the state, its ports in their order given. -/
structure ShedDone (s t : State) (gone : List PortIx) (out : List Slot) : Prop where
  power : t.power = { s.power with
    waitList := t.power.waitList
    admitted := s.power.admitted - (gone.map (portDraw s)).sum - (out.map fun c => (s.card c).baseDraw).sum }
  cards : ∀ c, WaitItem.card c ∈ t.power.waitList ↔ WaitItem.card c ∈ s.power.waitList ∨ c ∈ out
  ports : ∀ n, WaitItem.port n ∈ t.power.waitList ↔ slotOf n ∉ out ∧ (WaitItem.port n ∈ s.power.waitList ∨ n ∈ gone)
  port : ∀ n, slotOf n ∉ out → t.port n = if n ∈ gone then displacedPort (serviceable s n) false (s.port n) else s.port n
  off : ∀ n, slotOf n ∈ out → (t.port n).power = .off ∧ (t.port n).hold = false ∧ serviceable t n = false ∧
    (serviceable s n = true → (t.port n).link = .dark ∧ (t.port n).logins = 0)
  shed : ∀ c ∈ out, t.card c = { s.card c with
      state := .waiting, failure := .none, timerOn := false, tempValid := false, powerEnable := false, outbox := [] } ∧
    ((s.card c).state.inService = true → (t.phaseRec c).phase = .outside) ∧
    (AlarmsLawful s → (s.card c).state = .fenced → AlarmOver t .cardFault (c.val + 1))
  stays : ∀ c, c ∉ out → t.card c = { s.card c with outbox := (t.card c).outbox } ∧
    fallsOf (t.card c).outbox = fallsOf (s.card c).outbox ++ fallsSend s gone c
  names : t.names = namesWithout s (fun n => n ∈ gone)
  noted : out ≠ [] → Noted .slot t

/-- The ports that a shed pass displaces, and the cards that it sheds then (R52). -/
def portsShed (s : State) : List PortIx := shedTakes (portDraw s) (allowanceOf s.power) s.power.admitted (shedPorts s)

def cardsShed (s : State) : List Slot :=
  shedTakes (fun c => (s.card c).baseDraw) (allowanceOf s.power) (s.power.admitted - ((portsShed s).map (portDraw s)).sum)
    ((List.finRange 14).reverse.filter fun c => (s.card c).state.powered)

theorem portsShed_prefix (s : State) : portsShed s <+: shedPorts s := by
  unfold portsShed
  generalize shedPorts s = l
  exact shedTakes_prefix (portDraw s) (allowanceOf s.power) l s.power.admitted

theorem portsShed_nodup (s : State) : (portsShed s).Nodup :=
  (portsShed_prefix s).sublist.nodup (shedsBefore_nodup (shedPorts_pairwise s))

/-- The state of a shed pass once its ports have been displaced. -/
def portsOut (s : State) : State := forEach (portsShed s) (fun n => displacePort n false) s

theorem portsOut_eq {s : State} (hn : NamesLawful s) : forEach (shedPorts s) shedPortStep s = portsOut s :=
  forEach_shedPortStep_eq hn

theorem shedPass_eq {s : State} (hn : NamesLawful s) :
    shedPass s = addReason .power (forEach allSlots.reverse shedCardStep (portsOut s)) := by
  unfold shedPass
  rw [portsOut_eq hn]

theorem waitsLaw_portsOut {s : State} (hw : WaitListFollows s) (hn : NamesLawful s) : WaitsLaw False False (portsOut s) := by
  have hadmitted : ∀ n ∈ shedPorts s, (s.port n).power = .admitted := fun n hm => mem_shedPorts_iff.1 hm
  have hlaw := (waitsLaw_iff.2 hw).forEach_shedPortStep (shedsBefore_nodup (shedPorts_pairwise s)) hadmitted
  rwa [portsOut_eq hn] at hlaw

theorem displaced_portsOut {s : State} (hn : NamesLawful s) : Displaced (portsShed s) false s (portsOut s) :=
  displaced_forEach (portsShed_nodup s) false hn

/-- If the ports were not enough, none of them is Admitted any more. -/
theorem noneAdmitted_portsOut {s d : State} (hd : Displaced (portsShed s) false s d) (ho : overdrawn d = true) : NoneAdmitted d := by
  have hallow : allowanceOf d.power = allowanceOf s.power := hd.allowance_eq
  have hall : portsShed s = shedPorts s := by
    have hlt := overdrawn_iff.1 ho
    have hadmitted : d.power.admitted = s.power.admitted - ((portsShed s).map (portDraw s)).sum := hd.admitted_eq
    rw [hallow, hadmitted] at hlt
    unfold portsShed at hlt ⊢
    generalize shedPorts s = l at hlt ⊢
    exact shedTakes_all (portDraw s) (allowanceOf s.power) l s.power.admitted hlt
  intro n
  rw [hd.port]
  split
  · nofun
  next hnot => exact fun hadm => hnot (hall ▸ mem_shedPorts_iff.2 hadm)

theorem cardsShed_portsOut {s d : State} (hd : Displaced (portsShed s) false s d) (hlaw : WaitsLaw False False d)
    (hc : CommitLawful s) : CardsShed (cardsShed s) d (forEach allSlots.reverse shedCardStep d) ∧
      (cardsShed s ≠ [] → NoneAdmitted d) := by
  have hallow : allowanceOf d.power = allowanceOf s.power := hd.allowance_eq
  have hadmitted : d.power.admitted = s.power.admitted - ((portsShed s).map (portDraw s)).sum := hd.admitted_eq
  have hbase (c : Slot) : (d.card c).baseDraw = (s.card c).baseDraw := by
    simp only [CardRec.baseDraw, hd.falls.identity]
  have hout : cardsShed s = shedTakes (fun c => (d.card c).baseDraw) (allowanceOf d.power) d.power.admitted
      (allSlots.reverse.filter fun c => (d.card c).state.powered) := by
    unfold cardsShed allSlots
    simp only [hbase, hallow, hadmitted, hd.falls.state]
  rw [hout]
  by_cases ho : overdrawn d = true
  · have hnone := noneAdmitted_portsOut hd ho
    have hcommit : d.commit = s.commit := by rw [hd.frame]
    have hphases : PhasesOut d := fun c => by
      rw [hd.falls.state, phaseRec_of_commit hcommit]
      exact phasesOut_of_lawful hc c
    exact ⟨cardsShed_forEach (List.nodup_reverse.2 (List.nodup_finRange 14)) (waitsLaw_iff.1 hlaw) hd.falls.lawful hnone hphases,
      fun _ => hnone⟩
  · have hin := Bool.eq_false_iff.2 ho
    rw [forEach_of_fixed fun c => shedCardStep_of_within hin c, shedTakes_of_within _ fun hlt => ho (overdrawn_iff.2 hlt)]
    exact ⟨.nil d, fun hne => absurd rfl hne⟩

theorem shedDone_shedPass {s : State} (hw : WaitListFollows s) (hn : NamesLawful s) (hc : CommitLawful s) :
    ShedDone s (shedPass s) (portsShed s) (cardsShed s) := by
  have hd := displaced_portsOut hn
  obtain ⟨hcards, hnone⟩ := cardsShed_portsOut hd (waitsLaw_portsOut hw hn) hc
  rw [shedPass_eq hn]
  generalize portsOut s = d at hd hcards hnone
  generalize forEach allSlots.reverse shedCardStep d = t at hcards
  have hserv (n : PortIx) : serviceable s n = true → n ∉ portsShed s → (d.port n).power = .admitted := fun hs hm => by
    rw [hd.port, if_neg hm]
    exact (serviceable_iff.1 hs).2.2
  have hfallen (c : Slot) : d.card c = cardAfterFalls s (portsShed s) c := hd.falls.cardAfterFalls rfl rfl c
  have halarms : d.alarms = s.alarms := by rw [hd.frame]
  have hport (n : PortIx) : (addReason .power t).port n = t.port n := rfl
  refine ⟨?_, fun c => ?_, fun n => ?_, fun n hnot => ?_, fun n hin => ?_, fun c hin => ⟨?_, fun hs => ?_, fun ha hf => ?_⟩,
    fun c hnot => ?_, ?_, fun hne => ?_⟩
  · have hbase : ((cardsShed s).map fun c => (d.card c).baseDraw) = (cardsShed s).map fun c => (s.card c).baseDraw :=
      List.map_congr_left fun c _ => by simp only [CardRec.baseDraw, hd.falls.identity]
    have hpower := hcards.power
    rw [hbase] at hpower
    refine hpower.trans ?_
    have hdpower : d.power = { s.power with
        waitList := d.power.waitList, admitted := s.power.admitted - ((portsShed s).map (portDraw s)).sum } :=
      hd.power_eq
    rw [hdpower]
    rfl
  · have hdc : WaitItem.card c ∈ d.power.waitList ↔ WaitItem.card c ∈ s.power.waitList := by
      rw [hd.waits]
      exact ⟨fun h => h.elim id fun ⟨n, _, he⟩ => (by cases he), .inl⟩
    exact (hcards.cards c).trans (by rw [hdc])
  · have hdn : WaitItem.port n ∈ d.power.waitList ↔ WaitItem.port n ∈ s.power.waitList ∨ n ∈ portsShed s := by
      rw [hd.waits]
      exact or_congr_right ⟨fun ⟨m, hm, he⟩ => by cases he; exact hm, fun hm => ⟨n, hm, rfl⟩⟩
    exact (hcards.ports n).trans (by rw [hdn])
  · exact (hcards.port n).trans ((if_neg hnot).trans (hd.port n))
  · have hnoneD := hnone fun he => by rw [he] at hin; cases hin
    have hoff := (hcards.port n).trans (if_pos hin)
    rw [hport, hoff]
    refine ⟨rfl, rfl, ?_, fun hs => ?_⟩
    · exact serviceable_of_not_admitted (by rw [hport, hoff]; nofun)
    · have hmem : n ∈ portsShed s := by
        by_contra hnot
        exact hnoneD n (hserv n hs hnot)
      have hdark := (hd.port n).trans (if_pos hmem)
      rw [hs] at hdark
      rw [hdark]
      exact ⟨rfl, rfl⟩
  · refine (hcards.gone c hin).trans ?_
    rw [hfallen]
    rfl
  · refine hcards.left c hin (.inl ?_)
    rw [hd.falls.state]
    exact hs
  · exact (hcards.fault c hin (ha.of_alarms halarms) (by rw [hd.falls.state]; exact hf)).of_alarms rfl
  · obtain ⟨k, hk, hf⟩ := hcards.stays c hnot
    have hcard : (addReason .power t).card c = (cardAfterFalls s (portsShed s) c).behind k := by
      rw [← hfallen]
      exact hk
    rw [hcard]
    refine ⟨rfl, ?_⟩
    show fallsOf (((s.card c).outbox ++ fallsSend s (portsShed s) c) ++ k) = _
    rw [fallsOf_append, hf, List.append_nil, fallsOf_append, fallsOf_fallsSend]
  · refine hcards.names.trans (hd.falls.namesWithout rfl fun n => rfl)
  · exact (hcards.noted (.inl hne)).addReason _

end Sys2Proof.Machine

/-! PROOFS. The passes of the Power Budget Unit do not read the attention sets (R60, R153): in states that differ in them alone they end
in states that differ in them alone. -/

namespace Sys2Proof.Machine

/-- Two states that differ in the attention sets alone. -/
def AttnOnly (s t : State) : Prop := t = { s with attn := t.attn }

namespace AttnOnly

variable {s t : State}

theorem of_eq {a : Attention} (h : t = { s with attn := a }) : AttnOnly s t := by
  rw [h]
  rfl

theorem addReason (r : Reason) (h : AttnOnly s t) : AttnOnly (Machine.addReason r s) (Machine.addReason r t) := by
  rw [h]
  rfl

theorem addReason_right (r : Reason) (h : AttnOnly s t) : AttnOnly s (Machine.addReason r t) := by
  rw [h]
  rfl

theorem forEach {α : Type} {act : α → State → State} (ha : ∀ x s t, AttnOnly s t → AttnOnly (act x s) (act x t)) (l : List α)
    (h : AttnOnly s t) : AttnOnly (Machine.forEach l act s) (Machine.forEach l act t) := by
  induction l generalizing s t with
  | nil => exact h
  | cons x l ih => exact ih (ha x s t h)

/-! ### Ports -/

theorem modPort (n : PortIx) (f : PortRec → PortRec) (h : AttnOnly s t) : AttnOnly (s.modPort n f) (t.modPort n f) := by
  rw [h]
  rfl

theorem modCard (slot : Slot) (f : CardRec → CardRec) (h : AttnOnly s t) : AttnOnly (s.modCard slot f) (t.modCard slot f) := by
  rw [h]
  rfl

theorem modPower (f : PowerBudget → PowerBudget) (h : AttnOnly s t) : AttnOnly (s.modPower f) (t.modPower f) := by
  rw [h]
  rfl

theorem send (slot : Slot) (m : CardMsg) (h : AttnOnly s t) : AttnOnly (Machine.send slot m s) (Machine.send slot m t) :=
  h.modCard slot _

theorem card (h : AttnOnly s t) (c : Slot) : t.card c = s.card c := by
  rw [h]
  rfl

theorem port (h : AttnOnly s t) (n : PortIx) : t.port n = s.port n := by
  rw [h]
  rfl

theorem power_eq (h : AttnOnly s t) : t.power = s.power := by rw [h]

theorem sendJoined (m : CardMsg) (h : AttnOnly s t) : AttnOnly (Machine.sendJoined m s) (Machine.sendJoined m t) := by
  refine h.forEach (fun slot s t h => ?_) allSlots
  rw [h.card]
  split
  · exact h.send slot m
  · exact h

theorem endLoginAt (pos : Nat) (h : AttnOnly s t) : AttnOnly (Machine.endLoginAt pos s) (Machine.endLoginAt pos t) := by
  have hnames : t.names = s.names := by rw [h]
  unfold Machine.endLoginAt
  rw [hnames]
  cases tableGet s.names pos with
  | none => exact h
  | some e =>
    have hwritten : AttnOnly (writeLogout pos e s) (writeLogout pos e t) := by
      unfold writeLogout
      rw [h]
      cases e.status <;> rfl
    exact (hwritten.modPort _ _).sendJoined _

theorem removeLogins (n : PortIx) (h : AttnOnly s t) : AttnOnly (Machine.removeLogins n s) (Machine.removeLogins n t) := by
  have hlist : loginsOn t n = loginsOn s n := by
    rw [h]
    rfl
  unfold Machine.removeLogins
  rw [hlist]
  exact (h.forEach (fun pos _ _ h => h.endLoginAt pos) _).modPort n _

theorem loseServiceable (n : PortIx) (h : AttnOnly s t) : AttnOnly (Machine.loseServiceable n s) (Machine.loseServiceable n t) := by
  have hcard : cardOf t n = cardOf s n := h.card _
  unfold Machine.loseServiceable
  dsimp only
  rw [hcard]
  refine removeLogins n ?_
  split
  · exact (h.modPort n _).send _ _
  · exact h.modPort n _

theorem serviceable (h : AttnOnly s t) (n : PortIx) : serviceable t n = Machine.serviceable s n := by
  rw [h]
  rfl

theorem eligible (h : AttnOnly s t) (n : PortIx) : eligible t n = Machine.eligible s n := by
  rw [h]
  rfl

theorem portDraw (h : AttnOnly s t) (n : PortIx) : portDraw t n = Machine.portDraw s n := by
  rw [h]
  rfl

theorem reviewServiceable (n : PortIx) (was : Bool) (h : AttnOnly s t) :
    AttnOnly (Machine.reviewServiceable n was s) (Machine.reviewServiceable n was t) := by
  unfold Machine.reviewServiceable
  rw [h.serviceable]
  split
  · exact h.loseServiceable n
  · exact h.send _ _
  · exact h
  · exact h

theorem setPower (n : PortIx) (p : PortPower) (hold : Bool) (h : AttnOnly s t) :
    AttnOnly (Machine.setPower n p hold s) (Machine.setPower n p hold t) :=
  h.modPort n _

theorem enterWait (x : WaitItem) (h : AttnOnly s t) : AttnOnly (Machine.enterWait x s) (Machine.enterWait x t) := by
  rw [h]
  rfl

theorem reviewEligible (n : PortIx) (was : Bool) (draw : Nat) (h : AttnOnly s t) :
    AttnOnly (Machine.reviewEligible n was draw s) (Machine.reviewEligible n was draw t) := by
  have hcap : t.power = s.power := h.power_eq
  unfold Machine.reviewEligible
  rw [h.eligible]
  split
  · unfold loseEligibility
    refine setPower n _ _ ?_
    rw [h.port]
    split
    · exact h.modPower _
    · exact h.modPower _
    · exact h
  · unfold joinWait
    rw [h]
    rfl
  · exact h
  · exact h

theorem portChange (n : PortIx) (f : PortRec → PortRec) (h : AttnOnly s t) :
    AttnOnly (Machine.portChange n f s) (Machine.portChange n f t) := by
  unfold Machine.portChange
  rw [h.serviceable, h.eligible, h.portDraw]
  exact ((h.modPort n f).reviewEligible n _ _).reviewServiceable n _

theorem displacePort (n : PortIx) (hold : Bool) (h : AttnOnly s t) : AttnOnly (Machine.displacePort n hold s) (Machine.displacePort n hold t) := by
  unfold Machine.displacePort
  rw [h.serviceable, h.portDraw]
  exact (((h.modPower _).setPower n _ _).enterWait _).reviewServiceable n _

theorem portsFollowCard (slot : Slot) {b c : State} (hb : AttnOnly b c) (h : AttnOnly s t) :
    AttnOnly (Machine.portsFollowCard slot b s) (Machine.portsFollowCard slot c t) := by
  unfold Machine.portsFollowCard
  simp only [hb.serviceable, hb.eligible, hb.portDraw]
  exact h.forEach (fun n _ _ h => (h.reviewEligible n (Machine.eligible b n) (Machine.portDraw b n)).reviewServiceable n
    (Machine.serviceable b n)) _

/-! ### The restore pass (R50) -/

theorem startAdmitting (slot : Slot) (h : AttnOnly s t) : AttnOnly (Machine.startAdmitting slot s) (Machine.startAdmitting slot t) := by
  have hzones : t.zones = s.zones := by rw [h]
  unfold Machine.startAdmitting startTimer clearTemp enterCard
  rw [hzones]
  exact ((((h.modCard slot _).addReason _).modCard slot _).send slot _).modCard slot _

theorem admitCard (slot : Slot) (h : AttnOnly s t) : AttnOnly (Machine.admitCard slot s) (Machine.admitCard slot t) := by
  unfold Machine.admitCard
  rw [h.card]
  exact ((h.modPower _).modPower _).startAdmitting slot

theorem restoreItem (x : WaitItem) (h : AttnOnly s t) : AttnOnly (Machine.restoreItem x s) (Machine.restoreItem x t) := by
  have hfits (d : Nat) : fits t d = fits s d := by
    rw [h]
    rfl
  cases x with
  | card c =>
    rw [restoreItem_card, restoreItem_card, hfits, h.card]
    split
    · exact h.admitCard c
    · exact h
  | port n =>
    rw [restoreItem_port, restoreItem_port, hfits, h.port, h.portDraw]
    split
    · unfold admitPort
      rw [h.portDraw]
      exact ((h.modPower _).modPower _).portChange n _
    · exact h

theorem restorePass (h : AttnOnly s t) : AttnOnly (Machine.restorePass s) (Machine.restorePass t) := by
  have hloop := h.forEach (fun x _ _ h => h.restoreItem x) s.power.waitList
  unfold Machine.restorePass
  dsimp only
  rw [h.power_eq, hloop.power_eq]
  split
  · exact hloop.addReason _
  · exact hloop

/-! ### The Commit Engine (R108 to R111) -/

theorem alarmChanged (silent : Bool) (h : AttnOnly s t) : AttnOnly (Machine.alarmChanged silent s) (Machine.alarmChanged silent t) := by
  unfold Machine.alarmChanged
  split
  · exact h
  · exact h.addReason _

theorem putAlarm (pos : Nat) (e : AlarmEntry) (h : AttnOnly s t) : AttnOnly (Machine.putAlarm pos e s) (Machine.putAlarm pos e t) := by
  rw [h]
  rfl

theorem raiseAlarm (r : Raise) (h : AttnOnly s t) : AttnOnly (Machine.raiseAlarm r s) (Machine.raiseAlarm r t) := by
  have halarms : t.alarms = s.alarms := by rw [h]
  have hfor : alarmFor t r.cause r.subject = alarmFor s r.cause r.subject := by
    unfold alarmFor
    rw [halarms]
  have hup : t.uptime = s.uptime := by rw [h]
  unfold Machine.raiseAlarm
  rw [hfor, halarms, hup]
  split
  · split
    · exact h.putAlarm _ _
    · exact h.putAlarm _ _
    · exact (h.putAlarm _ _).alarmChanged _
  · split
    · exact (h.putAlarm _ _).alarmChanged _
    · exact h

theorem endAlarm (c : Cause) (k : Nat) (h : AttnOnly s t) : AttnOnly (Machine.endAlarm c k s) (Machine.endAlarm c k t) := by
  have halarms : t.alarms = s.alarms := by rw [h]
  have hfor : alarmFor t c k = alarmFor s c k := by
    unfold alarmFor
    rw [halarms]
  have hup : t.uptime = s.uptime := by rw [h]
  unfold Machine.endAlarm
  rw [hfor, hup]
  split
  · split
    · exact (h.putAlarm _ _).alarmChanged _
    · unfold retireAlarm
      refine alarmChanged _ ?_
      rw [h]
      rfl
    · exact h
  · exact h

theorem modCommit (f : CommitEngine → CommitEngine) (h : AttnOnly s t) : AttnOnly (s.modCommit f) (t.modCommit f) := by
  rw [h]
  rfl

theorem modPhase (slot : Slot) (f : CommitCard → CommitCard) (h : AttnOnly s t) : AttnOnly (s.modPhase slot f) (t.modPhase slot f) := by
  rw [h]
  rfl

theorem commit_eq (h : AttnOnly s t) : t.commit = s.commit := by rw [h]

theorem noteRecord (k : Option Half) (g : ResultRec → ResultRec) (h : AttnOnly s t) :
    AttnOnly (Machine.noteRecord k g s) (Machine.noteRecord k g t) := by
  unfold Machine.noteRecord
  cases k with
  | none => exact h
  | some k =>
    have hmod := h.modCommit (CommitEngine.updateRecord k g)
    dsimp only
    rw [hmod.commit_eq, h.commit_eq]
    split
    · exact hmod
    · exact hmod.addReason _

theorem beginCommit (number : Half) (h : AttnOnly s t) : AttnOnly (Machine.beginCommit number s) (Machine.beginCommit number t) := by
  have hset : AttnOnly ((copyToPending s).modCommit fun e =>
      { e with active := some number, queued := none, tally := 0, direction := .forward, engine := .fencing })
      ((copyToPending t).modCommit fun e =>
      { e with active := some number, queued := none, tally := 0, direction := .forward, engine := .fencing }) := by
    rw [h]
    rfl
  unfold Machine.beginCommit
  dsimp only
  have hjoined {u v : State} (h : AttnOnly u v) : joinedCards v = joinedCards u := by
    rw [h]
    rfl
  rw [hjoined hset]
  refine (hset.forEach (fun slot u v h => ?_) _).addReason _
  unfold sendHold awaitPhase
  rw [show holdGeneration v = holdGeneration u by rw [h]; rfl]
  exact (h.modPhase slot _).send slot _

theorem switchLive (h : AttnOnly s t) : AttnOnly (Machine.switchLive s) (Machine.switchLive t) := by
  have hlive : AttnOnly (copyToLive s) (copyToLive t) := by
    rw [h]
    rfl
  unfold Machine.switchLive
  dsimp only
  have hgen : (copyToLive t).zones = (copyToLive s).zones := by rw [hlive]
  rw [hgen, hlive.commit_eq]
  have hreleasing := (hlive.noteRecord (copyToLive s).commit.active fun r => { r with generation := (copyToLive s).zones.generation }).modCommit
    fun e => { e with releaseGen := (copyToLive s).zones.generation, direction := .forward, engine := .releasing }
  have hin {u v : State} (h : AttnOnly u v) (test : Phase → Bool) : cardsIn v test = cardsIn u test := by
    rw [h]
    rfl
  rw [hin hreleasing]
  refine (hreleasing.forEach (fun slot u v h => ?_) _).addReason _
  unfold sendResume awaitPhase
  rw [h.commit_eq]
  exact (h.modPhase slot _).send slot _

theorem closeCommit (h : AttnOnly s t) : AttnOnly (Machine.closeCommit s) (Machine.closeCommit t) := by
  have hout := h.forEach (act := fun slot => setPhase slot .outside) (fun slot _ _ h => h.modPhase slot _) allSlots
  unfold Machine.closeCommit
  dsimp only
  rw [h.commit_eq, hout.commit_eq]
  have hnoted := hout.noteRecord (Machine.forEach allSlots (fun slot => setPhase slot .outside) s).commit.active
    fun r => { r with outcome := endOutcome s.commit }
  rw [hnoted.commit_eq]
  refine (modCommit _ ?_).addReason _
  split
  · exact hnoted.raiseAlarm _
  · exact hnoted

theorem switchIfDue (h : AttnOnly s t) : AttnOnly (Machine.switchIfDue s) (Machine.switchIfDue t) := by
  have hin : cardsIn t (· == .awaitHold) = cardsIn s (· == .awaitHold) := by
    rw [h]
    rfl
  unfold Machine.switchIfDue
  rw [h.commit_eq, hin]
  split
  · exact h.switchLive
  · exact h

theorem endIfDue (h : AttnOnly s t) : AttnOnly (Machine.endIfDue s) (Machine.endIfDue t) := by
  have hin : cardsIn t (· == .awaitResume) = cardsIn s (· == .awaitResume) := by
    rw [h]
    rfl
  unfold Machine.endIfDue
  rw [h.commit_eq, hin]
  split
  · exact h.closeCommit
  · exact h

theorem startQueued (h : AttnOnly s t) : AttnOnly (Machine.startQueued s) (Machine.startQueued t) := by
  unfold Machine.startQueued
  rw [h.commit_eq]
  split
  · exact ((h.beginCommit _).switchIfDue).endIfDue
  · exact h
  · exact h
  · exact h

theorem commitFollows (h : AttnOnly s t) : AttnOnly (Machine.commitFollows s) (Machine.commitFollows t) :=
  h.switchIfDue.endIfDue.startQueued

/-! ### The shed pass (R52, R53) -/

theorem leaveCard (slot : Slot) (st : CardState) (h : AttnOnly s t) : AttnOnly (Machine.leaveCard slot st s) (Machine.leaveCard slot st t) := by
  have hreleased : AttnOnly (releaseCard slot s) (releaseCard slot t) := by
    unfold releaseCard
    rw [h.card]
    split
    · exact h.modPower _
    · split
      · exact h.modPower _
      · exact h
  have hdeparting : AttnOnly (departing slot st s) (departing slot st t) := by
    unfold departing clearTemp stopTimer enterCard
    exact (((hreleased.modCard slot _).addReason _).modCard slot _).modCard slot _
  have htold : AttnOnly (tellDeparture slot s (departing slot st s)) (tellDeparture slot t (departing slot st t)) := by
    unfold tellDeparture
    rw [h.card]
    split
    · refine h.portsFollowCard slot ?_
      have hphase : (departing slot st t).phaseRec slot = (departing slot st s).phaseRec slot := by
        rw [hdeparting]
        rfl
      unfold cardLeft
      rw [hphase]
      split
      · exact hdeparting
      · exact (hdeparting.modPhase slot _).commitFollows
    · exact hdeparting
  rw [leaveCard_eq, leaveCard_eq]
  unfold endCardFault
  rw [h.card]
  split
  · exact htold.endAlarm _ _
  · exact htold

theorem shedPass (h : AttnOnly s t) : AttnOnly (Machine.shedPass s) (Machine.shedPass t) := by
  have hover {u v : State} (h : AttnOnly u v) : overdrawn v = overdrawn u := by
    rw [h]
    rfl
  have hlist : shedPorts t = shedPorts s := by
    rw [h]
    rfl
  unfold Machine.shedPass
  rw [hlist]
  refine ((h.forEach (fun n u v h => ?_) _).forEach (fun c u v h => ?_) _).addReason _
  · unfold shedPortStep
    rw [hover h]
    split
    · exact h.displacePort n false
    · exact h
  · unfold shedCardStep
    rw [hover h, h.card]
    split
    · exact (h.leaveCard c .waiting).enterWait _
    · exact h

theorem budgetPass (a : Nat) (h : AttnOnly s t) : AttnOnly (Machine.budgetPass a s) (Machine.budgetPass a t) := by
  unfold Machine.budgetPass
  rw [h.power_eq]
  split
  · exact h.restorePass
  · split
    · exact h.shedPass
    · exact h

end AttnOnly

end Sys2Proof.Machine

/-! PROOFS. The two passes, the change of the power mode and the deficit (R47, R48, R50, R52, R59). -/

namespace Sys2Proof.Machine

/-! ## The deficit (R59) -/

/-- The claim of the deficit condition where it begins and where it ends (R59). -/
theorem settleDeficit_alarm {s : State} (ha : AlarmsLawful s) :
    (s.power.deficit = false → (settleDeficit s).power.deficit = true → s.alarms.length < 128 →
      AlarmStands (settleDeficit s) .budgetDeficit 0 .critical 0) ∧
    (s.power.deficit = true → (settleDeficit s).power.deficit = false → AlarmOver (settleDeficit s) .budgetDeficit 0) := by
  have hfollows : (settleDeficit s).power.deficit = deficitHolds (settleDeficit s) := deficitFollows_settleDeficit s
  have hholds : deficitHolds (settleDeficit s) = deficitHolds s := by
    rw [settleDeficit_eq]
    rfl
  rw [hfollows, hholds]
  refine ⟨fun hd hh hroom => ?_, fun hd hh => ?_⟩
  · unfold settleDeficit
    rw [hd, hh]
    exact alarmStands_raiseAlarm (plainRaise .budgetDeficit 0 .critical 0) (s := s.modPower fun p => { p with deficit := true }) hroom
  · unfold settleDeficit
    rw [hd, hh]
    exact alarmOver_endAlarm .budgetDeficit 0 (s := s.modPower fun p => { p with deficit := false }) (ha.of_alarms rfl)

/-! ## The power mode (R47, R48) -/

/-- The pass that a change of the budget calls for, whatever the attention sets. -/
theorem attnOnly_modeChanged (mode : PowerMode) (s : State) :
    AttnOnly (budgetPass (allowanceOf s.power) { s with power := { s.power with mode := mode } }) (modeChanged mode s) := by
  have hset : AttnOnly { s with power := { s.power with mode := mode } } (budgetSet (fun p => { p with mode := mode }) s) :=
    .of_eq (budgetSet_eq (fun p => { p with mode := mode }) s)
  unfold modeChanged
  rw [budgetChange_pass]
  exact (hset.budgetPass (allowanceOf s.power)).addReason_right _

end Sys2Proof.Machine

section
open Sys2Proof Sys2Proof.Machine

/-- Settles O13: the deficit by `settleDeficit_eq`, the restore pass by `admits_restorePass`, the shed pass by `shedDone_shedPass`, and
the mode by the pass in a state that differs in the attention sets alone (`attnOnly_modeChanged`). -/
theorem restoreAndShedPasses : Obligations.RestoreAndShedPasses := by
  unfold Obligations.RestoreAndShedPasses
  refine ⟨?_, ?_, ?_, ?_⟩
  · intro s t
    exact ⟨deficitFollows_settleDeficit s, settleDeficit_of_follows, settleDeficit_eq s, settleDeficit_alarm⟩
  · intro s hw hn taken t
    obtain ⟨hadmits, hnoted, hnil⟩ := admits_restorePass ((waitsLaw_iff.2 hw).passable hn)
    exact ⟨hadmits.power, hadmits.port, hadmits.card, hnoted, hnil, fun c hc => hadmits.slot ⟨c, hc⟩, hadmits.frame⟩
  · intro s ports hw hn hdraw hcommit hnames hmem hsorted cards gone drawn out t
    have hdone : ShedDone s t (portsShed s) (cardsShed s) := shedDone_shedPass hw hnames hcommit
    have hwithin : t.power.admitted ≤ allowanceOf s.power := by
      rw [← allowanceOf_of_supply (shedPass_supply s)]
      exact overdrawn_eq_false.1 (overdrawn_shedPass (s := s) hdraw.le)
    have hmoves : Moves .power s t := Moves.refl.shedPass
    have hgone : portsShed s = gone := by
      unfold portsShed
      rw [eq_shedPorts hmem hsorted]
    have hout : cardsShed s = out := by
      unfold cardsShed
      rw [hgone]
    rw [hgone, hout] at hdone
    have hpower : Noted .power t := noted_addReason_self .power _
    clear_value gone out t
    refine ⟨?_, hwithin, hdone.cards, hdone.ports, fun n hnot => ?_, hdone.off, hdone.shed, hdone.stays, hdone.names, hdone.noted,
      hpower, hmoves.licensesKept rfl, hmoves.settingsKept rfl, hmoves.sensorsKept rfl, hmoves.outside⟩
    · exact hdone.power
    · rw [hdone.port n hnot]
      unfold displacedPort portFallen
      split
      · split <;> rfl
      · rfl
  · intro f field mode s hclear hfield hne moved passed
    have hattn := attnOnly_modeChanged mode s
    refine ⟨settleDeficit (modeChanged mode s), by rw [exec_setPowerMode hclear, setPowerMode_of_ne hfield hne], ?_⟩
    have hpassed : budgetPass (allowanceOf s.power) moved = passed := rfl
    have hsettled := settleDeficit_eq (modeChanged mode s)
    change AttnOnly (budgetPass (allowanceOf s.power) moved) _ at hattn
    rw [hpassed] at hattn
    clear_value passed
    have hfollows := deficitFollows_settleDeficit (modeChanged mode s)
    generalize modeChanged mode s = v at hattn hsettled hfollows
    generalize settleDeficit v = t at hsettled hfollows
    rw [hattn] at hsettled
    refine ⟨?_, ?_, ?_, ?_, ?_, ?_, ?_, hfollows⟩ <;> rw [hsettled]

end

/-! PROOFS. A card that is fenced (R32, R107): the count, the claim on the Slot Controller, the card, its ports and its alarm, before the
engine goes on. -/

namespace Sys2Proof.Machine

/-! ## Cards that are sent messages and no more -/

/-- From s to t a card has been sent messages at most. -/
def MailOnly (s t : State) : Prop := ∀ c, ∃ k, t.card c = (s.card c).behind k

namespace MailOnly

variable {s t u : State}

theorem refl (s : State) : MailOnly s s := fun _ => ⟨[], (CardRec.behind_nil _).symm⟩

theorem trans (h : MailOnly s t) (h' : MailOnly t u) : MailOnly s u := fun c => by
  obtain ⟨k, hk⟩ := h c
  obtain ⟨k', hk'⟩ := h' c
  exact ⟨k ++ k', by rw [hk', hk, CardRec.behind_behind]⟩

theorem of_cards (h : MailOnly s t) (hk : u.cards = t.cards) : MailOnly s u := fun c => by
  rw [card_of_cards hk]
  exact h c

theorem send (slot : Slot) (m : CardMsg) (h : MailOnly s t) : MailOnly s (Machine.send slot m t) := by
  refine h.trans fun c => ?_
  rw [Machine.send, modCard_card]
  split
  next he => exact ⟨[m], by rw [he]; rfl⟩
  next => exact ⟨[], (CardRec.behind_nil _).symm⟩

theorem forEach {α : Type} {act : α → State → State} (ha : ∀ x t, MailOnly s t → MailOnly s (act x t)) (l : List α)
    (h : MailOnly s t) : MailOnly s (Machine.forEach l act t) :=
  forEach_keeps ha l h

theorem sendJoined (m : CardMsg) (h : MailOnly s t) : MailOnly s (Machine.sendJoined m t) := by
  refine h.forEach (fun slot t ht => ?_) _
  split
  · exact ht.send slot m
  · exact ht

theorem removeLogins (n : PortIx) (h : MailOnly s t) : MailOnly s (Machine.removeLogins n t) := by
  refine of_cards (h.forEach (act := endLoginAt) (fun pos t ht => ?_) _) rfl
  unfold endLoginAt
  split
  next e _ =>
    rw [endLogin_eq]
    refine sendJoined _ (of_cards (t := writeLogout pos e t) ?_ rfl)
    rw [writeLogout_eq]
    exact ht.of_cards rfl
  next => exact ht

theorem loseServiceable (n : PortIx) (h : MailOnly s t) : MailOnly s (Machine.loseServiceable n t) := by
  have hdark : MailOnly s (t.modPort n fun r => { r with link := .dark }) := h.of_cards rfl
  unfold Machine.loseServiceable
  refine removeLogins n ?_
  split
  · exact hdark.send _ _
  · exact hdark

theorem reviewServiceable (n : PortIx) (was : Bool) (h : MailOnly s t) : MailOnly s (Machine.reviewServiceable n was t) := by
  unfold Machine.reviewServiceable
  split
  · exact h.loseServiceable n
  · exact h.send _ _
  · exact h
  · exact h

theorem reviewEligible (n : PortIx) (was : Bool) (draw : Nat) (h : MailOnly s t) : MailOnly s (Machine.reviewEligible n was draw t) := by
  refine h.of_cards ?_
  unfold Machine.reviewEligible loseEligibility
  split
  · split <;> rfl
  · rfl
  · rfl
  · rfl

theorem portsFollowCard (slot : Slot) (before : State) (h : MailOnly s t) : MailOnly s (Machine.portsFollowCard slot before t) :=
  h.forEach (fun n _ ht => (ht.reviewEligible n _ _).reviewServiceable n _) _

end MailOnly

/-! ## The count (R107) -/

/-- The number of cards fenced in the active commit, with one more. -/
def fenceTally (s : State) : Nat := min (s.commit.tally + 1) 255

/-- The state once the engine has counted a card's fence, before its claim. -/
def fenceNoted (slot : Slot) (s : State) : State :=
  noteRecord s.commit.active (fun r => { r with fenced := fenceTally s })
    ((setPhase slot .outside s).modCommit fun e => { e with tally := fenceTally s })

theorem fenceCard_eq (slot : Slot) (s : State) : fenceCard slot s = commitFollows (fenceClaim slot (fenceNoted slot s)) := rfl

theorem fenceNoted_eq (slot : Slot) (s : State) : fenceNoted slot s = { s with
    commit := { s.commit with
      tally := fenceTally s, cards := s.commit.cards.set slot { s.phaseRec slot with phase := .outside, timerOn := false }
      current := (changeRecord s.commit.active (fun r => { r with fenced := fenceTally s }) s.commit.records).1
      previous := (changeRecord s.commit.active (fun r => { r with fenced := fenceTally s }) s.commit.records).2 }
    attn := (fenceNoted slot s).attn } :=
  noteRecord_eq _ _ _

theorem fenceNoted_phaseRec (slot c : Slot) (s : State) : (fenceNoted slot s).phaseRec c = (setPhase slot .outside s).phaseRec c := by
  rw [fenceNoted_eq]
  rfl

/-! ## The claim (R32) -/

/-- A Joined card as it is fenced. -/
def fencedCard (slot : Slot) (s : State) (c : Slot) : CardRec :=
  if slot = c then CardRec.enter .fenced (s.card slot) else s.card c

/-- What the card that is fenced and the others are sent, by the ports that fall with it. -/
def fenceSends (slot : Slot) (s : State) (c : Slot) : List CardMsg :=
  if c = slot then ((slotPorts slot).filter (serviceable s)).map fun n => .revoke (posOf n) else fallsSend s (slotPorts slot) c

/-- From s to u the Slot Controller has taken a fence claim for a Joined card (R32). -/
structure Claimed (slot : Slot) (s u : State) : Prop where
  frame : u = { s with
    ports := u.ports, cards := u.cards, names := u.names, commit := u.commit, alarms := u.alarms, attn := u.attn }
  port : ∀ n, u.port n = { s.port n with link := (u.port n).link, logins := (u.port n).logins }
  card : ∀ c, ∃ k, u.card c = (fencedCard slot s c).behind k
  fallen : ∀ n, slotOf n = slot → serviceable s n = true → Dark u n ∧ CardMsg.revoke (posOf n) ∈ (u.card slot).outbox
  stands : s.alarms.length < 128 → AlarmStands u .cardFault (slot.val + 1) .major 4
  lawful : AlarmsLawful s → AlarmsLawful u
  room : u.alarms.length ≤ s.alarms.length + 1
  noted : Noted .slot u
  falls : NamesLawful s → u.names = namesWithout s (fun n => slotOf n == slot) ∧
    ∀ c, u.card c = (fencedCard slot s c).behind (fenceSends slot s c)

/-- The engine's records and the attention sets before the claim may be anything. -/
theorem Claimed.of_records {slot : Slot} {s p u : State} (h : Claimed slot p u) (hp : p = { s with commit := p.commit, attn := p.attn }) :
    Claimed slot s u := by
  obtain ⟨C, A, rfl⟩ : ∃ C A, p = { s with commit := C, attn := A } := ⟨_, _, hp⟩
  exact ⟨h.frame, h.port, h.card, h.fallen, h.stands, h.lawful, h.room, h.noted, h.falls⟩

theorem claimed_fenceClaim {slot : Slot} {s : State} (hj : (s.card slot).state = .joined) :
    Claimed slot s (fenceClaim slot s) ∧ (fenceClaim slot s).commit = s.commit := by
  have hcore := fenceClaim_core hj
  have hclaim : fenceClaim slot s = portsFollowCard slot s
      (raiseAlarm (plainRaise .cardFault (slotNumber slot) .major 4) (enterCard slot .fenced s)) := if_pos hj
  have hentered (c : Slot) : (enterCard slot .fenced s).card c = fencedCard slot s c :=
    modCard_card slot c (CardRec.enter .fenced) s
  have hraised := raiseAlarm_eq (plainRaise .cardFault (slotNumber slot) .major 4) (enterCard slot .fenced s)
  have hstands : s.alarms.length < 128 → AlarmStands (raiseAlarm (plainRaise .cardFault (slotNumber slot) .major 4)
      (enterCard slot .fenced s)) .cardFault (slot.val + 1) .major 4 := fun hroom => alarmStands_raiseAlarm _ hroom
  have hlawful : AlarmsLawful s → AlarmsLawful (raiseAlarm (plainRaise .cardFault (slotNumber slot) .major 4)
      (enterCard slot .fenced s)) := fun ha => (ha.of_alarms (t := enterCard slot .fenced s) rfl).raiseAlarm _
  have hroom := length_raiseAlarm_le (plainRaise .cardFault (slotNumber slot) .major 4) (enterCard slot .fenced s)
  have hnoted : Noted .slot (raiseAlarm (plainRaise .cardFault (slotNumber slot) .major 4) (enterCard slot .fenced s)) :=
    (noted_addReason_self .slot (s.modCard slot (CardRec.enter .fenced))).raiseAlarm _
  rw [hclaim] at hcore ⊢
  generalize raiseAlarm (plainRaise .cardFault (slotNumber slot) .major 4) (enterCard slot .fenced s) = v
    at hcore hraised hstands hlawful hroom hnoted ⊢
  have hvcard (c : Slot) : v.card c = fencedCard slot s c := by
    rw [hraised]
    exact hentered c
  have hvself : v.card slot = CardRec.enter .fenced (s.card slot) := (hvcard slot).trans (if_pos rfl)
  have hvports : v.ports = s.ports := by rw [hraised]; rfl
  have hwork := (PortWork.refl v).portsFollowCard slot s
  have hmail := (MailOnly.refl v).portsFollowCard slot s
  have hout : (v.card slot).state ≠ .joined := by rw [hvself]; nofun
  have hcommit : (portsFollowCard slot s v).commit = s.commit := by
    rw [hwork, hraised]
    rfl
  refine ⟨⟨?_, fun n => ?_, fun c => ?_, fun n hn hs => ?_, fun ha => ?_, fun ha => ?_, ?_, ?_, fun hnames => ?_⟩, hcommit⟩
  · have hpower : (portsFollowCard slot s v).power = s.power := hcore.power
    generalize portsFollowCard slot s v = u at hwork hpower hcommit
    rw [hcommit, hwork, hpower, hraised]
    rfl
  · exact hcore.port n
  · obtain ⟨k, hk⟩ := hmail c
    exact ⟨k, by rw [hk, hvcard]⟩
  · obtain ⟨hdark, hrevoke⟩ := portsFollowCard_fallen hs hn hout
    exact ⟨hdark, hrevoke (by rw [hvself]; rfl)⟩
  · exact (hstands ha).of_alarms hwork.alarms
  · exact (hlawful ha).of_alarms hwork.alarms
  · rw [hwork.alarms]
    exact hroom
  · exact (Moves.refl (k := .power).portsFollowCard slot s).noted hnoted
  · have hvnames : v.names = s.names := by rw [hraised]; rfl
    have hsame (n : PortIx) : eligible v n = eligible s n := by
      have hstate : (cardOf v n).state.inService = (cardOf s n).state.inService := by
        rw [cardOf, cardOf, hvcard, fencedCard]
        split
        next he => rw [← he, hj]; rfl
        next => rfl
      have hid : (cardOf v n).identity = (cardOf s n).identity := by
        rw [cardOf, cardOf, hvcard, fencedCard]
        split
        next he => rw [← he]; rfl
        next => rfl
      have hcount : (cardOf v n).portCount = (cardOf s n).portCount := by rw [CardRec.portCount, CardRec.portCount, hid]
      unfold eligible withinCount
      rw [hcount, hstate, port_of_ports hvports]
    obtain ⟨-, -, hfalls⟩ := follow_fenced (before := s) (slotPorts_nodup slot) (s := v) (hnames.of_names hvnames)
      (fun n _ => hsame n) fun n hn => by rw [mem_slotPorts.1 hn]; exact hout
    refine ⟨Falls.namesWithout hfalls hvnames fun n => ?_, fun c => (hfalls.card c).trans ?_⟩
    · rw [← Bool.decide_coe (slotOf n == slot)]
      exact decide_eq_decide.2 (by rw [beq_iff_eq, mem_slotPorts])
    · rw [hvcard]
      refine congrArg _ ?_
      unfold fenceSends
      split
      next he =>
        subst he
        rw [List.map_eq_flatMap]
        refine List.flatMap_congr fun n hn => ?_
        have hn := mem_slotPorts.1 (List.mem_filter.1 hn).1
        unfold lostSends
        rw [if_pos ⟨hn, by rw [hvself]; rfl⟩, if_neg hout, List.append_nil]
      next he =>
        refine List.flatMap_congr fun n hn => ?_
        rw [← lostSends_of_serviceable (List.mem_filter.1 hn).2]
        unfold lostSends
        rw [hvcard, fencedCard, if_neg fun h : slot = c => he h.symm, loggedIn_of_names hvnames]

/-- From s to u a Joined card has been fenced, the fence counted, and the engine has not yet gone on (R32, R107). -/
structure Fenced (slot : Slot) (s u : State) : Prop extends Claimed slot s u where
  commit : u.commit = { s.commit with
    tally := fenceTally s, cards := u.commit.cards, current := u.commit.current, previous := u.commit.previous }
  records : u.commit.records = changeRecord s.commit.active (fun r => { r with fenced := fenceTally s }) s.commit.records
  outside : (u.phaseRec slot).phase = .outside
  phase : ∀ c, c ≠ slot → u.phaseRec c = s.phaseRec c

theorem fenced_fenceCard {slot : Slot} {s : State} (hj : (s.card slot).state = .joined) :
    ∃ u, Fenced slot s u ∧ fenceCard slot s = commitFollows u := by
  have hnoted := fenceNoted_eq slot s
  have hphase (c : Slot) := fenceNoted_phaseRec slot c s
  obtain ⟨hclaimed, hcommit⟩ := claimed_fenceClaim (slot := slot) (s := fenceNoted slot s) (by rw [hnoted]; exact hj)
  have hphases (c : Slot) : (fenceClaim slot (fenceNoted slot s)).phaseRec c = (setPhase slot .outside s).phaseRec c :=
    (phaseRec_of_commit hcommit c).trans (hphase c)
  refine ⟨fenceClaim slot (fenceNoted slot s), ⟨hclaimed.of_records ?_, ?_, ?_, ?_, fun c hc => ?_⟩, fenceCard_eq slot s⟩
  · generalize fenceNoted slot s = p at hnoted
    have hc : p.commit = _ := congrArg State.commit hnoted
    rw [hc]
    exact hnoted
  · rw [hcommit, hnoted]
  · rw [hcommit, hnoted]
    rfl
  · rw [hphases]
    exact setPhase_phase_same slot .outside s
  · rw [hphases]
    exact setPhase_phaseRec_other hc .outside s

end Sys2Proof.Machine

/-! PROOFS. How the engine goes on from a fence (R107 to R111), and the Hold and Resume timeouts (R106, R110). -/

namespace Sys2Proof.Machine

/-! ## What the engine leaves of a fence -/

section Left
variable {slot : Slot} {s u : State}

/-- What a fence leaves at the end of its event of the card, its ports, its alarm and what it does not touch (R22, R32, R38). -/
def FenceLeft (slot : Slot) (s t : State) : Prop :=
  (t.card slot).state = .fenced ∧ (t.card slot).powerEnable = true ∧ (t.card slot).identity = (s.card slot).identity ∧
  (t.phaseRec slot).phase = .outside ∧
  (AlarmsLawful s → s.alarms.length < 128 → AlarmStands t .cardFault (slot.val + 1) .major 4) ∧
  (∀ n, slotOf n = slot → serviceable t n = false ∧ (t.port n).power = (s.port n).power ∧
    (serviceable s n = true → (t.port n).link = .dark ∧ (t.port n).logins = 0 ∧
      CardMsg.revoke (posOf n) ∈ (t.card slot).outbox)) ∧
  (∀ p, (t.attention p).set.slot = true) ∧
  (NamesLawful s → t.names = (namesWithout s fun n => slotOf n == slot) ∧
    (t.card slot).outbox = (s.card slot).outbox ++ ((slotPorts slot).filter (serviceable s)).map (fun n => .revoke (posOf n)) ∧
    ∀ c, c ≠ slot → fallsOf (t.card c).outbox = fallsOf (s.card c).outbox ++ fallsSend s (slotPorts slot) c) ∧
  t.power = s.power ∧ t.license = s.license ∧ SettingsKept s t ∧ SensorsKept s t ∧ OutsideKept s t

theorem fencedCard_self (slot : Slot) (s : State) : fencedCard slot s slot = CardRec.enter .fenced (s.card slot) := if_pos rfl

theorem fencedCard_other {c : Slot} (h : c ≠ slot) : fencedCard slot s c = s.card c := if_neg fun he : slot = c => h he.symm

theorem Fenced.card_self (h : Fenced slot s u) : ∃ k, u.card slot = (CardRec.enter .fenced (s.card slot)).behind k := by
  obtain ⟨k, hk⟩ := h.card slot
  exact ⟨k, by rw [hk, fencedCard_self]⟩

theorem Fenced.joined_iff (h : Fenced slot s u) (c : Slot) : (u.card c).state = .joined ↔ c ≠ slot ∧ (s.card c).state = .joined := by
  obtain ⟨k, hk⟩ := h.card c
  rw [hk]
  by_cases hc : c = slot
  · subst hc
    rw [fencedCard_self]
    exact iff_of_false nofun fun hand => hand.1 rfl
  · rw [fencedCard_other hc]
    exact (and_iff_right hc).symm

theorem fallsOf_behind (c : CardRec) (k : List CardMsg) : fallsOf (c.behind k).outbox = fallsOf c.outbox ++ fallsOf k :=
  fallsOf_append _ _

theorem Fenced.left (h : Fenced slot s u) : FenceLeft slot s (commitFollows u) := by
  have hmail := EngineMail.commitFollows u
  obtain ⟨k, hself⟩ := h.card_self
  obtain ⟨hcard, hphase⟩ := hmail.outside slot (by rw [hself]; nofun) h.outside
  have hnoted := (Moves.refl (k := .power) (s := u)).commitFollows.noted h.noted
  generalize commitFollows u = t at hmail hcard hphase hnoted
  have hframe := hmail.frame
  have hufr := h.frame
  have hports : t.ports = u.ports := by rw [hframe]
  have hnames : t.names = u.names := by rw [hframe]
  have hlast : t.card slot = (CardRec.enter .fenced (s.card slot)).behind k := hcard.trans hself
  refine ⟨by rw [hlast]; rfl, by rw [hlast]; rfl, by rw [hlast]; rfl, hphase, fun ha hroom => ?_, fun n hn => ⟨?_, ?_, fun hs => ?_⟩,
    hnoted, fun hn => ?_, ?_, ?_, fun n => ?_, ?_, ?_⟩
  · exact hmail.claims.stands (c := .cardFault) (h.lawful ha) nofun (h.stands hroom)
  · exact serviceable_of_not_joined (by rw [cardOf, hn, hlast]; nofun)
  · rw [port_of_ports hports, h.port]
  · obtain ⟨hdark, hrevoke⟩ := h.fallen n hn hs
    rw [port_of_ports hports, hcard]
    exact ⟨hdark.1, hdark.2, hrevoke⟩
  · obtain ⟨hgone, hcards⟩ := h.falls hn
    refine ⟨hnames.trans hgone, ?_, fun c hc => ?_⟩
    · rw [hcard, hcards, fencedCard_self, fenceSends, if_pos rfl]
      rfl
    · obtain ⟨k, hk, hf⟩ := hmail.card c
      rw [hk, hcards, fencedCard_other hc, fenceSends, if_neg hc, fallsOf_behind, fallsOf_behind, hf, List.append_nil, fallsOf_fallsSend]
  · rw [hframe, hufr]
  · rw [hframe, hufr]
  · rw [port_of_ports hports, h.port]
    exact ⟨rfl, rfl⟩
  · rw [hframe, hufr]
    exact ⟨rfl, rfl⟩
  · rw [hframe, hufr]
    exact ⟨rfl, rfl, rfl, rfl, rfl⟩

/-! ## The switch and the end (R109 to R111) -/

/-- Another card is in a phase. -/
def OtherIn (slot : Slot) (s : State) (p : Phase) : Prop := ∃ c, c ≠ slot ∧ (s.phaseRec c).phase = p

theorem Fenced.forall_phase (h : Fenced slot s u) {p : Phase} (hp : p ≠ .outside) (hnone : ¬ OtherIn slot s p) (c : Slot) : (u.phaseRec c).phase ≠ p := by
  by_cases hc : c = slot
  · rw [hc, h.outside]
    exact hp.symm
  · rw [h.phase c hc]
    exact fun he => hnone ⟨c, hc, he⟩

theorem Fenced.exists_phase (h : Fenced slot s u) {p : Phase} (hsome : OtherIn slot s p) :
    ∃ c, (u.phaseRec c).phase = p := by
  obtain ⟨c, hc, hp⟩ := hsome
  exact ⟨c, by rw [h.phase c hc]; exact hp⟩

theorem Fenced.engine (h : Fenced slot s u) : u.commit.engine = s.commit.engine := by rw [h.commit]

theorem Fenced.zones (h : Fenced slot s u) : u.zones = s.zones := by rw [h.frame]

/-- The switch that leaves a card awaited, told now or before (R109). -/
theorem commitFollows_of_switch_waits (he : u.commit.engine = .fencing) (hnone : ∀ c, (u.phaseRec c).phase ≠ .awaitHold)
    (h : ∃ c, (u.phaseRec c).phase = .held ∨ (u.phaseRec c).phase = .late ∨ (u.phaseRec c).phase = .awaitResume) :
    commitFollows u = switchLive u := by
  have hswitched := switched_switchLive u
  obtain ⟨c, hc⟩ := h
  by_cases htold : (u.phaseRec c).phase = .held ∨ (u.phaseRec c).phase = .late
  · exact commitFollows_of_switch he hnone ⟨c, htold⟩
  · have hwaits := (or_assoc.2 hc).resolve_left htold
    rw [commitFollows, switchIfDue_of_due he hnone, endIfDue_of_waiting ⟨c, by rw [hswitched.told.phase_other c htold]; exact hwaits⟩,
      startQueued_of_busy (by rw [hswitched.commit]; nofun)]

/-- A fence that leaves no card to hold makes the switch, which leaves a card awaited (R107, R109). -/
theorem Fenced.switched (h : Fenced slot s u) (he : s.commit.engine = .fencing) (hnone : ¬ OtherIn slot s .awaitHold)
    (hmore : OtherIn slot s .held ∨ OtherIn slot s .late ∨ OtherIn slot s .awaitResume) : Switched u (commitFollows u) := by
  rw [commitFollows_of_switch_waits (h.engine.trans he) (h.forall_phase nofun hnone)]
  · exact switched_switchLive u
  · rcases hmore with hheld | hlate | hresume
    · exact (h.exists_phase hheld).imp fun _ => .inl
    · exact (h.exists_phase hlate).imp fun _ hc => .inr (.inl hc)
    · exact (h.exists_phase hresume).imp fun _ hc => .inr (.inr hc)

/-- From s to x a Joined card has been fenced and its commit has ended: the record takes a change, the Zone Store is z, and the queued
commit has not yet started. -/
structure FenceEnds (slot : Slot) (g : ResultRec → ResultRec) (z : ZoneStore) (s x : State) : Prop where
  engine : x.commit.engine = .idle
  active : x.commit.active = none
  tally : x.commit.tally = 0
  queued : x.commit.queued = s.commit.queued
  outside : ∀ c, (x.phaseRec c).phase = .outside
  zones : x.zones = z
  records : x.commit.records = changeRecord s.commit.active (fun r => g { r with fenced := fenceTally s }) s.commit.records
  joined : ∀ c, (x.card c).state = .joined ↔ c ≠ slot ∧ (s.card c).state = .joined

theorem fenceTally_ne_zero (s : State) : fenceTally s ≠ 0 := by
  unfold fenceTally
  omega

/-- A fence that leaves no card awaited in a commit that goes forward ends it degraded, with the switch (R109, R111). -/
theorem Fenced.ends_hold (h : Fenced slot s u) (he : s.commit.engine = .fencing)
    (hhold : ¬ OtherIn slot s .awaitHold) (hheld : ¬ OtherIn slot s .held) (hlate : ¬ OtherIn slot s .late)
    (hresume : ¬ OtherIn slot s .awaitResume) :
    ∃ x, commitFollows u = startQueued x ∧
      FenceEnds slot (fun r => { r with outcome := .passedDegraded, generation := s.zones.generation + 1 }) (zonesSwitched s.zones) s x ∧
      (s.alarms.length < 127 → AlarmStands x .commitDegraded 0 .major (fenceTally s)) := by
  have hswitched := switched_switchLive u
  have hclosed := closed_closeCommit (switchLive u)
  refine ⟨_, commitFollows_of_switch_end (h.engine.trans he) (h.forall_phase nofun hhold) (h.forall_phase nofun hheld)
    (h.forall_phase nofun hlate) (h.forall_phase nofun hresume), ?_⟩
  have hstate (c : Slot) : ((switchLive u).card c).state = (u.card c).state := (EngineMail.switchLive u).state c
  generalize switchLive u = w at hswitched hclosed hstate
  have hdirection : w.commit.direction = .forward := by rw [hswitched.commit]
  have htally : w.commit.tally = fenceTally s := by rw [hswitched.commit, h.commit]
  have hactive : w.commit.active = s.commit.active := by rw [hswitched.commit, h.commit]
  have houtcome : endOutcome w.commit = .passedDegraded :=
    endOutcome_degraded hdirection (by rw [htally]; exact fenceTally_ne_zero s)
  generalize closeCommit w = x at hclosed
  refine ⟨⟨?_, ?_, ?_, ?_, hclosed.outside, ?_, ?_, fun c => ?_⟩, fun hroom => ?_⟩
  · rw [hclosed.commit]
  · rw [hclosed.commit]
  · rw [hclosed.commit]
  · rw [hclosed.commit, hswitched.commit, h.commit]
  · rw [hclosed.frame, hswitched.frame, h.zones]
  · rw [hclosed.records, hactive, houtcome, hswitched.records, h.zones, show u.commit.active = s.commit.active by rw [h.commit], h.records,
      changeRecord_changeRecord, changeRecord_changeRecord]
    · exact fun _ => rfl
    · exact fun _ => rfl
  · rw [show x.card c = w.card c by rw [hclosed.frame]; rfl, hstate]
    exact h.joined_iff c
  · rw [← htally]
    refine hclosed.alarmStands houtcome ?_
    have hroomLeft := h.room
    rw [hswitched.frame]
    exact Nat.lt_of_le_of_lt hroomLeft (Nat.succ_lt_succ hroom)

theorem Fenced.outcome_forward (h : Fenced slot s u) (hd : s.commit.direction = .forward) : endOutcome u.commit = .passedDegraded :=
  endOutcome_degraded (by rw [h.commit]; exact hd) (by rw [h.commit]; exact fenceTally_ne_zero s)

theorem Fenced.outcome_abort (h : Fenced slot s u) (hd : s.commit.direction = .abort) : endOutcome u.commit = .aborted := by
  rw [h.commit, endOutcome, hd]

/-- A fence that leaves no card awaited in Releasing is the end (R110, R111). -/
theorem Fenced.ends_resume (h : Fenced slot s u) (he : s.commit.engine = .releasing)
    (hnone : ¬ OtherIn slot s .awaitResume) :
    ∃ x, commitFollows u = startQueued x ∧
      FenceEnds slot (fun r => { r with outcome := endOutcome u.commit }) s.zones s x ∧
      (s.commit.direction = .forward → s.alarms.length < 127 → AlarmStands x .commitDegraded 0 .major (fenceTally s)) := by
  have hclosed := closed_closeCommit u
  refine ⟨_, commitFollows_of_end (h.engine.trans he) (h.forall_phase nofun hnone), ?_⟩
  have htally : u.commit.tally = fenceTally s := by rw [h.commit]
  generalize closeCommit u = x at hclosed
  refine ⟨⟨?_, ?_, ?_, ?_, hclosed.outside, ?_, ?_, fun c => ?_⟩, fun hdirection hroom => ?_⟩
  · rw [hclosed.commit]
  · rw [hclosed.commit]
  · rw [hclosed.commit]
  · rw [hclosed.commit, h.commit]
  · rw [hclosed.frame, h.zones]
  · rw [hclosed.records, show u.commit.active = s.commit.active by rw [h.commit], h.records, changeRecord_changeRecord]
    exact fun _ => rfl
  · rw [show x.card c = u.card c by rw [hclosed.frame]; rfl]
    exact h.joined_iff c
  · rw [← htally]
    exact hclosed.alarmStands (h.outcome_forward hdirection) (Nat.lt_of_le_of_lt h.room (Nat.succ_lt_succ hroom))

end Left

/-! ## The record of the commit -/

/-- The record of the active commit takes a change, wherever it stands. -/
def RecordTakes (s t : State) (g : ResultRec → ResultRec) : Prop :=
  (∀ r, s.commit.current = some r → s.commit.active = some r.number →
    t.commit.current = some (g { r with fenced := fenceTally s })) ∧
  ∀ r, s.commit.previous = some r → s.commit.active = some r.number →
    (∀ q, s.commit.current = some q → q.number ≠ r.number) → t.commit.previous = some (g { r with fenced := fenceTally s })

theorem recordTakes_of_records {s t : State} {g : ResultRec → ResultRec}
    (h : t.commit.records = changeRecord s.commit.active (fun r => g { r with fenced := fenceTally s }) s.commit.records) :
    RecordTakes s t g :=
  noted_of_records h

/-- What the switch leaves where a card awaits its Resume (R109). -/
theorem Fenced.switchedRule {slot : Slot} {s u : State} (h : Fenced slot s u) (he : s.commit.engine = .fencing)
    (hnone : ¬ OtherIn slot s .awaitHold) (hmore : OtherIn slot s .held ∨ OtherIn slot s .late) :
    let t := commitFollows u
    t.zones.pending = Image.empty ∧ t.zones.working = s.zones.working ∧
      t.zones.live = s.zones.pending ∧ t.zones.generation = s.zones.generation + 1 ∧ t.commit.engine = .releasing ∧
      t.commit.direction = .forward ∧ t.commit.releaseGen = s.zones.generation + 1 ∧
      t.commit.active = s.commit.active ∧ t.commit.tally = fenceTally s ∧
      (∀ c, c ≠ slot → (s.phaseRec c).phase = .held ∨ (s.phaseRec c).phase = .late →
        t.phaseRec c = { phase := .awaitResume, resends := 0, timeout := 250, timerOn := true } ∧
        CardMsg.resume (s.zones.generation + 1) ∈ (t.card c).outbox) ∧
      RecordTakes s t fun r => { r with generation := s.zones.generation + 1 } := by
  have hswitched := h.switched he hnone (hmore.imp_right .inl)
  dsimp only
  generalize commitFollows u = t at hswitched
  have hzones : t.zones = zonesSwitched s.zones := by rw [hswitched.frame, h.zones]
  refine ⟨by rw [hzones]; rfl, by rw [hzones]; rfl, by rw [hzones]; rfl, by rw [hzones]; rfl, ?_, ?_, ?_, ?_, ?_, fun c hc hp => ?_,
    recordTakes_of_records ?_⟩
  · rw [hswitched.commit]
  · rw [hswitched.commit]
  · rw [hswitched.commit, h.zones]
  · rw [hswitched.commit, h.commit]
  · rw [hswitched.commit, h.commit]
  · have htold : (u.phaseRec c).phase = .held ∨ (u.phaseRec c).phase = .late := by rwa [h.phase c hc]
    rw [hswitched.told.phase c htold, hswitched.told.card c htold, h.zones]
    exact ⟨rfl, List.mem_append_right _ (List.mem_singleton.2 rfl)⟩
  · rw [hswitched.records, h.zones, show u.commit.active = s.commit.active by rw [h.commit], h.records, changeRecord_changeRecord]
    exact fun _ => rfl

/-! ## The start of the queued commit (R111, step 5) -/

/-- A change of another commit's record leaves what the active one's record took. -/
theorem RecordTakes.changed {s x t : State} {g f : ResultRec → ResultRec} {k : Half} (h : RecordTakes s x g)
    (hg : ∀ r, (g r).number = r.number) (hk : some k ≠ s.commit.active)
    (ht : t.commit.records = changeRecord (some k) f x.commit.records) : RecordTakes s t g := by
  refine ⟨fun r hr ha => ?_, fun r hr ha hq => ?_⟩
  · refine (congrArg Prod.fst ht).trans (changeRecord_current_other (h.1 r hr ha) fun he => hk (he.trans ?_))
    rw [hg, ha]
  · refine (congrArg Prod.snd ht).trans (changeRecord_previous_other (h.2 r hr ha hq) fun he => hk (he.trans ?_))
    rw [hg, ha]

section Queued
variable {slot : Slot} {g : ResultRec → ResultRec} {z : ZoneStore} {s x : State}

/-- Another card is Joined. -/
def OthersUp (slot : Slot) (s : State) : Prop := ∃ c, c ≠ slot ∧ (s.card c).state = .joined

theorem FenceEnds.of_none (hq : s.commit.queued = none) (h : FenceEnds slot g z s x) : startQueued x = x :=
  startQueued_of_none (h.queued.trans hq)

theorem FenceEnds.begun {k : Half} (h : FenceEnds slot g z s x) (hq : s.commit.queued = some k) (hup : OthersUp slot s) :
    Begun k x (startQueued x) := by
  rw [startQueued_of_some h.engine (h.queued.trans hq), settle_begun_of_joined k (hup.imp fun c hc => (h.joined c).2 hc)]
  exact begun_beginCommit k x

theorem FenceEnds.passed {k : Half} (h : FenceEnds slot g z s x) (hq : s.commit.queued = some k) (hup : ¬ OthersUp slot s) :
    PassedAtOnce k x (startQueued x) := by
  rw [startQueued_of_some h.engine (h.queued.trans hq)]
  exact passedAtOnce k (fun c hc => hup ⟨c, (h.joined c).1 hc⟩) h.outside

/-- The queued commit has started with the cards still Joined (R103, R105). -/
def StartedNext (slot : Slot) (s t : State) (k : Half) : Prop :=
  t.commit.engine = .fencing ∧ t.commit.active = some k ∧
  t.commit.queued = none ∧ t.commit.tally = 0 ∧ t.zones.pending = s.zones.working ∧
  t.zones.working = s.zones.working ∧ t.zones.workingState = .editable ∧
  ∀ c, c ≠ slot → (s.card c).state = .joined → (t.phaseRec c).phase = .awaitHold ∧
    CardMsg.hold (t.zones.generation + 1) ∈ (t.card c).outbox

/-- The queued commit has started and ended at once, no card being Joined (R105, R109, R111). -/
def PassedNext (s t : State) (k : Half) (generation : Word) : Prop :=
  t.commit.engine = .idle ∧ t.commit.active = none ∧ t.commit.queued = none ∧ t.commit.tally = 0 ∧
  (∀ c, (t.phaseRec c).phase = .outside) ∧ t.zones = { s.zones with
    live := s.zones.working, pending := Image.empty, generation := generation, modified := false
    workingState := .editable } ∧
  ∀ r, s.commit.current = some r → r.number = k → s.commit.active ≠ some k →
    t.commit.current = some { r with outcome := .passed, generation := generation }

theorem FenceEnds.startedNext {k : Half} (h : FenceEnds slot g z s x) (hz : z.working = s.zones.working)
    (hq : s.commit.queued = some k) (hup : OthersUp slot s) : StartedNext slot s (startQueued x) k := by
  have hbegun := h.begun hq hup
  generalize startQueued x = t at hbegun
  have hzones : t.zones = zonesBegun z := by rw [hbegun.frame, h.zones]
  refine ⟨?_, ?_, ?_, ?_, by rw [hzones]; exact hz, by rw [hzones]; exact hz, by rw [hzones]; rfl, fun c hc hj => ?_⟩
  · rw [hbegun.commit]
  · rw [hbegun.commit]
  · rw [hbegun.commit]
  · rw [hbegun.commit]
  · have hjoined := (h.joined c).2 ⟨hc, hj⟩
    rw [hbegun.told.phase c hjoined, hbegun.told.card c hjoined, hzones, h.zones]
    exact ⟨rfl, List.mem_append_right _ (List.mem_singleton.2 rfl)⟩

theorem FenceEnds.passedNext {k : Half} (h : FenceEnds slot g z s x) (hq : s.commit.queued = some k) (hup : ¬ OthersUp slot s)
    {generation : Word} (hgeneration : z.generation + 1 = generation)
    (hz : zonesSwitched (zonesBegun z) = { s.zones with
      live := s.zones.working, pending := Image.empty, generation := z.generation + 1, modified := false
      workingState := .editable }) : PassedNext s (startQueued x) k generation := by
  have hpassed := h.passed hq hup
  generalize startQueued x = t at hpassed
  subst hgeneration
  refine ⟨?_, ?_, ?_, ?_, hpassed.outside, ?_, fun r hr hn ha => ?_⟩
  · rw [hpassed.commit]
  · rw [hpassed.commit]
  · rw [hpassed.commit]
  · rw [hpassed.commit]
  · rw [hpassed.frame, h.zones]
    exact hz
  · have hrecords := hpassed.records
    have hcurrent : x.commit.current = some r :=
      (congrArg Prod.fst h.records).trans (changeRecord_current_other hr (by rw [hn]; exact ha))
    rw [changeRecord_of_current (rs := x.commit.records) hcurrent (by rw [hn]), h.zones] at hrecords
    exact congrArg Prod.fst hrecords

/-- Where no queued commit ends at once, Live stands as the end left it. -/
theorem FenceEnds.live (h : FenceEnds slot g z s x) (hsettles : s.commit.queued = none ∨ OthersUp slot s) :
    (startQueued x).zones.live = z.live ∧ (startQueued x).zones.generation = z.generation := by
  cases hq : s.commit.queued with
  | none =>
    rw [h.of_none hq, h.zones]
    exact ⟨rfl, rfl⟩
  | some k =>
    have hbegun := h.begun hq (hsettles.resolve_left fun he => by rw [hq] at he; cases he)
    rw [hbegun.frame, h.zones]
    exact ⟨rfl, rfl⟩

theorem FenceEnds.takes (h : FenceEnds slot g z s x) (hg : ∀ r, (g r).number = r.number)
    (hsettles : (s.commit.queued = none ∨ OthersUp slot s) ∨ s.commit.queued ≠ s.commit.active) :
    RecordTakes s (startQueued x) g := by
  have htakes := recordTakes_of_records h.records
  cases hq : s.commit.queued with
  | none => rwa [h.of_none hq]
  | some k =>
    by_cases hup : OthersUp slot s
    · refine recordTakes_of_records ?_
      rw [(h.begun hq hup).commit]
      exact h.records
    · have hpassed := h.passed hq hup
      refine htakes.changed hg (fun he => ?_) hpassed.records
      rcases hsettles with (hnone | hup') | hne
      · rw [hq] at hnone
        cases hnone
      · exact hup hup'
      · exact hne (hq.trans he)

theorem FenceEnds.alarms (h : FenceEnds slot g z s x) : (startQueued x).alarms = x.alarms := by
  cases hq : s.commit.queued with
  | none => rw [h.of_none hq]
  | some k =>
    by_cases hup : OthersUp slot s
    · rw [(h.begun hq hup).frame]
    · rw [(h.passed hq hup).frame]

end Queued

/-! ## The timeouts (R106, R110) -/

/-- A resend: one more resend used, and the timer it leaves (R106, R110). -/
def resent (slot : Slot) (m : CardMsg) (s : State) : State :=
  { s with
    cards := s.cards.set slot { s.card slot with outbox := (s.card slot).outbox ++ [m] }
    commit := { s.commit with cards := s.commit.cards.set slot { s.phaseRec slot with
      resends := (s.phaseRec slot).resends + 1
      timeout := min (250 * 2 ^ ((s.phaseRec slot).resends + 1)) 2000, timerOn := true } } }

theorem commitTimeout_of_below {slot : Slot} {s : State} (m : CardMsg) (h : (s.phaseRec slot).resends < s.params.commitRetry) :
    commitTimeout slot m s = resent slot m s :=
  if_pos h

theorem commitTimeout_of_limit {slot : Slot} {s : State} (m : CardMsg) (h : ¬ (s.phaseRec slot).resends < s.params.commitRetry) :
    commitTimeout slot m s = fenceCard slot s :=
  if_neg h

theorem exec_holdTimeout {slot : Slot} {s : State} (hp : (s.phaseRec slot).phase = .awaitHold) (ht : (s.phaseRec slot).timerOn = true) :
    exec (.holdTimeout slot) s = .next (commitTimeout slot (.hold (s.zones.generation + 1)) s) :=
  congrArg Host.Outcome.next (if_pos ⟨hp, ht⟩)

theorem exec_resumeTimeout {slot : Slot} {s : State} (hp : (s.phaseRec slot).phase = .awaitResume)
    (ht : (s.phaseRec slot).timerOn = true) :
    exec (.resumeTimeout slot) s = .next (commitTimeout slot (.resume s.commit.releaseGen) s) :=
  congrArg Host.Outcome.next (if_pos ⟨hp, ht⟩)

end Sys2Proof.Machine

section
open Sys2Proof Sys2Proof.Machine

/-- Settles O48: a timeout is a resend below the commit retry limit and a fence at it; the fence leaves cards awaited, or makes the switch
or the end, and the end starts the queued commit. -/
theorem commitTimeoutsRule : Obligations.CommitTimeoutsRule := by
  unfold Obligations.CommitTimeoutsRule
  intro slot s htimer resent below tally fenced noted ended startedNext passedNext waits othersUp settles
  refine ⟨fun hp hb => ?_, fun hp hb => ?_, fun hp hb hj => ?_, fun hp hb hj => ?_⟩
  · rw [exec_holdTimeout hp htimer, commitTimeout_of_below _ hb]
    rfl
  · rw [exec_resumeTimeout hp htimer, commitTimeout_of_below _ hb]
    rfl
  · obtain ⟨u, hu, hfence⟩ := fenced_fenceCard hj
    refine ⟨commitFollows u, by rw [exec_holdTimeout hp htimer, commitTimeout_of_limit _ hb, hfence], hu.left, fun hwaits he => ?_,
      fun hnone he => ⟨fun hsettles => ?_, fun hmore => ?_, fun hheld hlate hresume => ?_⟩⟩
    · rw [commitFollows_of_fencing (hu.engine.trans he) (hu.exists_phase hwaits)]
      exact ⟨hu.zones, hu.engine.trans he, by rw [hu.commit]; rfl, recordTakes_of_records hu.records⟩
    · by_cases hmore : OtherIn slot s .held ∨ OtherIn slot s .late ∨ OtherIn slot s .awaitResume
      · rw [(hu.switched he hnone hmore).frame, hu.zones]
        exact ⟨rfl, rfl⟩
      · obtain ⟨hheld, hrest⟩ := not_or.1 hmore
        obtain ⟨hlate, hresume⟩ := not_or.1 hrest
        obtain ⟨x, hx, hends, -⟩ := hu.ends_hold he hnone hheld hlate hresume
        rw [hx]
        exact hends.live hsettles
    · exact hu.switchedRule he hnone hmore
    · obtain ⟨x, hx, hends, hdegraded⟩ := hu.ends_hold he hnone hheld hlate hresume
      rw [hx]
      refine ⟨fun hsettles => hends.takes (fun _ => rfl) hsettles, fun _ hroom => (hdegraded hroom).of_alarms hends.alarms, fun hq => ?_,
        fun k hq => ⟨hends.startedNext rfl hq, fun hup => hends.passedNext hq hup ?_ rfl⟩⟩
      · rw [hends.of_none hq, hends.zones]
        exact ⟨⟨hends.engine, hends.active, hends.tally, hends.outside⟩, rfl⟩
      · exact BitVec.add_assoc s.zones.generation 1 1
  · obtain ⟨u, hu, hfence⟩ := fenced_fenceCard hj
    refine ⟨commitFollows u, by rw [exec_resumeTimeout hp htimer, commitTimeout_of_limit _ hb, hfence], hu.left, fun hwaits he => ?_,
      fun hnone he => ?_⟩
    · rw [commitFollows_of_releasing (hu.engine.trans he) (hu.exists_phase hwaits)]
      exact ⟨hu.zones, hu.engine.trans he, by rw [hu.commit]; rfl, recordTakes_of_records hu.records⟩
    · obtain ⟨x, hx, hends, hdegraded⟩ := hu.ends_resume he hnone
      rw [hx]
      refine ⟨hends.live, fun hsettles => ?_, fun hd _ hroom => (hdegraded hd hroom).of_alarms hends.alarms, fun hq => ?_,
        fun k hq => ⟨hends.startedNext rfl hq, fun hup => hends.passedNext hq hup rfl rfl⟩⟩
      · have htakes := hends.takes (fun _ => rfl) hsettles
        cases hd : s.commit.direction with
        | forward =>
          rw [hu.outcome_forward hd] at htakes
          exact htakes
        | abort =>
          rw [hu.outcome_abort hd] at htakes
          exact htakes
      · rw [hends.of_none hq]
        exact ⟨⟨hends.engine, hends.active, hends.tally, hends.outside⟩, hends.zones⟩

end

/-! PROOFS. What the operations of the License Unit write in any state (R62 to R78): the records that they may touch, the end of an event
with a rebinding pass (R70 to R72), and the PoolTerm claim of a pool's change of state (R63). -/

namespace Sys2Proof.Machine

/-! ## The records that the License Unit may touch -/

/-- From s to t only the ports, the cards, the budget, the licenses, the names, the claims and the attention sets may have been
written. -/
def LicenseWork (s t : State) : Prop :=
  t = { s with
    ports := t.ports, cards := t.cards, power := t.power, license := t.license, names := t.names, alarms := t.alarms, attn := t.attn }

namespace LicenseWork

variable {s t u : State}

theorem refl (s : State) : LicenseWork s s := rfl

theorem trans (h : LicenseWork s t) (h' : LicenseWork t u) : LicenseWork s u := by
  unfold LicenseWork at h h' ⊢
  rw [h', h]

theorem of_portWork (h : PortWork s t) : LicenseWork s t := by
  unfold PortWork at h
  unfold LicenseWork
  rw [h]

theorem modPool (k : PoolIx) (f : PoolRec → PoolRec) (h : LicenseWork s t) : LicenseWork s (t.modPool k f) := h.trans rfl

theorem reason (r : Reason) (h : LicenseWork s t) : LicenseWork s (addReason r t) := h.trans rfl

theorem raise (r : Raise) (h : LicenseWork s t) : LicenseWork s (raiseAlarm r t) := h.trans (by rw [raiseAlarm_eq]; rfl)

theorem clear (c : Cause) (k : Nat) (h : LicenseWork s t) : LicenseWork s (endAlarm c k t) := h.trans (by rw [endAlarm_eq]; rfl)

theorem forEach {α : Type} {act : α → State → State} (ha : ∀ x t, LicenseWork s t → LicenseWork s (act x t)) (l : List α)
    (h : LicenseWork s t) : LicenseWork s (Machine.forEach l act t) :=
  forEach_keeps ha l h

theorem portChange (n : PortIx) (f : PortRec → PortRec) (h : LicenseWork s t) : LicenseWork s (Machine.portChange n f t) :=
  h.trans (of_portWork ((PortWork.refl t).portChange n f))

theorem freed (n : PortIx) (h : LicenseWork s t) : LicenseWork s (PoolsLawful.freed n t) := by
  unfold PoolsLawful.freed
  split
  · exact (h.modPool _ _).reason _
  · exact h

theorem unbindPort (n : PortIx) (h : LicenseWork s t) : LicenseWork s (Machine.unbindPort n t) := by
  rw [PoolsLawful.unbindPort_eq]
  exact (h.freed n).portChange n _

theorem poolTermClaim (k : PoolIx) (before after : PoolState) (h : LicenseWork s t) :
    LicenseWork s (Machine.poolTermClaim k before after t) := by
  unfold Machine.poolTermClaim
  split
  · exact h.raise _
  · exact h.raise _
  · split
    · exact h.clear _ _
    · exact h.clear _ _
    · exact h
    · exact h
  · split
    · exact h.clear _ _
    · exact h.clear _ _
    · exact h
    · exact h

theorem writePool (k : PoolIx) (r : PoolRec) (h : LicenseWork s t) : LicenseWork s (Machine.writePool k r t) := by
  unfold Machine.writePool
  dsimp only
  split
  · exact h.modPool k _
  · exact ((h.modPool k _).poolTermClaim k _ _).reason _

theorem rebindThenRestore (before : Nat) (h : LicenseWork s t) : LicenseWork s (Machine.rebindThenRestore before t) := by
  have hpass : LicenseWork s (rebindingPass t) := h.trans (by
    have hframe := (rebinds_rebindingPass t).frame
    unfold LicenseWork
    rw [hframe])
  rw [rebindThenRestore_eq]
  split
  · exact hpass.trans (of_portWork (PortWork.refl _).restorePass)
  · exact hpass

theorem settleDeficit (h : LicenseWork s t) : LicenseWork s (Machine.settleDeficit t) := h.trans (by rw [settleDeficit_eq]; rfl)

theorem engines (h : LicenseWork s t) : EnginesKept s t := by
  unfold LicenseWork at h
  rw [h]
  exact ⟨rfl, rfl, rfl, rfl⟩

theorem params_eq (h : LicenseWork s t) : t.params = s.params := by
  unfold LicenseWork at h
  rw [h]

theorem cmd_eq (h : LicenseWork s t) : t.cmd = s.cmd := by
  unfold LicenseWork at h
  rw [h]

end LicenseWork

/-! ## One port's license -/

/-- A port takes a license: Unlicensed as it leaves its pool, and any other by the change alone (R10). -/
def relicense (x : License) (n : PortIx) (s : State) : State :=
  if x = .unlicensed then unbindPort n s else portChange n (fun r => { r with license := x }) s

theorem relicense_of_unlicensed (n : PortIx) (s : State) : relicense .unlicensed n s = unbindPort n s := if_pos rfl

theorem relicense_of_held {x : License} (h : x ≠ .unlicensed) (n : PortIx) (s : State) :
    relicense x n s = portChange n (fun r => { r with license := x }) s := if_neg h

theorem relicense_license (x : License) (n : PortIx) (s : State) (m : PortIx) :
    ((relicense x n s).port m).license = if n = m then x else (s.port m).license := by
  by_cases h : x = .unlicensed
  · rw [h, relicense_of_unlicensed, PoolsLawful.unbindPort_eq, (PoolsLawful.setLicense_license n _ _).2,
      port_of_ports (PoolsLawful.freed_ports n s)]
  · rw [relicense_of_held h, (PoolsLawful.setLicense_license n _ _).2]

theorem relicense_pool (x : License) (n : PortIx) (s : State) (k : PoolIx) : (relicense x n s).pool k =
    { s.pool k with bound := (s.pool k).bound - if x = .unlicensed then countsFor s k n else 0 } := by
  by_cases h : x = .unlicensed
  · rw [if_pos h, h, relicense_of_unlicensed, PoolsLawful.unbindPort_eq, ← PoolsLawful.freed_pool]
    simp only [State.pool, (PoolsLawful.setLicense_license n _ _).1]
  · rw [if_neg h, relicense_of_held h]
    simp only [State.pool, (PoolsLawful.setLicense_license n _ _).1]
    rfl

theorem relicense_work (x : License) (n : PortIx) (s : State) : LicenseWork s (relicense x n s) := by
  unfold relicense
  split
  · exact (LicenseWork.refl s).unbindPort n
  · exact (LicenseWork.refl s).portChange n _

theorem relicense_alarms (x : License) (n : PortIx) (s : State) : (relicense x n s).alarms = s.alarms := by
  have hchange (u : State) (f : PortRec → PortRec) : (portChange n f u).alarms = u.alarms := ((PortWork.refl u).portChange n f).alarms
  unfold relicense
  split
  · rw [PoolsLawful.unbindPort_eq, hchange, freed_eq]
  · exact hchange s _

theorem License.held_iff {x : License} : x.held = true ↔ x ≠ .unlicensed := by
  cases x <;> simp [License.held]

/-- A change between licenses that both count is the record's alone. -/
theorem portChange_license_of_held {n : PortIx} {s : State} {x : License} (hs : (s.port n).license ≠ .unlicensed)
    (hx : x ≠ .unlicensed) :
    portChange n (fun r => { r with license := x }) s = s.modPort n fun r => { r with license := x } := by
  refine portChange_of_same rfl ?_
  have hrecord : (s.modPort n fun r => { r with license := x }).port n = { s.port n with license := x } := modPort_port_same n _ s
  unfold eligible
  rw [hrecord]
  show ((s.port n).intent == .enabled && x.held && _ && _) = _
  rw [License.held_iff.2 hx, License.held_iff.2 hs]
  rfl

/-- Ports of a list that take licenses which count, from licenses that count: their records' alone. -/
theorem forEach_relicense_held {after : PortIx → License} {l : List PortIx} {s : State} (hl : l.Nodup)
    (hs : ∀ n ∈ l, (s.port n).license ≠ .unlicensed) (hafter : ∀ n ∈ l, after n ≠ .unlicensed) :
    let t := forEach l (fun n => relicense (after n) n) s
    t = { s with ports := t.ports } ∧ ∀ n, t.port n = if n ∈ l then { s.port n with license := after n } else s.port n := by
  induction l generalizing s with
  | nil => exact ⟨rfl, fun _ => rfl⟩
  | cons n l ih =>
    obtain ⟨hn, hl⟩ := List.nodup_cons.1 hl
    have hstep : relicense (after n) n s = s.modPort n fun r => { r with license := after n } := by
      rw [relicense_of_held (hafter n List.mem_cons_self),
        portChange_license_of_held (hs n List.mem_cons_self) (hafter n List.mem_cons_self)]
    have hport (m : PortIx) : (s.modPort n fun r => { r with license := after n }).port m =
        if n = m then { s.port n with license := after n } else s.port m := modPort_port n m _ s
    simp only [forEach_cons, hstep]
    obtain ⟨hframe, hrest⟩ := ih (s := s.modPort n fun r => { r with license := after n }) hl
      (fun m hm => by
        rw [hport, if_neg fun he : n = m => hn (he ▸ hm)]
        exact hs m (List.mem_cons_of_mem _ hm))
      fun m hm => hafter m (List.mem_cons_of_mem _ hm)
    refine ⟨by rw [hframe]; rfl, fun m => ?_⟩
    rw [hrest, hport]
    by_cases hm : n = m
    · subst hm
      rw [if_neg hn, if_pos rfl, if_pos List.mem_cons_self]
    · rw [if_neg hm]
      simp only [List.mem_cons, Ne.symm hm, false_or]

/-! ## The end of an event with a rebinding pass (R70 to R72) -/

/-- From u to t pools may have gained and lost bound ports; one that does not serve has gained none. -/
def PoolsRebound (u t : State) : Prop :=
  ∀ k, ∃ b, t.pool k = { u.pool k with bound := b } ∧ ((u.pool k).state.serves = false → b ≤ (u.pool k).bound)

theorem PoolsRebound.refl (u : State) : PoolsRebound u u := fun k => ⟨(u.pool k).bound, rfl, fun _ => le_rfl⟩

theorem PoolsRebound.trans {s t u : State} (h : PoolsRebound s t) (h' : PoolsRebound t u) : PoolsRebound s u := fun k => by
  obtain ⟨b, hb, hle⟩ := h k
  obtain ⟨b', hb', hle'⟩ := h' k
  refine ⟨b', by rw [hb', hb], fun hs => ?_⟩
  rw [hb] at hle'
  exact (hle' hs).trans (hle hs)

theorem bindPort_poolOf (n : PortIx) (k : PoolIx) (s : State) (j : PoolIx) : (bindPort n k s).pool j = (countedFor n k s).pool j := by
  rw [PoolsLawful.bindPort_eq]
  simp only [State.pool, (PoolsLawful.setLicense_license n _ _).1]
  rfl

theorem autoChoice_serves {s : State} {n : PortIx} {k : PoolIx} (h : autoChoice s n = some k) :
    (s.pool k).state.serves = true ∧ (s.port n).license.pool? ≠ some k := by
  rw [autoChoice_eq_argmin] at h
  obtain ⟨hserves, hown⟩ := Bool.and_eq_true_iff.1 (List.mem_filter.1 (List.argmin_mem h)).2
  exact ⟨(PoolState.serves_iff _).2 (poolServes_iff.1 hserves).1, by simpa using hown⟩

theorem poolsRebound_autoBind (n : PortIx) (s : State) : PoolsRebound s (autoBind n s) := by
  cases hk : autoChoice s n with
  | none =>
    rw [autoBind_of_none hk]
    exact .refl s
  | some k =>
    rw [autoBind_of_some hk]
    intro j
    refine ⟨_, (bindPort_poolOf n k s j).trans (countedFor_pool n k s j), fun hs => ?_⟩
    have hne : k ≠ j := fun he => by rw [← he, (autoChoice_serves hk).1] at hs; cases hs
    rw [if_neg hne]
    exact Nat.sub_le _ _

theorem PoolsRebound.of_license {s t u : State} (h : PoolsRebound s t) (hu : u.license = t.license) : PoolsRebound s u := fun k => by
  rw [State.pool, hu]
  exact h k

/-- A binding that the pass takes is to a pool that serves and is not the port's own. -/
theorem serves_of_mem_rebindTakes {l : List PortIx} {s u : State} (hl : l.Nodup) (hp : PoolsRebound s u)
    (hport : ∀ n ∈ l, (u.port n).license = (s.port n).license) {n : PortIx} {k : PoolIx} (h : (n, k) ∈ rebindTakes u l) :
    (s.pool k).state.serves = true ∧ (s.port n).license.pool? ≠ some k := by
  induction l generalizing u with
  | nil => exact absurd h List.not_mem_nil
  | cons m l ih =>
    obtain ⟨hm, hl⟩ := List.nodup_cons.1 hl
    have htail : ∀ j ∈ l, (u.port j).license = (s.port j).license := fun j hj => hport j (List.mem_cons_of_mem _ hj)
    cases hk : autoChoice u m with
    | none =>
      rw [rebindTakes_of_none hk] at h
      exact ih hl hp htail h
    | some j =>
      rw [rebindTakes_of_some hk] at h
      rcases List.mem_cons.1 h with he | h
      · cases he
        obtain ⟨hserves, hown⟩ := autoChoice_serves hk
        obtain ⟨b, hb, -⟩ := hp k
        rw [hb] at hserves
        rw [hport n List.mem_cons_self] at hown
        exact ⟨hserves, hown⟩
      · refine ih hl (hp.trans fun i => ?_) (fun i hi => ?_) h
        · have hstep := poolsRebound_autoBind m u i
          rwa [autoBind_of_some hk, bindPort_poolOf, ← countBinding_pool] at hstep
        · rw [countBinding_port]
          exact htail i hi

/-- From u to t a rebinding pass has run, the restore pass where the event calls for one, and the deficit has been settled. -/
structure Rebound (u t : State) : Prop where
  work : LicenseWork u t
  license : ∀ n, (t.port n).license = (u.port n).license ∨ ∃ k, (t.port n).license = .bound k ∧ (u.port n).license.wanting = true ∧
    (u.port n).license.pool? ≠ some k ∧ (u.pool k).state.serves = true
  pools : PoolsRebound u t
  claims : ClaimsOnly (· = .budgetDeficit) u t
  moves : Moves .licence u t

theorem rebound (before : Nat) (u : State) : Rebound u (settleDeficit (rebindThenRestore before u)) := by
  have hpass := rebinds_rebindingPass u
  have hpools : PoolsRebound u (rebindingPass u) := by
    rw [rebindingPass_eq]
    exact forEach_keeps (P := PoolsRebound u) (fun n t ht => ht.trans (poolsRebound_autoBind n t)) _ (.refl u)
  have hrest : Moves .power (rebindingPass u) (settleDeficit (rebindThenRestore before u)) := by
    rw [rebindThenRestore_eq]
    exact moves_restoredIf .refl _
  have halarms : (rebindThenRestore before u).alarms = u.alarms := by
    have hp : (rebindingPass u).alarms = u.alarms := by rw [hpass.frame]
    rw [rebindThenRestore_eq]
    split
    · exact ((PortWork.refl _).restorePass.alarms).trans hp
    · exact hp
  obtain ⟨hlicense, hport⟩ := hrest.licensesKept rfl
  refine ⟨((LicenseWork.refl u).rebindThenRestore before).settleDeficit, fun n => ?_, hpools.of_license hlicense,
    (ClaimsOnly.of_alarms _ halarms).trans (settleDeficit_claims _), (Moves.refl.rebindThenRestore before rfl).settleDeficit⟩
  rw [hport n]
  by_cases h : ∃ k, (n, k) ∈ rebindTakes u (rebindCandidates u)
  · obtain ⟨k, hk⟩ := h
    have hnodup : (rebindCandidates u).Nodup := (List.nodup_finRange 672).filter _
    obtain ⟨hserves, hown⟩ := serves_of_mem_rebindTakes (s := u) hnodup (.refl u) (fun m _ => Eq.refl (u.port m).license) hk
    have hcandidate := (List.mem_filter.1 (mem_of_mem_rebindTakes hk)).2
    refine .inr ⟨k, ?_, (rebindCandidate_iff.1 hcandidate).2.2, hown, hserves⟩
    rw [hpass.bound n k hk]
    unfold reboundPort
    split <;> rfl
  · exact .inl (by rw [hpass.kept n fun k hk => h ⟨k, hk⟩])

/-- A bound port stays with its pool. -/
theorem Rebound.bound {u t : State} (h : Rebound u t) {n : PortIx} {k : PoolIx} (hn : (u.port n).license = .bound k) :
    (t.port n).license = .bound k := by
  rcases h.license n with he | ⟨j, -, hwanting, -⟩
  · rw [he, hn]
  · rw [hn] at hwanting
    cases hwanting

theorem Rebound.pool_eq {u t : State} (h : Rebound u t) (k : PoolIx) : t.pool k = { u.pool k with bound := (t.pool k).bound } := by
  obtain ⟨b, hb, -⟩ := h.pools k
  rw [hb]

/-! ## The PoolTerm claim (R63) -/

/-- A pool's state and the entries of its claim are as they were. -/
def TermKept (s t : State) (k : PoolIx) : Prop :=
  (t.pool k).state = (s.pool k).state ∧
    ∀ x : Nat × AlarmEntry, x.2.cause = .poolTerm → x.2.subject = k.val + 1 → (x ∈ t.alarms ↔ x ∈ s.alarms)

theorem TermKept.of_alarms {s t : State} {k : PoolIx} (hp : (t.pool k).state = (s.pool k).state) (ha : t.alarms = s.alarms) :
    TermKept s t k :=
  ⟨hp, fun _ _ _ => by rw [ha]⟩

theorem TermKept.of_claims {s t : State} {k : PoolIx} {C : Cause → Prop} (hp : (t.pool k).state = (s.pool k).state)
    (h : ClaimsOnly C s t) (hC : ¬ C .poolTerm) (ha : AlarmsLawful s) : TermKept s t k :=
  ⟨hp, fun x hx _ => (h ha).2 x (by rw [hx]; exact hC)⟩

theorem TermKept.trans {s t u : State} {k : PoolIx} (h : TermKept s t k) (h' : TermKept t u k) : TermKept s u k :=
  ⟨h'.1.trans h.1, fun x hx hk => (h'.2 x hx hk).trans (h.2 x hx hk)⟩

/-- What is kept of a pool answers for no claim. -/
theorem TermKept.follows {s t : State} {k : PoolIx} (h : TermKept s t k) : PoolTermFollows s t k := by
  obtain ⟨hstate, hentries⟩ := h
  refine ⟨fun hn hb => absurd (hstate.symm.trans hn) hb, fun hn hb => absurd (hstate.symm.trans hn) hb, fun hn hb => ?_,
    fun _ => hentries⟩
  rw [hstate] at hn
  rcases hb with hb | hb <;> rw [hb] at hn <;> exact absurd hn (by simp)

/-- The claim stands while the pool is kept. -/
theorem PoolTermFollows.then_kept {s t u : State} {k : PoolIx} (h : PoolTermFollows s t k) (hk : TermKept t u k) :
    PoolTermFollows s u k := by
  obtain ⟨hstate, hentries⟩ := hk
  obtain ⟨hexpiring, hexpired, hover, hsame⟩ := h
  have hstands {sev : Severity} {d : Nat} (ha : AlarmStands t .poolTerm (k.val + 1) sev d) : AlarmStands u .poolTerm (k.val + 1) sev d := by
    obtain ⟨pos, e, hmem, hc, hk, hrest⟩ := ha
    exact ⟨pos, e, (hentries (pos, e) hc hk).2 hmem, hc, hk, hrest⟩
  unfold PoolTermFollows
  rw [hstate]
  exact ⟨fun hn hb => hstands (hexpiring hn hb), fun hn hb => hstands (hexpired hn hb),
    fun hn hb x hx hxc hxk => hover hn hb x ((hentries x hxc hxk).1 hx) hxc hxk,
    fun hn x hxc hxk => (hentries x hxc hxk).trans (hsame hn x hxc hxk)⟩

/-- The claim is made from where the pool was kept. -/
theorem TermKept.then_follows {s t u : State} {k : PoolIx} (hk : TermKept s t k) (h : PoolTermFollows t u k) :
    PoolTermFollows s u k := by
  obtain ⟨hstate, hentries⟩ := hk
  obtain ⟨hexpiring, hexpired, hover, hsame⟩ := h
  unfold PoolTermFollows
  rw [hstate] at hexpiring hexpired hover hsame
  exact ⟨hexpiring, hexpired, hover, fun hn x hxc hxk => (hsame hn x hxc hxk).trans (hentries x hxc hxk)⟩

/-- What the write of a pool's record leaves of the claims (R63). -/
structure TermWritten (k : PoolIx) (s t : State) : Prop where
  follows : PoolTermFollows s t k
  kept : ∀ m, m ≠ k → TermKept s t m
  lawful : AlarmsLawful t
  room : t.alarms.length ≤ s.alarms.length + 1

theorem length_endAlarm_le (c : Cause) (k : Nat) (s : State) : (endAlarm c k s).alarms.length ≤ s.alarms.length + 1 := by
  unfold endAlarm
  split
  · split
    · rw [alarmChanged_alarms]
      exact length_tableSet_le _ _ _
    · rw [retireAlarm, alarmChanged_alarms]
      exact (List.length_filter_le _ _).trans (Nat.le_succ _)
    · exact Nat.le_succ _
  · exact Nat.le_succ _

theorem otherAlarmsKept_term {s t : State} {k m : PoolIx} (h : OtherAlarmsKept s t .poolTerm (poolId k)) (hm : m ≠ k)
    (hp : (t.pool m).state = (s.pool m).state) : TermKept s t m :=
  ⟨hp, fun x _ hxk => h x fun he => hm (Fin.ext (Nat.succ_injective (hxk.symm.trans he.2)))⟩

theorem writePool_pool (k : PoolIx) (r : PoolRec) (s : State) (m : PoolIx) :
    (writePool k r s).pool m = if k = m then r else s.pool m := by
  have hclaim (u : State) (a b : PoolState) : (poolTermClaim k a b u).license = u.license := by
    have hmoves : Moves .power u (poolTermClaim k a b u) := Moves.refl.poolTermClaim k a b
    exact hmoves.license_eq rfl
  have hset : (s.modPool k fun _ => r).pool m = if k = m then r else s.pool m := modPool_pool k m (fun _ => r) s
  unfold writePool
  dsimp only
  split
  · exact hset
  · rw [addReason_pool, State.pool, hclaim]
    exact hset

theorem termWritten_writePool {k : PoolIx} {r : PoolRec} {s : State} (ha : AlarmsLawful s) (hroom : s.alarms.length < 128) :
    TermWritten k s (writePool k r s) := by
  have hpool := writePool_pool k r s
  have hself := (hpool k).trans (if_pos rfl)
  have hother {m : PoolIx} (hm : m ≠ k) : ((writePool k r s).pool m).state = (s.pool m).state := by
    rw [hpool, if_neg fun he : k = m => hm he.symm]
  have hstate : ((writePool k r s).pool k).state = r.state := by rw [hself]
  have hset : AlarmsLawful (s.modPool k fun _ => r) := ha.of_alarms rfl
  by_cases hsame : r.state = (s.pool k).state
  · have halarms : (writePool k r s).alarms = s.alarms := by
      unfold writePool
      rw [if_pos hsame]
      rfl
    exact ⟨TermKept.follows (.of_alarms (hstate.trans hsame) halarms), fun m hm => .of_alarms (hother hm) halarms, ha.of_alarms halarms,
      by rw [halarms]; exact Nat.le_succ _⟩
  · have hclaimed : (writePool k r s).alarms = (poolTermClaim k (s.pool k).state r.state (s.modPool k fun _ => r)).alarms := by
      unfold writePool
      rw [if_neg hsame]
      rfl
    have hraised (sev : Severity) (d : Nat)
        (hc : (writePool k r s).alarms = (raiseAlarm (plainRaise .poolTerm (poolId k) sev d) (s.modPool k fun _ => r)).alarms) :
        AlarmStands (writePool k r s) .poolTerm (k.val + 1) sev d ∧ (∀ m, m ≠ k → TermKept s (writePool k r s) m) ∧
          AlarmsLawful (writePool k r s) ∧ (writePool k r s).alarms.length ≤ s.alarms.length + 1 := by
      have hkept := otherAlarmsKept_raiseAlarm (plainRaise .poolTerm (poolId k) sev d) hset
      refine ⟨(alarmStands_raiseAlarm (s := s.modPool k fun _ => r) (plainRaise .poolTerm (poolId k) sev d) hroom).of_alarms hc, fun m hm => otherAlarmsKept_term (fun x hx => ?_) hm (hother hm),
        (hset.raiseAlarm _).of_alarms hc, ?_⟩
      · rw [hc]
        exact hkept x hx
      · rw [hc]
        exact length_raiseAlarm_le _ _
    have hended (hc : (writePool k r s).alarms = (endAlarm .poolTerm (poolId k) (s.modPool k fun _ => r)).alarms) :
        AlarmOver (writePool k r s) .poolTerm (k.val + 1) ∧ (∀ m, m ≠ k → TermKept s (writePool k r s) m) ∧
          AlarmsLawful (writePool k r s) ∧ (writePool k r s).alarms.length ≤ s.alarms.length + 1 := by
      have hkept := otherAlarmsKept_endAlarm .poolTerm (poolId k) hset
      refine ⟨(alarmOver_endAlarm _ _ hset).of_alarms hc, fun m hm => otherAlarmsKept_term (fun x hx => ?_) hm (hother hm),
        (hset.endAlarm _ _).of_alarms hc, ?_⟩
      · rw [hc]
        exact hkept x hx
      · rw [hc]
        exact length_endAlarm_le _ _ _
    have hquiet (hc : (writePool k r s).alarms = s.alarms) : (∀ m, m ≠ k → TermKept s (writePool k r s) m) ∧
        AlarmsLawful (writePool k r s) ∧ (writePool k r s).alarms.length ≤ s.alarms.length + 1 :=
      ⟨fun m hm => .of_alarms (hother hm) hc, ha.of_alarms hc, by rw [hc]; exact Nat.le_succ _⟩
    have hgone (hr : r.state = .active ∨ r.state = .vacant) : TermWritten k s (writePool k r s) := by
      by_cases hb : (s.pool k).state = .expiring ∨ (s.pool k).state = .expired
      · obtain ⟨hover, hkept, hlawful, hlength⟩ := hended (hclaimed.trans (by
          unfold poolTermClaim
          rcases hr with hr | hr <;> rcases hb with hb | hb <;> rw [hr, hb]))
        refine ⟨?_, hkept, hlawful, hlength⟩
        unfold PoolTermFollows
        rw [hstate]
        refine ⟨fun hn => ?_, fun hn => ?_, fun _ _ => hover, fun hn => ?_⟩
        · rw [hn] at hr
          exact absurd hr (by simp)
        · rw [hn] at hr
          exact absurd hr (by simp)
        · rcases hn with hn | ⟨-, hn⟩
          · exact absurd hn hsame
          · rcases hb with hb | hb <;> rw [hb] at hn <;> exact absurd hn (by simp)
      · have hc : (writePool k r s).alarms = s.alarms := hclaimed.trans (by
          unfold poolTermClaim
          cases hs : (s.pool k).state with
          | expiring => exact absurd (.inl hs) hb
          | expired => exact absurd (.inr hs) hb
          | active => rcases hr with hr | hr <;> rw [hr] <;> rfl
          | vacant => rcases hr with hr | hr <;> rw [hr] <;> rfl)
        obtain ⟨hkept, hlawful, hlength⟩ := hquiet hc
        refine ⟨?_, hkept, hlawful, hlength⟩
        unfold PoolTermFollows
        rw [hstate]
        refine ⟨fun hn => ?_, fun hn => ?_, fun _ hn => absurd hn hb, fun _ x _ _ => ?_⟩
        · rw [hn] at hr
          exact absurd hr (by simp)
        · rw [hn] at hr
          exact absurd hr (by simp)
        · rw [hc]
    cases hr : r.state with
    | active => exact hgone (.inl hr)
    | vacant => exact hgone (.inr hr)
    | expiring =>
      obtain ⟨hstands, hkept, hlawful, hlength⟩ := hraised .minor 1 (by rw [hclaimed, hr]; rfl)
      refine ⟨?_, hkept, hlawful, hlength⟩
      unfold PoolTermFollows
      rw [hstate, hr]
      exact ⟨fun _ _ => hstands, nofun, fun hn => absurd hn (by simp), fun hn => (by
        rcases hn with hn | ⟨hn, -⟩
        · exact absurd (hr.trans hn) hsame
        · exact absurd hn (by simp))⟩
    | expired =>
      obtain ⟨hstands, hkept, hlawful, hlength⟩ := hraised .major 2 (by rw [hclaimed, hr]; rfl)
      refine ⟨?_, hkept, hlawful, hlength⟩
      unfold PoolTermFollows
      rw [hstate, hr]
      exact ⟨nofun, fun _ _ => hstands, fun hn => absurd hn (by simp), fun hn => (by
        rcases hn with hn | ⟨hn, -⟩
        · exact absurd (hr.trans hn) hsame
        · exact absurd hn (by simp))⟩

end Sys2Proof.Machine

/-! PROOFS. Ports that take licenses one after the other, where the laws of the wait list and of the names hold: what those that become
Unlicensed lose with it (R5, R7, R10, R74, R75, R78). -/

namespace Sys2Proof.Machine

/-- A port's record once it has taken a license. -/
def relicensedPort (s : State) (n : PortIx) (x : License) : PortRec :=
  { (if x = .unlicensed then fallenPort s n else s.port n) with license := x }

/-- The ports of a list that become Unlicensed. -/
def lostOf (after : PortIx → License) (l : List PortIx) : List PortIx := l.filter fun n => decide (after n = .unlicensed)

/-- The ports of a list whose license names a pool. -/
def namersOf (s : State) (k : PoolIx) (l : List PortIx) : List PortIx := l.filter fun n => decide ((s.port n).license.pool? = some k)

theorem namersOf_cons_length (s : State) (k : PoolIx) (n : PortIx) (l : List PortIx) :
    (namersOf s k (n :: l)).length = countsFor s k n + (namersOf s k l).length := by
  unfold namersOf countsFor
  rw [List.filter_cons]
  by_cases h : (s.port n).license.pool? = some k
  · rw [if_pos h, if_pos (decide_eq_true h), List.length_cons, Nat.add_comm]
  · rw [if_neg h, if_neg (by rw [decide_eq_false h]; exact Bool.false_ne_true), Nat.zero_add]

theorem namersOf_congr {s t : State} {l : List PortIx} (k : PoolIx) (h : ∀ n ∈ l, (t.port n).license = (s.port n).license) :
    namersOf t k l = namersOf s k l :=
  List.filter_congr fun n hn => by rw [h n hn]

/-- What a list of ports leaves of the pools and of the licenses, in any state. -/
theorem forEach_relicense_pool {after : PortIx → License} {l : List PortIx} {s : State} (hl : l.Nodup) :
    let t := forEach l (fun n => relicense (after n) n) s
    (∀ k, t.pool k = { s.pool k with bound := (s.pool k).bound - (namersOf s k (lostOf after l)).length }) ∧
    (∀ n, (t.port n).license = if n ∈ l then after n else (s.port n).license) ∧ LicenseWork s t ∧ t.alarms = s.alarms := by
  induction l generalizing s with
  | nil => exact ⟨fun _ => rfl, fun _ => rfl, .refl s, rfl⟩
  | cons n l ih =>
    obtain ⟨hn, hl⟩ := List.nodup_cons.1 hl
    obtain ⟨hpool, hlicense, hwork, halarms⟩ := ih (s := relicense (after n) n s) hl
    have hstep := relicense_license (after n) n s
    simp only [forEach_cons]
    refine ⟨fun k => ?_, fun m => ?_, (relicense_work (after n) n s).trans hwork, halarms.trans (relicense_alarms (after n) n s)⟩
    · have hnamers : namersOf (relicense (after n) n s) k (lostOf after l) = namersOf s k (lostOf after l) :=
        namersOf_congr k fun m hm => by
          rw [hstep, if_neg fun he : n = m => hn (he ▸ (List.mem_filter.1 hm).1)]
      rw [hpool, hnamers, relicense_pool]
      refine congrArg (fun b => { s.pool k with bound := b }) ?_
      unfold lostOf
      rw [List.filter_cons]
      by_cases hlost : after n = .unlicensed
      · rw [if_pos hlost, if_pos (decide_eq_true hlost), namersOf_cons_length, Nat.sub_sub]
      · rw [if_neg hlost, if_neg (by rw [decide_eq_false hlost]; exact Bool.false_ne_true), Nat.sub_zero]
    · rw [hlicense, hstep]
      by_cases hm : n = m
      · subst hm
        rw [if_neg hn, if_pos rfl, if_pos List.mem_cons_self]
      · rw [if_neg hm]
        simp only [List.mem_cons, Ne.symm hm, false_or]

/-- From s to t the ports of a list have taken their licenses, those that become Unlicensed with the loss of what they had. -/
structure Relicensed (after : PortIx → License) (l : List PortIx) (s t : State) : Prop where
  frame : t = { s with
    ports := t.ports, cards := t.cards, names := t.names, license := t.license, alarms := t.alarms, attn := t.attn
    power := powerWithoutAll s (lostOf after l) s.power }
  port : ∀ n, t.port n = if n ∈ l then relicensedPort s n (after n) else s.port n
  falls : Falls ((lostOf after l).filter (serviceable s)) s t
  list : WaitListFollows t

section
variable {after : PortIx → License} {s t u : State}

/-- Writes of the pools and the claims take no port's license. -/
theorem relicensed_nil (hw : WaitListFollows s) (hn : NamesLawful s)
    (ht : t = { s with license := t.license, alarms := t.alarms, attn := t.attn }) : Relicensed after [] s t := by
  refine ⟨?_, fun n => by rw [ht]; rfl, .nil hn (by rw [ht]) (by rw [ht]), ?_⟩
  · show t = { s with
      ports := t.ports, cards := t.cards, names := t.names, license := t.license, alarms := t.alarms, attn := t.attn
      power := powerWithoutAll s [] s.power }
    rw [powerWithoutAll_nil]
    have hp : t.ports = s.ports := by rw [ht]
    have hc : t.cards = s.cards := by rw [ht]
    have hm : t.names = s.names := by rw [ht]
    rw [hp, hc, hm]
    exact ht
  · exact waitsLaw_iff.1 ((waitsLaw_iff.2 hw).of_records (by rw [ht]) (by rw [ht]) (by rw [ht]))

theorem relicensed_single (after : PortIx → License) {n : PortIx} (hw : WaitListFollows s) (hn : NamesLawful s)
    (hl : (s.port n).license ≠ .unlicensed) : Relicensed after [n] s (relicense (after n) n s) := by
  have hlaw : WaitListFollows (relicense (after n) n s) := by
    unfold relicense
    split
    · exact waitsLaw_iff.1 ((waitsLaw_iff.2 hw).unbindPort n)
    · exact waitsLaw_iff.1 ((waitsLaw_iff.2 hw).setLicense n _)
  have hmem (m : PortIx) : m ∈ [n] ↔ n = m := List.mem_singleton.trans eq_comm
  have hlost : lostOf after [n] = if after n = .unlicensed then [n] else [] := by
    unfold lostOf
    rw [List.filter_cons, List.filter_nil]
    simp
  by_cases hx : after n = .unlicensed
  · rw [if_pos hx] at hlost
    have hfreed := freed_eq n s
    have hstep : relicense (after n) n s = portChange n (fun r => { r with license := .unlicensed }) (PoolsLawful.freed n s) := by
      rw [hx, relicense_of_unlicensed, PoolsLawful.unbindPort_eq]
    rw [hstep] at hlaw ⊢
    obtain ⟨L, A, hu⟩ : ∃ L A, PoolsLawful.freed n s = { s with license := L, attn := A } := ⟨_, _, hfreed⟩
    rw [hu] at hlaw ⊢
    have hnow : eligible (({ s with license := L, attn := A } : State).modPort n fun r => { r with license := .unlicensed }) n = false := by
      have hheld : ((({ s with license := L, attn := A } : State).modPort n fun r => { r with license := .unlicensed }).port n).license =
          .unlicensed := by rw [modPort_port_same]
      refine Bool.eq_false_iff.2 fun he => ?_
      have hh := (eligible_iff.1 he).2.1
      rw [hheld] at hh
      cases hh
    obtain ⟨hframe, hfalls⟩ := portChange_lost (s := { s with license := L, attn := A }) (f := fun r => { r with license := .unlicensed })
      (hn.of_names rfl) (waitsLaw_iff.1 ((waitsLaw_iff.2 hw).of_records rfl rfl rfl)) (fun _ => ⟨rfl, rfl⟩) hnow
    have hbudget : budgetWithout s (fun m => m == n) = powerWithoutAll s [n] s.power :=
      (powerWithoutAll_eq (List.nodup_singleton n) fun m => by rw [beq_iff_eq, List.mem_singleton]).symm
    generalize portChange n (fun r => { r with license := .unlicensed }) { s with license := L, attn := A } = t at hframe hfalls hlaw ⊢
    have hports : t.ports = s.ports.set n (portFallen (serviceable s n) { s.port n with license := .unlicensed }) := by rw [hframe]; rfl
    refine ⟨?_, fun m => ?_, ?_, hlaw⟩
    · rw [hlost, ← hbudget]
      have hlicense : t.license = L := by rw [hframe]
      have hattn : t.attn = A := by rw [hframe]
      have halarms : t.alarms = s.alarms := by rw [hframe]
      rw [hports, hlicense, hattn, halarms]
      exact hframe
    · rw [port_of_ports (s := s.modPort n fun _ => portFallen (serviceable s n) { s.port n with license := .unlicensed }) hports, modPort_port]
      simp only [hmem]
      split
      next he =>
        subst he
        rw [relicensedPort, hx, if_pos rfl, fallenPort_eq]
        cases serviceable s n <;> rfl
      next => rfl
    · rw [hlost]
      exact hfalls.of_records rfl rfl rfl rfl
  · rw [if_neg hx] at hlost
    have hstep : relicense (after n) n s = s.modPort n fun r => { r with license := after n } := by
      rw [relicense_of_held hx, portChange_license_of_held hl hx]
    rw [hstep] at hlaw ⊢
    refine ⟨?_, fun m => ?_, ?_, hlaw⟩
    · rw [hlost, powerWithoutAll_nil]
      rfl
    · rw [modPort_port]
      simp only [hmem]
      split
      next he =>
        subst he
        rw [relicensedPort, if_neg hx]
      next => rfl
    · rw [hlost]
      exact .nil hn rfl rfl

theorem powerWithoutAll_append {l l' : List PortIx} (p : PowerBudget) (hpower : ∀ n ∈ l', (u.port n).power = (s.port n).power)
    (hdraw : ∀ n ∈ l', portDraw u n = portDraw s n) :
    powerWithoutAll u l' (powerWithoutAll s l p) = powerWithoutAll s (l ++ l') p := by
  have hlist : ((p.waitList.filter fun x => ∀ n ∈ l, x ≠ .port n).filter fun x => ∀ n ∈ l', x ≠ .port n) =
      p.waitList.filter fun x => ∀ n ∈ l ++ l', x ≠ .port n := by
    rw [List.filter_filter]
    refine List.filter_congr fun x _ => ?_
    rw [← Bool.decide_and]
    refine decide_eq_decide.2 ?_
    rw [List.forall_mem_append, and_comm]
  have hsum : (l'.map fun n => drawnBy (u.port n).power (portDraw u n)) = l'.map fun n => drawnBy (s.port n).power (portDraw s n) :=
    List.map_congr_left fun n hn => by rw [hpower n hn, hdraw n hn]
  unfold powerWithoutAll
  dsimp only
  rw [hlist, hsum, List.map_append, List.sum_append, Nat.sub_sub]

/-- One list after another that shares no port with it. -/
theorem Relicensed.append {l l' : List PortIx} (h : Relicensed after l s u) (h' : Relicensed after l' u t) (hd : ∀ n ∈ l', n ∉ l) :
    Relicensed after (l ++ l') s t := by
  have hstill {n : PortIx} (hn : n ∈ l') : u.port n = s.port n := (h.port n).trans (if_neg (hd n hn))
  have hserv {n : PortIx} (hn : n ∈ l') : serviceable u n = serviceable s n :=
    serviceable_congr (by rw [hstill hn]) (by rw [hstill hn]) (by rw [hstill hn]) (h.falls.state _) (h.falls.identity _)
  have hlost : lostOf after (l ++ l') = lostOf after l ++ lostOf after l' := List.filter_append ..
  have hlater {n : PortIx} (hn : n ∈ lostOf after l') : n ∈ l' := (List.mem_filter.1 hn).1
  have hfilter : (lostOf after l').filter (serviceable u) = (lostOf after l').filter (serviceable s) :=
    List.filter_congr fun n hn => hserv (hlater hn)
  refine ⟨?_, fun n => ?_, ?_, h'.list⟩
  · have hpower := powerWithoutAll_append (s := s) (u := u) (l := lostOf after l) (l' := lostOf after l') s.power
      (fun n hn => by rw [hstill (hlater hn)])
      (fun n _ => portDraw_congr (h.falls.identity (slotOf n)))
    have hp : u.power = powerWithoutAll s (lostOf after l) s.power := by rw [h.frame]
    rw [hlost, ← hpower, ← hp]
    have hframe := h'.frame
    have hfirst := h.frame
    generalize powerWithoutAll u (lostOf after l') u.power = p at hframe
    rw [hframe, hfirst]
  · rw [h'.port, h.port]
    by_cases hm : n ∈ l'
    · have hrecord : relicensedPort u n (after n) = relicensedPort s n (after n) := by
        unfold relicensedPort
        rw [fallenPort_eq, fallenPort_eq, hserv hm, hstill hm]
      rw [if_pos hm, hrecord, if_pos (List.mem_append_right _ hm)]
    · rw [if_neg hm]
      simp only [List.mem_append, hm, or_false]
  · have hfalls := h'.falls
    rw [hfilter] at hfalls
    rw [hlost, List.filter_append]
    exact h.falls.append hfalls fun n hn hin => hd n (hlater (List.mem_filter.1 hn).1) (List.mem_filter.1 (List.mem_filter.1 hin).1).1

theorem relicensed_forEach {l : List PortIx} (hl : l.Nodup) (hw : WaitListFollows s) (hn : NamesLawful s)
    (hs : ∀ n ∈ l, (s.port n).license ≠ .unlicensed) : Relicensed after l s (forEach l (fun n => relicense (after n) n) s) := by
  induction l generalizing s with
  | nil => exact relicensed_nil hw hn rfl
  | cons n l ih =>
    obtain ⟨hnl, hl⟩ := List.nodup_cons.1 hl
    have hstep := relicensed_single after hw hn (hs n List.mem_cons_self)
    have hrest := ih (s := relicense (after n) n s) hl hstep.list hstep.falls.lawful fun m hm => by
      rw [relicense_license, if_neg fun he : n = m => hnl (he ▸ hm)]
      exact hs m (List.mem_cons_of_mem _ hm)
    rw [forEach_cons]
    exact hstep.append hrest fun m hm he => hnl (List.mem_singleton.1 he ▸ hm)

/-- The budget, the names and the cards in the terms of the statements. -/
theorem Relicensed.state_eq {l : List PortIx} (h : Relicensed after l s t) (hl : l.Nodup) {lost : PortIx → Bool}
    (hlost : ∀ n, lost n = true ↔ n ∈ lostOf after l) :
    t = { s with
      ports := t.ports, license := t.license, power := budgetWithout s lost, cards := t.cards, names := namesWithout s lost
      alarms := t.alarms, attn := t.attn } ∧ ∀ c, t.card c = cardAfterFalls s (lostOf after l) c := by
  have hnames : t.names = namesWithout s lost := h.falls.namesWithout rfl fun n => by
    rw [← Bool.decide_coe (lost n)]
    exact decide_eq_decide.2 (hlost n)
  have hpower : budgetWithout s lost = powerWithoutAll s (lostOf after l) s.power := (powerWithoutAll_eq (hl.filter _) hlost).symm
  refine ⟨?_, h.falls.cardAfterFalls rfl rfl⟩
  rw [← hnames, hpower]
  exact h.frame

end

end Sys2Proof.Machine

/-! PROOFS. A Pool Revoke that is confirmed (R77, R78). -/

namespace Sys2Proof.Machine

/-! ## The write of a pool's record (R63) -/

theorem poolTermClaim_eq (k : PoolIx) (before after : PoolState) (s : State) : poolTermClaim k before after s = { s with
    alarms := (poolTermClaim k before after s).alarms, attn := (poolTermClaim k before after s).attn } := by
  have hmade (t : State) (ht : t = s ∨ ∃ u : State, (∃ r, u = raiseAlarm r s) ∧ t = u ∨ (∃ c n, u = endAlarm c n s) ∧ t = u) :
      t = { s with alarms := t.alarms, attn := t.attn } := by
    rcases ht with rfl | ⟨u, ⟨⟨r, rfl⟩, rfl⟩ | ⟨⟨c, n, rfl⟩, rfl⟩⟩
    · rfl
    · exact raiseAlarm_eq r s
    · exact endAlarm_eq c n s
  refine hmade _ ?_
  unfold poolTermClaim
  cases after with
  | expiring => exact .inr ⟨_, .inl ⟨⟨_, rfl⟩, rfl⟩⟩
  | expired => exact .inr ⟨_, .inl ⟨⟨_, rfl⟩, rfl⟩⟩
  | active =>
    cases before with
    | expiring => exact .inr ⟨_, .inr ⟨⟨_, _, rfl⟩, rfl⟩⟩
    | expired => exact .inr ⟨_, .inr ⟨⟨_, _, rfl⟩, rfl⟩⟩
    | active => exact .inl rfl
    | vacant => exact .inl rfl
  | vacant =>
    cases before with
    | expiring => exact .inr ⟨_, .inr ⟨⟨_, _, rfl⟩, rfl⟩⟩
    | expired => exact .inr ⟨_, .inr ⟨⟨_, _, rfl⟩, rfl⟩⟩
    | active => exact .inl rfl
    | vacant => exact .inl rfl

theorem writePool_eq (k : PoolIx) (r : PoolRec) (s : State) : writePool k r s = { s with
    license := (writePool k r s).license, alarms := (writePool k r s).alarms, attn := (writePool k r s).attn } := by
  have hclaim := poolTermClaim_eq k (s.pool k).state r.state (s.modPool k fun _ => r)
  unfold writePool
  dsimp only
  split
  · rfl
  · generalize poolTermClaim k (s.pool k).state r.state (s.modPool k fun _ => r) = t at hclaim
    rw [hclaim]
    rfl

/-! ## The revoke -/

/-- The state of a Pool Revoke before its passes. -/
def revoked (k : PoolIx) (s : State) : State :=
  addReason .license (writePool k PoolRec.vacant (forEach (portsOfPool s k) (fun n => relicense .unlicensed n) s))

theorem confirmedPoolRevoke_eq {k : PoolIx} {s : State} (h : (s.pool k).state ≠ .vacant) :
    confirmedPoolRevoke k s = (rebindThenRestore s.power.admitted (revoked k s), answer .done) := by
  have hact : unbindPort = relicense .unlicensed := funext fun n => funext fun u => (relicense_of_unlicensed n u).symm
  unfold confirmedPoolRevoke
  rw [if_neg h, hact]
  rfl

theorem lostOf_all (l : List PortIx) : lostOf (fun _ => .unlicensed) l = l := List.filter_eq_self.2 fun _ _ => decide_eq_true rfl

section
variable (k : PoolIx) (s : State)

theorem revoked_pool (m : PoolIx) : (revoked k s).pool m = if k = m then PoolRec.vacant else s.pool m := by
  have hloop := (forEach_relicense_pool (after := fun _ => .unlicensed) (s := s) (l := portsOfPool s k) (portsWhere_nodup _ _)).1 m
  unfold revoked
  rw [addReason_pool, writePool_pool]
  split
  · rfl
  next hne =>
    have hnone : namersOf s m (lostOf (fun _ => .unlicensed) (portsOfPool s k)) = [] := by
      rw [lostOf_all]
      refine List.filter_eq_nil_iff.2 fun n hn hm => hne ?_
      have hk := mem_portsOfPool.1 hn
      rw [of_decide_eq_true hm] at hk
      exact (Option.some.inj hk).symm
    rw [hloop, hnone]
    rfl

theorem revoked_license (n : PortIx) : ((revoked k s).port n).license =
    if (s.port n).license.pool? = some k then .unlicensed else (s.port n).license := by
  obtain ⟨-, hlicense, -, -⟩ :=
    forEach_relicense_pool (after := fun _ => .unlicensed) (s := s) (l := portsOfPool s k) (portsWhere_nodup _ _)
  simp only [mem_portsOfPool] at hlicense
  unfold revoked
  generalize forEach (portsOfPool s k) (fun n => relicense .unlicensed n) s = u at hlicense ⊢
  rw [addReason_port, writePool_eq]
  exact hlicense n

theorem revoked_work : LicenseWork s (revoked k s) :=
  ((forEach_relicense_pool (after := fun _ => .unlicensed) (portsWhere_nodup _ _)).2.2.1.writePool k _).reason _

theorem moves_revoked : Moves .licence s (revoked k s) := by
  refine Moves.reason _ (Moves.writePool _ _ rfl (forEach_keeps (P := Moves .licence s) (fun n t ht => ?_) _ .refl))
  rw [relicense_of_unlicensed]
  exact ht.unbindPort n rfl

/-- The claim of the revoke (R63). -/
theorem revoked_term (ha : AlarmsLawful s) (hroom : s.alarms.length < 128) :
    (∀ m, PoolTermFollows s (revoked k s) m) ∧ AlarmsLawful (revoked k s) := by
  obtain ⟨hpool, -, -, halarms⟩ :=
    forEach_relicense_pool (after := fun _ => .unlicensed) (s := s) (l := portsOfPool s k) (portsWhere_nodup _ _)
  have hbefore (m : PoolIx) : TermKept s (forEach (portsOfPool s k) (fun n => relicense .unlicensed n) s) m :=
    .of_alarms (by rw [hpool]) halarms
  unfold revoked
  generalize forEach (portsOfPool s k) (fun n => relicense .unlicensed n) s = u at halarms hbefore ⊢
  have hwritten := termWritten_writePool (k := k) (r := PoolRec.vacant) (s := u) (ha.of_alarms halarms) (by rw [halarms]; exact hroom)
  have hlast (m : PoolIx) : TermKept (writePool k PoolRec.vacant u) (addReason .license (writePool k PoolRec.vacant u)) m :=
    .of_alarms rfl rfl
  refine ⟨fun m => ?_, hwritten.lawful.of_alarms rfl⟩
  by_cases hm : m = k
  · subst hm
    exact ((hbefore m).then_follows hwritten.follows).then_kept (hlast m)
  · exact (((hbefore m).trans (hwritten.kept m hm)).trans (hlast m)).follows

variable {k s}

/-- What the revoke writes where the laws hold. -/
theorem revoked_spec (hw : WaitListFollows s) (hn : NamesLawful s) :
    let lost := fun n => (s.port n).license.pool? == some k
    revoked k s = { s with
      ports := (revoked k s).ports, license := (revoked k s).license, power := budgetWithout s lost, cards := (revoked k s).cards
      names := namesWithout s lost, alarms := (revoked k s).alarms, attn := (revoked k s).attn } ∧
    (∀ c, (revoked k s).card c = cardAfterFalls s ((List.finRange 672).filter lost) c) ∧
    ∀ n, (revoked k s).port n = if lost n then { fallenPort s n with license := .unlicensed } else s.port n := by
  intro lost
  have hmem (n : PortIx) : lost n = true ↔ n ∈ portsOfPool s k := by rw [mem_portsOfPool]; exact beq_iff_eq
  have hlist : portsOfPool s k = (List.finRange 672).filter lost := by
    unfold portsOfPool
    rw [portsWhere_eq_filter]
  have hloop := relicensed_forEach (after := fun _ => .unlicensed) (l := portsOfPool s k) (portsWhere_nodup _ _) hw hn fun n hm hl => by
    have := mem_portsOfPool.1 hm
    rw [hl] at this
    cases this
  obtain ⟨hframe, hcards⟩ := hloop.state_eq (portsWhere_nodup _ _) (lost := lost) fun n => by rw [lostOf_all]; exact hmem n
  have hport := hloop.port
  have hwrite := writePool_eq k PoolRec.vacant (forEach (portsOfPool s k) (fun n => relicense .unlicensed n) s)
  rw [lostOf_all] at hcards
  unfold revoked
  generalize forEach (portsOfPool s k) (fun n => relicense .unlicensed n) s = u at hframe hcards hport hwrite
  generalize writePool k PoolRec.vacant u = v at hwrite
  refine ⟨?_, fun c => ?_, fun n => ?_⟩
  · rw [hwrite, hframe]
    rfl
  · rw [← hlist, ← hcards, hwrite]
    rfl
  · rw [hwrite]
    refine (hport n).trans ?_
    by_cases hl : lost n = true
    · rw [if_pos hl, if_pos ((hmem n).1 hl), relicensedPort, if_pos rfl]
    · rw [if_neg hl, if_neg fun hm => hl ((hmem n).2 hm)]

end

theorem exec_confirmPoolRevoke {f : Frame} {s : State} {k : PoolIx} {parameter : Byte} (ht : PortTakes s f.port)
    (hm : s.cmd.mastership = some f.port) (ha : (s.cmdPort f.port).armed = .poolRevoke k) (hp : parameter.toNat = k.val + 1) :
    exec (.confirmPoolRevoke f parameter) s = .next (respond f (confirmedPoolRevoke k (disarm f.port s)).2
      (settleDeficit (confirmedPoolRevoke k (disarm f.port s)).1)) := by
  have hmatches : confirmMatches (.poolRevoke k) 0x22#8 parameter = true := by
    unfold confirmMatches
    simp [Armed.code, Armed.parameter, hp]
  have hconfirm : confirm f.port 0x22#8 parameter s = confirmedPoolRevoke k (disarm f.port s) := by
    unfold confirm
    rw [ha]
    exact if_pos hmatches
  refine (congrArg Host.Outcome.next (keepingCommand_master ht hm .master (settled (confirm f.port 0x22#8 parameter)))).trans ?_
  rw [settled, hconfirm]

/-- Disarming a Pool Revoke writes the port alone. -/
theorem disarm_of_poolRevoke {p : PortId} {k : PoolIx} {s : State} (h : (s.cmdPort p).armed = .poolRevoke k) :
    disarm p s = { s with cmd := (disarm p s).cmd } := by
  have hzones : (disarm p s).zones = s.zones := by
    rw [disarm_zones, disarmedZones, if_neg]
    rw [h]
    nofun
  have heq := disarm_eq p s
  rw [hzones] at heq
  exact heq

end Sys2Proof.Machine

section
open Sys2Proof Sys2Proof.Machine

/-- Settles O36: NO_CHANGE on a Vacant pool, else the pool emptied, its ports unbound in turn, and the passes that follow. -/
theorem poolRevokeConfirmed : Obligations.PoolRevokeConfirmed := by
  unfold Obligations.PoolRevokeConfirmed
  intro f parameter k s ht hm hdeficit ha hp
  have hdisarmed := disarm_of_poolRevoke ha
  have hexec := exec_confirmPoolRevoke ht hm ha hp
  have hstill : DeficitFollows (disarm f.port s) := hdeficit.of_power_ports (by rw [disarm_eq]) (by rw [disarm_eq]) (by rw [disarm_eq])
  generalize hcmd : disarm f.port s = d at hdisarmed hexec hstill ⊢
  obtain ⟨cmd, rfl⟩ : ∃ cmd, d = { s with cmd := cmd } := ⟨_, hdisarmed⟩
  refine ⟨fun hv => ?_, fun hv => ?_⟩
  · rw [hexec, confirmedPoolRevoke, if_pos (c := (State.pool { s with cmd := cmd } k).state = .vacant) hv,
      settleDeficit_of_follows hstill]
  · rw [confirmedPoolRevoke_eq (s := { s with cmd := cmd }) hv] at hexec
    have hend := rebound s.power.admitted (revoked k { s with cmd := cmd })
    have hpool := revoked_pool k { s with cmd := cmd }
    have hlicense := revoked_license k { s with cmd := cmd }
    have hwork := (revoked_work k { s with cmd := cmd }).trans hend.work
    have hmoves := (moves_revoked k { s with cmd := cmd })
    have hnoted : Noted .license (revoked k { s with cmd := cmd }) := noted_addReason_self _ _
    have hterm := revoked_term k { s with cmd := cmd }
    have hspec := revoked_spec (k := k) (s := { s with cmd := cmd })
    have hself := (hpool k).trans (if_pos rfl)
    have hother {m : PoolIx} (hne : m ≠ k) := (hpool m).trans (if_neg fun he : k = m => hne he.symm)
    dsimp only at hexec
    refine ⟨settleDeficit (rebindThenRestore s.power.admitted (revoked k { s with cmd := cmd })), hexec, ?_⟩
    generalize ht' : settleDeficit (rebindThenRestore s.power.admitted (revoked k { s with cmd := cmd })) = t at hend hwork
    generalize revoked k { s with cmd := cmd } = u at *
    have hempty : t.pool k = PoolRec.vacant := by
      obtain ⟨b, hb, hle⟩ := hend.pools k
      rw [hself] at hb hle
      rw [hb, Nat.le_zero.1 (hle rfl)]
      rfl
    have hpools (m : PoolIx) (hne : m ≠ k) : t.pool m = { s.pool m with bound := (t.pool m).bound } := by
      rw [hend.pool_eq, hother hne]
      rfl
    obtain ⟨hzones, hcommit, hsensors⟩ := hwork.engines
    refine ⟨hempty, hpools, fun hlawful hroom m => ?_, fun hw hn => ?_, fun n hl => ?_, fun n m hne hl => ?_,
      (hend.moves.chassis_eq).trans hmoves.chassis_eq, hend.moves.noted hnoted, hwork.cmd_eq, hzones, hcommit,
      fun n => ⟨((hend.moves.settings_eq rfl n).1).trans (hmoves.settings_eq rfl n).1,
        ((hend.moves.settings_eq rfl n).2).trans (hmoves.settings_eq rfl n).2⟩, hsensors⟩
    · obtain ⟨hfollows, hlater⟩ := hterm hlawful (by exact Nat.lt_of_lt_of_le hroom (by decide))
      refine (hfollows m).then_kept (.of_claims ?_ hend.claims nofun hlater)
      rw [hend.pool_eq]
    · obtain ⟨hframe, hcards, hports⟩ := hspec hw hn
      exact ⟨u, hframe, hcards, hports, hself.trans hempty.symm, fun m hne => hother hne, hmoves.chassis_eq, ht'.symm⟩
    · have hu := (hlicense n).trans (if_pos hl)
      rcases hend.license n with he | ⟨m, hb, -, -, hserves⟩
      · exact .inl (he.trans hu)
      · refine .inr ⟨m, fun he => ?_, hb⟩
        rw [he, hself] at hserves
        cases hserves
    · refine hend.bound ?_
      have hnot : ¬ ((({ s with cmd := cmd } : State).port n).license.pool? = some k) := fun he => by
        have hp : (({ s with cmd := cmd } : State).port n).license = .bound m := hl
        rw [hp] at he
        exact hne (Option.some.inj he)
      rw [hlicense, if_neg hnot]
      exact hl

end

/-! PROOFS. The pools at an expiry of the hour timer (R73, R74). -/

namespace Sys2Proof.Machine

theorem mem_boundPorts {s : State} {k : PoolIx} {n : PortIx} : n ∈ boundPorts s k ↔ (s.port n).license = .bound k := by
  rw [boundPorts, mem_portsWhere]
  cases (s.port n).license <;> simp

theorem mem_portsInGrace {s : State} {n : PortIx} : n ∈ portsInGrace s ↔ ∃ k h, (s.port n).license = .grace k h := by
  rw [portsInGrace, mem_portsWhere]
  cases (s.port n).license <;> simp

/-! ## One pool (R74) -/

/-- A pool that is counted: a Term pool that serves, with a bound port. -/
abbrev PoolCounts (s : State) (k : PoolIx) : Prop :=
  (s.pool k).kind = .term ∧ ((s.pool k).state = .active ∨ (s.pool k).state = .expiring) ∧ 1 ≤ (s.pool k).bound

/-- A pool whose last hour is counted. -/
abbrev PoolExpires (s : State) (k : PoolIx) : Prop := PoolCounts s k ∧ (s.pool k).hours ≤ 1

/-- A pool's record once it has been counted, but for its bound count. -/
def countedPool (s : State) (k : PoolIx) : PoolRec := { s.pool k with
  hours := if PoolCounts s k then (s.pool k).hours - 1 else (s.pool k).hours
  state := if PoolCounts s k then
      (if (s.pool k).hours ≤ 1 then .expired else if (s.pool k).hours - 1 ≤ (s.pool k).warn then .expiring else .active)
    else (s.pool k).state }

/-- The license that a port of an expired pool takes. -/
def graceLicense (s : State) (k : PoolIx) : License := if s.params.grace = 0 then .unlicensed else .grace k s.params.grace

/-- The ports of the pools of a list that expire, pool by pool. -/
def expiredOf (s : State) (ks : List PoolIx) : List PortIx := ks.flatMap fun k => if PoolExpires s k then boundPorts s k else []

theorem counts_iff {s : State} {k : PoolIx} : (s.pool k).counts = true ↔ PoolCounts s k := by
  unfold PoolRec.counts PoolCounts
  rw [Bool.and_eq_true, Bool.and_eq_true, beq_iff_eq, PoolState.serves_iff, decide_eq_true_iff, and_assoc]

theorem countedPool_of_not {s : State} {k : PoolIx} (h : ¬ PoolCounts s k) : countedPool s k = s.pool k := by
  unfold countedPool
  rw [if_neg h, if_neg h]

theorem countedPool_state_expired {s : State} {k : PoolIx} (h : PoolCounts s k) :
    (countedPool s k).state = .expired ↔ (s.pool k).hours ≤ 1 := by
  unfold countedPool
  dsimp only
  rw [if_pos h]
  split
  next hl => exact iff_of_true rfl hl
  next hl => split <;> exact iff_of_false nofun hl

/-- A pool becomes Expired exactly where its last hour is counted. -/
theorem countedPool_expires {s : State} {k : PoolIx} :
    ((s.pool k).state ≠ .expired ∧ (countedPool s k).state = .expired) ↔ PoolExpires s k := by
  by_cases h : PoolCounts s k
  · have hnot : (s.pool k).state ≠ .expired := fun he => by
      rcases h.2.1 with hs | hs <;> rw [he] at hs <;> cases hs
    rw [countedPool_state_expired h]
    exact ⟨fun hand => ⟨h, hand.2⟩, fun hand => ⟨hnot, hand.2⟩⟩
  · rw [countedPool_of_not h]
    exact iff_of_false (fun hand => hand.1 hand.2) fun hand => h hand.1

/-- A pool's record once counted is what the model writes. -/
theorem countedPool_eq {s : State} {k : PoolIx} (h : PoolCounts s k) : countedPool s k = { s.pool k with
    hours := (s.pool k).hours - 1, state := poolStateOf (s.pool k).kind ((s.pool k).hours - 1) (s.pool k).warn } := by
  have hzero : (s.pool k).hours - 1 = 0 ↔ (s.pool k).hours ≤ 1 := Nat.sub_eq_zero_iff_le
  unfold countedPool poolStateOf
  rw [if_pos h, if_pos h, h.1]
  dsimp only
  simp only [hzero]

theorem forEach_congr_mem {α : Type} {f g : α → State → State} {l : List α} (h : ∀ x ∈ l, ∀ u, f x u = g x u) (s : State) :
    forEach l f s = forEach l g s := by
  induction l generalizing s with
  | nil => rfl
  | cons x l ih =>
    rw [forEach_cons, forEach_cons, h x List.mem_cons_self, ih fun y hy => h y (List.mem_cons_of_mem _ hy)]

/-- The ports of an expired pool take the license that the grace period gives, as it stood before. -/
theorem forEach_enterGrace_eq {k : PoolIx} {x : License} {l : List PortIx} {s : State}
    (hx : x = if s.params.grace = 0 then .unlicensed else .grace k s.params.grace) :
    forEach l (enterGrace k) s = forEach l (relicense x) s := by
  induction l generalizing s with
  | nil => rfl
  | cons n l ih =>
    have hstep : enterGrace k n s = relicense x n s := by
      unfold enterGrace
      rw [hx]
      split
      · rw [relicense_of_unlicensed]
      · exact (relicense_of_held (x := .grace k s.params.grace) nofun n s).symm
    rw [forEach_cons, forEach_cons, hstep]
    exact ih (by rw [(relicense_work x n s).params_eq]; exact hx)

theorem boundPorts_congr {s t : State} {k : PoolIx} (h : ∀ n, (t.port n).license = .bound k ↔ (s.port n).license = .bound k) :
    boundPorts t k = boundPorts s k := by
  unfold boundPorts
  rw [portsWhere_eq_filter, portsWhere_eq_filter]
  refine List.filter_congr fun n _ => Bool.eq_iff_iff.2 ?_
  have hn := h n
  cases ht : (t.port n).license <;> cases hs : (s.port n).license <;> simp_all

theorem countPool_eq (k : PoolIx) (s : State) : countPool k s =
    forEach (expiredOf s [k]) (relicense (graceLicense s k)) (if PoolCounts s k then writePool k (countedPool s k) s else s) := by
  unfold countPool expiredOf
  dsimp only
  rw [List.flatMap_singleton]
  by_cases h : PoolCounts s k
  · have hwork := (LicenseWork.refl s).writePool k (countedPool s k)
    have hports : boundPorts (writePool k (countedPool s k) s) k = boundPorts s k := boundPorts_congr fun n => by
      rw [writePool_eq]
      rfl
    have hexpired := countedPool_state_expired h
    rw [if_pos (counts_iff.2 h), if_pos h]
    rw [countedPool_eq h] at hwork hports hexpired ⊢
    by_cases hl : (s.pool k).hours ≤ 1
    · rw [if_pos (hexpired.2 hl), if_pos ⟨h, hl⟩, hports]
      refine forEach_enterGrace_eq ?_
      rw [hwork.params_eq]
      rfl
    · rw [if_neg fun he => hl (hexpired.1 he), if_neg fun hand => hl hand.2]
      rfl
  · rw [if_neg fun hc => h (counts_iff.1 hc), if_neg fun hand => h hand.1, if_neg h]
    rfl

/-! ## All pools (R74) -/

/-- From s to u the pools of a list have been counted, and the ports of those that expire have taken their licenses. -/
structure HourPools (after : PortIx → License) (ks : List PoolIx) (s u : State) : Prop where
  work : LicenseWork s u
  license : ∀ n, (u.port n).license = if n ∈ expiredOf s ks then after n else (s.port n).license
  pool : ∀ k, u.pool k = { (if k ∈ ks then countedPool s k else s.pool k) with
    bound := (s.pool k).bound - (namersOf s k (lostOf after (expiredOf s ks))).length }
  term : AlarmsLawful s → s.alarms.length + ks.length ≤ 128 → (∀ k ∈ ks, PoolTermFollows s u k) ∧ (∀ k, k ∉ ks → TermKept s u k) ∧
    AlarmsLawful u ∧ u.alarms.length ≤ s.alarms.length + ks.length
  quiet : (∀ k ∈ ks, ¬ PoolExpires s k) → u = { s with license := u.license, alarms := u.alarms, attn := u.attn }
  laws : WaitListFollows s → NamesLawful s → Relicensed after (expiredOf s ks) s u

/-- The licenses that the ports of the pools that expire take. -/
def TakesGrace (after : PortIx → License) (ks : List PoolIx) (s : State) : Prop :=
  ∀ k ∈ ks, PoolExpires s k → ∀ n, (s.port n).license = .bound k → after n = graceLicense s k

theorem expiredOf_nil_of {s : State} {ks : List PoolIx} (h : ∀ k ∈ ks, ¬ PoolExpires s k) : expiredOf s ks = [] :=
  List.flatMap_eq_nil_iff.2 fun k hk => if_neg (h k hk)

theorem mem_expiredOf {s : State} {ks : List PoolIx} {n : PortIx} :
    n ∈ expiredOf s ks ↔ ∃ k ∈ ks, PoolExpires s k ∧ (s.port n).license = .bound k := by
  unfold expiredOf
  rw [List.mem_flatMap]
  refine exists_congr fun k => and_congr_right fun _ => ?_
  split
  next h => rw [mem_boundPorts, and_iff_right h]
  next h => exact iff_of_false List.not_mem_nil fun hand => h hand.1

theorem expiredOf_nodup {ks : List PoolIx} (hks : ks.Nodup) (s : State) : (expiredOf s ks).Nodup := by
  refine List.nodup_flatMap.2 ⟨fun k _ => ?_, hks.imp fun {j k} hne n hj hk => ?_⟩
  · split
    · exact portsWhere_nodup _ _
    · exact List.nodup_nil
  · have hbound {i : PoolIx} (hi : n ∈ if PoolExpires s i then boundPorts s i else []) : (s.port n).license = .bound i := by
      split at hi
      · exact mem_boundPorts.1 hi
      · cases hi
    have hsame := (hbound hj).symm.trans (hbound hk)
    exact hne (License.bound.inj hsame)

theorem graceLicense_ne_bound (s : State) (k j : PoolIx) : graceLicense s k ≠ .bound j := by
  unfold graceLicense
  split <;> nofun

section
variable {after : PortIx → License} {s u t : State}

/-- The count of one pool. -/
theorem hourPools_countPool {k : PoolIx} (hafter : TakesGrace after [k] s) : HourPools after [k] s (countPool k s) := by
  have hnodup := expiredOf_nodup (List.nodup_singleton k) s
  have hcongr (v : State) : forEach (expiredOf s [k]) (relicense (graceLicense s k)) v =
      forEach (expiredOf s [k]) (fun n => relicense (after n) n) v := forEach_congr_mem (fun n hn w => by
    obtain ⟨j, hj, hexpires, hl⟩ := mem_expiredOf.1 hn
    rw [hafter j hj hexpires n hl, List.mem_singleton.1 hj]) v
  have hheld : ∀ n ∈ expiredOf s [k], (s.port n).license ≠ .unlicensed := fun n hn hl => by
    obtain ⟨j, -, -, hb⟩ := mem_expiredOf.1 hn
    rw [hl] at hb
    cases hb
  rw [countPool_eq, hcongr]
  have hframe : (if PoolCounts s k then writePool k (countedPool s k) s else s) = { s with
      license := (if PoolCounts s k then writePool k (countedPool s k) s else s).license
      alarms := (if PoolCounts s k then writePool k (countedPool s k) s else s).alarms
      attn := (if PoolCounts s k then writePool k (countedPool s k) s else s).attn } := by
    split
    · exact writePool_eq k _ s
    · rfl
  have hpool (j : PoolIx) : (if PoolCounts s k then writePool k (countedPool s k) s else s).pool j =
      if j ∈ [k] then countedPool s j else s.pool j := by
    have hmem : j ∈ [k] ↔ k = j := List.mem_singleton.trans eq_comm
    simp only [hmem]
    split
    next =>
      rw [writePool_pool]
      split
      next he => rw [he]
      next => rfl
    next hc =>
      split
      next he => rw [← he, countedPool_of_not hc]
      next => rfl
  have hterm (ha : AlarmsLawful s) (hroom : s.alarms.length < 128) :
      TermWritten k s (if PoolCounts s k then writePool k (countedPool s k) s else s) := by
    split
    · exact termWritten_writePool ha hroom
    · have hkept (j : PoolIx) : TermKept s s j := .of_alarms rfl rfl
      exact ⟨(hkept k).follows, fun j _ => hkept j, ha, Nat.le_succ _⟩
  generalize (if PoolCounts s k then writePool k (countedPool s k) s else s) = w at hframe hpool hterm
  obtain ⟨hlater, hlicense, hwork, halarms⟩ := forEach_relicense_pool (after := after) (s := w) hnodup
  have hbefore : LicenseWork s w := by
    unfold LicenseWork
    rw [hframe]
  have hbound (j : PoolIx) : (w.pool j).bound = (s.pool j).bound := by
    rw [hpool]
    split <;> rfl
  have hsame (n : PortIx) : w.port n = s.port n := by
    rw [hframe]
    rfl
  refine ⟨hbefore.trans hwork, fun n => ?_, fun j => ?_, fun ha hroom => ?_, fun hnot => ?_, fun hw hn => ?_⟩
  · rw [hlicense, hsame]
  · rw [hlater, hbound, hpool, namersOf_congr (s := s) (t := w) j fun n _ => by rw [hsame]]
  · obtain ⟨hfollows, hkept, hlawful, hlength⟩ := hterm ha hroom
    have hrest (j : PoolIx) : TermKept w (forEach (expiredOf s [k]) (fun n => relicense (after n) n) w) j :=
      .of_alarms (by rw [hlater]) halarms
    refine ⟨fun j hj => ?_, fun j hj => (hkept j fun he => hj (List.mem_singleton.2 he)).trans (hrest j), hlawful.of_alarms halarms,
      by rw [halarms]; exact hlength⟩
    rw [List.mem_singleton.1 hj]
    exact hfollows.then_kept (hrest k)
  · rw [expiredOf_nil_of hnot]
    exact hframe
  · have hstart := relicensed_nil (after := after) hw hn hframe
    exact hstart.append (relicensed_forEach hnodup hstart.list hstart.falls.lawful fun n hm => by rw [hsame]; exact hheld n hm)
      fun _ _ => List.not_mem_nil

/-- After the count of a pool the others stand as they stood. -/
theorem HourPools.later {k : PoolIx} {ks : List PoolIx} (h : HourPools after [k] s u) (hk : k ∉ ks) (hafter : TakesGrace after [k] s) :
    (∀ j ∈ ks, u.pool j = s.pool j) ∧ (∀ j ∈ ks, ∀ n, (u.port n).license = .bound j ↔ (s.port n).license = .bound j) ∧
      expiredOf u ks = expiredOf s ks := by
  have hpool (j : PoolIx) (hj : j ∈ ks) : u.pool j = s.pool j := by
    have hne : j ∉ [k] := fun he => hk (List.mem_singleton.1 he ▸ hj)
    have hnone : namersOf s j (lostOf after (expiredOf s [k])) = [] := by
      refine List.filter_eq_nil_iff.2 fun n hn hm => ?_
      obtain ⟨i, hi, -, hl⟩ := mem_expiredOf.1 (List.mem_filter.1 hn).1
      have hown := of_decide_eq_true hm
      rw [hl] at hown
      exact hne (Option.some.inj hown ▸ hi)
    rw [h.pool, if_neg hne, hnone]
    rfl
  have hbound (j : PoolIx) (hj : j ∈ ks) (n : PortIx) : (u.port n).license = .bound j ↔ (s.port n).license = .bound j := by
    rw [h.license]
    split
    next hn =>
      obtain ⟨i, hi, hexpires, hl⟩ := mem_expiredOf.1 hn
      rw [hafter i hi hexpires n hl, hl]
      refine iff_of_false (graceLicense_ne_bound s i j) fun he => hk ?_
      rw [← List.mem_singleton.1 hi, License.bound.inj he]
      exact hj
    next => exact Iff.rfl
  refine ⟨hpool, hbound, List.flatMap_congr fun j hj => ?_⟩
  have hexpires : PoolExpires u j ↔ PoolExpires s j := by
    unfold PoolExpires PoolCounts
    rw [hpool j hj]
  simp only [hexpires, boundPorts_congr (hbound j hj)]

/-- One pool's count, then the others'. -/
theorem HourPools.cons {k : PoolIx} {ks : List PoolIx} (h : HourPools after [k] s u) (h' : HourPools after ks u t) (hk : k ∉ ks)
    (hafter : TakesGrace after [k] s) : HourPools after (k :: ks) s t := by
  obtain ⟨hpool, hbound, hlist⟩ := h.later hk hafter
  have hsplit : expiredOf s (k :: ks) = expiredOf s [k] ++ expiredOf s ks := by
    unfold expiredOf
    rw [List.flatMap_singleton, List.flatMap_cons]
  have hdisjoint : ∀ n ∈ expiredOf s ks, n ∉ expiredOf s [k] := fun n hn hin => by
    obtain ⟨i, hi, -, hl⟩ := mem_expiredOf.1 hn
    obtain ⟨j, hj, -, hl'⟩ := mem_expiredOf.1 hin
    rw [hl] at hl'
    rw [List.mem_singleton.1 hj] at hl'
    exact hk (License.bound.inj hl' ▸ hi)
  have hcounted (j : PoolIx) (hj : j ∈ ks) : countedPool u j = countedPool s j := by
    have hc : PoolCounts u j ↔ PoolCounts s j := by
      unfold PoolCounts
      rw [hpool j hj]
    unfold countedPool
    simp only [hc, hpool j hj]
  refine ⟨h.work.trans h'.work, fun n => ?_, fun j => ?_, fun ha hroom => ?_, fun hnot => ?_, fun hw hn => ?_⟩
  · rw [h'.license, hlist, hsplit, h.license]
    by_cases hn : n ∈ expiredOf s ks
    · rw [if_pos hn, if_pos (List.mem_append_right _ hn)]
    · rw [if_neg hn]
      simp only [List.mem_append, hn, or_false]
  · have hnamers : namersOf u j (lostOf after (expiredOf s ks)) = namersOf s j (lostOf after (expiredOf s ks)) :=
      namersOf_congr j fun n hn => by rw [h.license, if_neg (hdisjoint n (List.mem_filter.1 hn).1)]
    have hlength : (namersOf s j (lostOf after (expiredOf s (k :: ks)))).length =
        (namersOf s j (lostOf after (expiredOf s [k]))).length + (namersOf s j (lostOf after (expiredOf s ks))).length := by
      unfold namersOf lostOf
      rw [hsplit, List.filter_append, List.filter_append, List.length_append]
    rw [h'.pool, hlist, hnamers, hlength, ← Nat.sub_sub]
    have hb : (u.pool j).bound = (s.pool j).bound - (namersOf s j (lostOf after (expiredOf s [k]))).length := by rw [h.pool]
    rw [hb]
    by_cases hj : j ∈ ks
    · rw [if_pos hj, if_pos (List.mem_cons_of_mem _ hj), hcounted j hj]
    · rw [if_neg hj, h.pool]
      have hmem : j ∈ k :: ks ↔ j ∈ [k] := by simp only [List.mem_cons, hj, or_false, List.not_mem_nil]
      simp only [hmem]
  · rw [List.length_cons] at hroom
    obtain ⟨hfirst, hothers, hlawful, hlength⟩ := h.term ha (by rw [List.length_singleton]; omega)
    rw [List.length_singleton] at hlength
    obtain ⟨hlater, hkept, hlast, hmore⟩ := h'.term hlawful (by omega)
    refine ⟨fun j hj => ?_, fun j hj => ?_, hlast, by rw [List.length_cons]; omega⟩
    · rcases List.mem_cons.1 hj with rfl | hj
      · exact (hfirst j (List.mem_singleton.2 rfl)).then_kept (hkept j hk)
      · exact (hothers j fun he => hk (List.mem_singleton.1 he ▸ hj)).then_follows (hlater j hj)
    · obtain ⟨hne, hj⟩ := not_or.1 fun hor => hj (List.mem_cons.2 hor)
      exact (hothers j fun he => hne (List.mem_singleton.1 he)).trans (hkept j hj)
  · have hfirst := h.quiet fun j hj => hnot j (List.mem_singleton.1 hj ▸ List.mem_cons_self)
    have hrest := h'.quiet fun j hj => by
      have hexpires : PoolExpires u j ↔ PoolExpires s j := by
        unfold PoolExpires PoolCounts
        rw [hpool j hj]
      rw [hexpires]
      exact hnot j (List.mem_cons_of_mem _ hj)
    rw [hrest, hfirst]
  · rw [hsplit]
    have hfirst := h.laws hw hn
    have hrest := h'.laws hfirst.list hfirst.falls.lawful
    rw [hlist] at hrest
    exact hfirst.append hrest hdisjoint

theorem hourPools_forEach {ks : List PoolIx} (hks : ks.Nodup) (hafter : TakesGrace after ks s) :
    HourPools after ks s (forEach ks countPool s) := by
  induction ks generalizing s with
  | nil =>
    exact ⟨.refl s, fun _ => rfl, fun _ => rfl, fun ha _ => ⟨fun _ hk => absurd hk List.not_mem_nil, fun _ _ => .of_alarms rfl rfl, ha, le_rfl⟩,
      fun _ => rfl, fun hw hn => relicensed_nil hw hn rfl⟩
  | cons k ks ih =>
    obtain ⟨hk, hks⟩ := List.nodup_cons.1 hks
    have hone : TakesGrace after [k] s := fun j hj => hafter j (List.mem_singleton.1 hj ▸ List.mem_cons_self)
    have hfirst := hourPools_countPool hone
    obtain ⟨hpool, hbound, -⟩ := hfirst.later hk hone
    rw [forEach_cons]
    refine hfirst.cons (ih hks fun j hj hexpires n hl => ?_) hk hone
    have hwas : PoolExpires s j := by
      unfold PoolExpires PoolCounts at hexpires ⊢
      rwa [hpool j hj] at hexpires
    rw [hafter j (List.mem_cons_of_mem _ hj) hwas n ((hbound j hj n).1 hl)]
    unfold graceLicense
    rw [hfirst.work.params_eq]

end

end Sys2Proof.Machine

/-! PROOFS. An expiry of the hour timer (R73 to R75). -/

namespace Sys2Proof.Machine

/-! ## The licenses -/

/-- A port's license once an hour has been counted, before a rebinding pass. -/
def hourLicense (s : State) (n : PortIx) : License :=
  match (s.port n).license with
  | .unlicensed => .unlicensed
  | .bound k => if PoolExpires s k then graceLicense s k else .bound k
  | .grace k h => if h ≤ 1 then .unlicensed else .grace k (h - 1)

section
variable {s : State} {n : PortIx}

theorem hourLicense_of_unlicensed (h : (s.port n).license = .unlicensed) : hourLicense s n = .unlicensed := by
  unfold hourLicense
  rw [h]

theorem hourLicense_of_bound {k : PoolIx} (h : (s.port n).license = .bound k) :
    hourLicense s n = if PoolExpires s k then graceLicense s k else .bound k := by
  unfold hourLicense
  rw [h]

theorem hourLicense_of_grace {k : PoolIx} {hours : Nat} (h : (s.port n).license = .grace k hours) :
    hourLicense s n = if hours ≤ 1 then .unlicensed else .grace k (hours - 1) := by
  unfold hourLicense
  rw [h]

/-- One port in Grace loses an hour (R75). -/
theorem countGrace_eq {k : PoolIx} {hours : Nat} (h : (s.port n).license = .grace k hours) :
    countGrace n s = relicense (if hours ≤ 1 then .unlicensed else .grace k (hours - 1)) n s := by
  unfold countGrace
  rw [h]
  dsimp only
  split
  · rw [relicense_of_unlicensed]
  · exact (relicense_of_held (x := .grace k (hours - 1)) nofun n s).symm

end

/-- The ports in Grace, one after the other (R75). -/
theorem forEach_countGrace_eq {s u : State} {l : List PortIx} (hl : l.Nodup)
    (h : ∀ n ∈ l, (u.port n).license = (s.port n).license ∧ ∃ k hours, (s.port n).license = .grace k hours) :
    forEach l countGrace u = forEach l (fun n => relicense (hourLicense s n) n) u := by
  induction l generalizing u with
  | nil => rfl
  | cons n l ih =>
    obtain ⟨hn, hl⟩ := List.nodup_cons.1 hl
    obtain ⟨hsame, k, hours, hg⟩ := h n List.mem_cons_self
    rw [forEach_cons, forEach_cons, countGrace_eq (hsame.trans hg), ← hourLicense_of_grace hg]
    refine ih hl fun m hm => ?_
    obtain ⟨hm', hex⟩ := h m (List.mem_cons_of_mem _ hm)
    refine ⟨?_, hex⟩
    rw [relicense_license, if_neg fun he : n = m => hn (he ▸ hm), hm']

theorem mem_allPools (k : PoolIx) : k ∈ allPools := List.mem_finRange k

theorem allPools_nodup : allPools.Nodup := List.nodup_finRange 16

/-- The ports whose licenses the count of an hour may change, in the order in which they are taken. -/
def hourList (s : State) : List PortIx := expiredOf s allPools ++ portsInGrace s

theorem hourList_nodup (s : State) : (hourList s).Nodup := by
  refine List.nodup_append.2 ⟨expiredOf_nodup allPools_nodup s, portsWhere_nodup _ _, fun n hn m hm he => ?_⟩
  subst he
  obtain ⟨k, -, -, hl⟩ := mem_expiredOf.1 hn
  obtain ⟨j, hours, hg⟩ := mem_portsInGrace.1 hm
  rw [hl] at hg
  cases hg

theorem mem_hourList {s : State} {n : PortIx} : n ∈ hourList s ↔
    (∃ k, PoolExpires s k ∧ (s.port n).license = .bound k) ∨ ∃ k h, (s.port n).license = .grace k h := by
  unfold hourList
  rw [List.mem_append, mem_expiredOf, mem_portsInGrace]
  exact or_congr_left (exists_congr fun k => and_iff_right (List.mem_finRange k))

/-- A port that is not taken keeps its license. -/
theorem hourLicense_of_not_mem {s : State} {n : PortIx} (h : n ∉ hourList s) : hourLicense s n = (s.port n).license := by
  rw [mem_hourList] at h
  obtain ⟨hexpired, hgrace⟩ := not_or.1 h
  cases hl : (s.port n).license with
  | unlicensed => exact hourLicense_of_unlicensed hl
  | bound k => rw [hourLicense_of_bound hl, if_neg fun he => hexpired ⟨k, he, hl⟩]
  | grace k hours => exact absurd ⟨k, hours, hl⟩ hgrace

/-! ## The pools and the ports (R74, R75) -/

/-- The state once an hour has been counted, before the rebinding pass. -/
def hourCounted (s : State) : State := forEach (portsInGrace s) countGrace (forEach allPools countPool s)

/-- From s to u an hour has been counted. -/
structure HourCounted (s u : State) : Prop where
  work : LicenseWork s u
  license : ∀ n, (u.port n).license = hourLicense s n
  pool : ∀ k, u.pool k = { countedPool s k with
    bound := (s.pool k).bound - (namersOf s k (lostOf (hourLicense s) (hourList s))).length }
  term : AlarmsLawful s → s.alarms.length < 112 → (∀ k, PoolTermFollows s u k) ∧ AlarmsLawful u
  quiet : (∀ k, ¬ PoolExpires s k) → (∀ n k h, (s.port n).license = .grace k h → 1 < h) →
    u = { s with ports := u.ports, license := u.license, alarms := u.alarms, attn := u.attn } ∧
      ∀ n, u.port n = { s.port n with license := hourLicense s n }
  laws : WaitListFollows s → NamesLawful s → Relicensed (hourLicense s) (hourList s) s u

theorem takesGrace_hourLicense (s : State) : TakesGrace (hourLicense s) allPools s := fun k _ hexpires n hl => by
  rw [hourLicense_of_bound hl, if_pos hexpires]

theorem hourCounted_spec (s : State) : HourCounted s (hourCounted s) := by
  have hpools := hourPools_forEach allPools_nodup (takesGrace_hourLicense s)
  have hnodup : (portsInGrace s).Nodup := portsWhere_nodup _ _
  have hapart (n : PortIx) (hn : n ∈ portsInGrace s) : n ∉ expiredOf s allPools := fun hin => by
    obtain ⟨k, -, -, hl⟩ := mem_expiredOf.1 hin
    obtain ⟨j, hours, hg⟩ := mem_portsInGrace.1 hn
    rw [hl] at hg
    cases hg
  have hsame (n : PortIx) (hn : n ∈ portsInGrace s) : ((forEach allPools countPool s).port n).license = (s.port n).license := by
    rw [hpools.license, if_neg (hapart n hn)]
  have hgrace (n : PortIx) (hn : n ∈ portsInGrace s) : ∃ k hours, (s.port n).license = .grace k hours := mem_portsInGrace.1 hn
  have hall (k : PoolIx) : k ∈ allPools := List.mem_finRange k
  unfold hourCounted
  rw [forEach_countGrace_eq hnodup fun n hn => ⟨hsame n hn, hgrace n hn⟩]
  generalize forEach allPools countPool s = p at hpools hsame
  obtain ⟨hpool, hlicense, hwork, halarms⟩ := forEach_relicense_pool (after := hourLicense s) (s := p) hnodup
  have hlost : lostOf (hourLicense s) (hourList s) =
      lostOf (hourLicense s) (expiredOf s allPools) ++ lostOf (hourLicense s) (portsInGrace s) := List.filter_append ..
  refine ⟨hpools.work.trans hwork, fun n => ?_, fun k => ?_, fun ha hroom => ?_, fun hnot hlong => ?_, fun hw hn => ?_⟩
  · rw [hlicense, hpools.license]
    by_cases hg : n ∈ portsInGrace s
    · rw [if_pos hg]
    · rw [if_neg hg]
      by_cases he : n ∈ expiredOf s allPools
      · rw [if_pos he]
      · rw [if_neg he, hourLicense_of_not_mem fun hm => (List.mem_append.1 hm).elim he hg]
  · have hnamers : namersOf p k (lostOf (hourLicense s) (portsInGrace s)) = namersOf s k (lostOf (hourLicense s) (portsInGrace s)) :=
      namersOf_congr k fun n hn => hsame n (List.mem_filter.1 hn).1
    have hlength : (namersOf s k (lostOf (hourLicense s) (hourList s))).length =
        (namersOf s k (lostOf (hourLicense s) (expiredOf s allPools))).length +
          (namersOf s k (lostOf (hourLicense s) (portsInGrace s))).length := by
      unfold namersOf
      rw [hlost, List.filter_append, List.length_append]
    rw [hpool, hnamers, hpools.pool, if_pos (hall k), hlength, ← Nat.sub_sub]
  · have hpoolCount : allPools.length = 16 := List.length_finRange
    obtain ⟨hfollows, -, hlawful, -⟩ := hpools.term ha (by omega)
    refine ⟨fun k => (hfollows k (hall k)).then_kept (.of_alarms (by rw [hpool]) halarms), hlawful.of_alarms halarms⟩
  · have hframe := hpools.quiet fun k _ => hnot k
    have hports (n : PortIx) : p.port n = s.port n := by
      rw [hframe]
      rfl
    obtain ⟨hlast, hport⟩ := forEach_relicense_held (after := hourLicense s) (s := p) hnodup
      (fun n hn => by
        obtain ⟨k, hours, hg⟩ := hgrace n hn
        rw [hports, hg]
        nofun)
      fun n hn => by
        obtain ⟨k, hours, hg⟩ := hgrace n hn
        rw [hourLicense_of_grace hg, if_neg (Nat.not_le.2 (hlong n k hours hg))]
        nofun
    refine ⟨?_, fun n => ?_⟩
    · rw [hlast, hframe]
    · rw [hport, hports]
      split
      · rfl
      next hg =>
        have hkept : hourLicense s n = (s.port n).license := hourLicense_of_not_mem fun hm => by
          rcases List.mem_append.1 hm with he | hm
          · obtain ⟨k, -, hexpires, -⟩ := mem_expiredOf.1 he
            exact hnot k hexpires
          · exact hg hm
        rw [hkept]
  · have hfirst := hpools.laws hw hn
    exact hfirst.append (relicensed_forEach hnodup hfirst.list hfirst.falls.lawful fun n hm hl => by
      obtain ⟨k, hours, hg⟩ := hgrace n hm
      rw [hsame n hm, hg] at hl
      cases hl) hapart

/-! ## The passes (R72, R73) -/

/-- A pool has expired, or a grace has ended. -/
def HourStirs (s : State) : Prop := (∃ k, PoolExpires s k) ∨ ∃ n ∈ portsInGrace s, hourLicense s n = .unlicensed

theorem hourTimer_of_stirs {s : State} (h : HourStirs s) : hourTimer s = rebindThenRestore s.power.admitted (hourCounted s) := by
  have hpools := hourPools_forEach allPools_nodup (takesGrace_hourLicense s)
  have hcounted := hourCounted_spec s
  unfold hourTimer
  refine if_pos (Bool.or_eq_true_iff.2 (h.imp (fun ⟨k, hk⟩ => ?_) fun ⟨n, hn, hl⟩ => ?_))
  · obtain ⟨hwas, hnow⟩ := countedPool_expires.2 hk
    refine List.any_eq_true.2 ⟨k, List.mem_finRange k, ?_⟩
    rw [hpools.pool, if_pos (mem_allPools k), Bool.and_eq_true, bne_iff_ne, beq_iff_eq]
    exact ⟨hwas, hnow⟩
  · exact List.any_eq_true.2 ⟨n, hn, beq_iff_eq.2 ((hcounted.license n).trans hl)⟩

theorem hourTimer_of_not_stirs {s : State} (h : ¬ HourStirs s) : hourTimer s = hourCounted s := by
  have hpools := hourPools_forEach allPools_nodup (takesGrace_hourLicense s)
  have hcounted := hourCounted_spec s
  unfold hourTimer
  refine if_neg fun hor => h ((Bool.or_eq_true_iff.1 hor).imp (fun he => ?_) fun hl => ?_)
  · obtain ⟨k, -, hk⟩ := List.any_eq_true.1 he
    rw [hpools.pool, if_pos (mem_allPools k), Bool.and_eq_true, bne_iff_ne, beq_iff_eq] at hk
    exact ⟨k, countedPool_expires.1 hk⟩
  · obtain ⟨n, hn, hu⟩ := List.any_eq_true.1 hl
    exact ⟨n, hn, (hcounted.license n).symm.trans (beq_iff_eq.1 hu)⟩

/-- An event that ends without a rebinding pass. -/
theorem rebound_settled (u : State) : Rebound u (settleDeficit u) :=
  ⟨(LicenseWork.refl u).settleDeficit, fun n => .inl (by rw [settleDeficit_port]), (PoolsRebound.refl u).of_license (by rw [settleDeficit_eq]),
    settleDeficit_claims u, Moves.refl.settleDeficit⟩

theorem moves_hourCounted (s : State) : Moves .licence s (hourCounted s) := by
  have hpools : Moves .licence s (forEach allPools countPool s) :=
    forEach_keeps (P := Moves .licence s) (fun k t ht => ht.countPool k rfl) _ .refl
  exact forEach_keeps (P := Moves .licence s) (fun n t ht => ht.countGrace n rfl) _ hpools

theorem LicenseWork.outside {s t : State} (h : LicenseWork s t) (hc : t.license.chassis = s.license.chassis) : OutsideKept s t := by
  unfold LicenseWork at h
  rw [h]
  exact ⟨rfl, rfl, hc, rfl, rfl⟩

/-! ## The order in which the ports are taken -/

/-- A port loses its license with the hour. -/
def hourLost (s : State) (n : PortIx) : Bool := decide ((s.port n).license ≠ .unlicensed ∧ hourLicense s n = .unlicensed)

theorem hourLost_iff {s : State} {n : PortIx} : hourLost s n = true ↔ n ∈ lostOf (hourLicense s) (hourList s) := by
  unfold hourLost lostOf
  rw [decide_eq_true_iff, List.mem_filter, decide_eq_true_iff]
  refine and_congr_left fun hlost => ⟨fun hl => ?_, fun hm hl => ?_⟩
  · by_contra hm
    exact hl ((hourLicense_of_not_mem hm).symm.trans hlost)
  · rcases mem_hourList.1 hm with ⟨k, -, hb⟩ | ⟨k, hours, hg⟩
    · rw [hl] at hb
      cases hb
    · rw [hl] at hg
      cases hg

theorem hourLost_of_bound {s : State} {n : PortIx} {k : PoolIx} (h : (s.port n).license = .bound k) (hl : hourLost s n = true) :
    PoolExpires s k := by
  by_contra hno
  have hlicense := (of_decide_eq_true hl).2
  rw [hourLicense_of_bound h, if_neg hno] at hlicense
  cases hlicense

/-- A port loses its license where its pool expires or its grace ends. -/
theorem hourStirs_of_lost {s : State} {n : PortIx} (h : hourLost s n = true) : HourStirs s := by
  obtain ⟨hheld, hlost⟩ := of_decide_eq_true h
  cases hl : (s.port n).license with
  | unlicensed => exact absurd hl hheld
  | bound k => exact .inl ⟨k, hourLost_of_bound hl h⟩
  | grace k hours => exact .inr ⟨n, mem_portsInGrace.2 ⟨k, hours, hl⟩, hlost⟩

/-- The ports that lose their licenses, pool by pool, then those whose grace ends. -/
theorem lostOf_hourList (s : State) : lostOf (hourLicense s) (hourList s) =
    ((List.finRange 16).flatMap fun k => (List.finRange 672).filter fun n => hourLost s n ∧ (s.port n).license = .bound k) ++
      (List.finRange 672).filter fun n => hourLost s n ∧ ∀ k, (s.port n).license ≠ .bound k := by
  unfold lostOf hourList expiredOf allPools
  rw [List.filter_append, List.filter_flatMap]
  refine congrArg₂ (· ++ ·) (List.flatMap_congr fun k _ => ?_) ?_
  · split
    next hexpires =>
      unfold boundPorts
      rw [portsWhere_eq_filter, List.filter_filter]
      refine List.filter_congr fun n _ => Bool.eq_iff_iff.2 ?_
      have hmem := mem_boundPorts (s := s) (k := k) (n := n)
      rw [boundPorts, mem_portsWhere] at hmem
      rw [Bool.and_eq_true, decide_eq_true_iff, decide_eq_true_iff, hmem, hourLost, decide_eq_true_iff]
      refine and_congr_left fun hb => (and_iff_right ?_).symm
      rw [hb]
      nofun
    next hnot =>
      refine (List.filter_eq_nil_iff.2 fun n _ hn => ?_).symm
      obtain ⟨hl, hb⟩ := of_decide_eq_true hn
      exact hnot (hourLost_of_bound hb hl)
  · unfold portsInGrace
    rw [portsWhere_eq_filter, List.filter_filter]
    refine List.filter_congr fun n _ => Bool.eq_iff_iff.2 ?_
    have hmem := mem_portsInGrace (s := s) (n := n)
    rw [portsInGrace, mem_portsWhere] at hmem
    rw [Bool.and_eq_true, decide_eq_true_iff, decide_eq_true_iff, hmem, hourLost, decide_eq_true_iff]
    cases hl : (s.port n).license with
    | unlicensed => exact iff_of_false (fun hand => by obtain ⟨-, _, _, h⟩ := hand; cases h) fun hand => hand.1.1 rfl
    | bound k => exact iff_of_false (fun hand => by obtain ⟨-, _, _, h⟩ := hand; cases h) fun hand => hand.2 k rfl
    | grace k hours => exact ⟨fun hand => ⟨⟨nofun, hand.1⟩, nofun⟩, fun hand => ⟨hand.1.2, k, hours, rfl⟩⟩

/-- How many of those that lose their licenses name a pool. -/
theorem namersOf_hourList_length (s : State) (k : PoolIx) : (namersOf s k (lostOf (hourLicense s) (hourList s))).length =
    ((List.finRange 672).filter fun n => hourLost s n ∧ (s.port n).license.pool? = some k).length := by
  refine ((List.perm_ext_iff_of_nodup (((hourList_nodup s).filter _).filter _) ((List.nodup_finRange 672).filter _)).2 fun n => ?_).length_eq
  rw [List.mem_filter (as := List.finRange 672), and_iff_right (List.mem_finRange n), decide_eq_true_iff, hourLost_iff]
  exact List.mem_filter.trans (and_congr_right' decide_eq_true_iff)

end Sys2Proof.Machine

section
open Sys2Proof Sys2Proof.Machine

/-- Settles O35: the hour counted on the pools and on the ports in Grace, and the passes where a pool expires or a grace ends. -/
theorem hourTimerRule : Obligations.HourTimerRule := by
  unfold Obligations.HourTimerRule
  intro s hdeficit
  refine ⟨settleDeficit (hourTimer s), rfl, ?_⟩
  intro counted after
  have hafter : after = hourLicense s := rfl
  clear_value after
  subst hafter
  have hu := hourCounted_spec s
  have hmoves := moves_hourCounted s
  have hend : Rebound (hourCounted s) (settleDeficit (hourTimer s)) := by
    by_cases h : HourStirs s
    · rw [hourTimer_of_stirs h]
      exact rebound _ _
    · rw [hourTimer_of_not_stirs h]
      exact rebound_settled _
  have hstirs (h : HourStirs s) : settleDeficit (hourTimer s) = settleDeficit (rebindThenRestore s.power.admitted (hourCounted s)) :=
    congrArg settleDeficit (hourTimer_of_stirs h)
  have hstill (h : ¬ HourStirs s) : settleDeficit (hourTimer s) = settleDeficit (hourCounted s) :=
    congrArg settleDeficit (hourTimer_of_not_stirs h)
  have hwork := hu.work.trans hend.work
  generalize settleDeficit (hourTimer s) = t at hend hstirs hstill hwork
  generalize hourCounted s = u at hu hmoves hend hstirs hstill
  refine ⟨fun k => ?_, fun ha hroom k => ?_, fun n => ?_, fun hlong hgrace => ?_, fun hw hn => ?_, fun n => ?_, ?_, hwork.engines⟩
  · rw [hend.pool_eq, hu.pool]
    rfl
  · obtain ⟨hfollows, hlawful⟩ := hu.term ha hroom
    refine (hfollows k).then_kept (.of_claims ?_ hend.claims nofun hlawful)
    rw [hend.pool_eq]
  · rw [← hu.license]
    refine (hend.license n).imp_right fun ⟨k, hb, hwanting, _⟩ => ⟨k, hb, fun m he => ?_⟩
    rw [he] at hwanting
    cases hwanting
  · have hnone (k : PoolIx) : ¬ PoolExpires s k := fun he => Nat.not_lt.2 he.2 (hlong k he.1)
    have hlasts : ¬ HourStirs s := fun hor => by
      rcases hor with ⟨k, hk⟩ | ⟨n, hm, hl⟩
      · exact hnone k hk
      · obtain ⟨k, hours, hg⟩ := mem_portsInGrace.1 hm
        rw [hourLicense_of_grace hg, if_neg (Nat.not_le.2 (hgrace n k hours hg))] at hl
        cases hl
    obtain ⟨hframe, hports⟩ := hu.quiet hnone hgrace
    have hplain : t = u := (hstill hlasts).trans (settleDeficit_of_follows (hdeficit.of_holds (by rw [hframe]) (by rw [hframe]) fun m => by rw [hports]))
    have hkept : lostOf (hourLicense s) (hourList s) = [] := List.eq_nil_iff_forall_not_mem.2 fun n hm => by
      obtain ⟨hheld, hlost⟩ := of_decide_eq_true (hourLost_iff.2 hm)
      cases hl : (s.port n).license with
      | unlicensed => exact hheld hl
      | bound k => exact hnone k (hourLost_of_bound hl (hourLost_iff.2 hm))
      | grace k hours =>
        rw [hourLicense_of_grace hl, if_neg (Nat.not_le.2 (hgrace n k hours hl))] at hlost
        cases hlost
    rw [hplain]
    refine ⟨hports, fun k => ?_, by rw [hframe], by rw [hframe], by rw [hframe]⟩
    rw [hu.pool, hkept]
    rfl
  · intro lost order
    have hlost : lost = hourLost s := rfl
    have horder : order = lostOf (hourLicense s) (hourList s) := (lostOf_hourList s).symm
    clear_value lost order
    subst hlost horder
    have hlaws := hu.laws hw hn
    obtain ⟨hframe, hcards⟩ := hlaws.state_eq (hourList_nodup s) fun n => hourLost_iff
    refine ⟨u, hframe, hcards, fun n => ?_, hmoves.chassis_eq, fun k => ?_, fun hor => hstirs ?_, fun hlong hno => hstill ?_⟩
    · rw [hlaws.port]
      by_cases hl : hourLost s n = true
      · rw [if_pos hl, if_pos (List.mem_filter.1 (hourLost_iff.1 hl)).1, relicensedPort, if_pos (of_decide_eq_true hl).2]
      · rw [if_neg hl]
        split
        next hm =>
          rw [relicensedPort, if_neg fun he => hl (hourLost_iff.2 (List.mem_filter.2 ⟨hm, decide_eq_true he⟩))]
        next hm => rw [hourLicense_of_not_mem hm]
    · rw [hend.pool_eq, hu.pool, namersOf_hourList_length]
    · rcases hor with hexpires | ⟨n, hl⟩
      · exact .inl hexpires
      · exact hourStirs_of_lost hl
    · rintro (⟨k, hk⟩ | ⟨n, hm, hl⟩)
      · exact Nat.not_lt.2 hk.2 (hlong k hk.1)
      · have hheld : (s.port n).license ≠ .unlicensed := fun he => by
          obtain ⟨k, hours, hg⟩ := mem_portsInGrace.1 hm
          rw [he] at hg
          cases hg
        have hnot := hno n
        rw [hourLost, decide_eq_true ⟨hheld, hl⟩] at hnot
        cases hnot
  · exact ⟨((hend.moves.settings_eq rfl n).1).trans (hmoves.settings_eq rfl n).1,
      ((hend.moves.settings_eq rfl n).2).trans (hmoves.settings_eq rfl n).2⟩
  · exact hwork.outside (hend.moves.chassis_eq.trans hmoves.chassis_eq)

end

/-! PROOFS. Set Chassis Number and Pool Install (R61, R64 to R67). -/

namespace Sys2Proof.Machine

/-! ## A credential's fields (R64) -/

/-- The fields of a credential in range. -/
abbrev CredentialFields (pool tier kind : Byte) (capacity hours : Half) : Prop :=
  1 ≤ pool.toNat ∧ pool.toNat ≤ 16 ∧ 1 ≤ tier.toNat ∧ tier.toNat ≤ 3 ∧ kind.toNat ≤ 1 ∧
    1 ≤ capacity.toNat ∧ capacity.toNat ≤ 672 ∧ ¬ (kind = 1 ∧ hours = 0)

/-- The kind that a field gives. -/
def kindOfField (kind : Byte) : PoolKind := if kind = 0 then .perpetual else .term

/-- The record that a credential makes, by its fields (R66, R67). -/
def credentialRecord (tier kind : Byte) (capacity hours warn : Half) (bound : Nat) : PoolRec :=
  { state := (if kind = 0 then .active else if hours.toNat ≤ warn.toNat then .expiring else .active)
    tier := tier.toNat, kind := kindOfField kind, capacity := capacity.toNat, bound := bound
    hours := (if kind = 0 then 0 else hours.toNat), warn := (if kind = 0 then 0 else warn.toNat) }

theorem credentialRecord_serves (tier kind : Byte) (capacity hours warn : Half) (bound : Nat) :
    (credentialRecord tier kind capacity hours warn bound).state.serves = true := by
  unfold credentialRecord
  dsimp only
  split
  · rfl
  · split <;> rfl

section
variable {pool tier kind : Byte} {capacity hours warn : Half}

theorem byte_of_le_one (h : kind.toNat ≤ 1) : kind = 0 ∨ kind = 1 := by
  rcases Nat.le_one_iff_eq_zero_or_eq_one.1 h with h | h
  · exact .inl (BitVec.eq_of_toNat_eq h)
  · exact .inr (BitVec.eq_of_toNat_eq h)

theorem poolKindOf_of_le (h : kind.toNat ≤ 1) : poolKindOf kind = some (kindOfField kind) := by
  rcases byte_of_le_one h with rfl | rfl <;> rfl

theorem poolKindOf_of_gt (h : 1 < kind.toNat) : poolKindOf kind = none := by
  unfold poolKindOf
  split
  case h_3 => rfl
  all_goals omega

theorem kindOfField_term_iff (h : kind.toNat ≤ 1) : kindOfField kind = .term ↔ kind = 1 := by
  rcases byte_of_le_one h with rfl | rfl <;> decide

theorem credentialOf_of_fields (h : CredentialFields pool tier kind capacity hours) {k : PoolIx} (hk : pool.toNat = k.val + 1) :
    credentialOf pool tier kind capacity hours warn = some { pool := k, tier := tier.toNat, kind := kindOfField kind
                                                             capacity := capacity.toNat, hours := hours.toNat, warn := warn.toNat } := by
  obtain ⟨-, -, ht, ht', hkind, hc, hc', hterm⟩ := h
  unfold credentialOf
  rw [index1?_eq_some_iff.2 hk, poolKindOf_of_le hkind]
  exact if_pos ⟨ht, ht', hc, hc', fun hand => hterm ⟨(kindOfField_term_iff hkind).1 hand.1, hand.2⟩⟩

theorem credentialOf_of_not_fields (h : ¬ CredentialFields pool tier kind capacity hours) :
    credentialOf pool tier kind capacity hours warn = none := by
  unfold credentialOf
  split
  next i k hi hkind =>
    refine if_neg fun ⟨ht, ht', hc, hc', hterm⟩ => h ?_
    have hpool := index1?_eq_some_iff.1 hi
    have hi' := i.isLt
    have hle : kind.toNat ≤ 1 := not_lt.1 fun hgt => by
      rw [poolKindOf_of_gt hgt] at hkind
      cases hkind
    rw [poolKindOf_of_le hle] at hkind
    refine ⟨by omega, by omega, ht, ht', hle, hc, hc', fun hand => hterm ⟨?_, hand.2⟩⟩
    rw [← Option.some.inj hkind, kindOfField_term_iff hle]
    exact hand.1
  next => rfl

/-- A Term credential has hours, so its pool is not Expired. -/
theorem credentialPool_of_fields (h : CredentialFields pool tier kind capacity hours) (bound : Nat) (k : PoolIx) :
    credentialPool { pool := k, tier := tier.toNat, kind := kindOfField kind, capacity := capacity.toNat
                     hours := hours.toNat, warn := warn.toNat } bound = credentialRecord tier kind capacity hours warn bound := by
  obtain ⟨-, -, -, -, hkind, -, -, hterm⟩ := h
  rcases byte_of_le_one hkind with rfl | rfl
  · rfl
  · have hhours : hours.toNat ≠ 0 := fun h0 => hterm ⟨rfl, BitVec.eq_of_toNat_eq h0⟩
    have hstate : poolStateOf .term hours.toNat warn.toNat = if hours.toNat ≤ warn.toNat then .expiring else .active := if_neg hhours
    exact congrArg (fun st : PoolState => ({ state := st, tier := tier.toNat, kind := .term, capacity := capacity.toNat, bound := bound
                                             hours := hours.toNat, warn := warn.toNat } : PoolRec)) hstate

end

/-! ## The install (R66, R67) -/

theorem mem_gracePorts {s : State} {k : PoolIx} {n : PortIx} : n ∈ gracePorts s k ↔ ∃ h, (s.port n).license = .grace k h := by
  rw [gracePorts, mem_portsWhere]
  cases (s.port n).license <;> simp

/-- The state of a pool's install before its passes: the record, and the Grace ports Bound again. -/
def installed (k : PoolIx) (r : PoolRec) (s : State) : State :=
  addReason .license (forEach (gracePorts (writePool k r s) k) (fun n => relicense (.bound k) n) (writePool k r s))

theorem applyCredential_eq {c : Credential} {s : State} (h : (credentialPool c (s.pool c.pool).bound).state.serves = true) :
    applyCredential c s =
      rebindThenRestore s.power.admitted (installed c.pool (credentialPool c (s.pool c.pool).bound) s) := by
  have hact : (fun n => portChange n fun p => { p with license := .bound c.pool }) = relicense (.bound c.pool) :=
    funext fun n => funext fun u => (relicense_of_held (x := .bound c.pool) nofun n u).symm
  unfold applyCredential installed
  dsimp only
  rw [if_pos h, hact]

/-- From s to u a pool's record has been written and its Grace ports have been Bound again. -/
structure Installed (k : PoolIx) (r : PoolRec) (s u : State) : Prop where
  frame : u = { s with ports := u.ports, license := u.license, alarms := u.alarms, attn := u.attn }
  back : ∀ n h, (s.port n).license = .grace k h → u.port n = { s.port n with license := .bound k }
  kept : ∀ n, (∀ h, (s.port n).license ≠ .grace k h) → u.port n = s.port n
  pool : ∀ m, u.pool m = if k = m then r else s.pool m
  term : AlarmsLawful s → s.alarms.length < 128 → (∀ m, PoolTermFollows s u m) ∧ AlarmsLawful u
  moves : Moves .licence s u
  noted : Noted .license u

theorem installed_spec (k : PoolIx) (r : PoolRec) (s : State) : Installed k r s (installed k r s) := by
  have hwrite := writePool_eq k r s
  have hpool := writePool_pool k r s
  have hterm := @termWritten_writePool k r s
  have hmoves : Moves .licence s (writePool k r s) := Moves.refl.writePool k r rfl
  unfold installed
  generalize writePool k r s = w at hwrite hpool hterm hmoves
  have hsame (n : PortIx) : w.port n = s.port n := by
    rw [hwrite]
    rfl
  have hnodup : (gracePorts w k).Nodup := portsWhere_nodup _ _
  have hmem (n : PortIx) : n ∈ gracePorts w k ↔ ∃ h, (s.port n).license = .grace k h := by rw [mem_gracePorts, hsame]
  have hall : Moves .licence s (forEach (gracePorts w k) (fun n => relicense (.bound k) n) w) :=
    forEach_keeps (P := Moves .licence s) (fun n t ht => by
      rw [relicense_of_held (x := .bound k) nofun]
      exact ht.portChange n _ (fun _ _ => ⟨rfl, rfl⟩) nofun) _ hmoves
  obtain ⟨hframe, hport⟩ := forEach_relicense_held (after := fun _ => .bound k) (s := w) hnodup
    (fun n hn => by
      obtain ⟨h, hg⟩ := (hmem n).1 hn
      rw [hsame, hg]
      nofun) fun _ _ => nofun
  generalize gracePorts w k = l at hmem hall hframe hport
  generalize forEach l (fun n => relicense (.bound k) n) w = u at hall hframe hport
  have hkept (m : PoolIx) : TermKept w (addReason .license u) m := .of_alarms (by rw [hframe]; rfl) (by rw [hframe]; rfl)
  refine ⟨?_, fun n h hg => ?_, fun n hg => ?_, fun m => ?_, fun ha hroom => ?_, hall.reason _, noted_addReason_self _ _⟩
  · rw [hframe, hwrite]
    rfl
  · refine (hport n).trans ?_
    rw [if_pos ((hmem n).2 ⟨h, hg⟩), hsame]
  · refine (hport n).trans ?_
    rw [if_neg fun hn => ?_, hsame]
    obtain ⟨h, hn⟩ := (hmem n).1 hn
    exact hg h hn
  · rw [← hpool m, hframe]
    rfl
  · have hwritten := hterm ha hroom
    refine ⟨fun m => ?_, hwritten.lawful.of_alarms (by rw [hframe]; rfl)⟩
    by_cases hm : m = k
    · subst hm
      exact hwritten.follows.then_kept (hkept m)
    · exact ((hwritten.kept m hm).trans (hkept m)).follows

theorem exec_poolInstall {f : Frame} {s : State} (h : MasterClear s f.port) (pool tier kind : Byte) (capacity hours warn : Half)
    (check : Word) : exec (.poolInstall f pool tier kind capacity hours warn check) s =
      .next (respond f (poolInstall pool tier kind capacity hours warn check s).2
        (settleDeficit (poolInstall pool tier kind capacity hours warn check s).1)) := by
  change Host.Outcome.next (disarmingCommand f .master (settled (poolInstall pool tier kind capacity hours warn check)) s) = _
  rw [disarmingCommand_master h, settled]

theorem exec_setChassisNumber {f : Frame} {s : State} (h : MasterClear s f.port) (number : Word) :
    exec (.setChassisNumber f number) s = .next (respond f (setChassisNumber number s).2 (setChassisNumber number s).1) :=
  congrArg Host.Outcome.next (disarmingCommand_master h .master (setChassisNumber number))

end Sys2Proof.Machine

section
open Sys2Proof Sys2Proof.Machine

/-- Settles O33: the chassis number and the credential by their checks in order, the record, the Grace ports and the passes. -/
theorem credentialRule : Obligations.CredentialRule := by
  unfold Obligations.CredentialRule
  refine ⟨fun f number s hc => ⟨fun h => ?_, fun h hn => ?_, fun h hn => ?_⟩, fun f pool tier kind capacity hours warn check s hc hdeficit => ?_⟩
  · rw [exec_setChassisNumber hc, setChassisNumber, if_pos h]
  · rw [exec_setChassisNumber hc, setChassisNumber, if_neg (not_not.2 h), if_pos hn]
  · rw [exec_setChassisNumber hc, setChassisNumber, if_neg (not_not.2 h), if_neg hn]
  · intro i fieldsRight word poolKind
    have hexec := exec_poolInstall hc pool tier kind capacity hours warn check
    have hword : word = checkWord pool tier kind capacity hours warn s.license.chassis := rfl
    have hkind : poolKind = kindOfField kind := rfl
    have hrefused {a : Answer} (h : poolInstall pool tier kind capacity hours warn check s = (s, a)) :
        exec i s = .next (respond f a s) := by
      show exec (.poolInstall f pool tier kind capacity hours warn check) s = _
      rw [hexec, h, settleDeficit_of_follows hdeficit]
    clear_value word poolKind
    subst hword hkind
    refine ⟨fun hno => hrefused ?_, fun hyes hwrong => hrefused ?_, fun hyes hright hcheck => hrefused ?_,
      fun k hk hyes hright hcheck => ⟨fun hv hconflict => hrefused ?_, fun hv htier hkind hbelow => hrefused ?_, fun hfits => ?_⟩⟩
    · rw [poolInstall, if_pos hno]
    · rw [poolInstall, if_neg hyes, credentialOf_of_not_fields hwrong]
    · have hpool : pool.toNat = (⟨pool.toNat - 1, by have := hright.1; have := hright.2.1; omega⟩ : PoolIx).val + 1 := by
        have := hright.1
        show pool.toNat = pool.toNat - 1 + 1
        omega
      rw [poolInstall, if_neg hyes, credentialOf_of_fields hright hpool]
      exact if_pos hcheck
    · rw [poolInstall, if_neg hyes, credentialOf_of_fields hright hk]
      dsimp only
      rw [if_neg (not_not.2 hcheck), if_pos ⟨hv, hconflict⟩]
    · rw [poolInstall, if_neg hyes, credentialOf_of_fields hright hk]
      dsimp only
      rw [if_neg (not_not.2 hcheck), if_neg fun hand => hand.2.elim (fun h => h htier) fun h => h hkind, if_pos ⟨hv, hbelow⟩]
    · have hrecord := credentialPool_of_fields (warn := warn) hright (s.pool k).bound k
      have hserves := credentialRecord_serves tier kind capacity hours warn (s.pool k).bound
      have happlied : poolInstall pool tier kind capacity hours warn check s = (rebindThenRestore s.power.admitted
          (installed k (credentialRecord tier kind capacity hours warn (s.pool k).bound) s), answer .done) := by
        rw [poolInstall, if_neg hyes, credentialOf_of_fields hright hk]
        dsimp only
        rw [if_neg (not_not.2 hcheck), if_neg ?_, if_neg ?_, applyCredential_eq (by rw [hrecord]; exact hserves), hrecord]
        · rintro ⟨hv, hlt⟩
          rcases hfits with h | ⟨-, -, h⟩
          · exact hv h
          · exact Nat.not_lt.2 h hlt
        · rintro ⟨hv, hne⟩
          rcases hfits with h | ⟨h, h', -⟩
          · exact hv h
          · exact hne.elim (fun hn => hn h) fun hn => hn h'
      rw [happlied] at hexec
      dsimp only at hexec
      have hu := installed_spec k (credentialRecord tier kind capacity hours warn (s.pool k).bound) s
      have hend := rebound s.power.admitted (installed k (credentialRecord tier kind capacity hours warn (s.pool k).bound) s)
      refine ⟨settleDeficit (rebindThenRestore s.power.admitted
        (installed k (credentialRecord tier kind capacity hours warn (s.pool k).bound) s)), hexec, ?_⟩
      generalize ht : settleDeficit (rebindThenRestore s.power.admitted
        (installed k (credentialRecord tier kind capacity hours warn (s.pool k).bound) s)) = t at hend
      generalize installed k (credentialRecord tier kind capacity hours warn (s.pool k).bound) s = u at hu hend ht
      have hself := (hu.pool k).trans (if_pos rfl)
      have hother {m : PoolIx} (hne : m ≠ k) := (hu.pool m).trans (if_neg fun he : k = m => hne he.symm)
      have hwork : LicenseWork s t := LicenseWork.trans (by
        have hframe := hu.frame
        unfold LicenseWork
        rw [hframe]) hend.work
      have hchassis := hend.moves.chassis_eq.trans hu.moves.chassis_eq
      refine ⟨?_, fun m hne => ?_, fun n h hg => ?_, fun n m hb => ?_, fun ha hroom m => ?_,
        ⟨u, hu.frame, fun n => ⟨fun ⟨h, hg⟩ => hu.back n h hg, hu.kept n⟩, ?_, fun m hne => hother hne, hu.moves.chassis_eq, ht.symm⟩,
        hchassis, hend.moves.noted hu.noted, fun n => ?_, hwork.outside hchassis, hwork.engines⟩
      · rw [hend.pool_eq, hself]
        rfl
      · rw [hend.pool_eq, hother hne]
      · exact hend.bound (by rw [hu.back n h hg])
      · refine hend.bound ?_
        rw [hu.kept n fun h hg => (nomatch hb.symm.trans hg)]
        exact hb
      · obtain ⟨hfollows, hlawful⟩ := hu.term ha (Nat.lt_of_lt_of_le hroom (by decide))
        refine (hfollows m).then_kept (.of_claims ?_ hend.claims nofun hlawful)
        rw [hend.pool_eq]
      · rw [hend.pool_eq, hself]
        rfl
      · exact ⟨((hend.moves.settings_eq rfl n).1).trans (hu.moves.settings_eq rfl n).1,
          ((hend.moves.settings_eq rfl n).2).trans (hu.moves.settings_eq rfl n).2⟩

end

/-! PROOFS. The cold reset: the cold values, and what the sampled presence lines make of them (R2, R23, R131; O3). -/

namespace Sys2Proof.Machine

/-! ## The slots sampled (R23) -/

/-- A cold card once its line has been sampled high. -/
def risenCard : CardRec :=
  { CardRec.cold with state := .probing, presence := true, outbox := [.probe], timerOn := true, retryTimeout := 500 }

/-- A port's attention after a cold reset: Slot is in the set where a slot was sampled high. -/
def coldAttention (slot : Bool) : PortAttention :=
  { set := { ReasonSet.empty with slot := slot }, mask := ReasonSet.all, alertLow := slot }

theorem coldAttention_add (b : Bool) : (coldAttention b).add .slot = coldAttention true := by cases b <;> rfl

theorem presenceRise_of_cold {slot : Slot} {s : State} (h : s.card slot = CardRec.cold) :
    presenceRise slot s = addReason .slot { s with cards := s.cards.set slot risenCard } := by
  have hrise : presenceRise slot s = startProbe slot 0 (s.modCard slot fun c => { c with presence := true }) := by
    unfold presenceRise
    rw [h]
    rfl
  rw [hrise, startProbe_eq, modCard_modCard, State.modCard, h]
  rfl

/-- Slot is in a port's set once a slot has been sampled high. -/
theorem sampleSlot_attention {slot : Slot} {high b : Bool} {s : State} (h : s.card slot = CardRec.cold) {p : PortId}
    (hb : s.attention p = coldAttention b) :
    (if high = true then presenceRise slot s else s).attention p = coldAttention (b || high) := by
  cases high with
  | false => rw [if_neg Bool.false_ne_true, hb, Bool.or_false]
  | true =>
    have hadd : (addReason .slot { s with cards := s.cards.set slot risenCard }).attention p = (s.attention p).add .slot := by
      cases p <;> rfl
    rw [if_pos rfl, presenceRise_of_cold h, hadd, hb, coldAttention_add, Bool.or_true]

theorem sampleSlot_card {slot : Slot} {high : Bool} {s : State} (h : s.card slot = CardRec.cold) (c : Slot) :
    (if high = true then presenceRise slot s else s).card c =
      if c = slot then (if high = true then risenCard else CardRec.cold) else s.card c := by
  cases high with
  | false =>
    rw [if_neg Bool.false_ne_true, if_neg Bool.false_ne_true]
    split
    · next he => rw [he, h]
    · rfl
  | true =>
    rw [if_pos rfl, if_pos rfl, presenceRise_of_cold h]
    by_cases he : c = slot
    · rw [if_pos he, he]
      exact Vector.getElem_set_self _
    · rw [if_neg he]
      exact Vector.getElem_set_ne slot.isLt c.isLt fun hv => he (Fin.ext hv.symm)

theorem sampleSlot_frame {slot : Slot} {high : Bool} {s : State} (h : s.card slot = CardRec.cold) :
    ∃ C A, (if high = true then presenceRise slot s else s) = { s with cards := C, attn := A } := by
  cases high with
  | false => exact ⟨s.cards, s.attn, rfl⟩
  | true => exact ⟨_, _, presenceRise_of_cold h⟩

/-- Each slot of a list is sampled: only cards and attention change. -/
theorem forEach_sampleSlot (lines : PresenceLines) {l : List Slot} (hl : l.Nodup) {b : Bool} {s : State}
    (hcold : ∀ c ∈ l, s.card c = CardRec.cold) (hb : ∀ p, s.attention p = coldAttention b) :
    ∃ C A t, t = forEach l (fun slot s => if lines.slots.getLsbD slot.val then presenceRise slot s else s) s ∧
      t = { s with cards := C, attn := A } ∧
      (∀ c, t.card c = if c ∈ l then (if lines.slots.getLsbD c.val then risenCard else CardRec.cold) else s.card c) ∧
      ∀ p, t.attention p = coldAttention (b || l.any fun c => lines.slots.getLsbD c.val) := by
  induction l generalizing s b with
  | nil => exact ⟨s.cards, s.attn, s, rfl, rfl, fun c => rfl, fun p => by rw [hb, List.any_nil, Bool.or_false]⟩
  | cons x l ih =>
    obtain ⟨hx, hl⟩ := List.nodup_cons.1 hl
    have hxcold := hcold x List.mem_cons_self
    obtain ⟨C₁, A₁, hu⟩ := sampleSlot_frame (high := lines.slots.getLsbD x.val) hxcold
    have hcard := sampleSlot_card (high := lines.slots.getLsbD x.val) hxcold
    have hattn := fun p => sampleSlot_attention (high := lines.slots.getLsbD x.val) hxcold (hb p)
    obtain ⟨C, A, t, ht, hframe, hcards, hnoted⟩ := ih hl (b := b || lines.slots.getLsbD x.val)
      (s := if lines.slots.getLsbD x.val then presenceRise x s else s)
      (fun c hc => by rw [hcard, if_neg fun he : c = x => hx (he ▸ hc), hcold c (List.mem_cons_of_mem x hc)]) hattn
    refine ⟨C, A, t, by rw [forEach_cons]; exact ht, by rw [hframe, hu], fun c => ?_, fun p => ?_⟩
    · rw [hcards, hcard]
      by_cases hc : c ∈ l
      · rw [if_pos hc, if_pos (List.mem_cons_of_mem x hc)]
      · by_cases he : c = x
        · rw [if_neg hc, if_pos he, if_pos (List.mem_cons.2 (.inl he)), he]
        · rw [if_neg hc, if_neg he, if_neg fun h => (List.mem_cons.1 h).elim he hc]
    · rw [hnoted, List.any_cons, Bool.or_assoc]

/-! ## The units sampled (R131) -/

/-- A cold unit once its line has been sampled high. -/
def risenUnit : UnitRec := { UnitRec.cold with state := .starting, wasPresent := true, presence := true }

/-- The budget while no PSU is counted and nothing is drawn. -/
def idleBudget (trays : Nat) : PowerBudget := { PowerBudget.cold with trays := trays }

theorem availableOf_idleBudget (trays : Nat) : availableOf (idleBudget trays) = 0 := by
  simp [availableOf, idleBudget, PowerBudget.cold]

theorem allowanceOf_idleBudget (trays : Nat) : allowanceOf (idleBudget trays) = 0 := by
  rw [allowanceOf, availableOf_idleBudget, Nat.zero_sub]

/-- With no PSU counted a fan tray moves neither the available budget nor the allowance (R45, R46). -/
theorem trayArrives_of_idle {n : Nat} {s : State} (h : s.power = idleBudget n) :
    trayArrives s = { s with power := idleBudget (n + 1) } := by
  have hpower : s.modPower (fun p => { p with trays := p.trays + 1 }) = { s with power := idleBudget (n + 1) } := by
    rw [State.modPower, h]
    rfl
  have hmoved : budgetMoved s { s with power := idleBudget (n + 1) } = false := by
    simp [budgetMoved, h, availableOf_idleBudget, allowanceOf_idleBudget]
  unfold trayArrives budgetChange budgetFollows
  dsimp only
  rw [hpower, hmoved, if_neg Bool.false_ne_true, h, allowanceOf_idleBudget, allowanceOf_idleBudget, if_neg (Nat.lt_irrefl 0),
    if_neg (Nat.lt_irrefl 0)]

/-- The trays that a unit's rise adds. -/
def trayOf (u : UnitIx) : Nat := if isPsu u then 0 else 1

/-- A state in which nothing but the units and the count of trays of the scanner and the budget has left its cold value. -/
def UnitsCold (n : Nat) (s : State) : Prop :=
  s.power = idleBudget n ∧ s.scanner = { SensorScanner.cold with units := s.scanner.units }

theorem unitPresenceRise_of_cold {u : UnitIx} {n : Nat} {s : State} (h : UnitsCold n s) (hu : s.unit u = UnitRec.cold) :
    unitPresenceRise u s = { s with
      power := idleBudget (n + trayOf u), scanner := { SensorScanner.cold with units := s.scanner.units.set u risenUnit } } := by
  obtain ⟨hpower, hscanner⟩ := h
  have hstart : s.modUnit u UnitRec.start = { s with
      scanner := { SensorScanner.cold with units := s.scanner.units.set u risenUnit } } := by
    have hmod : s.modUnit u UnitRec.start =
        { s with scanner := { s.scanner with units := s.scanner.units.set u (UnitRec.start (s.unit u)) } } := rfl
    rw [hmod, hu, hscanner]
    rfl
  have habsent : ¬ ((s.unit u).presence = true ∨ (s.unit u).state ≠ .absent) := by
    rw [hu]
    exact fun h => h.elim nofun fun h => h rfl
  unfold unitPresenceRise
  rw [if_neg habsent]
  dsimp only
  unfold trayOf
  split
  · rw [hstart, Nat.add_zero, ← hpower]
  · rw [hstart, trayArrives_of_idle (s := { s with
      scanner := { SensorScanner.cold with units := s.scanner.units.set u risenUnit } }) hpower]
    rfl

/-- The trays among the units of a list that are sampled high. -/
def traysHigh (lines : PresenceLines) (l : List UnitIx) : Nat :=
  (l.filter fun u => !isPsu u && lines.units.getLsbD u.val).length

theorem traysHigh_cons (lines : PresenceLines) (u : UnitIx) (l : List UnitIx) :
    traysHigh lines (u :: l) = (if lines.units.getLsbD u.val then trayOf u else 0) + traysHigh lines l := by
  unfold traysHigh trayOf
  rw [List.filter_cons]
  cases isPsu u <;> cases lines.units.getLsbD u.val <;> simp [Nat.add_comm]

theorem traysHigh_all (lines : PresenceLines) :
    traysHigh lines (List.finRange 10) = ([6, 7, 8, 9].filter fun u => lines.units.getLsbD u).length := by
  have hall : List.finRange 10 = [0, 1, 2, 3, 4, 5, 6, 7, 8, 9] := by decide
  have htrays : ([6, 7, 8, 9] : List Nat) = ([6, 7, 8, 9] : List UnitIx).map Fin.val := rfl
  rw [hall, htrays, List.filter_map, List.length_map]
  simp [traysHigh, isPsu, List.filter_cons]

/-- One unit is sampled: only the units and the count of trays change. -/
theorem sampleUnit_spec {u : UnitIx} {n : Nat} {high : Bool} {s : State} (h : UnitsCold n s) (hu : s.unit u = UnitRec.cold) :
    ∃ t, t = (if high = true then unitPresenceRise u s else s) ∧ UnitsCold (n + if high = true then trayOf u else 0) t ∧
      (∃ P S, t = { s with power := P, scanner := S }) ∧
      ∀ v, t.unit v = if v = u then (if high = true then risenUnit else UnitRec.cold) else s.unit v := by
  cases high with
  | false =>
    refine ⟨s, rfl, h, ⟨s.power, s.scanner, rfl⟩, fun v => ?_⟩
    split
    · next he => rw [he, hu]; rfl
    · rfl
  | true =>
    refine ⟨_, rfl, ?_, ⟨_, _, unitPresenceRise_of_cold h hu⟩, fun v => ?_⟩ <;> rw [if_pos rfl, unitPresenceRise_of_cold h hu]
    · exact ⟨rfl, rfl⟩
    · by_cases he : v = u
      · rw [if_pos he, he]
        exact Vector.getElem_set_self _
      · rw [if_neg he]
        exact Vector.getElem_set_ne u.isLt v.isLt fun hv => he (Fin.ext hv.symm)

/-- Each unit of a list is sampled. -/
theorem forEach_sampleUnit (lines : PresenceLines) {l : List UnitIx} (hl : l.Nodup) {n : Nat} {s : State} (h : UnitsCold n s)
    (hcold : ∀ u ∈ l, s.unit u = UnitRec.cold) :
    ∃ P S t, t = forEach l (fun u s => if lines.units.getLsbD u.val then unitPresenceRise u s else s) s ∧
      UnitsCold (n + traysHigh lines l) t ∧ t = { s with power := P, scanner := S } ∧
      ∀ u, t.unit u = if u ∈ l then (if lines.units.getLsbD u.val then risenUnit else UnitRec.cold) else s.unit u := by
  induction l generalizing s n with
  | nil => exact ⟨s.power, s.scanner, s, rfl, h, rfl, fun u => rfl⟩
  | cons x l ih =>
    obtain ⟨hx, hl⟩ := List.nodup_cons.1 hl
    obtain ⟨u, hu, hlaw, ⟨P₁, S₁, hframe₁⟩, hunit⟩ := sampleUnit_spec (high := lines.units.getLsbD x.val) h (hcold x List.mem_cons_self)
    obtain ⟨P, S, t, ht, hlaw, hframe, hunits⟩ := ih hl hlaw fun v hv => by
      rw [hunit, if_neg fun he : v = x => hx (he ▸ hv), hcold v (List.mem_cons_of_mem x hv)]
    refine ⟨P, S, t, by rw [forEach_cons, ← hu]; exact ht, ?_, by rw [hframe, hframe₁], fun v => ?_⟩
    · rw [traysHigh_cons, ← Nat.add_assoc]
      exact hlaw
    · rw [hunits, hunit]
      by_cases hv : v ∈ l
      · rw [if_pos hv, if_pos (List.mem_cons_of_mem x hv)]
      · by_cases he : v = x
        · rw [if_neg hv, if_pos he, if_pos (List.mem_cons.2 (.inl he)), he]
        · rw [if_neg hv, if_neg he, if_neg fun h => (List.mem_cons.1 h).elim he hv]

/-! ## The whole reset -/

/-- Some slot is sampled high exactly when the lines are not all low. -/
theorem any_slot_high (x : BitVec 14) : (allSlots.any fun c => x.getLsbD c.val) = (x != 0) := by
  rw [Bool.eq_iff_iff, List.any_eq_true, bne_iff_ne, ne_eq, ← not_iff_not, not_not]
  refine ⟨fun h => BitVec.eq_of_getLsbD_eq fun i hi => ?_, fun h => ?_⟩
  · have hlow : x.getLsbD i = false := Bool.eq_false_iff.2 fun hx => h ⟨⟨i, hi⟩, List.mem_finRange _, hx⟩
    rw [hlow]
    exact (BitVec.getLsbD_zero).symm
  · rintro ⟨c, -, hc⟩
    rw [h] at hc
    exact absurd hc (by simp)

/-- What a cold reset leaves: the cold values but for the cards and the attention (R23), and the units and the trays (R131). -/
theorem coldReset_spec (lines : PresenceLines) (s : State) :
    ∃ C A, coldReset lines s = { coldValues lines s with
        cards := C, attn := A, power := (coldReset lines s).power, scanner := (coldReset lines s).scanner } ∧
      (∀ c, (coldReset lines s).card c = if lines.slots.getLsbD c.val then risenCard else CardRec.cold) ∧
      (∀ p, (coldReset lines s).attention p = coldAttention (lines.slots != 0)) ∧
      UnitsCold (traysHigh lines (List.finRange 10)) (coldReset lines s) ∧
      ∀ u, (coldReset lines s).unit u = if lines.units.getLsbD u.val then risenUnit else UnitRec.cold := by
  obtain ⟨C, A, u, hu, hframe, hcards, hattn⟩ := forEach_sampleSlot lines (List.nodup_finRange 14) (b := false)
    (s := coldValues lines s) (fun c _ => by simp [coldValues, State.card, State.reset]) (fun p => by cases p <;> rfl)
  have hcold : UnitsCold 0 u := by rw [hframe]; exact ⟨rfl, rfl⟩
  have hunit : ∀ v, u.unit v = UnitRec.cold := fun v => by
    rw [hframe]
    simp [coldValues, State.unit, State.reset, SensorScanner.cold]
  obtain ⟨P, S, t, ht, hlaw, hrest, hunits⟩ := forEach_sampleUnit lines (List.nodup_finRange 10) hcold fun v _ => hunit v
  have hreset : coldReset lines s = t := by rw [ht, hu]; rfl
  have hcard : ∀ c, t.card c = u.card c := fun c => by rw [hrest]; rfl
  have hnoted : ∀ p, t.attention p = u.attention p := fun p => by rw [hrest]; cases p <;> rfl
  rw [hreset]
  refine ⟨C, A, by rw [hrest, hframe], fun c => ?_, fun p => ?_, by rw [Nat.zero_add] at hlaw; exact hlaw, fun v => ?_⟩
  · rw [hcard, hcards, if_pos (List.mem_finRange c)]
  · rw [hnoted, hattn, Bool.false_or]
    exact congrArg _ (any_slot_high _)
  · rw [hunits, if_pos (List.mem_finRange v)]

/-! ## The laws at reset -/

/-- The lines as `State.reset` samples them: every one low. -/
def linesLow : PresenceLines := { slots := 0, units := 0, supA := false, supB := false }

theorem coldValues_reset : coldValues linesLow State.reset = State.reset := rfl

theorem reset_outputs : OutputsFollow State.reset := coldValues_reset ▸ coldValues_outputs linesLow State.reset

theorem reset_draw : DrawLawful State.reset :=
  drawLawful_iff.2 ⟨coldValues_reset ▸ WaitsLaw.coldValues linesLow State.reset, Nat.zero_le _⟩

theorem reset_pools : PoolsLawful State.reset :=
  PoolsLawful.of_vacant (fun i => by simp [State.pool, State.reset]) fun n => by simp [State.port, State.reset, PortRec.cold]

theorem reset_tables : TablesLawful State.reset := tablesLawful_of_empty rfl rfl rfl rfl rfl

theorem reset_armed : ArmedByMaster State.reset := armedByMaster_of_none (by intro p; cases p <;> rfl) fun h => by cases h

theorem reset_logins : LoginsFollow State.reset := (coldValues_reset ▸ NamesFollow.coldValues linesLow State.reset).2

theorem reset_commit : CommitLawful State.reset := coldValues_reset ▸ CommitLawful.coldValues linesLow State.reset

end Sys2Proof.Machine

section
open Sys2Proof Sys2Proof.Machine

/-- Settles O3: the sampling of the lines over the cold values, and the laws at reset one by one. -/
theorem coldResetRule : Obligations.ColdResetRule := by
  unfold Obligations.ColdResetRule
  obtain ⟨halarms, hnames, himages⟩ := reset_tables
  refine ⟨fun lines s => ?_, reset_outputs.alerts, reset_armed, reset_outputs.power, reset_outputs.cap, reset_outputs.deficit,
    halarms, hnames, himages, reset_pools, reset_draw, reset_outputs.scanner.duty,
    reset_outputs.scanner.turn, .nil, reset_logins, reset_commit⟩
  obtain ⟨C, A, hframe, hcards, hattn, ⟨hpower, hscanner⟩, hunits⟩ := coldReset_spec lines s
  refine ⟨coldReset lines s, rfl, by rw [hframe]; rfl, hattn, by rw [hframe]; rfl, fun n => ?_, hcards, ?_, by rw [hframe]; rfl,
    by rw [hframe]; rfl, by rw [hframe]; rfl, by rw [hframe]; rfl, by rw [hframe]; rfl, by rw [hframe]; rfl, by rw [hframe]; rfl,
    by rw [hframe]; rfl, hunits, hscanner⟩
  · rw [hframe]
    simp [coldValues, State.port, State.reset, PortRec.cold]
  · rw [hpower, traysHigh_all]
    rfl

end

/-! PROOFS. What an accepted Ident turns on: a card that waits for a restore pass (R28, R50), and the tier check of a slot's bindings
(R27, R72). -/

namespace Sys2Proof.Machine

/-! ## A waiting card in a restore pass (R28, R50) -/

/-- A pass over a list that names a card at most once leaves the card or admits it once. -/
theorem card_of_forEach_restoreItem {c : Slot} {l : List WaitItem} {s : State} (h : WaitsLaw False False s)
    (hx : ∀ x ∈ l, Restorable False s x) (honce : l.count (.card c) ≤ 1) (hj : (s.card c).state ≠ .joined) :
    (forEach l restoreItem s).card c = s.card c ∨
      (forEach l restoreItem s).card c = admittedCard s.zones.generation (s.card c) := by
  induction l generalizing s with
  | nil => exact .inl rfl
  | cons x l ih =>
    have hxr := hx x List.mem_cons_self
    obtain ⟨hlaw, hrest⟩ := h.restoreItem hxr
    have htail : ∀ y ∈ l, Restorable False (restoreItem x s) y := fun y hy => hrest y (hx y (List.mem_cons_of_mem _ hy)) (.inr id)
    have hstep := restores_restoreItem h hxr
    rw [forEach_cons]
    by_cases hxc : x = .card c
    · subst hxc
      rw [List.count_cons_self, Nat.succ_le_succ_iff, Nat.le_zero] at honce
      have hloop := restores_forEach hlaw htail
      have hitem := restoreItem_card c s
      split at hitem
      · have hcard : (restoreItem (.card c) s).card c = admittedCard s.zones.generation (s.card c) := by
          rw [hitem, (admitCard_spec c s).2, if_pos rfl]
        rw [hloop.card_eq (List.count_eq_zero.1 honce) (by rw [hcard]; nofun)]
        exact .inr hcard
      · rw [hloop.card_eq (List.count_eq_zero.1 honce) (by rw [hitem]; exact hj), hitem]
        exact .inl rfl
    · rw [List.count_cons_of_ne hxc] at honce
      have hcard : (restoreItem x s).card c = s.card c :=
        hstep.card_eq (fun hm => hxc (List.mem_singleton.1 hm).symm) hj
      have hzones : (restoreItem x s).zones = s.zones := by rw [hstep.frame]
      have hgo := ih hlaw htail honce (by rw [hcard]; exact hj)
      rwa [hcard, hzones] at hgo

theorem restorePass_card_eq_forEach (s : State) (c : Slot) :
    (restorePass s).card c = (forEach s.power.waitList restoreItem s).card c := by
  unfold restorePass
  dsimp only
  split <;> rfl

/-- A card that waits, once on the list, waits on after an event's restore pass, or is admitted and off the list. -/
theorem waits_or_admitted {c : Slot} {u : State} (h : WaitsLaw False False u) (hwaiting : (u.card c).state = .waiting)
    (honce : u.power.waitList.count (.card c) ≤ 1) :
    ((settleDeficit (restorePass u)).card c = u.card c ∧ WaitItem.card c ∈ (settleDeficit (restorePass u)).power.waitList) ∨
      ((settleDeficit (restorePass u)).card c = admittedCard u.zones.generation (u.card c) ∧
        WaitItem.card c ∉ (settleDeficit (restorePass u)).power.waitList) := by
  have hlaw := (waitsLaw_iff.1 h.restorePass.settleDeficit).1 c
  have hcard := card_of_forEach_restoreItem h (fun x hx => h.restorable hx) honce (by rw [hwaiting]; nofun)
  rw [← restorePass_card_eq_forEach, ← settleDeficit_card] at hcard
  rcases hcard with he | he
  · exact .inl ⟨he, hlaw.2 (by rw [he, hwaiting])⟩
  · have hadmitting : ((settleDeficit (restorePass u)).card c).state = .admitting := by rw [he]; rfl
    exact .inr ⟨he, fun hm => by rw [hlaw.1 hm] at hadmitting; cases hadmitting⟩

/-- A restore pass over a card alone admits it where its base draw fits. -/
theorem restorePass_single {c : Slot} {u : State} (h : WaitsLaw False False u) (hl : u.power.waitList = [.card c]) :
    (((restorePass u).card c).state = .admitting ↔ (u.card c).baseDraw + u.power.admitted ≤ allowanceOf u.power) ∧
      (((restorePass u).card c).state = .admitting → (restorePass u).power.admitted = u.power.admitted + (u.card c).baseDraw) := by
  have hwaiting : (u.card c).state = .waiting := ((waitsLaw_iff.1 h).1 c).1 (by rw [hl]; exact List.mem_singleton.2 rfl)
  obtain ⟨hadmits, -, hnone⟩ := admits_restorePass (h.passable (by rw [hl]; exact List.nodup_singleton _))
  have htakes : passTakes u = if (u.card c).baseDraw + u.power.admitted ≤ allowanceOf u.power then [.card c] else [] := by
    unfold passTakes
    rw [hl]
    simp only [restoreTakes, itemHeld, itemDraw, true_and]
  by_cases hfits : (u.card c).baseDraw + u.power.admitted ≤ allowanceOf u.power
  · rw [if_pos hfits] at htakes
    rw [htakes] at hadmits
    refine ⟨iff_of_true ?_ hfits, fun _ => ?_⟩
    · rw [hadmits.card, if_pos (List.mem_singleton.2 rfl)]
      rfl
    · rw [hadmits.power]
      rfl
  · rw [if_neg hfits] at htakes
    have hnot : ((restorePass u).card c).state ≠ .admitting := by
      rw [hnone htakes, hwaiting]
      nofun
    exact ⟨iff_of_false hnot hfits, fun ha => absurd ha hnot⟩

/-! ## Ports of a card out of service lose their licenses (R27) -/

/-- A port of a card out of service is unbound: its pool's count and its record. -/
theorem unbindPort_of_out {n : PortIx} {s : State} (h : (cardOf s n).state.inService = false) :
    unbindPort n s = { s with
      ports := s.ports.set n { s.port n with license := .unlicensed }
      license := (PoolsLawful.freed n s).license, attn := (PoolsLawful.freed n s).attn } := by
  obtain ⟨L, A, hu⟩ : ∃ L A, PoolsLawful.freed n s = { s with license := L, attn := A } := ⟨_, _, freed_eq n s⟩
  rw [PoolsLawful.unbindPort_eq, hu]
  exact portChange_of_ineligible (s := { s with license := L, attn := A }) (eligible_of_out h) (eligible_of_out h)

theorem freed_chassis (n : PortIx) (s : State) : (PoolsLawful.freed n s).license.chassis = s.license.chassis := by
  unfold PoolsLawful.freed
  split <;> rfl

/-- Ports of cards out of service are unbound: only their licenses change, and the pools' counts. -/
theorem forEach_unbindPort_of_out {l : List PortIx} (hl : l.Nodup) {s : State}
    (hout : ∀ n ∈ l, (cardOf s n).state.inService = false) :
    ∃ P L A t, t = forEach l unbindPort s ∧ t = { s with ports := P, license := L, attn := A } ∧
      t.license.chassis = s.license.chassis ∧
      ∀ n, t.port n = if n ∈ l then { s.port n with license := .unlicensed } else s.port n := by
  induction l generalizing s with
  | nil => exact ⟨s.ports, s.license, s.attn, s, rfl, rfl, rfl, fun n => rfl⟩
  | cons x l ih =>
    obtain ⟨hx, hl⟩ := List.nodup_cons.1 hl
    have hstep := unbindPort_of_out (hout x List.mem_cons_self)
    have hport (m : PortIx) : (unbindPort x s).port m = if x = m then { s.port x with license := .unlicensed } else s.port m := by
      rw [hstep]
      exact modPort_port x m (fun _ => { s.port x with license := .unlicensed }) s
    have hchassis : (unbindPort x s).license.chassis = s.license.chassis := by
      rw [hstep]
      exact freed_chassis x s
    obtain ⟨P, L, A, t, ht, hframe, hkept, hrest⟩ := ih (s := unbindPort x s) hl fun n hn => by
      rw [hstep]
      exact hout n (List.mem_cons_of_mem x hn)
    refine ⟨P, L, A, t, by rw [forEach_cons]; exact ht, by rw [hframe, hstep], hkept.trans hchassis, fun n => ?_⟩
    rw [hrest, hport]
    by_cases hn : n ∈ l
    · rw [if_pos hn, if_pos (List.mem_cons_of_mem x hn), if_neg fun he : x = n => hx (he ▸ hn)]
    · by_cases he : x = n
      · rw [if_neg hn, if_pos he, if_pos (List.mem_cons.2 (.inl he.symm)), he]
      · rw [if_neg hn, if_neg he, if_neg fun h => (List.mem_cons.1 h).elim (fun h => he h.symm) hn]

/-! ## The tier check (R27, R72) -/

/-- A port of the slot names a pool whose tier is below the card's. -/
def FailsTier (s : State) (slot : Slot) (tier : Nat) (n : PortIx) : Prop :=
  slotOf n = slot ∧ ∃ k, (s.port n).license.pool? = some k ∧ (s.pool k).tier < tier

/-- The ports that a tier check unbinds. -/
def failingPorts (s : State) (slot : Slot) (tier : Nat) : List PortIx := (slotPorts slot).filter (belowTier s tier)

theorem belowTier_iff {s : State} {tier : Nat} {n : PortIx} :
    belowTier s tier n = true ↔ ∃ k, (s.port n).license.pool? = some k ∧ (s.pool k).tier < tier := by
  unfold belowTier
  cases (s.port n).license.pool? <;> simp

theorem mem_failingPorts {s : State} {slot : Slot} {tier : Nat} {n : PortIx} :
    n ∈ failingPorts s slot tier ↔ FailsTier s slot tier n :=
  List.mem_filter.trans (and_congr mem_slotPorts belowTier_iff)

theorem failingPorts_nodup (s : State) (slot : Slot) (tier : Nat) : (failingPorts s slot tier).Nodup :=
  (slotPorts_nodup slot).filter _

/-- The ports that a pool loses by a tier check, counted. -/
theorem namersOf_failingPorts_length (s : State) (slot : Slot) (tier : Nat) (k : PoolIx) :
    (namersOf s k (failingPorts s slot tier)).length = ((List.finRange 672).filter fun n =>
      slotOf n = slot ∧ (s.port n).license.pool? = some k ∧ (s.pool k).tier < tier).length := by
  refine ((List.perm_ext_iff_of_nodup ((failingPorts_nodup s slot tier).filter _) ((List.nodup_finRange 672).filter _)).2
    fun n => ?_).length_eq
  rw [List.mem_filter (as := List.finRange 672), and_iff_right (List.mem_finRange n), decide_eq_true_iff]
  refine (List.mem_filter.trans (and_congr mem_failingPorts decide_eq_true_iff)).trans ⟨?_, ?_⟩
  · rintro ⟨⟨hslot, j, hj, htier⟩, hk⟩
    cases hj.symm.trans hk
    exact ⟨hslot, hk, htier⟩
  · rintro ⟨hslot, hk, htier⟩
    exact ⟨⟨hslot, k, hk, htier⟩, hk⟩

/-- From s to v a slot's failing ports have been unbound, and from v to w the rebinding pass has run where there were any. -/
structure TierChecked (slot : Slot) (tier : Nat) (s v w : State) : Prop where
  frame : v = { s with ports := v.ports, license := v.license, attn := v.attn }
  port : ∀ n, (FailsTier s slot tier n → v.port n = { s.port n with license := .unlicensed }) ∧
    (¬ FailsTier s slot tier n → v.port n = s.port n)
  chassis : v.license.chassis = s.license.chassis
  pool : ∀ k, v.pool k = { s.pool k with bound := (s.pool k).bound - ((List.finRange 672).filter fun n =>
    slotOf n = slot ∧ (s.port n).license.pool? = some k ∧ (s.pool k).tier < tier).length }
  rebinds : (∃ n, FailsTier s slot tier n) → w = rebindingPass v
  passes : (∀ n, ¬ FailsTier s slot tier n) → w = v

theorem tierChecked {slot : Slot} {s : State} (tier : Nat) (hout : (s.card slot).state.inService = false) :
    ∃ v, TierChecked slot tier s v (tierCheck slot tier s) := by
  obtain ⟨P, L, A, v, hv, hframe, hchassis, hport⟩ := forEach_unbindPort_of_out (failingPorts_nodup s slot tier) (s := s) fun n hn => by
    rw [cardOf, (mem_failingPorts.1 hn).1]
    exact hout
  have hpools := (forEach_relicense_pool (after := fun _ => .unlicensed) (failingPorts_nodup s slot tier) (s := s)).1
  have hloop : (fun n => relicense License.unlicensed n) = unbindPort := funext fun n => funext fun u => relicense_of_unlicensed n u
  have hlost : lostOf (fun _ => License.unlicensed) (failingPorts s slot tier) = failingPorts s slot tier :=
    List.filter_eq_self.2 fun n _ => decide_eq_true rfl
  rw [hloop, hlost, ← hv] at hpools
  have hcheck : tierCheck slot tier s = if (failingPorts s slot tier).isEmpty then s else rebindingPass v := by
    rw [hv]
    rfl
  refine ⟨v, by rw [hframe], fun n => ⟨fun hn => ?_, fun hn => ?_⟩, hchassis, fun k => ?_, fun ⟨n, hn⟩ => ?_, fun hno => ?_⟩
  · rw [hport, if_pos (mem_failingPorts.2 hn)]
  · rw [hport, if_neg fun hm => hn (mem_failingPorts.1 hm)]
  · rw [hpools, namersOf_failingPorts_length]
  · rw [hcheck, if_neg]
    rw [List.isEmpty_iff]
    exact List.ne_nil_of_mem (mem_failingPorts.2 hn)
  · have hnil : failingPorts s slot tier = [] := List.eq_nil_iff_forall_not_mem.2 fun n hm => hno n (mem_failingPorts.1 hm)
    rw [hcheck, hv, hnil]
    rfl

namespace TierChecked

variable {slot : Slot} {tier : Nat} {s v w : State}

/-- The bindings that the rebinding pass makes, none where it does not run. -/
theorem exists_rebinds (h : TierChecked slot tier s v w) :
    ∃ taken, Rebinds taken v w ∧ ∀ n k, (n, k) ∈ taken → rebindCandidate v n = true := by
  by_cases hany : ∃ n, FailsTier s slot tier n
  · rw [h.rebinds hany]
    exact ⟨_, rebinds_rebindingPass v, fun n k hm => (List.mem_filter.1 (mem_of_mem_rebindTakes hm)).2⟩
  · rw [h.passes fun n hn => hany ⟨n, hn⟩]
    exact ⟨[], rebinds_nil v, fun _ _ hm => absurd hm List.not_mem_nil⟩

theorem frame_eq (h : TierChecked slot tier s v w) :
    w = { s with ports := w.ports, power := w.power, license := w.license, attn := w.attn } := by
  obtain ⟨taken, hr, -⟩ := h.exists_rebinds
  rw [hr.frame, h.frame]

theorem power_eq (h : TierChecked slot tier s v w) : w.power = { s.power with waitList := w.power.waitList } := by
  obtain ⟨taken, hr, -⟩ := h.exists_rebinds
  rw [hr.power, h.frame]

theorem waitList_le (h : TierChecked slot tier s v w) : s.power.waitList.length ≤ w.power.waitList.length := by
  obtain ⟨taken, hr, -⟩ := h.exists_rebinds
  have hv : v.power = s.power := by rw [h.frame]
  rw [hr.waits.length_eq, List.length_append, hv]
  exact Nat.le_add_left _ _

/-- The rebinding pass looks at no port of a card out of service. -/
theorem port_of_slot (h : TierChecked slot tier s v w) (hout : (s.card slot).state.inService = false) {n : PortIx}
    (hn : slotOf n = slot) : w.port n = v.port n := by
  obtain ⟨taken, hr, hc⟩ := h.exists_rebinds
  refine hr.kept n fun k hm => ?_
  obtain ⟨-, hpresent, -⟩ := rebindCandidate_iff.1 (hc n k hm)
  have hcard : v.card slot = s.card slot := by rw [h.frame]; rfl
  unfold portPresent cardOf at hpresent
  rw [hn, hcard, hout] at hpresent
  cases hpresent

end TierChecked

end Sys2Proof.Machine

/-! PROOFS. An Ident in Probing (R26, R27, R28; O26). -/

namespace Sys2Proof.Machine

/-- The parts of an Ident that R26 accepts. -/
def GoodIdent (portCount tier : Byte) (baseDraw : Half) : Prop :=
  (portCount.toNat = 16 ∨ portCount.toNat = 32 ∨ portCount.toNat = 48) ∧
    (tier.toNat = 1 ∨ tier.toNat = 2 ∨ tier.toNat = 3) ∧ 40 ≤ baseDraw.toNat ∧ baseDraw.toNat ≤ 600

/-- The identity that an Ident carries. -/
def carriedIdentity (cardType : Half) (portCount tier : Byte) (baseDraw : Half) : Identity :=
  { cardType := cardType, portCount := portCount.toNat, tier := tier.toNat, baseDraw := baseDraw.toNat }

theorem identityOf_of_good {portCount tier : Byte} {baseDraw : Half} (cardType : Half) (h : GoodIdent portCount tier baseDraw) :
    identityOf cardType portCount tier baseDraw = some (carriedIdentity cardType portCount tier baseDraw) := by
  obtain ⟨hcount, htier, hlow, hhigh⟩ := h
  exact if_pos ⟨hcount, by omega, by omega, hlow, hhigh⟩

theorem identityOf_of_bad {portCount tier : Byte} {baseDraw : Half} (cardType : Half) (h : ¬ GoodIdent portCount tier baseDraw) :
    identityOf cardType portCount tier baseDraw = none :=
  if_neg fun ⟨hcount, hlow, hhigh, hdraw⟩ => h ⟨hcount, by omega, hdraw⟩

theorem exec_ident {slot : Slot} {s : State} (h : (s.card slot).state = .probing) (cardType : Half) (portCount tier : Byte)
    (baseDraw : Half) : exec (.ident slot cardType portCount tier baseDraw) s =
      .next (settleDeficit (takeIdent slot cardType portCount tier baseDraw s)) := by
  show Host.Outcome.next (settleDeficit (takeMessage slot CardState.isProbing _ s)) = _
  unfold takeMessage
  rw [h]
  rfl

/-- The state with the card's timer stopped and its identity recorded (R27). -/
def identified (slot : Slot) (id : Identity) (s : State) : State :=
  { s with cards := s.cards.set slot { s.card slot with timerOn := false, identity := some id } }

theorem identified_eq (slot : Slot) (id : Identity) (s : State) :
    (stopTimer slot s).modCard slot (fun c => { c with identity := some id }) = identified slot id s := by
  unfold stopTimer
  rw [modCard_modCard]
  rfl

theorem identified_card (slot : Slot) (id : Identity) (s : State) :
    (identified slot id s).card slot = { s.card slot with timerOn := false, identity := some id } :=
  modCard_card_same slot (fun _ => { s.card slot with timerOn := false, identity := some id }) s

/-- The event of an accepted Ident, by the park claims: a card that is not parked joins the wait list, so that the restore pass runs. -/
theorem acceptIdent_eq (slot : Slot) (id : Identity) (s : State) :
    let w := tierCheck slot id.tier (identified slot id s)
    (w.card slot).parkClaims = (s.card slot).parkClaims → s.power.waitList.length ≤ w.power.waitList.length →
    acceptIdent slot id s = if (s.card slot).parkClaims = [] then restorePass (placeCard slot w)
      else if s.power.waitList.length < w.power.waitList.length then restorePass (enterCard slot .parked w)
      else enterCard slot .parked w := by
  intro w hparks hle
  unfold acceptIdent
  dsimp only
  rw [identified_eq]
  change (if s.power.waitList.length < (if (w.card slot).parkClaims.isEmpty = true then placeCard slot w
    else enterCard slot .parked w).power.waitList.length then _ else _) = _
  rw [hparks]
  by_cases hnil : (s.card slot).parkClaims = []
  · have hgrows : s.power.waitList.length < (placeCard slot w).power.waitList.length := by
      have hperm : ((placeCard slot w).power.waitList).Perm (.card slot :: w.power.waitList) := insertByKey_perm _ _ _
      rw [hperm.length_eq, List.length_cons]
      exact Nat.lt_succ_of_le hle
    rw [if_pos hnil, if_pos (List.isEmpty_iff.2 hnil), if_pos hgrows]
  · rw [if_neg hnil, if_neg fun he => hnil (List.isEmpty_iff.1 he)]
    rfl

/-- What stands of an accepted Ident's event before its end: the tier check has run, and the card has been placed. -/
structure Placed (slot : Slot) (id : Identity) (s v w u : State) : Prop where
  checked : TierChecked slot id.tier (identified slot id s) v w
  law : WaitsLaw False False u
  noted : Noted .slot u
  work : LicenseWork (identified slot id s) u
  placed : u = if (s.card slot).parkClaims = [] then placeCard slot w else enterCard slot .parked w
  fresh : WaitItem.card slot ∉ w.power.waitList

namespace Placed

variable {slot : Slot} {id : Identity} {s v w u : State}

/-- The card's record as it is placed. -/
theorem card (h : Placed slot id s v w u) :
    u.card slot = CardRec.enter (if (s.card slot).parkClaims = [] then .waiting else .parked)
      { s.card slot with timerOn := false, identity := some id } := by
  have hw : w.card slot = { s.card slot with timerOn := false, identity := some id } := by
    rw [h.checked.frame_eq]
    exact identified_card slot id s
  rw [h.placed]
  split
  · rw [placeCard_card, if_pos rfl, hw]
  · rw [enterCard, addReason_card, modCard_card_same, hw]

/-- A card that is placed is out of service, so that its ports are Off. -/
theorem port_off (h : Placed slot id s v w u) {n : PortIx} (hn : slotOf n = slot) : (u.port n).power = .off := by
  refine ((waitsLaw_iff.1 h.law).2.2.1 n).2 (eligible_of_out ?_)
  rw [cardOf, hn, h.card]
  split <;> rfl

theorem port (h : Placed slot id s v w u) (n : PortIx) : u.port n = w.port n := by
  rw [h.placed]
  split <;> rfl

theorem zones (h : Placed slot id s v w u) : u.zones = s.zones := by
  have hwork := h.work
  unfold LicenseWork at hwork
  rw [hwork]
  rfl

end Placed

theorem exists_placed {slot : Slot} (id : Identity) {s : State} (hstate : (s.card slot).state = .probing) (hw : WaitListFollows s) :
    ∃ v w u, Placed slot id s v w u ∧ acceptIdent slot id s =
      if (s.card slot).parkClaims = [] ∨ s.power.waitList.length < w.power.waitList.length then restorePass u else u := by
  have hcard := identified_card slot id s
  have hout : ((identified slot id s).card slot).state.inService = false := by 
    rw [hcard]
    show (s.card slot).state.inService = false
    rw [hstate]
    rfl
  obtain ⟨v, hv⟩ := tierChecked id.tier hout
  have hwcard : (tierCheck slot id.tier (identified slot id s)).card slot = { s.card slot with timerOn := false, identity := some id } := by
    rw [hv.frame_eq]
    exact hcard
  have hlaw : WaitsLaw False False (tierCheck slot id.tier (identified slot id s)) := by
    have hnamed := ((waitsLaw_iff.2 hw).of_core ((CoreKept.refl s).stopTimer slot)).setIdentity (slot := slot) (some id)
      (by rw [((CoreKept.refl s).stopTimer slot).state, hstate]; rfl)
    rw [identified_eq] at hnamed
    exact hnamed.tierCheck slot id.tier
  have hwork : LicenseWork (identified slot id s) (tierCheck slot id.tier (identified slot id s)) := by
    unfold LicenseWork
    rw [hv.frame_eq]
  have heq := acceptIdent_eq slot id s (by rw [hwcard]) hv.waitList_le
  have hwstate : ((tierCheck slot id.tier (identified slot id s)).card slot).state = .probing := by rw [hwcard]; exact hstate
  generalize tierCheck slot id.tier (identified slot id s) = w at hv hwcard hlaw hwork heq hwstate
  refine ⟨v, w, _, ⟨hv, ?_, ?_, ?_, rfl, ?_⟩, ?_⟩
  · split
    · exact hlaw.placeCard (by rw [hwstate]; rfl) (by rw [hwstate]; nofun)
    · exact hlaw.enters_idle (enterCard_enters slot .parked w) (by rw [hwstate]; rfl) (by rw [hwstate]; nofun) rfl nofun
  · split
    · exact (noted_addReason_self .slot _).of_attn rfl
    · exact noted_addReason_self .slot _
  · split
    · exact hwork.trans rfl
    · exact hwork.trans rfl
  · rw [(waitsLaw_iff.1 hlaw).1, hwstate]
    nofun
  · rw [heq]
    by_cases hnil : (s.card slot).parkClaims = []
    · rw [if_pos hnil, if_pos (.inl hnil), if_pos hnil]
    · rw [if_neg hnil, if_neg hnil]
      simp only [hnil, false_or]

namespace Placed

variable {slot : Slot} {id : Identity} {s v w u : State}

theorem count_le (h : Placed slot id s v w u) (hparks : (s.card slot).parkClaims = []) :
    u.power.waitList.count (.card slot) ≤ 1 := by
  have hperm : u.power.waitList.Perm (.card slot :: w.power.waitList) := by
    rw [h.placed, if_pos hparks]
    exact insertByKey_perm _ _ _
  rw [hperm.count_eq, List.count_cons_self, List.count_eq_zero.2 h.fresh]

/-- A card without park claims waits, or the restore pass has admitted it. -/
theorem waits_or_admits (h : Placed slot id s v w u) (hparks : (s.card slot).parkClaims = []) :
    let t := settleDeficit (restorePass u)
    (t.card slot = u.card slot ∧ WaitItem.card slot ∈ t.power.waitList) ∨
      (t.card slot = admittedCard s.zones.generation (u.card slot) ∧ WaitItem.card slot ∉ t.power.waitList) := by
  have hwaiting : (u.card slot).state = .waiting := by rw [h.card, if_pos hparks]; rfl
  have hgo := waits_or_admitted h.law hwaiting (h.count_le hparks)
  rwa [h.zones] at hgo

/-- A parked card stays as it is placed. -/
theorem parked (h : Placed slot id s v w u) (hparks : (s.card slot).parkClaims ≠ []) {t : State} (hend : EventEnds u t) :
    t.card slot = u.card slot ∧ WaitItem.card slot ∉ t.power.waitList := by
  have hstate : (u.card slot).state = .parked := by rw [h.card, if_neg hparks]; rfl
  obtain ⟨k, hk, hnone, -⟩ := hend.card slot (by rw [hstate]; nofun)
  have hcard : t.card slot = u.card slot := by rw [hk, hnone (by rw [hstate]; nofun), CardRec.behind_nil]
  refine ⟨hcard, ?_⟩
  rw [(waitsLaw_iff.1 hend.law).1, hcard, hstate]
  nofun

theorem power_eq (h : Placed slot id s v w u) : u.power = { s.power with waitList := u.power.waitList } := by
  have hw : w.power = { s.power with waitList := w.power.waitList } := h.checked.power_eq
  rw [h.placed]
  split
  · have hplaced : (placeCard slot w).power = { w.power with waitList := (placeCard slot w).power.waitList } := rfl
    rw [hplaced, hw]
  · exact hw

/-- With nothing waiting and no binding failing the card is admitted where its base draw fits. -/
theorem alone (h : Placed slot id s v w u) (hparks : (s.card slot).parkClaims = []) (hnil : s.power.waitList = [])
    (hno : ∀ n, ¬ FailsTier s slot id.tier n) :
    (((settleDeficit (restorePass u)).card slot).state = .admitting ↔ id.baseDraw + s.power.admitted ≤ allowanceOf s.power) ∧
      (((settleDeficit (restorePass u)).card slot).state = .admitting →
        (settleDeficit (restorePass u)).power.admitted = s.power.admitted + id.baseDraw) := by
  have hlist : u.power.waitList = [.card slot] := by
    have hw : w.power = s.power := by rw [h.checked.passes hno, h.checked.frame]; rfl
    rw [h.placed, if_pos hparks]
    show insertByKey _ _ w.power.waitList = _
    rw [hw, hnil]
    rfl
  have hdraw : (u.card slot).baseDraw = id.baseDraw := by rw [h.card, if_pos hparks]; rfl
  have hadmitted : u.power.admitted = s.power.admitted := by rw [h.power_eq]
  have hallow : allowanceOf u.power = allowanceOf s.power := by rw [h.power_eq]; rfl
  have hgo := restorePass_single h.law hlist
  rwa [hdraw, hadmitted, hallow, ← settleDeficit_card, ← settleDeficit_admitted (restorePass u)] at hgo

end Placed

end Sys2Proof.Machine

section
open Sys2Proof Sys2Proof.Machine

/-- Settles O26: the refused Ident fails the card; the accepted one is the tier check, the placing and the restore pass. -/
theorem identRule : Obligations.IdentRule := by
  unfold Obligations.IdentRule
  intro slot cardType baseDraw portCount tier s hstate hdeficit hw i good identity failing
  have hexec : exec i s = _ := exec_ident hstate cardType portCount tier baseDraw
  refine ⟨fun hbad hlaw hroom => ?_, fun hgood => ?_⟩
  · have htake : takeIdent slot cardType portCount tier baseDraw s = failCard slot .badIdentity s := by
      unfold takeIdent
      rw [identityOf_of_bad cardType hbad]
    obtain ⟨hframe, hstands, hother, hnoted⟩ := failCard_spec slot .badIdentity hlaw hroom
    have hfollows : DeficitFollows (failCard slot .badIdentity s) :=
      hdeficit.of_power_ports (by rw [hframe]) (by rw [hframe]) (by rw [hframe])
    rw [htake, settleDeficit_of_follows hfollows] at hexec
    exact ⟨_, hexec, by rw [hframe], by rw [hframe]; rfl, hstands, hother, hnoted⟩
  · have htake : takeIdent slot cardType portCount tier baseDraw s = acceptIdent slot identity s := by
      unfold takeIdent
      rw [identityOf_of_good cardType hgood]
      rfl
    rw [htake] at hexec
    have hmoves : Moves .licence s (settleDeficit (acceptIdent slot identity s)) := by
      rw [← htake]
      exact (Moves.refl.takeIdent slot cardType portCount tier baseDraw rfl).settleDeficit
    obtain ⟨v, w, u, hp, heq⟩ := exists_placed identity hstate hw
    have hend : EventEnds u (settleDeficit (acceptIdent slot identity s)) := by
      rw [heq]
      exact eventEnds_restoredIf hp.law _
    have hwork : LicenseWork (identified slot identity s) (settleDeficit (acceptIdent slot identity s)) := by
      rw [heq]
      refine (hp.work.trans ?_).settleDeficit
      split
      · exact .of_portWork (PortWork.refl u).restorePass
      · exact .refl u
    have hnoted : Noted .slot (settleDeficit (acceptIdent slot identity s)) := by
      rw [heq]
      exact (moves_restoredIf (k := .every) .refl _).noted hp.noted
    have hport (n : PortIx) (hn : slotOf n = slot) : (settleDeficit (acceptIdent slot identity s)).port n = v.port n := by
      have hout : ((identified slot identity s).card slot).state.inService = false := by
        rw [identified_card]
        show (s.card slot).state.inService = false
        rw [hstate]
        rfl
      rw [hend.port_eq (by rw [hp.port_off hn]; nofun), hp.port, hp.checked.port_of_slot hout hn]
    have hwaits (hparks : (s.card slot).parkClaims = []) :
        settleDeficit (acceptIdent slot identity s) = settleDeficit (restorePass u) := by rw [heq, if_pos (.inl hparks)]
    have hcard : ((settleDeficit (acceptIdent slot identity s)).card slot).identity = some identity ∧
        ((settleDeficit (acceptIdent slot identity s)).card slot).attempts = (s.card slot).attempts := by
      by_cases hparks : (s.card slot).parkClaims = []
      · rw [hwaits hparks]
        rcases hp.waits_or_admits hparks with ⟨he, -⟩ | ⟨he, -⟩ <;> rw [he, hp.card, if_pos hparks] <;> exact ⟨rfl, rfl⟩
      · rw [(hp.parked hparks hend).1, hp.card, if_neg hparks]
        exact ⟨rfl, rfl⟩
    obtain ⟨hidentity, hattempts⟩ := hcard
    refine ⟨_, hexec, hidentity, hnoted, hattempts, fun n hn => ?_, fun hparks => ?_, fun hparks => ?_, fun hparks hnil hno => ?_,
      ⟨v, w, hp.checked.frame, hp.checked.port, hp.checked.chassis, hp.checked.pool, hp.checked.rebinds, hp.checked.passes,
        fun hparks => ?_, fun hparks => ?_⟩, hmoves.settingsKept rfl, hmoves.outside, hwork.engines⟩
    · rw [hport n hn]
      exact hp.checked.port n
    · obtain ⟨hstays, hnot⟩ := hp.parked hparks hend
      rw [hstays, hp.card, if_neg hparks]
      exact ⟨rfl, hnot, rfl, rfl⟩
    · rw [hwaits hparks]
      rcases hp.waits_or_admits hparks with ⟨he, hmem⟩ | ⟨he, hmem⟩
      · rw [he, hp.card, if_pos hparks]
        exact .inl ⟨rfl, hmem, rfl, rfl, rfl⟩
      · rw [he, hp.card, if_pos hparks]
        exact .inr ⟨rfl, hmem, rfl, rfl, rfl, rfl, rfl⟩
    · rw [hwaits hparks]
      exact hp.alone hparks hnil hno
    · rw [hwaits hparks, hp.placed, if_pos hparks]
    · rw [heq, hp.placed, if_neg hparks]
      simp only [hparks, false_or]

end

/-! PROOFS. A Ready in Admitting (R9, R29; O27). -/

namespace Sys2Proof.Machine

/-! ## The ports of a card that comes into service (R5, R9) -/

/-- A port's record as it comes to wait for power. -/
def waitingPort (cap : Nat) (r : PortRec) : PortRec := { r with power := .waiting, hold := decide (cap ≤ r.priority.val) }

theorem joinWait_port (n : PortIx) (s : State) (m : PortIx) :
    (joinWait n s).port m = if n = m then waitingPort s.power.cap (s.port n) else s.port m := by
  unfold joinWait setPower
  rw [enterWait_port]
  exact modPort_port n m _ s

theorem joinWait_eligible (n : PortIx) (s : State) (m : PortIx) : eligible (joinWait n s) m = eligible s m := by
  have hport : ((joinWait n s).port m).intent = (s.port m).intent ∧ ((joinWait n s).port m).license = (s.port m).license := by
    rw [joinWait_port]
    split
    next he => rw [← he]; exact ⟨rfl, rfl⟩
    next => exact ⟨rfl, rfl⟩
  exact eligible_congr hport.1 hport.2 rfl rfl

/-- The review of a port that was not eligible: it waits where it is eligible now, and is not Serviceable. -/
theorem review_gained (n : PortIx) (draw : Nat) (s : State) (hoff : eligible s n = false → serviceable s n = false) :
    reviewServiceable n false (reviewEligible n false draw s) = if eligible s n = true then joinWait n s else s := by
  cases he : eligible s n with
  | false =>
    rw [if_neg Bool.false_ne_true]
    unfold reviewEligible
    rw [he]
    show reviewServiceable n false s = s
    unfold reviewServiceable
    rw [hoff he]
  | true =>
    have hwaits : serviceable (joinWait n s) n = false := Bool.eq_false_iff.2 fun hs => by
      obtain ⟨-, -, hp⟩ := serviceable_iff.1 hs
      rw [joinWait_port, if_pos rfl] at hp
      cases hp
    rw [if_pos rfl]
    unfold reviewEligible
    rw [he]
    show reviewServiceable n false (joinWait n s) = joinWait n s
    unfold reviewServiceable
    rw [hwaits]

/-- From s to t each eligible port of a list has come to wait for power. -/
structure JoinsWait (l : List PortIx) (s t : State) : Prop where
  frame : t = { s with ports := t.ports, power := { s.power with waitList := t.power.waitList } }
  port : ∀ n, t.port n = if n ∈ l ∧ eligible s n = true then waitingPort s.power.cap (s.port n) else s.port n
  waits : ∀ x, x ∈ t.power.waitList ↔ x ∈ s.power.waitList ∨ ∃ n ∈ l, eligible s n = true ∧ x = .port n

theorem joinsWait_nil (s : State) : JoinsWait [] s s :=
  ⟨rfl, fun _ => (if_neg fun h => nomatch h.1).symm, fun _ => ⟨.inl, fun h => h.elim id fun ⟨_, hn, _⟩ => nomatch hn⟩⟩

theorem joinsWait_single (n : PortIx) (s : State) : JoinsWait [n] s (if eligible s n = true then joinWait n s else s) := by
  split
  next he =>
    refine ⟨rfl, fun m => ?_, fun x => ?_⟩
    · rw [joinWait_port]
      by_cases hm : n = m
      · subst hm
        rw [if_pos rfl, if_pos ⟨List.mem_singleton.2 rfl, he⟩]
      · rw [if_neg hm, if_neg fun h => hm (List.mem_singleton.1 h.1).symm]
    · have hperm : (joinWait n s).power.waitList.Perm (.port n :: s.power.waitList) := insertByKey_perm _ _ _
      rw [hperm.mem_iff, List.mem_cons, or_comm]
      refine or_congr_right ⟨fun hx => ⟨n, List.mem_singleton.2 rfl, he, hx⟩, ?_⟩
      rintro ⟨m, hm, -, rfl⟩
      rw [List.mem_singleton.1 hm]
  next he =>
    refine ⟨rfl, fun m => (if_neg ?_).symm, fun x => ⟨.inl, fun h => h.elim id ?_⟩⟩
    · rintro ⟨hm, hel⟩
      exact he (List.mem_singleton.1 hm ▸ hel)
    · rintro ⟨m, hm, hel, -⟩
      exact absurd (List.mem_singleton.1 hm ▸ hel) he

theorem JoinsWait.eligible {l : List PortIx} {s t : State} (h : JoinsWait l s t) (n : PortIx) : eligible t n = eligible s n := by
  have hport : (t.port n).intent = (s.port n).intent ∧ (t.port n).license = (s.port n).license := by
    rw [h.port]
    split <;> exact ⟨rfl, rfl⟩
  have hcard : cardOf t n = cardOf s n := by
    rw [h.frame]
    rfl
  exact eligible_congr hport.1 hport.2 (by rw [hcard]) (by rw [hcard])

theorem JoinsWait.cons {n : PortIx} {l : List PortIx} {s u t : State} (h : JoinsWait [n] s u) (hn : n ∉ l)
    (h' : JoinsWait l u t) : JoinsWait (n :: l) s t := by
  have hcap : u.power.cap = s.power.cap := by rw [h.frame]
  refine ⟨by rw [h'.frame, h.frame], fun m => ?_, fun x => ?_⟩
  · rw [h'.port, h.port, h.eligible, hcap]
    by_cases hm : m = n
    · subst hm
      simp [hn]
    · simp [hm]
  · rw [h'.waits, h.waits]
    simp only [h.eligible, List.mem_cons, List.not_mem_nil, or_false, exists_eq_left, exists_eq_or_imp, or_assoc]

/-- The ports of a list, none of them eligible before, follow their card. -/
theorem follow_in {before : State} {l : List PortIx} (hl : l.Nodup) (hbefore : ∀ n ∈ l, eligible before n = false) (s : State) :
    JoinsWait l s (forEach l (fun n s => reviewServiceable n (serviceable before n)
      (reviewEligible n (eligible before n) (portDraw before n) s)) s) := by
  induction l generalizing s with
  | nil => exact joinsWait_nil s
  | cons n l ih =>
    obtain ⟨hn, hl⟩ := List.nodup_cons.1 hl
    have hserv {u : State} (h : eligible u n = false) : serviceable u n = false := Bool.eq_false_iff.2 fun hs => by
      rw [(serviceable_iff.1 hs).1] at h
      cases h
    have hwas := hbefore n List.mem_cons_self
    have hstep : reviewServiceable n (serviceable before n) (reviewEligible n (eligible before n) (portDraw before n) s) =
        if eligible s n = true then joinWait n s else s := by
      rw [hserv hwas, hwas, review_gained n _ s hserv]
    rw [forEach_cons, hstep]
    exact (joinsWait_single n s).cons hn (ih hl (fun m hm => hbefore m (List.mem_cons_of_mem n hm)) _)

/-! ## The join (R29) -/

/-- A card as it joins. -/
def joinedCard (c : CardRec) : CardRec :=
  { c with state := .joined, failure := .none, powerEnable := true, timerOn := false, attempts := 0 }

/-- The state with the card Joined, before the Commit Engine and the ports follow. -/
def withJoined (slot : Slot) (s : State) : State :=
  addReason .slot { s with cards := s.cards.set slot (joinedCard (s.card slot)) }

theorem withJoined_eq (slot : Slot) (s : State) :
    (enterCard slot .joined (stopTimer slot s)).modCard slot (fun c => { c with attempts := 0 }) = withJoined slot s := by
  have hcards : (enterCard slot .joined (stopTimer slot s)).modCard slot (fun c => { c with attempts := 0 }) =
      addReason .slot (((s.modCard slot fun c => { c with timerOn := false }).modCard slot (CardRec.enter .joined)).modCard slot
        fun c => { c with attempts := 0 }) := rfl
  rw [hcards, modCard_modCard, modCard_modCard]
  rfl

/-- The Commit Engine's records once it has taken a card that joins (R108, R110, R116). -/
def commitJoined (slot : Slot) (s : State) : CommitEngine :=
  match s.commit.engine with
  | .idle => s.commit
  | .fencing => { s.commit with cards := s.commit.cards.set slot { s.phaseRec slot with phase := .late, timerOn := false } }
  | .releasing => { s.commit with
      cards := s.commit.cards.set slot { phase := .awaitResume, resends := 0, timeout := 250, timerOn := true } }

/-- What the Commit Engine sends to a card that joins. -/
def joinMail (s : State) : List CardMsg := if s.commit.engine = .releasing then [.resume s.commit.releaseGen] else []

theorem cardJoined_spec (slot : Slot) (s : State) :
    cardJoined slot s = { s with cards := (cardJoined slot s).cards, commit := commitJoined slot s } ∧
      ∀ c, (cardJoined slot s).card c = if slot = c then (s.card slot).behind (joinMail s) else s.card c := by
  have hself (c : Slot) : s.card c = if slot = c then (s.card slot).behind [] else s.card c := by
    split
    next he => rw [← he, CardRec.behind_nil]
    next => rfl
  unfold cardJoined commitJoined joinMail
  cases s.commit.engine with
  | idle => exact ⟨rfl, hself⟩
  | fencing => exact ⟨rfl, hself⟩
  | releasing =>
    refine ⟨rfl, fun c => ?_⟩
    rw [if_pos rfl]
    exact modCard_card slot c _ _

/-- The state of a join before its passes. -/
def joining (slot : Slot) (s : State) : State := portsFollowCard slot s (cardJoined slot (withJoined slot s))

theorem joinCard_eq (slot : Slot) (s : State) : joinCard slot s = restorePass (rebindingPass (joining slot s)) := by
  unfold joinCard joining
  dsimp only
  rw [withJoined_eq]

/-- From s to v a card has joined, the Commit Engine has taken it, and its eligible ports wait. -/
structure Joins (slot : Slot) (s v : State) : Prop where
  frame : v = { s with
    cards := v.cards, ports := v.ports, power := { s.power with waitList := v.power.waitList }, commit := commitJoined slot s
    attn := v.attn }
  card : v.card slot = (joinedCard (s.card slot)).behind (joinMail s)
  others : ∀ c, c ≠ slot → v.card c = s.card c
  port : ∀ n, v.port n = if slotOf n = slot ∧ eligible v n = true then waitingPort s.power.cap (s.port n) else s.port n
  waits : ∀ x, x ∈ v.power.waitList ↔ x ∈ s.power.waitList ∨ ∃ n, slotOf n = slot ∧ eligible v n = true ∧ x = .port n

theorem joins {slot : Slot} {s : State} (h : (s.card slot).state = .admitting) : Joins slot s (joining slot s) := by
  have hbefore : ∀ n ∈ slotPorts slot, eligible s n = false := fun n hn => eligible_of_out (by
    rw [cardOf, mem_slotPorts.1 hn, h]
    rfl)
  obtain ⟨hframe, hcard⟩ := cardJoined_spec slot (withJoined slot s)
  have hwith (c : Slot) : (withJoined slot s).card c = if slot = c then joinedCard (s.card slot) else s.card c :=
    modCard_card slot c (fun _ => joinedCard (s.card slot)) s
  have hport (n : PortIx) : (cardJoined slot (withJoined slot s)).port n = s.port n := by rw [hframe]; rfl
  have hjoins := follow_in (slotPorts_nodup slot) hbefore (cardJoined slot (withJoined slot s))
  have hcards : (joining slot s).cards = (cardJoined slot (withJoined slot s)).cards := by
    unfold joining portsFollowCard
    rw [hjoins.frame]
  have heligible := hjoins.eligible
  have hports := hjoins.port
  have hwaits := hjoins.waits
  have hrest := hjoins.frame
  change joining slot s = _ at hrest
  change ∀ n, (joining slot s).port n = _ at hports
  change ∀ x, x ∈ (joining slot s).power.waitList ↔ _ at hwaits
  change ∀ n, eligible (joining slot s) n = _ at heligible
  have hpower : (cardJoined slot (withJoined slot s)).power = s.power := by rw [hframe]; rfl
  rw [hpower] at hwaits hports
  refine ⟨?_, ?_, fun c hc => ?_, fun n => ?_, fun x => ?_⟩
  · rw [hrest, hframe]
    rfl
  · rw [card_of_cards hcards, hcard, if_pos rfl, hwith, if_pos rfl]
    rfl
  · rw [card_of_cards hcards, hcard, if_neg (Ne.symm hc), hwith, if_neg (Ne.symm hc)]
  · rw [hports, hport, heligible]
    simp only [mem_slotPorts]
  · rw [hwaits]
    simp only [mem_slotPorts, heligible]

theorem joining_law {slot : Slot} {s : State} (hw : WaitListFollows s) (h : (s.card slot).state = .admitting) :
    WaitsLaw False False (joining slot s) := by
  have hcount := (CoreKept.refl (enterCard slot .joined (stopTimer slot s))).card slot (fun c => { c with attempts := 0 })
    fun _ => ⟨rfl, rfl⟩
  have hk := ((enterCard_enters slot .joined (stopTimer slot s)).after_core ((CoreKept.refl s).stopTimer slot) rfl).then_core hcount rfl
  rw [withJoined_eq] at hk
  exact (waitsLaw_iff.2 hw).follows hk ((CoreKept.refl _).cardJoined slot) (by rw [h]; rfl) rfl

theorem moves_joined (slot : Slot) (s : State) : Moves .licence (withJoined slot s) (settleDeficit (joinCard slot s)) := by
  rw [joinCard_eq]
  exact (((Moves.refl.cardJoined slot).portsFollowCard slot s).rebindingPass rfl).restorePass.settleDeficit

/-- A port of the joined card is Admitted by the passes only from Waiting. -/
theorem Joins.waiting_of_admitted {slot : Slot} {s v t : State} (h : Joins slot s v) (hw : WaitListFollows s)
    (hstate : (s.card slot).state = .admitting) (hend : EventEnds (rebindingPass v) t) {n : PortIx} (hn : slotOf n = slot)
    (ha : (t.port n).power = .admitted) : ((rebindingPass v).port n).power = .waiting := by
  have hoff : (s.port n).power = .off := (hw.2.2.1 n).2 (eligible_of_out (by rw [cardOf, hn, hstate]; rfl))
  have hv : (v.port n).power ≠ .admitted := by
    rw [h.port]
    split
    · exact nofun
    · rw [hoff]
      nofun
  have hr : ((rebindingPass v).port n).power ≠ .admitted := by
    by_cases hk : ∃ k, (n, k) ∈ rebindTakes v (rebindCandidates v)
    · obtain ⟨k, hk⟩ := hk
      rw [(rebinds_rebindingPass v).bound n k hk]
      unfold reboundPort
      split
      · exact nofun
      · exact hv
    · rw [(rebinds_rebindingPass v).kept n fun k hm => hk ⟨k, hm⟩]
      exact hv
  rcases hend.power n with he | ⟨hwaiting, -⟩
  · exact absurd (he.symm.trans ha) hr
  · exact hwaiting

theorem exec_ready {slot : Slot} {s : State} (h : (s.card slot).state = .admitting) (generation : Word) :
    exec (.ready slot generation) s = .next (settleDeficit (takeReady slot generation s)) := by
  show Host.Outcome.next (settleDeficit (takeMessage slot CardState.isAdmitting _ s)) = _
  unfold takeMessage
  rw [h]
  rfl

end Sys2Proof.Machine

section
open Sys2Proof Sys2Proof.Machine

/-- Settles O27: another generation draws Admit again; the Live one joins the card, and the passes follow. -/
theorem readyRule : Obligations.ReadyRule := by
  unfold Obligations.ReadyRule
  intro slot generation s hstate hdeficit hw
  have hexec := exec_ready hstate generation
  refine ⟨fun hother => ?_, fun hlive => ?_⟩
  · have htake : takeReady slot generation s = send slot (.admission s.zones.generation) s := if_neg hother
    have hfollows : DeficitFollows (send slot (.admission s.zones.generation) s) := hdeficit.of_power_ports rfl rfl rfl
    rw [hexec, htake, settleDeficit_of_follows hfollows]
    rfl
  · have htake : takeReady slot generation s = joinCard slot s := if_pos hlive
    have hmoves : Moves .licence s (settleDeficit (joinCard slot s)) := by
      rw [← htake]
      exact (Moves.refl.takeReady slot generation rfl).settleDeficit
    have hnoted : Noted .slot (settleDeficit (joinCard slot s)) := (moves_joined slot s).noted (noted_addReason_self .slot _)
    rw [htake] at hexec
    have hv := joins hstate
    have hend := eventEnds_restored (joining_law hw hstate).rebindingPass
    rw [← joinCard_eq] at hend
    have hpasses : settleDeficit (joinCard slot s) = settleDeficit (restorePass (rebindingPass (joining slot s))) := by rw [joinCard_eq]
    generalize joining slot s = v at hv hend hpasses
    have hbound := rebinds_rebindingPass v
    have hrcard : (rebindingPass v).card slot = (joinedCard (s.card slot)).behind (joinMail s) := (hbound.card slot).trans hv.card
    obtain ⟨k, hk, -, -⟩ := hend.card slot (by rw [hrcard]; nofun)
    rw [hrcard] at hk
    have hstill : (settleDeficit (joinCard slot s)).commit = commitJoined slot s ∧
        (settleDeficit (joinCard slot s)).zones = s.zones := by
      rw [hend.frame, hbound.frame, hv.frame]
      exact ⟨rfl, rfl⟩
    obtain ⟨hcommit, hzones⟩ := hstill
    refine ⟨_, hexec, by rw [hk]; rfl, by rw [hk]; rfl, by rw [hk]; rfl, hnoted, by rw [hk]; rfl, by rw [hk]; rfl, hcommit,
      fun hreleasing => ?_, fun n _ => (waitsLaw_iff.1 hend.law).2.2.1 n, fun n hn hserv => ?_,
      ⟨v, by rw [hv.frame], ?_, hv.others, hv.port, hv.waits, hpasses⟩, hzones, hmoves.sensorsKept rfl, hmoves.settingsKept rfl,
      hmoves.outside⟩
    · rw [hk]
      refine List.mem_append_left _ (List.mem_append_right _ ?_)
      rw [joinMail, if_pos hreleasing]
      exact List.mem_singleton.2 rfl
    · obtain ⟨-, -, hadmitted⟩ := serviceable_iff.1 hserv
      have hgo := hend.permit n (hv.waiting_of_admitted hw hstate hend hn hadmitted) (by rw [hn, hrcard]; rfl) hadmitted
      rwa [hn] at hgo
    · rw [hv.card]
      rfl

end
